-- ==== Sys2Proof/Word.lean ====
section
/-!
DEFINITION. The word types of the MX4 and the names of its agents.
-/

namespace Sys2Proof

/-- A byte of memory (R3: little-endian everywhere). -/
abbrev Byte := BitVec 8
/-- A scalar register (R38). -/
abbrev Word := BitVec 64
/-- A vector register, a latch value or a bridge entry (R38, R212, R218). -/
abbrev Vec := BitVec 2048
/-- A mask register, one bit for each byte lane (R38). -/
abbrev Mask := BitVec 256
/-- A slot word of the instruction store (R14). -/
abbrev SlotWord := BitVec 32
/-- A byte address of the instruction store (R38: pc), with one bit more, so that the address after the last word does
not wrap (R17). -/
abbrev PC := BitVec 19

/-- A cluster, numbered tier × 16 + y × 4 + x (R7). -/
abbrev ClusterId := BitVec 5
/-- A compute core of a cluster (R7). -/
abbrev CoreId := BitVec 3
/-- A context of a core (R7). -/
abbrev CtxId := BitVec 3
/-- A quadrant: 2 × (y div 2) + (x div 2) (R7). -/
abbrev Quad := BitVec 2

/-- The twelve voltage domains (R6, R222): the tier domains and the base dies. -/
inductive Dom where
  /-- Tier `u` (false L, true U) of a quadrant. -/
  | tier (u : Bool) (q : Quad)
  /-- The base die of a quadrant. -/
  | base (q : Quad)
  deriving DecidableEq, Repr

end Sys2Proof
end

