-- ==== Sys2Proof/Syntax.lean ====
section
/-!
DEFINITION. The instructions: one constructor for each row of spec/opcode_table.json. Rows with a word are slot
words (R14); rows without one are the steps that the other agents take (spec/95_what_each_step_holds.md).
-/

namespace Sys2Proof

/-- What every slot word carries outside its operands (R14): the stop bit and the guard. -/
structure Head where
  /-- S: this slot is the last slot of its bundle. -/
  stop  : Bool
  /-- G: a predicate or a mask register, as the opcode fixes. -/
  guard : BitVec 4
  deriving DecidableEq, Repr

/-- A scalar register s0 to s63 (R15). -/
abbrev SReg := BitVec 6
/-- A predicate register p0 to p15 (R20). -/
abbrev PReg := BitVec 4
/-- A mask register q0 to q15 (R20). -/
abbrev QReg := BitVec 4
/-- A vector register v0 to v31 (R16). -/
abbrev VReg := BitVec 5
/-- An accumulator tile a0 to a31 (R122). -/
abbrev Tile := BitVec 5

/-- The comparisons of cmp and cmpi (R76). -/
inductive Cond where
  | eq | ne | lt | ge | ltn | gen | tst
  deriving DecidableEq, Repr

/-- The comparisons of vcmp (R103). -/
inductive VCond where
  | eq | ne | lt | le
  deriving DecidableEq, Repr

/-- The floating point element types (R16, t = 0 to 2). -/
inductive FTy where
  | f32 | f16 | bf16
  deriving DecidableEq, Repr

/-- The element types without a natural reading (R16, t = 0 to 5 with a[5] = 0). -/
inductive ETy where
  | f32 | f16 | bf16 | i32 | i16 | i8
  deriving DecidableEq, Repr

/-- The element types with the natural reading (R16, a[5]). -/
inductive VTy where
  | f32 | f16 | bf16 | i32 | i16 | i8 | n32 | n16 | n8
  deriving DecidableEq, Repr

/-- Operand b of a vector slot (R97): a vector register, or a scalar s0 to s31 broadcast. -/
inductive VSrc where
  | vec (r : VReg)
  | scal (r : BitVec 5)
  deriving DecidableEq, Repr

/-- The conversions that vcvt admits (R106). -/
inductive CvtForm where
  /-- Between element types: destination and source. -/
  | elem (dst src : VTy)
  /-- A floating point type into the narrow format of fmF. -/
  | toNarrow (f : BitVec 3) (src : FTy)
  /-- The narrow format of fmF into a floating point type. -/
  | fromNarrow (dst : FTy) (f : BitVec 3)
  deriving DecidableEq, Repr

/-- Element widths of vldg, vstg, vgath and vscat (R155). -/
inductive EW where
  | byte | half | word
  deriving DecidableEq, Repr

/-- The base of a layout B memory slot (R150): s0 to s31, or an address generator. -/
inductive Base where
  | sreg (r : BitVec 5)
  | gen (n : BitVec 3)
  deriving DecidableEq, Repr

/-- The ordering codes of atomics (R157). -/
inductive Ord where
  | unp | com | nord | qnt | spec | acq | rel | ar
  deriving DecidableEq, Repr

/-- Operations of local and far atomics (R159, R257). -/
inductive AOp where
  | add | min | max | and | or | xor | swap | cas
  deriving DecidableEq, Repr

/-- The scopes of a fence (R162). -/
inductive FScope where
  | context | core | cluster | tier | package | system
  deriving DecidableEq, Repr

/-- The system values that rdsys names (R80). -/
inductive SysSel where
  | fret | cycle | ident | ast | vflags | vrm | brfree | brcount | energy | capolevel | evqcount
  | done (ch : BitVec 4) | nextid (ch : BitVec 4) | sdone (ch : BitVec 2) | ndone (ch : BitVec 2)
  deriving DecidableEq, Repr

/-- Kinds of matrix operands (R127). -/
inductive MKind where
  | fm (f : BitVec 3)
  | f16 | bf16 | i8
  deriving DecidableEq, Repr

/-- The SRAMs that an error code covers (R206, R208). -/
inductive SramStore where
  | lm | scratchpad | accumulator | plane | instr
  deriving DecidableEq, Repr

/-- A packet that a peer sends to an endpoint of the package (R297, R322, R323). -/
structure Packet where
  /-- The local endpoint (R292). -/
  ep    : BitVec 16
  /-- The sender's fabric address. -/
  fa    : BitVec 128
  /-- The sender's endpoint. -/
  rep   : BitVec 16
  /-- The memory key and the offset of an RMA operation. -/
  key   : BitVec 16
  off   : BitVec 64
  /-- The length that an RMA read asks for. -/
  len   : Nat
  /-- The payload. -/
  bytes : List Byte
  deriving DecidableEq, Repr

/-- A register block with a peer table (R323): a tokeniser engine, or a network channel of a partition. -/
inductive PeerBlock where
  | tok (e : BitVec 4)
  | net (p : BitVec 3) (ch : BitVec 2)
  deriving DecidableEq, Repr

/-- A function of the host port (R316, R317): p is the virtual function of partition p, 8 the physical function (log
entry 29). -/
abbrev HostFn := BitVec 4

/-- A host access through a BAR (R317). -/
structure HostAccess where
  fn   : HostFn
  /-- Through BAR0, onto the admission block of the function's partition; else through BAR2, onto its aperture. -/
  bar0 : Bool
  /-- The offset in the BAR. -/
  off  : BitVec 48
  /-- The number of bytes. -/
  len  : Nat
  deriving DecidableEq, Repr

/-- What a supervisor hart's access asks for (R214, R237, R243). -/
inductive HartOp where
  | load
  /-- An atomic load marked speculative. -/
  | loadSpec
  | store
  | fetch
  deriving DecidableEq, Repr

/-- An access of a supervisor hart, translated like an engine's (R236, R237): its cluster, its AST, the virtual address,
the bytes that it moves, and the value that a store writes. -/
structure HartAccess where
  cl   : ClusterId
  ast  : BitVec 16
  op   : HartOp
  va   : BitVec 48
  len  : Nat
  v    : BitVec 64
  deriving DecidableEq, Repr

/-- The channel units of a partition (R318). -/
inductive ChanUnit where
  | sio | net
  deriving DecidableEq, Repr

/-- A namespace of a drive as root firmware assigns it (R318). -/
structure NsDef where
  ctrl   : BitVec 2
  nsid   : BitVec 32
  /-- Blocks of 4,096 bytes; otherwise of 512. -/
  big    : Bool
  /-- The drive has a volatile write cache. -/
  cache  : Bool
  blocks : Nat
  deriving DecidableEq, Repr

/-- A partition as root firmware defines it, with the resources that it assigns (R292, R327). -/
structure PartDef where
  x0 : BitVec 2
  x1 : BitVec 2
  y0 : BitVec 2
  y1 : BitVec 2
  /-- Bit 0 tier L, bit 1 tier U. -/
  tiers : BitVec 2
  /-- Queue places in each quadrant's queue engine (R287), and entries of each quadrant's pool directory (R258). -/
  places : List Nat
  dirs   : List Nat
  /-- Entries of each base die's shared TLB, and of its walk cache. -/
  tlb   : Nat
  walks : Nat
  /-- Whole UE ports (R13, R292), one bit each. -/
  ports  : BitVec 8
  /-- UE endpoints. -/
  eps   : List (BitVec 16)
  spaces : List NsDef
  /-- Aperture AST and base of the partition's function (R317). -/
  apAst  : BitVec 16
  apBase : BitVec 48
  /-- For partition 0: those of the physical function. -/
  pfAst  : BitVec 16
  pfBase : BitVec 48
  deriving DecidableEq, Repr

/-- What a key slot protects (R326). -/
inductive KeyMatter where
  | memory | wire | image | device
  deriving DecidableEq, Repr


/-- Every row of spec/opcode_table.json: a slot word decoded (R27), or a step that has no word
(spec/95_what_each_step_holds.md), which an agent of the machine takes. -/
inductive Instr where
  /-- nop (R58). -/
  | nop (h : Head)
  /-- br.t (R59). -/
  | brT (h : Head) (off : BitVec 19)
  /-- br.n (R59). -/
  | brN (h : Head) (off : BitVec 19)
  /-- call (R60). -/
  | call (h : Head) (off : BitVec 20)
  /-- jr (R61). -/
  | jr (h : Head) (a : SReg)
  /-- ret (R61). -/
  | ret (h : Head)
  /-- loop (R62). -/
  | loop (h : Head) (a : SReg) (body : BitVec 8)
  /-- loopi (R62). -/
  | loopi (h : Head) (body : BitVec 6) (n : BitVec 14)
  /-- lbrk (R63). -/
  | lbrk (h : Head)
  /-- yield.now (R64). -/
  | yieldNow (h : Head)
  /-- yield.at (R64). -/
  | yieldAt (h : Head) (a : SReg)
  /-- yield.q (R64). -/
  | yieldQ (h : Head) (q : BitVec 12)
  /-- yield.sc (R64). -/
  | yieldSc (h : Head) (k : BitVec 8)
  /-- exit (R65). -/
  | exit (h : Head)
  /-- rmark (R66). -/
  | rmark (h : Head)
  /-- trap (R67). -/
  | trap (h : Head) (code : BitVec 20)
  /-- fmt (R68). -/
  | fmt (h : Head) (f : BitVec 3) (desc : BitVec 17)
  /-- fmtr (R68). -/
  | fmtr (h : Head) (f : BitVec 3) (a : SReg)
  /-- capo.acq (R69). -/
  | capoAcq (h : Head) (level : BitVec 4)
  /-- capo.rel (R69). -/
  | capoRel (h : Head)
  /-- add (R70). -/
  | add (h : Head) (d : SReg) (a : SReg) (b : SReg)
  /-- sub (R70). -/
  | sub (h : Head) (d : SReg) (a : SReg) (b : SReg)
  /-- and (R70). -/
  | and (h : Head) (d : SReg) (a : SReg) (b : SReg)
  /-- or (R70). -/
  | or (h : Head) (d : SReg) (a : SReg) (b : SReg)
  /-- xor (R70). -/
  | xor (h : Head) (d : SReg) (a : SReg) (b : SReg)
  /-- andn (R70). -/
  | andn (h : Head) (d : SReg) (a : SReg) (b : SReg)
  /-- shl (R70). -/
  | shl (h : Head) (d : SReg) (a : SReg) (b : SReg)
  /-- shr (R70). -/
  | shr (h : Head) (d : SReg) (a : SReg) (b : SReg)
  /-- sra (R70). -/
  | sra (h : Head) (d : SReg) (a : SReg) (b : SReg)
  /-- addi (R71). -/
  | addi (h : Head) (d : SReg) (a : SReg) (imm : BitVec 8)
  /-- shli (R71). -/
  | shli (h : Head) (d : SReg) (a : SReg) (n : BitVec 6)
  /-- shri (R71). -/
  | shri (h : Head) (d : SReg) (a : SReg) (n : BitVec 6)
  /-- srai (R71). -/
  | srai (h : Head) (d : SReg) (a : SReg) (n : BitVec 6)
  /-- li (R72). -/
  | li (h : Head) (d : SReg) (imm : BitVec 14)
  /-- lis (R72). -/
  | lis (h : Head) (d : SReg) (imm : BitVec 14)
  /-- mul (R73). -/
  | mul (h : Head) (d : SReg) (a : SReg) (b : SReg)
  /-- mulh (R73). -/
  | mulh (h : Head) (d : SReg) (a : SReg) (b : SReg)
  /-- mulhn (R73). -/
  | mulhn (h : Head) (d : SReg) (a : SReg) (b : SReg)
  /-- div (R74). -/
  | div (h : Head) (d : SReg) (a : SReg) (b : SReg)
  /-- divn (R74). -/
  | divn (h : Head) (d : SReg) (a : SReg) (b : SReg)
  /-- rem (R74). -/
  | rem (h : Head) (d : SReg) (a : SReg) (b : SReg)
  /-- remn (R74). -/
  | remn (h : Head) (d : SReg) (a : SReg) (b : SReg)
  /-- min (R70). -/
  | min (h : Head) (d : SReg) (a : SReg) (b : SReg)
  /-- max (R70). -/
  | max (h : Head) (d : SReg) (a : SReg) (b : SReg)
  /-- minn (R70). -/
  | minn (h : Head) (d : SReg) (a : SReg) (b : SReg)
  /-- maxn (R70). -/
  | maxn (h : Head) (d : SReg) (a : SReg) (b : SReg)
  /-- clz (R75). -/
  | clz (h : Head) (d : SReg) (a : SReg)
  /-- ctz (R75). -/
  | ctz (h : Head) (d : SReg) (a : SReg)
  /-- popc (R75). -/
  | popc (h : Head) (d : SReg) (a : SReg)
  /-- cmp (R76). -/
  | cmp (h : Head) (c : Cond) (k : BitVec 3) (a : SReg) (b : SReg)
  /-- cmpi (R76). -/
  | cmpi (h : Head) (c : Cond) (k : BitVec 3) (a : SReg) (imm : BitVec 8)
  /-- pand (R77). -/
  | pand (h : Head) (k : BitVec 3) (a : PReg) (b : PReg)
  /-- por (R77). -/
  | por (h : Head) (k : BitVec 3) (a : PReg) (b : PReg)
  /-- pxor (R77). -/
  | pxor (h : Head) (k : BitVec 3) (a : PReg) (b : PReg)
  /-- pandn (R77). -/
  | pandn (h : Head) (k : BitVec 3) (a : PReg) (b : PReg)
  /-- movp (R78). -/
  | movp (h : Head) (k : BitVec 3) (a : SReg) (n : BitVec 6)
  /-- movl (R79). -/
  | movl (h : Head) (d : SReg) (l : BitVec 3)
  /-- movl (R79). -/
  | movlCount (h : Head) (d : SReg) (l : BitVec 3)
  /-- rdsys (R80). -/
  | rdsys (h : Head) (d : SReg) (sel : SysSel)
  /-- wrsys (R82). -/
  | wrsysVflags (h : Head) (a : SReg)
  /-- wrsys (R82). -/
  | wrsysVrm (h : Head) (a : SReg)
  /-- andi (R71). -/
  | andi (h : Head) (d : SReg) (a : SReg) (imm : BitVec 8)
  /-- cpy (R250). -/
  | cpy (h : Head) (t : SReg) (kd : BitVec 3) (ks : BitVec 3) (ch : BitVec 4)
  /-- famo.add (R257). -/
  | famoAdd (h : Head) (l : BitVec 4) (o : Ord) (w : Bool) (a : BitVec 4) (b : BitVec 5)
  /-- famo.min (R257). -/
  | famoMin (h : Head) (l : BitVec 4) (o : Ord) (w : Bool) (a : BitVec 4) (b : BitVec 5)
  /-- famo.max (R257). -/
  | famoMax (h : Head) (l : BitVec 4) (o : Ord) (w : Bool) (a : BitVec 4) (b : BitVec 5)
  /-- famo.and (R257). -/
  | famoAnd (h : Head) (l : BitVec 4) (o : Ord) (w : Bool) (a : BitVec 4) (b : BitVec 5)
  /-- famo.or (R257). -/
  | famoOr (h : Head) (l : BitVec 4) (o : Ord) (w : Bool) (a : BitVec 4) (b : BitVec 5)
  /-- famo.xor (R257). -/
  | famoXor (h : Head) (l : BitVec 4) (o : Ord) (w : Bool) (a : BitVec 4) (b : BitVec 5)
  /-- famo.swap (R257). -/
  | famoSwap (h : Head) (l : BitVec 4) (o : Ord) (w : Bool) (a : BitVec 4) (b : BitVec 5)
  /-- famo.cas (R257). -/
  | famoCas (h : Head) (l : BitVec 4) (o : Ord) (w : Bool) (a : BitVec 4) (b : BitVec 5)
  /-- pool.acqw (R264). -/
  | poolAcqw (h : Head) (d : SReg) (a : SReg)
  /-- pool.pub (R265). -/
  | poolPub (h : Head) (d : SReg) (a : SReg)
  /-- pool.pin (R266). -/
  | poolPin (h : Head) (d : SReg) (a : SReg)
  /-- pool.unpin (R266). -/
  | poolUnpin (h : Head) (a : SReg)
  /-- pool.gen (R267). -/
  | poolGen (h : Head) (d : SReg) (a : SReg)
  /-- pool.pub.after (R265). -/
  | poolPubAfter (h : Head) (d : SReg) (a : SReg)
  /-- qop.push (R289). -/
  | qopPush (h : Head) (d : SReg) (v : VReg)
  /-- qop.pop (R289). -/
  | qopPop (h : Head) (d : SReg) (a : SReg)
  /-- qop.count (R289). -/
  | qopCount (h : Head) (d : SReg) (a : SReg)
  /-- scope.open (R291). -/
  | scopeOpen (h : Head) (a : SReg)
  /-- scope.close (R291). -/
  | scopeClose (h : Head) (a : SReg)
  /-- brg.push (R220). -/
  | brgPush (h : Head) (v : VReg)
  /-- brg.pop (R220). -/
  | brgPop (h : Head) (v : VReg)
  /-- xsnd (R213). -/
  | xsndScalar (h : Head) (j : BitVec 3) (a : SReg)
  /-- xsnd (R213). -/
  | xsndVector (h : Head) (j : BitVec 3) (a : VReg)
  /-- xrcv (R213). -/
  | xrcvScalar (h : Head) (d : SReg) (i : BitVec 3)
  /-- xrcv (R213). -/
  | xrcvVector (h : Head) (d : VReg) (i : BitVec 3)
  /-- txt.out (R301). -/
  | txtOut (h : Head) (d : SReg) (p : BitVec 5) (a : BitVec 5)
  /-- txt.tok (R301). -/
  | txtTok (h : Head) (d : SReg) (p : BitVec 5) (a : BitVec 5)
  /-- sio.rd (R320). -/
  | sioRd (h : Head) (p : BitVec 5) (c : BitVec 2)
  /-- sio.wr (R320). -/
  | sioWr (h : Head) (p : BitVec 5) (fua : Bool) (c : BitVec 2)
  /-- sio.flush (R320). -/
  | sioFlush (h : Head) (c : BitVec 2)
  /-- net.send (R320). -/
  | netSend (h : Head) (q : BitVec 4) (ord : Bool) (c : BitVec 2)
  /-- net.write (R320). -/
  | netWrite (h : Head) (q : BitVec 4) (ord : Bool) (c : BitVec 2)
  /-- net.read (R320). -/
  | netRead (h : Head) (q : BitVec 4) (c : BitVec 2)
  /-- evt.post (R176). -/
  | evtPost (h : Head) (a : SReg) (b : SReg)
  /-- evt.irq (R177). -/
  | evtIrq (h : Head) (a : SReg)
  /-- vadd (R99). -/
  | vadd (h : Head) (t : VTy) (d : VReg) (a : VReg) (b : VSrc)
  /-- vsub (R99). -/
  | vsub (h : Head) (t : VTy) (d : VReg) (a : VReg) (b : VSrc)
  /-- vmul (R99). -/
  | vmul (h : Head) (t : VTy) (d : VReg) (a : VReg) (b : VSrc)
  /-- vfma (R99). -/
  | vfma (h : Head) (t : VTy) (d : VReg) (a : VReg) (b : VSrc)
  /-- vfnma (R99). -/
  | vfnma (h : Head) (t : VTy) (d : VReg) (a : VReg) (b : VSrc)
  /-- vmin (R100). -/
  | vmin (h : Head) (t : VTy) (d : VReg) (a : VReg) (b : VSrc)
  /-- vmax (R100). -/
  | vmax (h : Head) (t : VTy) (d : VReg) (a : VReg) (b : VSrc)
  /-- vabs (R101). -/
  | vabs (h : Head) (t : VTy) (d : VReg) (a : VReg)
  /-- vneg (R101). -/
  | vneg (h : Head) (t : VTy) (d : VReg) (a : VReg)
  /-- vand (R102). -/
  | vand (h : Head) (t : VTy) (d : VReg) (a : VReg) (b : VSrc)
  /-- vor (R102). -/
  | vor (h : Head) (t : VTy) (d : VReg) (a : VReg) (b : VSrc)
  /-- vxor (R102). -/
  | vxor (h : Head) (t : VTy) (d : VReg) (a : VReg) (b : VSrc)
  /-- vshl (R102). -/
  | vshl (h : Head) (t : VTy) (d : VReg) (a : VReg) (b : VSrc)
  /-- vshr (R102). -/
  | vshr (h : Head) (t : VTy) (d : VReg) (a : VReg) (b : VSrc)
  /-- vcmp (R103). -/
  | vcmp (h : Head) (t : VTy) (c : VCond) (k : BitVec 3) (a : VReg) (b : VSrc)
  /-- vsel (R104). -/
  | vsel (h : Head) (t : VTy) (d : VReg) (a : VReg) (b : VSrc)
  /-- vcvt (R106). -/
  | vcvt (h : Head) (f : CvtForm) (d : VReg) (a : VReg)
  /-- vred.sum (R109). -/
  | vredSum (h : Head) (t : VTy) (d : BitVec 5) (a : VReg)
  /-- vred.max (R109). -/
  | vredMax (h : Head) (t : VTy) (d : BitVec 5) (a : VReg)
  /-- vred.min (R109). -/
  | vredMin (h : Head) (t : VTy) (d : BitVec 5) (a : VReg)
  /-- vbcast (R111). -/
  | vbcast (h : Head) (t : VTy) (d : VReg) (a : VReg) (b : BitVec 5)
  /-- vext (R112). -/
  | vext (h : Head) (t : VTy) (d : BitVec 5) (a : BitVec 5) (b : VReg)
  /-- vins (R112). -/
  | vins (h : Head) (t : VTy) (d : VReg) (a : BitVec 5) (b : BitVec 5)
  /-- vperm (R113). -/
  | vperm (h : Head) (t : VTy) (d : VReg) (a : VReg) (b : VReg)
  /-- vslide (R113). -/
  | vslide (h : Head) (t : VTy) (d : VReg) (a : VReg) (b : BitVec 5)
  /-- viota (R111). -/
  | viota (h : Head) (t : ETy) (d : VReg) (b : BitVec 5)
  /-- vrcp (R110). -/
  | vrcp (h : Head) (t : FTy) (d : VReg) (a : VReg)
  /-- vrsq (R110). -/
  | vrsq (h : Head) (t : FTy) (d : VReg) (a : VReg)
  /-- vexp2 (R110). -/
  | vexp2 (h : Head) (t : FTy) (d : VReg) (a : VReg)
  /-- vlog2 (R110). -/
  | vlog2 (h : Head) (t : FTy) (d : VReg) (a : VReg)
  /-- vmov (R111). -/
  | vmov (h : Head) (t : ETy) (d : VReg) (b : VSrc)
  /-- vmsk.and (R105). -/
  | vmskAnd (h : Head) (k : BitVec 3) (a : QReg) (b : QReg)
  /-- vmsk.or (R105). -/
  | vmskOr (h : Head) (k : BitVec 3) (a : QReg) (b : QReg)
  /-- vmsk.xor (R105). -/
  | vmskXor (h : Head) (k : BitVec 3) (a : QReg) (b : QReg)
  /-- vmsk.not (R105). -/
  | vmskNot (h : Head) (k : BitVec 3) (a : QReg)
  /-- vmsk.popc (R105). -/
  | vmskPopc (h : Head) (d : BitVec 5) (a : QReg)
  /-- vmsk.ffs (R105). -/
  | vmskFfs (h : Head) (d : BitVec 5) (a : QReg)
  /-- vpack (R114). -/
  | vpack (h : Head) (t : ETy) (d : VReg) (a : VReg) (b : VReg)
  /-- vunpk (R114). -/
  | vunpk (h : Head) (t : ETy) (d : VReg) (a : VReg) (b : VReg)
  /-- vscale (R108). -/
  | vscale (h : Head) (t : FTy) (d : VReg) (a : VReg) (b : VSrc)
  /-- lds.b (R152). -/
  | ldsB (h : Head) (d : SReg) (a : Base) (o : BitVec 6)
  /-- lds.h (R152). -/
  | ldsH (h : Head) (d : SReg) (a : Base) (o : BitVec 6)
  /-- lds.w (R152). -/
  | ldsW (h : Head) (d : SReg) (a : Base) (o : BitVec 6)
  /-- lds.d (R152). -/
  | ldsD (h : Head) (d : SReg) (a : Base) (o : BitVec 6)
  /-- ldz.b (R152). -/
  | ldzB (h : Head) (d : SReg) (a : Base) (o : BitVec 6)
  /-- ldz.h (R152). -/
  | ldzH (h : Head) (d : SReg) (a : Base) (o : BitVec 6)
  /-- ldz.w (R152). -/
  | ldzW (h : Head) (d : SReg) (a : Base) (o : BitVec 6)
  /-- st.b (R152). -/
  | stB (h : Head) (d : SReg) (a : Base) (o : BitVec 6)
  /-- st.h (R152). -/
  | stH (h : Head) (d : SReg) (a : Base) (o : BitVec 6)
  /-- st.w (R152). -/
  | stW (h : Head) (d : SReg) (a : Base) (o : BitVec 6)
  /-- st.d (R152). -/
  | stD (h : Head) (d : SReg) (a : Base) (o : BitVec 6)
  /-- vld (R153). -/
  | vld (h : Head) (d : VReg) (a : Base) (imm : BitVec 8)
  /-- vld.t (R154). -/
  | vldT (h : Head) (d : VReg) (a : BitVec 5) (imm : BitVec 8)
  /-- vst (R153). -/
  | vst (h : Head) (d : VReg) (a : Base) (imm : BitVec 8)
  /-- vldg (R155). -/
  | vldg (h : Head) (d : VReg) (a : SReg) (b : SReg) (w : EW)
  /-- vstg (R155). -/
  | vstg (h : Head) (d : VReg) (a : SReg) (b : SReg) (w : EW)
  /-- vgath (R155). -/
  | vgath (h : Head) (d : VReg) (a : SReg) (b : VReg) (w : EW)
  /-- vscat (R155). -/
  | vscat (h : Head) (d : VReg) (a : SReg) (b : VReg) (w : EW)
  /-- agset (R156). -/
  | agsetBase (h : Head) (n : BitVec 3) (a : SReg)
  /-- agset (R156). -/
  | agsetStride (h : Head) (f : BitVec 3) (n : BitVec 3) (a : SReg)
  /-- amo.add (R159). -/
  | amoAdd (h : Head) (l : BitVec 4) (o : Ord) (w : Bool) (a : BitVec 4) (b : BitVec 5)
  /-- amo.min (R159). -/
  | amoMin (h : Head) (l : BitVec 4) (o : Ord) (w : Bool) (a : BitVec 4) (b : BitVec 5)
  /-- amo.max (R159). -/
  | amoMax (h : Head) (l : BitVec 4) (o : Ord) (w : Bool) (a : BitVec 4) (b : BitVec 5)
  /-- amo.and (R159). -/
  | amoAnd (h : Head) (l : BitVec 4) (o : Ord) (w : Bool) (a : BitVec 4) (b : BitVec 5)
  /-- amo.or (R159). -/
  | amoOr (h : Head) (l : BitVec 4) (o : Ord) (w : Bool) (a : BitVec 4) (b : BitVec 5)
  /-- amo.xor (R159). -/
  | amoXor (h : Head) (l : BitVec 4) (o : Ord) (w : Bool) (a : BitVec 4) (b : BitVec 5)
  /-- amo.swap (R159). -/
  | amoSwap (h : Head) (l : BitVec 4) (o : Ord) (w : Bool) (a : BitVec 4) (b : BitVec 5)
  /-- acas (R160). -/
  | acas (h : Head) (l : BitVec 4) (o : Ord) (w : Bool) (a : BitVec 4) (b : BitVec 5)
  /-- ald (R161). -/
  | ald (h : Head) (d : SReg) (a : SReg) (w : Bool) (o : Ord)
  /-- ast (R161). -/
  | ast (h : Head) (d : SReg) (a : SReg) (w : Bool) (o : Ord)
  /-- ldt (R154). -/
  | ldt (h : Head) (d : SReg) (a : BitVec 5) (imm : BitVec 8)
  /-- fence (R162). -/
  | fence (h : Head) (kinds : BitVec 5) (scope : FScope)
  /-- mld (R141). -/
  | mld (h : Head) (k : MKind) (a : BitVec 5)
  /-- mld.sp (R130). -/
  | mldSp (h : Head) (k : MKind) (a : BitVec 5)
  /-- mswp (R142). -/
  | mswp (h : Head)
  /-- mma (R143). -/
  | mma (h : Head) (k : MKind) (t : Tile) (a : BitVec 5) (b : BitVec 5)
  /-- aclr (R144). -/
  | aclr (h : Head) (t : Tile) (a : BitVec 5) (b : BitVec 5)
  /-- ard (R146). -/
  | ard (h : Head) (sat : Bool) (d : VReg) (hf : Bool) (t : Tile) (b : BitVec 5) (x : FTy)
  /-- awr (R145). -/
  | awr (h : Head) (t : Tile) (hf : Bool) (a : VReg) (b : BitVec 5) (x : FTy)
  /-- aexp (R148). -/
  | aexp (h : Head) (d : SReg) (t : Tile) (b : BitVec 5)
  /-- anrm (R149). -/
  | anrm (h : Head) (t : Tile) (a : BitVec 5) (b : BitVec 5)
  /-- A pending result lands in its register at its fixed cycle. (R44) -/
  | resultLands (cl : ClusterId) (co : CoreId) (cx : CtxId)
  /-- A tag-checked load compares line tags at its sample cycle, faulting on mismatch. (R125) -/
  | tagCheckSample (cl : ClusterId) (co : CoreId) (cx : CtxId)
  /-- The core drain performs committed gating entries two per cycle. (R49) -/
  | drainEntry (cl : ClusterId) (co : CoreId)
  /-- A core's scratchpad access performs at its bank after the fixed path latency. (R204) -/
  | scratchpadBankAccess (cl : ClusterId)
  /-- The innermost loop level steps or pops at its body end. (R41) -/
  | loopLevelStep (cl : ClusterId) (co : CoreId) (cx : CtxId)
  /-- A waiting context becomes released when its release condition holds. (R163) -/
  | contextRelease (cl : ClusterId) (co : CoreId) (cx : CtxId)
  /-- The core selects the next released context to issue. (R165) -/
  | contextSelection (cl : ClusterId) (co : CoreId)
  /-- An urgent context pre-empts a lower-priority task at an iteration boundary. (R166) -/
  | preemption (cl : ClusterId) (co : CoreId)
  /-- A bundle that would exceed the task budget raises cause 0x0F. (R167) -/
  | budgetOverrun (cl : ClusterId) (co : CoreId) (cx : CtxId)
  /-- The domain arbiter grants queued capo requests each Fret tick. (R169) -/
  | capoGrant (d : Dom)
  /-- The oldest event record is written to its context's event area. (R175) -/
  | eventWriteOut (cl : ClusterId) (co : CoreId)
  /-- An mma samples one activation row through the matrix port. (R135) -/
  | mmaRowSample (cl : ClusterId) (co : CoreId)
  /-- An mma commits one accumulator row with exact sums and renormalisation. (R133) -/
  | mmaRowCommit (cl : ClusterId) (co : CoreId)
  /-- An mld samples one plane, scale or metadata line. (R136) -/
  | planeLineSample (cl : ClusterId) (co : CoreId)
  /-- An mld's shadow plane load completes. (R136) -/
  | planeLoadComplete (cl : ClusterId) (co : CoreId)
  /-- An aclr, awr or anrm writes its rows two cycles after issue. (R137) -/
  | accumulatorWrite (cl : ClusterId) (co : CoreId)
  /-- An ard or aexp samples its row two cycles after issue. (R146) -/
  | accumulatorReadSample (cl : ClusterId) (co : CoreId)
  /-- After six frozen periods the cluster's core cycles resume. (R207) -/
  | freezeEnd (cl : ClusterId)
  /-- A ready gang is released and all members issue together. (R210) -/
  | gangRelease (cl : ClusterId) (g : BitVec 6)
  /-- An xsnd value occupies the receiver's latch for one cycle. (R213) -/
  | timedTransferArrival (cl : ClusterId) (co : CoreId)
  /-- An identity becomes pending in a cluster interrupt file, raising the hart interrupt. (R216) -/
  | interruptPending (cl : ClusterId)
  /-- Writing ones to ifpend clears pending identities. (R215) -/
  | ifpendClear (cl : ClusterId) (k : BitVec 4) (v : BitVec 64)
  /-- Reading ifclaim returns and clears the lowest pending enabled identity. (R215) -/
  | ifclaim (cl : ClusterId)
  /-- Writing ifset sets an identity pending. (R215) -/
  | ifset (cl : ClusterId) (v : BitVec 64)
  /-- Writing tqpop frees the head trap record. (R215) -/
  | tqpop (cl : ClusterId) (v : BitVec 64)
  /-- A bridge count update crosses to the other endpoint. (R219) -/
  | bridgeCountCrossing (cl : ClusterId) (co : CoreId)
  /-- A write to dfreq requests a new frequency and voltage step. (R223) -/
  | dfreqWrite (d : Dom) (v : BitVec 64)
  /-- A tier domain starts a 1,024-tick frequency halt. (R223) -/
  | haltStart (d : Dom)
  /-- A halt ends and the domain resumes at the new frequency with wl reloaded. (R223) -/
  | haltEnd (d : Dom)
  /-- dgate command 1 requests gating of a tier. (R226) -/
  | gateRequest (d : Dom)
  /-- dgate command 2 starts waking a gated tier. (R226) -/
  | wake (d : Dom)
  /-- dgate command 3 cancels a pending gate request. (R226) -/
  | cancelGateRequest (d : Dom)
  /-- A pending gate takes effect once the tier is idle and its FIFOs empty. (R226) -/
  | tierGate (d : Dom)
  /-- A wake completes after 36,000 ticks with the tier reset. (R226) -/
  | wakeComplete (d : Dom)
  /-- A write to invreq starts a TLB and walk-cache invalidation. (R240) -/
  | invreq (q : Quad) (p : Option (BitVec 3)) (v : BitVec 64)
  /-- An invalidation completes once every access translated before it has performed. (R240) -/
  | invalidationComplete (q : Quad)
  /-- A fltreply replay frees the fault slot and re-translates the access. (R238) `w` is the base die and the writing
  kernel's partition, none for root firmware. -/
  | fltreplyReplay (w : Quad × Option (BitVec 3)) (v : BitVec 64)
  /-- A fltreply abort frees the fault slot and drops the command with cause 0x10. (R238) -/
  | fltreplyAbort (w : Quad × Option (BitVec 3)) (v : BitVec 64)
  /-- A write to the AST table is broadcast to all base dies. (R239) `w` is the entry and the writing kernel's partition,
  none for root firmware. -/
  | asttabWrite (w : BitVec 10 × Option (BitVec 3)) (v : BitVec 64)
  /-- Root firmware revokes a key slot. (R242) -/
  | keyRevocation (k : BitVec 6)
  /-- A revocation completes and the slot's key is destroyed. (R242) -/
  | keyRevocationComplete (k : BitVec 6)
  /-- A copy command launches at its release tick once its channel is free. (R247) -/
  | copyLaunch (cl : ClusterId) (ch : BitVec 4)
  /-- A transfer completes with all writes and tags performed, advancing done. (R252) -/
  | copyComplete (cl : ClusterId) (ch : BitVec 4)
  /-- The HBM controller performs a far atomic and writes any result line. (R257) -/
  | farAtomicPerform (id : Nat)
  /-- A pool directory processes all messages arriving in one Fret tick in four steps. (R261) -/
  | directoryTick (q : Quad)
  /-- A yielding context's wait message is sent once its committed entries have drained. (R288) -/
  | waitMessage (cl : ClusterId) (co : CoreId) (cx : CtxId)
  /-- A task-end message is sent behind the task's last committed entry. (R288) -/
  | taskEndMessage (cl : ClusterId) (co : CoreId) (cx : CtxId)
  /-- A queue engine processes one tick's messages in fixed order. (R288) -/
  | queueEngineTick (q : Quad)
  /-- A write to admpub starts the admission checks of an image. (R283) -/
  | admpub (p : BitVec 3) (v : BitVec 64)
  /-- Admission ends with the image admitted or refused with a reason. (R283) -/
  | admissionResult (p : BitVec 3)
  /-- admcmd start sets each context's first release condition. (R285) -/
  | admcmdStart (p : BitVec 3) (im : BitVec 12)
  /-- admcmd stop kills every context of the image. (R285) -/
  | admcmdStop (p : BitVec 3) (im : BitVec 12)
  /-- admcmd retire stops the image and removes its objects and code. (R285) -/
  | admcmdRetire (p : BitVec 3) (im : BitVec 12)
  /-- The launch sequencer clears the image's claims, tiles and planes. (R285) -/
  | clearCommand
  /-- The launch sequencer writes code and data sections. (R285) -/
  | loadCommand
  /-- The launch sequencer creates pools, queues and scopes. (R285) -/
  | openCommand
  /-- The launch sequencer binds each context on its placed core. (R285) -/
  | bindCommand
  /-- A retired image's number is freed once its launched copies complete. (R285) -/
  | imageNumberFree (im : BitVec 12)
  /-- A detokeniser streams a txt.out command's bytes as UE messages. (R299) -/
  | txtOutProcess (e : BitVec 4)
  /-- A tokeniser processes a txt.tok command and writes its IDs. (R302) -/
  | txtTokProcess (e : BitVec 4)
  /-- Writing bctl valid 1 starts the checks of a text binding slot. (R300) -/
  | bctlBind (e : BitVec 4) (s : BitVec 4) (v : BitVec 64)
  /-- A text binding slot becomes bound or refused. (R300) -/
  | bindingCheckResult (e : BitVec 4) (s : BitVec 4)
  /-- A storage or network channel becomes bound or refused. (R318) -/
  | channelCheckResult (u : ChanUnit) (c : BitVec 5)
  /-- A storage command is counted complete, advancing sdone. (R320) -/
  | storageCommandComplete (c : BitVec 5)
  /-- A network command is counted complete, advancing ndone. (R320) -/
  | networkCommandComplete (c : BitVec 5)
  /-- A correctable SRAM error corrects the line and freezes the cluster. (R207) -/
  | correctableErrorFreeze (cl : ClusterId) (st : SramStore) (co : CoreId) (line : BitVec 18)
  /-- An uncorrectable SRAM error delivers no data and faults the accessor with cause 0x0B. (R208) -/
  | uncorrectableError (cl : ClusterId) (st : SramStore) (co : CoreId) (line : BitVec 18)
  /-- A domain temperature sensor is read every 1,800 Fret ticks. (R225) -/
  | sensorReading (d : Dom) (temp : BitVec 8)
  /-- A UE request at a tokeniser endpoint is tokenised and its record pushed. (R297) -/
  | inboundRequest (m : Packet)
  /-- Writing bctl valid 0 unbinds a text binding slot. (R300) -/
  | bctlUnbind (e : BitVec 4) (s : BitVec 4)
  /-- Writing npctl or tpctl with valid 1 enters a peer at the selected index. (R323) -/
  | peerEnter (b : PeerBlock) (v : BitVec 64)
  /-- Writing npctl or tpctl with valid 0 frees the selected peer index. (R323) -/
  | peerFree (b : PeerBlock)
  /-- A host read through BAR2 is translated and performed. (R317) -/
  | hostRead (r : HostAccess)
  /-- A host posted write through BAR2 is translated and performed or dropped. (R317) -/
  | hostWrite (r : HostAccess) (v : List Byte)
  /-- Writing ctl valid 1 starts the checks of a storage or network channel. (R318) -/
  | channelBind (u : ChanUnit) (c : BitVec 5) (v : BitVec 64)
  /-- Writing ctl valid 0 unbinds a storage or network channel. (R318) -/
  | channelUnbind (u : ChanUnit) (c : BitVec 5)
  /-- A peer's send is written to the receive ring and a record pushed. (R322) -/
  | inboundNetworkSend (m : Packet)
  /-- A peer's RMA write is performed within a valid writable region. (R322) -/
  | inboundRmaWrite (m : Packet)
  /-- A peer's RMA read is performed within a valid readable region. (R322) -/
  | inboundRmaRead (m : Packet)
  /-- Cold reset clears the package and the boot ROM verifies root firmware. (R327) -/
  | coldReset
  /-- An SPDM request over DOE is answered with the device identity and measurements. (R328) -/
  | spdmRequest (fn : HostFn) (m : List Byte)
  /-- A write to a device register with no behaviour of its own. (R4) -/
  | registerWrite (addr : BitVec 42) (v : BitVec 64)
  /-- A drive loses power, and its counted writes that are not durable may revert. (R321) -/
  | lossOfPowerAtTheDrive (dr : Nat) (keep : List Nat)
  /-- Root firmware issues a Dataset Management deallocate, after which the blocks read as zero. (R321) -/
  | datasetManagementDeallocate (dr : Nat) (lba : Nat) (n : Nat)
  /-- A TDISP lock of a virtual function freezes its partition's definition against change. (R328) -/
  | tdispLock (p : BitVec 3)
  /-- Retiring a partition retires its images, revokes its key slots and rewrites its vaults with zeros under fresh keys. (R328) -/
  | partitionRetirement (p : BitVec 3)
  /-- Root firmware defines or changes a partition's rectangle, tiers and resource shares. (R292) -/
  | partitionDefinition (p : BitVec 3) (pd : PartDef)
  /-- Root firmware loads a key slot with a fresh key and assigns it to a partition for one matter. (R326) -/
  | keySlotAssignment (k : BitVec 6) (p : BitVec 3) (matter : KeyMatter)
  deriving DecidableEq, Repr

end Sys2Proof
end

