-- ==== Sys2Proof/WellFormed.lean ====
section
/-!
DEFINITION. Well-formed instructions: the operand values that the encodings of the spec admit. A term that breaks one
of these conditions has no encoding, or encodes a reserved field value (R22, R28).
-/

namespace Sys2Proof

/-- A predicate pair that a slot may write: pairs 1 to 5 (R20, R28). -/
def predPairOk (k : BitVec 3) : Bool := k != 0#3 && k != 6#3 && k != 7#3

/-- A mask pair that a slot may write: pairs 1 to 7 (R20, R28). -/
def maskPairOk (k : BitVec 3) : Bool := k != 0#3

/-- A valid narrow format descriptor (R68): fields as R85 lays them out. -/
def descValid (d : BitVec 20) : Bool :=
  let e := (d.extractLsb' 17 3).toNat
  let m := (d.extractLsb' 14 3).toNat
  let s := (d.extractLsb' 13 1).toNat
  let sp := (d.extractLsb' 4 2).toNat
  let n := s + e + m
  2 ≤ n && n ≤ 8 && sp != 3 && (sp != 2 || 2 ≤ e) && d.extractLsb' 0 3 == 0#3

/-- The integer element types. -/
def VTy.isInt : VTy → Bool
  | .f32 | .f16 | .bf16 => false
  | .i32 | .i16 | .i8 | .n32 | .n16 | .n8 => true

/-- The integer element types without a natural reading. -/
def ETy.isInt : ETy → Bool
  | .f32 | .f16 | .bf16 => false
  | .i32 | .i16 | .i8 => true

/-- Where each ordering is accepted by a local amo (R157): `l` is sD. -/
def amoAccepts (op : AOp) (o : Ord) (l : BitVec 4) : Bool :=
  match o with
  | .unp | .nord | .acq => true
  | .com => l == 0#4 && op != .swap && op != .cas
  | .qnt => l == 0#4 && op == .add
  | .rel => l == 0#4
  | .spec | .ar => false

/-- Where each ordering is accepted by acas (R157). -/
def acasAccepts (o : Ord) : Bool :=
  o == .unp || o == .nord || o == .acq || o == .rel

/-- Where each ordering is accepted by ald (R157). -/
def aldAccepts (o : Ord) : Bool :=
  o == .unp || o == .nord || o == .spec || o == .acq

/-- Where each ordering is accepted by ast (R157). -/
def astAccepts (o : Ord) : Bool := o == .unp || o == .rel

/-- Where each ordering is accepted by famo (R256): `l` is sL and `b` is sB. -/
def famoAccepts (op : AOp) (o : Ord) (l : BitVec 4) (b : BitVec 5) : Bool :=
  (op != .cas || b.extractLsb' 0 1 == 0#1) &&
  match o with
  | .unp | .nord | .acq | .rel | .ar => true
  | .com => l == 0#4 && op != .swap && op != .cas
  | .qnt => l == 0#4 && op == .add
  | .spec => op == .or && b == 0#5 && l != 0#4

/-- The operand values that an instruction's encoding admits; a step without a word has no encoding to break. -/
def Instr.wf : Instr → Bool
  | .jr _ a => a != 63#6
  | .fmt _ _ desc => descValid (desc ++ 0#3)
  | .cmp _ _ k _ _ => predPairOk k
  | .cmpi _ _ k _ _ => predPairOk k
  | .pand _ k _ _ => predPairOk k
  | .por _ k _ _ => predPairOk k
  | .pxor _ k _ _ => predPairOk k
  | .pandn _ k _ _ => predPairOk k
  | .movp _ k _ _ => predPairOk k
  | .movl _ _ l => l.ult 6#3
  | .movlCount _ _ l => l.ult 6#3
  | .cpy _ _ kd ks _ => kd != 0#3 && ks != 0#3
  | .famoAdd _ l o _ _ b => famoAccepts .add o l b
  | .famoMin _ l o _ _ b => famoAccepts .min o l b
  | .famoMax _ l o _ _ b => famoAccepts .max o l b
  | .famoAnd _ l o _ _ b => famoAccepts .and o l b
  | .famoOr _ l o _ _ b => famoAccepts .or o l b
  | .famoXor _ l o _ _ b => famoAccepts .xor o l b
  | .famoSwap _ l o _ _ b => famoAccepts .swap o l b
  | .famoCas _ l o _ _ b => famoAccepts .cas o l b
  | .txtOut _ _ p _ => p != 0#5
  | .txtTok _ _ p _ => p != 0#5
  | .sioRd _ p _ => p != 0#5
  | .sioWr _ p _ _ => p != 0#5
  | .netSend _ q _ _ => q != 0#4
  | .netWrite _ q _ _ => q != 0#4
  | .netRead _ q _ => q != 0#4
  | .vshl _ t _ _ _ => t.isInt
  | .vshr _ t _ _ _ => t.isInt
  | .vcmp _ _ _ k _ _ => maskPairOk k
  | .viota _ t _ _ => t.isInt
  | .vmskAnd _ k _ _ => maskPairOk k
  | .vmskOr _ k _ _ => maskPairOk k
  | .vmskXor _ k _ _ => maskPairOk k
  | .vmskNot _ k _ => maskPairOk k
  | .agsetStride _ f _ _ => f != 0#3 && f != 7#3
  | .amoAdd _ l o _ _ _ => amoAccepts .add o l
  | .amoMin _ l o _ _ _ => amoAccepts .min o l
  | .amoMax _ l o _ _ _ => amoAccepts .max o l
  | .amoAnd _ l o _ _ _ => amoAccepts .and o l
  | .amoOr _ l o _ _ _ => amoAccepts .or o l
  | .amoXor _ l o _ _ _ => amoAccepts .xor o l
  | .amoSwap _ l o _ _ _ => amoAccepts .swap o l
  | .acas _ _ o _ _ _ => acasAccepts o
  | .ald _ _ _ _ o => aldAccepts o
  | .ast _ _ _ _ o => astAccepts o
  | .fence _ kinds _ => kinds != 0#5
  | .ard _ _ _ hf _ _ x => !hf || x == .f32
  | .awr _ _ hf _ _ x => !hf || x == .f32
  | .nop _ => true
  | .brT _ _ => true
  | .brN _ _ => true
  | .call _ _ => true
  | .ret _ => true
  | .loop _ _ _ => true
  | .loopi _ _ _ => true
  | .lbrk _ => true
  | .yieldNow _ => true
  | .yieldAt _ _ => true
  | .yieldQ _ _ => true
  | .yieldSc _ _ => true
  | .exit _ => true
  | .rmark _ => true
  | .trap _ _ => true
  | .fmtr _ _ _ => true
  | .capoAcq _ _ => true
  | .capoRel _ => true
  | .add _ _ _ _ => true
  | .sub _ _ _ _ => true
  | .and _ _ _ _ => true
  | .or _ _ _ _ => true
  | .xor _ _ _ _ => true
  | .andn _ _ _ _ => true
  | .shl _ _ _ _ => true
  | .shr _ _ _ _ => true
  | .sra _ _ _ _ => true
  | .addi _ _ _ _ => true
  | .shli _ _ _ _ => true
  | .shri _ _ _ _ => true
  | .srai _ _ _ _ => true
  | .li _ _ _ => true
  | .lis _ _ _ => true
  | .mul _ _ _ _ => true
  | .mulh _ _ _ _ => true
  | .mulhn _ _ _ _ => true
  | .div _ _ _ _ => true
  | .divn _ _ _ _ => true
  | .rem _ _ _ _ => true
  | .remn _ _ _ _ => true
  | .min _ _ _ _ => true
  | .max _ _ _ _ => true
  | .minn _ _ _ _ => true
  | .maxn _ _ _ _ => true
  | .clz _ _ _ => true
  | .ctz _ _ _ => true
  | .popc _ _ _ => true
  | .rdsys _ _ _ => true
  | .wrsysVflags _ _ => true
  | .wrsysVrm _ _ => true
  | .andi _ _ _ _ => true
  | .poolAcqw _ _ _ => true
  | .poolPub _ _ _ => true
  | .poolPin _ _ _ => true
  | .poolUnpin _ _ => true
  | .poolGen _ _ _ => true
  | .poolPubAfter _ _ _ => true
  | .qopPush _ _ _ => true
  | .qopPop _ _ _ => true
  | .qopCount _ _ _ => true
  | .scopeOpen _ _ => true
  | .scopeClose _ _ => true
  | .brgPush _ _ => true
  | .brgPop _ _ => true
  | .xsndScalar _ _ _ => true
  | .xsndVector _ _ _ => true
  | .xrcvScalar _ _ _ => true
  | .xrcvVector _ _ _ => true
  | .sioFlush _ _ => true
  | .evtPost _ _ _ => true
  | .evtIrq _ _ => true
  | .vadd _ _ _ _ _ => true
  | .vsub _ _ _ _ _ => true
  | .vmul _ _ _ _ _ => true
  | .vfma _ _ _ _ _ => true
  | .vfnma _ _ _ _ _ => true
  | .vmin _ _ _ _ _ => true
  | .vmax _ _ _ _ _ => true
  | .vabs _ _ _ _ => true
  | .vneg _ _ _ _ => true
  | .vand _ _ _ _ _ => true
  | .vor _ _ _ _ _ => true
  | .vxor _ _ _ _ _ => true
  | .vsel _ _ _ _ _ => true
  | .vcvt _ _ _ _ => true
  | .vredSum _ _ _ _ => true
  | .vredMax _ _ _ _ => true
  | .vredMin _ _ _ _ => true
  | .vbcast _ _ _ _ _ => true
  | .vext _ _ _ _ _ => true
  | .vins _ _ _ _ _ => true
  | .vperm _ _ _ _ _ => true
  | .vslide _ _ _ _ _ => true
  | .vrcp _ _ _ _ => true
  | .vrsq _ _ _ _ => true
  | .vexp2 _ _ _ _ => true
  | .vlog2 _ _ _ _ => true
  | .vmov _ _ _ _ => true
  | .vmskPopc _ _ _ => true
  | .vmskFfs _ _ _ => true
  | .vpack _ _ _ _ _ => true
  | .vunpk _ _ _ _ _ => true
  | .vscale _ _ _ _ _ => true
  | .ldsB _ _ _ _ => true
  | .ldsH _ _ _ _ => true
  | .ldsW _ _ _ _ => true
  | .ldsD _ _ _ _ => true
  | .ldzB _ _ _ _ => true
  | .ldzH _ _ _ _ => true
  | .ldzW _ _ _ _ => true
  | .stB _ _ _ _ => true
  | .stH _ _ _ _ => true
  | .stW _ _ _ _ => true
  | .stD _ _ _ _ => true
  | .vld _ _ _ _ => true
  | .vldT _ _ _ _ => true
  | .vst _ _ _ _ => true
  | .vldg _ _ _ _ _ => true
  | .vstg _ _ _ _ _ => true
  | .vgath _ _ _ _ _ => true
  | .vscat _ _ _ _ _ => true
  | .agsetBase _ _ _ => true
  | .ldt _ _ _ _ => true
  | .mld _ _ _ => true
  | .mldSp _ _ _ => true
  | .mswp _ => true
  | .mma _ _ _ _ _ => true
  | .aclr _ _ _ _ => true
  | .aexp _ _ _ _ => true
  | .anrm _ _ _ _ => true
  | .resultLands _ _ _ => true
  | .tagCheckSample _ _ _ => true
  | .drainEntry _ _ => true
  | .scratchpadBankAccess _ => true
  | .loopLevelStep _ _ _ => true
  | .contextRelease _ _ _ => true
  | .contextSelection _ _ => true
  | .preemption _ _ => true
  | .budgetOverrun _ _ _ => true
  | .capoGrant _ => true
  | .eventWriteOut _ _ => true
  | .mmaRowSample _ _ => true
  | .mmaRowCommit _ _ => true
  | .planeLineSample _ _ => true
  | .planeLoadComplete _ _ => true
  | .accumulatorWrite _ _ => true
  | .accumulatorReadSample _ _ => true
  | .correctableErrorFreeze _ _ _ _ => true
  | .freezeEnd _ => true
  | .uncorrectableError _ _ _ _ => true
  | .gangRelease _ _ => true
  | .timedTransferArrival _ _ => true
  | .interruptPending _ => true
  | .ifpendClear _ _ _ => true
  | .ifclaim _ => true
  | .ifset _ _ => true
  | .tqpop _ _ => true
  | .bridgeCountCrossing _ _ => true
  | .dfreqWrite _ _ => true
  | .haltStart _ => true
  | .haltEnd _ => true
  | .gateRequest _ => true
  | .wake _ => true
  | .cancelGateRequest _ => true
  | .tierGate _ => true
  | .wakeComplete _ => true
  | .sensorReading _ _ => true
  | .invreq _ _ _ => true
  | .invalidationComplete _ => true
  | .fltreplyReplay _ _ => true
  | .fltreplyAbort _ _ => true
  | .asttabWrite _ _ => true
  | .keyRevocation _ => true
  | .keyRevocationComplete _ => true
  | .copyLaunch _ _ => true
  | .copyComplete _ _ => true
  | .farAtomicPerform _ => true
  | .directoryTick _ => true
  | .waitMessage _ _ _ => true
  | .taskEndMessage _ _ _ => true
  | .queueEngineTick _ => true
  | .admpub _ _ => true
  | .admissionResult _ => true
  | .admcmdStart _ _ => true
  | .admcmdStop _ _ => true
  | .admcmdRetire _ _ => true
  | .clearCommand => true
  | .loadCommand => true
  | .openCommand => true
  | .bindCommand => true
  | .imageNumberFree _ => true
  | .inboundRequest _ => true
  | .txtOutProcess _ => true
  | .txtTokProcess _ => true
  | .bctlBind _ _ _ => true
  | .bctlUnbind _ _ => true
  | .bindingCheckResult _ _ => true
  | .peerEnter _ _ => true
  | .peerFree _ => true
  | .hostRead _ => true
  | .hostWrite _ _ => true
  | .channelBind _ _ _ => true
  | .channelUnbind _ _ => true
  | .channelCheckResult _ _ => true
  | .storageCommandComplete _ => true
  | .networkCommandComplete _ => true
  | .inboundNetworkSend _ => true
  | .inboundRmaWrite _ => true
  | .inboundRmaRead _ => true
  | .coldReset => true
  | .spdmRequest _ _ => true
  | .registerWrite _ _ => true
  | .lossOfPowerAtTheDrive _ _ => true
  | .datasetManagementDeallocate _ _ _ => true
  | .tdispLock _ => true
  | .partitionRetirement _ => true
  | .partitionDefinition _ _ => true
  | .keySlotAssignment _ _ _ => true

end Sys2Proof
end

