-- ==== Sys2Proof/Decode.lean ====
section
/-!
DEFINITION. The decoder, total on any word (R27, R28), the encoder written from the same encoding tables, and what the
refusal checks read from a slot's encoding (R21, R22): its class, its guard's register file and its destinations.
-/

namespace Sys2Proof

/-- The fields of a slot word (R14, R15). -/
structure Fields where
  stop  : Bool
  guard : BitVec 4
  op    : BitVec 7
  d     : BitVec 6
  a     : BitVec 6
  b     : BitVec 6
  x     : BitVec 2
  deriving DecidableEq, Repr

/-- A word cut into its fields. -/
def Fields.ofWord (w : SlotWord) : Fields :=
  { stop := w.getLsbD 31, guard := w.extractLsb' 27 4, op := w.extractLsb' 20 7,
    d := w.extractLsb' 14 6, a := w.extractLsb' 8 6, b := w.extractLsb' 2 6, x := w.extractLsb' 0 2 }

/-- The word that holds the fields. -/
def Fields.toWord (f : Fields) : SlotWord :=
  BitVec.ofBool f.stop ++ f.guard ++ f.op ++ f.d ++ f.a ++ f.b ++ f.x

/-- i8 of layout B (R15). -/
def Fields.i8 (f : Fields) : BitVec 8 := f.b ++ f.x
/-- i14 of layout C (R15). -/
def Fields.i14 (f : Fields) : BitVec 14 := f.a ++ f.b ++ f.x
/-- i20 of layout D (R15). -/
def Fields.i20 (f : Fields) : BitVec 20 := f.d ++ f.a ++ f.b ++ f.x
/-- The head of a slot. -/
def Fields.head (f : Fields) : Head := ⟨f.stop, f.guard⟩

/-- Fields with a given head. -/
def mk (h : Head) (op : BitVec 7) (d a b : BitVec 6) (x : BitVec 2) : Fields :=
  ⟨h.stop, h.guard, op, d, a, b, x⟩

/-- cc of cmp (R76). -/
def Cond.code : Cond → BitVec 3
  | .eq => 0 | .ne => 1 | .lt => 2 | .ge => 3 | .ltn => 4 | .gen => 5 | .tst => 6

/-- cc of vcmp (R103). -/
def VCond.code : VCond → BitVec 2
  | .eq => 0 | .ne => 1 | .lt => 2 | .le => 3

/-- The type code t (R16). -/
def ETy.code : ETy → BitVec 3
  | .f32 => 0 | .f16 => 1 | .bf16 => 2 | .i32 => 3 | .i16 => 4 | .i8 => 5

/-- The type code t (R16). -/
def VTy.code : VTy → BitVec 3
  | .f32 => 0 | .f16 => 1 | .bf16 => 2 | .i32 => 3 | .i16 => 4 | .i8 => 5 | .n32 => 3 | .n16 => 4 | .n8 => 5

/-- a[5], the natural reading (R16). -/
def VTy.nat : VTy → Bool
  | .n32 | .n16 | .n8 => true
  | .f32 | .f16 | .bf16 | .i32 | .i16 | .i8 => false

/-- x of the instructions that take t = 0 to 2 only. -/
def FTy.code : FTy → BitVec 2
  | .f32 => 0 | .f16 => 1 | .bf16 => 2

/-- Operand b (R97). -/
def VSrc.code : VSrc → BitVec 6
  | .vec r => 0#1 ++ r
  | .scal r => 1#1 ++ r

/-- Destination type code of vcvt (R106). -/
def CvtForm.dcode : CvtForm → BitVec 3
  | .elem dst _ => dst.code
  | .toNarrow _ _ => 6
  | .fromNarrow dst _ => 0#1 ++ dst.code
/-- a[5] of vcvt (R106). -/
def CvtForm.dnat : CvtForm → Bool
  | .elem dst _ => dst.nat
  | .toNarrow _ _ => false
  | .fromNarrow _ _ => false
/-- b[2:0] of vcvt (R106). -/
def CvtForm.scode : CvtForm → BitVec 3
  | .elem _ src => src.code
  | .toNarrow _ src => 0#1 ++ src.code
  | .fromNarrow _ _ => 6
/-- b[5:3] of vcvt (R106). -/
def CvtForm.hi : CvtForm → BitVec 3
  | .elem _ src => 0#2 ++ BitVec.ofBool src.nat
  | .toNarrow f _ => f
  | .fromNarrow _ f => f

/-- x of the element accesses (R155). -/
def EW.code : EW → BitVec 2
  | .byte => 0 | .half => 1 | .word => 2

/-- Field a of a layout B memory slot (R150). -/
def Base.code : Base → BitVec 6
  | .sreg r => 0#1 ++ r
  | .gen n => 1#1 ++ 0#2 ++ n

/-- The ordering code (R157). -/
def Ord.code : Ord → BitVec 3
  | .unp => 0 | .com => 1 | .nord => 2 | .qnt => 3 | .spec => 4 | .acq => 5 | .rel => 6 | .ar => 7

/-- The scope code of a fence (R162). -/
def FScope.code : FScope → BitVec 3
  | .context => 0 | .core => 1 | .cluster => 2 | .tier => 3 | .package => 4 | .system => 5

/-- The selector of a system value (R80). -/
def SysSel.code : SysSel → BitVec 8
  | .fret => 0x00 | .cycle => 0x01 | .ident => 0x02 | .ast => 0x03 | .vflags => 0x04 | .vrm => 0x05
  | .brfree => 0x06 | .brcount => 0x07 | .energy => 0x08 | .capolevel => 0x09 | .evqcount => 0x0A
  | .done ch => 1#4 ++ ch
  | .nextid ch => 2#4 ++ ch
  | .sdone ch => 0b001100#6 ++ ch
  | .ndone ch => 0b001101#6 ++ ch

/-- The four bits of an operand kind (R127). -/
def MKind.code : MKind → BitVec 4
  | .fm f => 0#1 ++ f
  | .f16 => 8 | .bf16 => 9 | .i8 => 10


/-- The fields of a slot word, written from the encoding tables of each instruction's entry; a step without a word
has none. -/
def fieldsOf : Instr → Option Fields
  | .nop h => some (mk h 0x00#7 0#6 0#6 0#6 0#2)
  | .brT h off => some (mk h 0x01#7 ((off ++ 1#1).extractLsb' 14 6) ((off ++ 1#1).extractLsb' 8 6) ((off ++ 1#1).extractLsb' 2 6) ((off ++ 1#1).extractLsb' 0 2))
  | .brN h off => some (mk h 0x01#7 ((off ++ 0#1).extractLsb' 14 6) ((off ++ 0#1).extractLsb' 8 6) ((off ++ 0#1).extractLsb' 2 6) ((off ++ 0#1).extractLsb' 0 2))
  | .call h off => some (mk h 0x02#7 ((off).extractLsb' 14 6) ((off).extractLsb' 8 6) ((off).extractLsb' 2 6) ((off).extractLsb' 0 2))
  | .jr h a => some (mk h 0x03#7 0#6 a 0#6 0#2)
  | .ret h => some (mk h 0x03#7 0#6 63#6 0#6 0#2)
  | .loop h a body => some (mk h 0x04#7 0#6 a ((body).extractLsb' 2 6) ((body).extractLsb' 0 2))
  | .loopi h body n => some (mk h 0x05#7 body ((n).extractLsb' 8 6) ((n).extractLsb' 2 6) ((n).extractLsb' 0 2))
  | .lbrk h => some (mk h 0x06#7 0#6 0#6 0#6 0#2)
  | .yieldNow h => some (mk h 0x07#7 0#6 0#6 0#6 0#2)
  | .yieldAt h a => some (mk h 0x07#7 1#6 ((0#8 ++ a).extractLsb' 8 6) ((0#8 ++ a).extractLsb' 2 6) ((0#8 ++ a).extractLsb' 0 2))
  | .yieldQ h q => some (mk h 0x07#7 2#6 ((0#2 ++ q).extractLsb' 8 6) ((0#2 ++ q).extractLsb' 2 6) ((0#2 ++ q).extractLsb' 0 2))
  | .yieldSc h k => some (mk h 0x07#7 3#6 ((0#6 ++ k).extractLsb' 8 6) ((0#6 ++ k).extractLsb' 2 6) ((0#6 ++ k).extractLsb' 0 2))
  | .exit h => some (mk h 0x08#7 0#6 0#6 0#6 0#2)
  | .rmark h => some (mk h 0x09#7 0#6 0#6 0#6 0#2)
  | .trap h code => some (mk h 0x0A#7 ((code).extractLsb' 14 6) ((code).extractLsb' 8 6) ((code).extractLsb' 2 6) ((code).extractLsb' 0 2))
  | .fmt h f desc => some (mk h 0x0B#7 ((f ++ desc).extractLsb' 14 6) ((f ++ desc).extractLsb' 8 6) ((f ++ desc).extractLsb' 2 6) ((f ++ desc).extractLsb' 0 2))
  | .fmtr h f a => some (mk h 0x0C#7 (0#3 ++ f) a 0#6 0#2)
  | .capoAcq h level => some (mk h 0x0D#7 0#6 ((0#10 ++ level).extractLsb' 8 6) ((0#10 ++ level).extractLsb' 2 6) ((0#10 ++ level).extractLsb' 0 2))
  | .capoRel h => some (mk h 0x0D#7 1#6 0#6 0#6 0#2)
  | .add h d a b => some (mk h 0x10#7 d a b 0#2)
  | .sub h d a b => some (mk h 0x11#7 d a b 0#2)
  | .and h d a b => some (mk h 0x12#7 d a b 0#2)
  | .or h d a b => some (mk h 0x13#7 d a b 0#2)
  | .xor h d a b => some (mk h 0x14#7 d a b 0#2)
  | .andn h d a b => some (mk h 0x15#7 d a b 0#2)
  | .shl h d a b => some (mk h 0x16#7 d a b 0#2)
  | .shr h d a b => some (mk h 0x16#7 d a b 1#2)
  | .sra h d a b => some (mk h 0x16#7 d a b 2#2)
  | .addi h d a imm => some (mk h 0x17#7 d a ((imm).extractLsb' 2 6) ((imm).extractLsb' 0 2))
  | .shli h d a n => some (mk h 0x18#7 d a ((0#2 ++ n).extractLsb' 2 6) ((0#2 ++ n).extractLsb' 0 2))
  | .shri h d a n => some (mk h 0x18#7 d a ((1#2 ++ n).extractLsb' 2 6) ((1#2 ++ n).extractLsb' 0 2))
  | .srai h d a n => some (mk h 0x18#7 d a ((2#2 ++ n).extractLsb' 2 6) ((2#2 ++ n).extractLsb' 0 2))
  | .li h d imm => some (mk h 0x19#7 d ((imm).extractLsb' 8 6) ((imm).extractLsb' 2 6) ((imm).extractLsb' 0 2))
  | .lis h d imm => some (mk h 0x1A#7 d ((imm).extractLsb' 8 6) ((imm).extractLsb' 2 6) ((imm).extractLsb' 0 2))
  | .mul h d a b => some (mk h 0x1B#7 d a b 0#2)
  | .mulh h d a b => some (mk h 0x1B#7 d a b 1#2)
  | .mulhn h d a b => some (mk h 0x1B#7 d a b 2#2)
  | .div h d a b => some (mk h 0x1C#7 d a b 0#2)
  | .divn h d a b => some (mk h 0x1C#7 d a b 1#2)
  | .rem h d a b => some (mk h 0x1C#7 d a b 2#2)
  | .remn h d a b => some (mk h 0x1C#7 d a b 3#2)
  | .min h d a b => some (mk h 0x1D#7 d a b 0#2)
  | .max h d a b => some (mk h 0x1D#7 d a b 1#2)
  | .minn h d a b => some (mk h 0x1D#7 d a b 2#2)
  | .maxn h d a b => some (mk h 0x1D#7 d a b 3#2)
  | .clz h d a => some (mk h 0x1E#7 d a 0#6 0#2)
  | .ctz h d a => some (mk h 0x1E#7 d a 0#6 1#2)
  | .popc h d a => some (mk h 0x1E#7 d a 0#6 2#2)
  | .cmp h c k a b => some (mk h 0x1F#7 (c.code ++ k) a b 0#2)
  | .cmpi h c k a imm => some (mk h 0x20#7 (c.code ++ k) a ((imm).extractLsb' 2 6) ((imm).extractLsb' 0 2))
  | .pand h k a b => some (mk h 0x21#7 (0#3 ++ k) (0#2 ++ a) (0#2 ++ b) 0#2)
  | .por h k a b => some (mk h 0x21#7 (0#3 ++ k) (0#2 ++ a) (0#2 ++ b) 1#2)
  | .pxor h k a b => some (mk h 0x21#7 (0#3 ++ k) (0#2 ++ a) (0#2 ++ b) 2#2)
  | .pandn h k a b => some (mk h 0x21#7 (0#3 ++ k) (0#2 ++ a) (0#2 ++ b) 3#2)
  | .movp h k a n => some (mk h 0x22#7 (0#3 ++ k) a n 0#2)
  | .movl h d l => some (mk h 0x23#7 d 0#6 ((0#5 ++ l).extractLsb' 2 6) ((0#5 ++ l).extractLsb' 0 2))
  | .movlCount h d l => some (mk h 0x23#7 d 0#6 ((1#5 ++ l).extractLsb' 2 6) ((1#5 ++ l).extractLsb' 0 2))
  | .rdsys h d sel => some (mk h 0x24#7 d 0#6 ((sel.code).extractLsb' 2 6) ((sel.code).extractLsb' 0 2))
  | .wrsysVflags h a => some (mk h 0x25#7 0#6 a ((4#8).extractLsb' 2 6) ((4#8).extractLsb' 0 2))
  | .wrsysVrm h a => some (mk h 0x25#7 0#6 a ((5#8).extractLsb' 2 6) ((5#8).extractLsb' 0 2))
  | .andi h d a imm => some (mk h 0x26#7 d a ((imm).extractLsb' 2 6) ((imm).extractLsb' 0 2))
  | .cpy h t kd ks ch => some (mk h 0x30#7 t (kd ++ ks) (0#2 ++ ch) 0#2)
  | .famoAdd h l o w a b => some (mk h 0x31#7 (o.code.extractLsb' 1 2 ++ l) (o.code.extractLsb' 0 1 ++ BitVec.ofBool w ++ a) (0#1 ++ b) 0#2)
  | .famoMin h l o w a b => some (mk h 0x31#7 (o.code.extractLsb' 1 2 ++ l) (o.code.extractLsb' 0 1 ++ BitVec.ofBool w ++ a) (0#1 ++ b) 1#2)
  | .famoMax h l o w a b => some (mk h 0x31#7 (o.code.extractLsb' 1 2 ++ l) (o.code.extractLsb' 0 1 ++ BitVec.ofBool w ++ a) (0#1 ++ b) 2#2)
  | .famoAnd h l o w a b => some (mk h 0x31#7 (o.code.extractLsb' 1 2 ++ l) (o.code.extractLsb' 0 1 ++ BitVec.ofBool w ++ a) (0#1 ++ b) 3#2)
  | .famoOr h l o w a b => some (mk h 0x31#7 (o.code.extractLsb' 1 2 ++ l) (o.code.extractLsb' 0 1 ++ BitVec.ofBool w ++ a) (1#1 ++ b) 0#2)
  | .famoXor h l o w a b => some (mk h 0x31#7 (o.code.extractLsb' 1 2 ++ l) (o.code.extractLsb' 0 1 ++ BitVec.ofBool w ++ a) (1#1 ++ b) 1#2)
  | .famoSwap h l o w a b => some (mk h 0x31#7 (o.code.extractLsb' 1 2 ++ l) (o.code.extractLsb' 0 1 ++ BitVec.ofBool w ++ a) (1#1 ++ b) 2#2)
  | .famoCas h l o w a b => some (mk h 0x31#7 (o.code.extractLsb' 1 2 ++ l) (o.code.extractLsb' 0 1 ++ BitVec.ofBool w ++ a) (1#1 ++ b) 3#2)
  | .poolAcqw h d a => some (mk h 0x32#7 d a 0#6 0#2)
  | .poolPub h d a => some (mk h 0x32#7 d a 0#6 1#2)
  | .poolPin h d a => some (mk h 0x32#7 d a 0#6 2#2)
  | .poolUnpin h a => some (mk h 0x32#7 0#6 a 0#6 3#2)
  | .poolGen h d a => some (mk h 0x32#7 d a 32#6 0#2)
  | .poolPubAfter h d a => some (mk h 0x32#7 d a 32#6 1#2)
  | .qopPush h d v => some (mk h 0x33#7 d (0#1 ++ v) 0#6 0#2)
  | .qopPop h d a => some (mk h 0x33#7 d a 0#6 1#2)
  | .qopCount h d a => some (mk h 0x33#7 d a 0#6 2#2)
  | .scopeOpen h a => some (mk h 0x34#7 0#6 a 0#6 0#2)
  | .scopeClose h a => some (mk h 0x34#7 0#6 a 0#6 1#2)
  | .brgPush h v => some (mk h 0x35#7 0#6 (0#1 ++ v) 0#6 0#2)
  | .brgPop h v => some (mk h 0x35#7 (0#1 ++ v) 0#6 0#6 1#2)
  | .xsndScalar h j a => some (mk h 0x36#7 (0#3 ++ j) a 0#6 0#2)
  | .xsndVector h j a => some (mk h 0x36#7 (0#3 ++ j) (0#1 ++ a) 0#6 1#2)
  | .xrcvScalar h d i => some (mk h 0x37#7 d (0#3 ++ i) 0#6 0#2)
  | .xrcvVector h d i => some (mk h 0x37#7 (0#1 ++ d) (0#3 ++ i) 0#6 1#2)
  | .txtOut h d p a => some (mk h 0x38#7 d (p ++ 0#1) (0#1 ++ a) 0#2)
  | .txtTok h d p a => some (mk h 0x38#7 d (p ++ 0#1) (0#1 ++ a) 1#2)
  | .sioRd h p c => some (mk h 0x39#7 0#6 (p ++ 0#1) (0#4 ++ c) 0#2)
  | .sioWr h p fua c => some (mk h 0x39#7 0#6 (p ++ 0#1) (0#3 ++ BitVec.ofBool fua ++ c) 1#2)
  | .sioFlush h c => some (mk h 0x39#7 0#6 0#6 (0#4 ++ c) 2#2)
  | .netSend h q ord c => some (mk h 0x3A#7 0#6 (q ++ 0#2) (0#3 ++ BitVec.ofBool ord ++ c) 0#2)
  | .netWrite h q ord c => some (mk h 0x3A#7 0#6 (q ++ 0#2) (0#3 ++ BitVec.ofBool ord ++ c) 1#2)
  | .netRead h q c => some (mk h 0x3A#7 0#6 (q ++ 0#2) (0#4 ++ c) 2#2)
  | .evtPost h a b => some (mk h 0x3B#7 0#6 a b 0#2)
  | .evtIrq h a => some (mk h 0x3B#7 0#6 a 0#6 1#2)
  | .vadd h t d a b => some (mk h 0x40#7 (t.code.extractLsb' 2 1 ++ d) (BitVec.ofBool t.nat ++ a) b.code (t.code.extractLsb' 0 2))
  | .vsub h t d a b => some (mk h 0x41#7 (t.code.extractLsb' 2 1 ++ d) (BitVec.ofBool t.nat ++ a) b.code (t.code.extractLsb' 0 2))
  | .vmul h t d a b => some (mk h 0x42#7 (t.code.extractLsb' 2 1 ++ d) (BitVec.ofBool t.nat ++ a) b.code (t.code.extractLsb' 0 2))
  | .vfma h t d a b => some (mk h 0x43#7 (t.code.extractLsb' 2 1 ++ d) (BitVec.ofBool t.nat ++ a) b.code (t.code.extractLsb' 0 2))
  | .vfnma h t d a b => some (mk h 0x44#7 (t.code.extractLsb' 2 1 ++ d) (BitVec.ofBool t.nat ++ a) b.code (t.code.extractLsb' 0 2))
  | .vmin h t d a b => some (mk h 0x45#7 (t.code.extractLsb' 2 1 ++ d) (BitVec.ofBool t.nat ++ a) b.code (t.code.extractLsb' 0 2))
  | .vmax h t d a b => some (mk h 0x46#7 (t.code.extractLsb' 2 1 ++ d) (BitVec.ofBool t.nat ++ a) b.code (t.code.extractLsb' 0 2))
  | .vabs h t d a => some (mk h 0x47#7 (t.code.extractLsb' 2 1 ++ d) (BitVec.ofBool t.nat ++ a) 0#6 (t.code.extractLsb' 0 2))
  | .vneg h t d a => some (mk h 0x47#7 (t.code.extractLsb' 2 1 ++ d) (BitVec.ofBool t.nat ++ a) 1#6 (t.code.extractLsb' 0 2))
  | .vand h t d a b => some (mk h 0x48#7 (t.code.extractLsb' 2 1 ++ d) (BitVec.ofBool t.nat ++ a) b.code (t.code.extractLsb' 0 2))
  | .vor h t d a b => some (mk h 0x49#7 (t.code.extractLsb' 2 1 ++ d) (BitVec.ofBool t.nat ++ a) b.code (t.code.extractLsb' 0 2))
  | .vxor h t d a b => some (mk h 0x4A#7 (t.code.extractLsb' 2 1 ++ d) (BitVec.ofBool t.nat ++ a) b.code (t.code.extractLsb' 0 2))
  | .vshl h t d a b => some (mk h 0x4B#7 (t.code.extractLsb' 2 1 ++ d) (BitVec.ofBool t.nat ++ a) b.code (t.code.extractLsb' 0 2))
  | .vshr h t d a b => some (mk h 0x4C#7 (t.code.extractLsb' 2 1 ++ d) (BitVec.ofBool t.nat ++ a) b.code (t.code.extractLsb' 0 2))
  | .vcmp h t c k a b => some (mk h 0x4D#7 (t.code.extractLsb' 2 1 ++ c.code ++ k) (BitVec.ofBool t.nat ++ a) b.code (t.code.extractLsb' 0 2))
  | .vsel h t d a b => some (mk h 0x4E#7 (t.code.extractLsb' 2 1 ++ d) (BitVec.ofBool t.nat ++ a) b.code (t.code.extractLsb' 0 2))
  | .vcvt h f d a => some (mk h 0x4F#7 (f.dcode.extractLsb' 2 1 ++ d) (BitVec.ofBool f.dnat ++ a) (f.hi ++ f.scode) (f.dcode.extractLsb' 0 2))
  | .vredSum h t d a => some (mk h 0x50#7 (t.code.extractLsb' 2 1 ++ d) (BitVec.ofBool t.nat ++ a) 0#6 (t.code.extractLsb' 0 2))
  | .vredMax h t d a => some (mk h 0x50#7 (t.code.extractLsb' 2 1 ++ d) (BitVec.ofBool t.nat ++ a) 1#6 (t.code.extractLsb' 0 2))
  | .vredMin h t d a => some (mk h 0x50#7 (t.code.extractLsb' 2 1 ++ d) (BitVec.ofBool t.nat ++ a) 2#6 (t.code.extractLsb' 0 2))
  | .vbcast h t d a b => some (mk h 0x51#7 (t.code.extractLsb' 2 1 ++ d) (BitVec.ofBool t.nat ++ a) (1#1 ++ b) (t.code.extractLsb' 0 2))
  | .vext h t d a b => some (mk h 0x52#7 (t.code.extractLsb' 2 1 ++ d) (BitVec.ofBool t.nat ++ a) (0#1 ++ b) (t.code.extractLsb' 0 2))
  | .vins h t d a b => some (mk h 0x52#7 (t.code.extractLsb' 2 1 ++ d) (BitVec.ofBool t.nat ++ a) (1#1 ++ b) (t.code.extractLsb' 0 2))
  | .vperm h t d a b => some (mk h 0x53#7 (t.code.extractLsb' 2 1 ++ d) (BitVec.ofBool t.nat ++ a) (0#1 ++ b) (t.code.extractLsb' 0 2))
  | .vslide h t d a b => some (mk h 0x54#7 (t.code.extractLsb' 2 1 ++ d) (BitVec.ofBool t.nat ++ a) (1#1 ++ b) (t.code.extractLsb' 0 2))
  | .viota h t d b => some (mk h 0x55#7 (t.code.extractLsb' 2 1 ++ d) 0#6 (1#1 ++ b) (t.code.extractLsb' 0 2))
  | .vrcp h t d a => some (mk h 0x56#7 (0#1 ++ d) (0#1 ++ a) 0#6 t.code)
  | .vrsq h t d a => some (mk h 0x57#7 (0#1 ++ d) (0#1 ++ a) 0#6 t.code)
  | .vexp2 h t d a => some (mk h 0x58#7 (0#1 ++ d) (0#1 ++ a) 0#6 t.code)
  | .vlog2 h t d a => some (mk h 0x59#7 (0#1 ++ d) (0#1 ++ a) 0#6 t.code)
  | .vmov h t d b => some (mk h 0x5A#7 (t.code.extractLsb' 2 1 ++ d) 0#6 b.code (t.code.extractLsb' 0 2))
  | .vmskAnd h k a b => some (mk h 0x5B#7 (0#3 ++ k) (0#2 ++ a) (0#2 ++ b) 0#2)
  | .vmskOr h k a b => some (mk h 0x5B#7 (0#3 ++ k) (0#2 ++ a) (0#2 ++ b) 1#2)
  | .vmskXor h k a b => some (mk h 0x5B#7 (0#3 ++ k) (0#2 ++ a) (0#2 ++ b) 2#2)
  | .vmskNot h k a => some (mk h 0x5B#7 (0#3 ++ k) (0#2 ++ a) 0#6 3#2)
  | .vmskPopc h d a => some (mk h 0x5B#7 (1#1 ++ d) (0#2 ++ a) 0#6 0#2)
  | .vmskFfs h d a => some (mk h 0x5B#7 (1#1 ++ d) (0#2 ++ a) 0#6 1#2)
  | .vpack h t d a b => some (mk h 0x5C#7 (t.code.extractLsb' 2 1 ++ d) (0#1 ++ a) (0#1 ++ b) (t.code.extractLsb' 0 2))
  | .vunpk h t d a b => some (mk h 0x5C#7 (t.code.extractLsb' 2 1 ++ d) (1#1 ++ a) (0#1 ++ b) (t.code.extractLsb' 0 2))
  | .vscale h t d a b => some (mk h 0x5D#7 (0#1 ++ d) (0#1 ++ a) b.code t.code)
  | .ldsB h d a o => some (mk h 0x60#7 d a.code o 0#2)
  | .ldsH h d a o => some (mk h 0x60#7 d a.code o 1#2)
  | .ldsW h d a o => some (mk h 0x60#7 d a.code o 2#2)
  | .ldsD h d a o => some (mk h 0x60#7 d a.code o 3#2)
  | .ldzB h d a o => some (mk h 0x61#7 d a.code o 0#2)
  | .ldzH h d a o => some (mk h 0x61#7 d a.code o 1#2)
  | .ldzW h d a o => some (mk h 0x61#7 d a.code o 2#2)
  | .stB h d a o => some (mk h 0x62#7 d a.code o 0#2)
  | .stH h d a o => some (mk h 0x62#7 d a.code o 1#2)
  | .stW h d a o => some (mk h 0x62#7 d a.code o 2#2)
  | .stD h d a o => some (mk h 0x62#7 d a.code o 3#2)
  | .vld h d a imm => some (mk h 0x63#7 (0#1 ++ d) a.code ((imm).extractLsb' 2 6) ((imm).extractLsb' 0 2))
  | .vldT h d a imm => some (mk h 0x63#7 (1#1 ++ d) (0#1 ++ a) ((imm).extractLsb' 2 6) ((imm).extractLsb' 0 2))
  | .vst h d a imm => some (mk h 0x64#7 (0#1 ++ d) a.code ((imm).extractLsb' 2 6) ((imm).extractLsb' 0 2))
  | .vldg h d a b w => some (mk h 0x65#7 (0#1 ++ d) a b w.code)
  | .vstg h d a b w => some (mk h 0x66#7 (0#1 ++ d) a b w.code)
  | .vgath h d a b w => some (mk h 0x67#7 (0#1 ++ d) a (0#1 ++ b) w.code)
  | .vscat h d a b w => some (mk h 0x68#7 (0#1 ++ d) a (0#1 ++ b) w.code)
  | .agsetBase h n a => some (mk h 0x69#7 (0#3 ++ n) a 0#6 0#2)
  | .agsetStride h f n a => some (mk h 0x69#7 (f ++ n) a 0#6 0#2)
  | .amoAdd h l o w a b => some (mk h 0x6A#7 (o.code.extractLsb' 1 2 ++ l) (o.code.extractLsb' 0 1 ++ BitVec.ofBool w ++ a) (0#1 ++ b) 0#2)
  | .amoMin h l o w a b => some (mk h 0x6A#7 (o.code.extractLsb' 1 2 ++ l) (o.code.extractLsb' 0 1 ++ BitVec.ofBool w ++ a) (0#1 ++ b) 1#2)
  | .amoMax h l o w a b => some (mk h 0x6A#7 (o.code.extractLsb' 1 2 ++ l) (o.code.extractLsb' 0 1 ++ BitVec.ofBool w ++ a) (0#1 ++ b) 2#2)
  | .amoAnd h l o w a b => some (mk h 0x6A#7 (o.code.extractLsb' 1 2 ++ l) (o.code.extractLsb' 0 1 ++ BitVec.ofBool w ++ a) (0#1 ++ b) 3#2)
  | .amoOr h l o w a b => some (mk h 0x6A#7 (o.code.extractLsb' 1 2 ++ l) (o.code.extractLsb' 0 1 ++ BitVec.ofBool w ++ a) (1#1 ++ b) 0#2)
  | .amoXor h l o w a b => some (mk h 0x6A#7 (o.code.extractLsb' 1 2 ++ l) (o.code.extractLsb' 0 1 ++ BitVec.ofBool w ++ a) (1#1 ++ b) 1#2)
  | .amoSwap h l o w a b => some (mk h 0x6A#7 (o.code.extractLsb' 1 2 ++ l) (o.code.extractLsb' 0 1 ++ BitVec.ofBool w ++ a) (1#1 ++ b) 2#2)
  | .acas h l o w a b => some (mk h 0x6B#7 (o.code.extractLsb' 1 2 ++ l) (o.code.extractLsb' 0 1 ++ BitVec.ofBool w ++ a) (0#1 ++ b) 0#2)
  | .ald h d a w o => some (mk h 0x6C#7 d a ((0#2 ++ BitVec.ofBool w ++ o.code ++ 0#2).extractLsb' 2 6) ((0#2 ++ BitVec.ofBool w ++ o.code ++ 0#2).extractLsb' 0 2))
  | .ast h d a w o => some (mk h 0x6C#7 d a ((0#2 ++ BitVec.ofBool w ++ o.code ++ 1#2).extractLsb' 2 6) ((0#2 ++ BitVec.ofBool w ++ o.code ++ 1#2).extractLsb' 0 2))
  | .ldt h d a imm => some (mk h 0x6D#7 d (0#1 ++ a) ((imm).extractLsb' 2 6) ((imm).extractLsb' 0 2))
  | .fence h kinds scope => some (mk h 0x6E#7 ((0#12 ++ kinds ++ scope.code).extractLsb' 14 6) ((0#12 ++ kinds ++ scope.code).extractLsb' 8 6) ((0#12 ++ kinds ++ scope.code).extractLsb' 2 6) ((0#12 ++ kinds ++ scope.code).extractLsb' 0 2))
  | .mld h k a => some (mk h 0x70#7 (k.code.extractLsb' 3 1 ++ 0#5) (k.code.extractLsb' 0 1 ++ a) 0#6 (k.code.extractLsb' 1 2))
  | .mldSp h k a => some (mk h 0x70#7 (k.code.extractLsb' 3 1 ++ 0#5) (k.code.extractLsb' 0 1 ++ a) 32#6 (k.code.extractLsb' 1 2))
  | .mswp h => some (mk h 0x71#7 0#6 0#6 0#6 0#2)
  | .mma h k t a b => some (mk h 0x72#7 (k.code.extractLsb' 3 1 ++ t) (k.code.extractLsb' 0 1 ++ a) (0#1 ++ b) (k.code.extractLsb' 1 2))
  | .aclr h t a b => some (mk h 0x73#7 (0#1 ++ t) (0#1 ++ a) (0#1 ++ b) 0#2)
  | .ard h sat d hf t b x => some (mk h 0x74#7 (BitVec.ofBool sat ++ d) (BitVec.ofBool hf ++ t) (0#1 ++ b) x.code)
  | .awr h t hf a b x => some (mk h 0x75#7 (0#1 ++ t) (BitVec.ofBool hf ++ a) (0#1 ++ b) x.code)
  | .aexp h d t b => some (mk h 0x76#7 d (0#1 ++ t) (0#1 ++ b) 0#2)
  | .anrm h t a b => some (mk h 0x77#7 (0#1 ++ t) (0#1 ++ a) (0#1 ++ b) 0#2)
  | .resultLands _ _ _ => none
  | .tagCheckSample _ _ _ => none
  | .drainEntry _ _ => none
  | .scratchpadBankAccess _ => none
  | .loopLevelStep _ _ _ => none
  | .contextRelease _ _ _ => none
  | .contextSelection _ _ => none
  | .preemption _ _ => none
  | .budgetOverrun _ _ _ => none
  | .capoGrant _ => none
  | .eventWriteOut _ _ => none
  | .mmaRowSample _ _ => none
  | .mmaRowCommit _ _ => none
  | .planeLineSample _ _ => none
  | .planeLoadComplete _ _ => none
  | .accumulatorWrite _ _ => none
  | .accumulatorReadSample _ _ => none
  | .correctableErrorFreeze _ _ _ _ => none
  | .freezeEnd _ => none
  | .uncorrectableError _ _ _ _ => none
  | .gangRelease _ _ => none
  | .timedTransferArrival _ _ => none
  | .interruptPending _ => none
  | .ifpendClear _ _ _ => none
  | .ifclaim _ => none
  | .ifset _ _ => none
  | .tqpop _ _ => none
  | .bridgeCountCrossing _ _ => none
  | .dfreqWrite _ _ => none
  | .haltStart _ => none
  | .haltEnd _ => none
  | .gateRequest _ => none
  | .wake _ => none
  | .cancelGateRequest _ => none
  | .tierGate _ => none
  | .wakeComplete _ => none
  | .sensorReading _ _ => none
  | .invreq _ _ _ => none
  | .invalidationComplete _ => none
  | .fltreplyReplay _ _ => none
  | .fltreplyAbort _ _ => none
  | .asttabWrite _ _ => none
  | .keyRevocation _ => none
  | .keyRevocationComplete _ => none
  | .copyLaunch _ _ => none
  | .copyComplete _ _ => none
  | .farAtomicPerform _ => none
  | .directoryTick _ => none
  | .waitMessage _ _ _ => none
  | .taskEndMessage _ _ _ => none
  | .queueEngineTick _ => none
  | .admpub _ _ => none
  | .admissionResult _ => none
  | .admcmdStart _ _ => none
  | .admcmdStop _ _ => none
  | .admcmdRetire _ _ => none
  | .clearCommand => none
  | .loadCommand => none
  | .openCommand => none
  | .bindCommand => none
  | .imageNumberFree _ => none
  | .inboundRequest _ => none
  | .txtOutProcess _ => none
  | .txtTokProcess _ => none
  | .bctlBind _ _ _ => none
  | .bctlUnbind _ _ => none
  | .bindingCheckResult _ _ => none
  | .peerEnter _ _ => none
  | .peerFree _ => none
  | .hostRead _ => none
  | .hostWrite _ _ => none
  | .channelBind _ _ _ => none
  | .channelUnbind _ _ => none
  | .channelCheckResult _ _ => none
  | .storageCommandComplete _ => none
  | .networkCommandComplete _ => none
  | .inboundNetworkSend _ => none
  | .inboundRmaWrite _ => none
  | .inboundRmaRead _ => none
  | .coldReset => none
  | .spdmRequest _ _ => none
  | .registerWrite _ _ => none
  | .lossOfPowerAtTheDrive _ _ => none
  | .datasetManagementDeallocate _ _ _ => none
  | .tdispLock _ => none
  | .partitionRetirement _ => none
  | .partitionDefinition _ _ => none
  | .keySlotAssignment _ _ _ => none

/-- The word of a well-formed instruction that has one. -/
def encode (i : Instr) : Option SlotWord :=
  if i.wf then (fieldsOf i).map Fields.toWord else none

/-- Why a word decodes to no instruction (R27). -/
inductive DecodeError where
  /-- RO: the opcode is one of the 26 of R37. -/
  | reservedOpcode
  /-- RF: the opcode is assigned, and a field holds a reserved value (R28). -/
  | reservedField
  deriving DecidableEq, Repr

/-- The instruction when the field conditions hold, RF otherwise. -/
def chk (c : Bool) (i : Instr) : Except DecodeError Instr := if c then .ok i else .error .reservedField

/-- The instruction of an optional reading, RF when there is none. -/
def rf (i : Option Instr) : Except DecodeError Instr :=
  match i with
  | some i => .ok i
  | none => .error .reservedField

/-- The most significant bit of a 6-bit register field. -/
def top (r : BitVec 6) : Bool := r.getLsbD 5
/-- The low five bits of a register field. -/
def lo5 (r : BitVec 6) : BitVec 5 := r.extractLsb' 0 5
/-- The low four bits of a register field. -/
def lo4 (r : BitVec 6) : BitVec 4 := r.extractLsb' 0 4
/-- The low three bits of a register field. -/
def lo3 (r : BitVec 6) : BitVec 3 := r.extractLsb' 0 3
/-- The high three bits of a register field. -/
def hi3 (r : BitVec 6) : BitVec 3 := r.extractLsb' 3 3
/-- The high two bits of a register field. -/
def hi2 (r : BitVec 6) : BitVec 2 := r.extractLsb' 4 2

/-- cc of cmp; code 7 is reserved (R76). -/
def Cond.ofCode (c : BitVec 3) : Option Cond :=
  match c.toNat with
  | 0 => some .eq | 1 => some .ne | 2 => some .lt | 3 => some .ge | 4 => some .ltn | 5 => some .gen | 6 => some .tst
  | _ => none

/-- cc of vcmp (R103). -/
def VCond.ofCode (c : BitVec 2) : VCond :=
  match c.toNat with
  | 0 => .eq | 1 => .ne | 2 => .lt | _ => .le

/-- The element type of t and a[5] (R16): t = 6 and 7, and a[5] = 1 with a float, are reserved. -/
def VTy.ofCode (t : BitVec 3) (n : Bool) : Option VTy :=
  match t.toNat, n with
  | 0, false => some .f32 | 1, false => some .f16 | 2, false => some .bf16
  | 3, false => some .i32 | 4, false => some .i16 | 5, false => some .i8
  | 3, true => some .n32 | 4, true => some .n16 | 5, true => some .n8
  | _, _ => none

/-- The element type of t where a[5] selects no reading. -/
def ETy.ofCode (t : BitVec 3) : Option ETy :=
  match t.toNat with
  | 0 => some .f32 | 1 => some .f16 | 2 => some .bf16 | 3 => some .i32 | 4 => some .i16 | 5 => some .i8
  | _ => none

/-- The float type of x. -/
def FTy.ofCode (x : BitVec 2) : Option FTy :=
  match x.toNat with
  | 0 => some .f32 | 1 => some .f16 | 2 => some .bf16
  | _ => none

/-- Operand b (R97). -/
def VSrc.ofCode (b : BitVec 6) : VSrc := if top b then .scal (lo5 b) else .vec (lo5 b)

/-- Element width (R155). -/
def EW.ofCode (x : BitVec 2) : Option EW :=
  match x.toNat with
  | 0 => some .byte | 1 => some .half | 2 => some .word
  | _ => none

/-- The base of R150; a[4:3] must be 0 with an address generator. -/
def Base.ofCode (a : BitVec 6) : Option Base :=
  if top a then (if a.extractLsb' 3 2 = 0#2 then some (.gen (lo3 a)) else none) else some (.sreg (lo5 a))

/-- The ordering of a code (R157). -/
def Ord.ofCode (c : BitVec 3) : Ord :=
  match c.toNat with
  | 0 => .unp | 1 => .com | 2 => .nord | 3 => .qnt | 4 => .spec | 5 => .acq | 6 => .rel | _ => .ar

/-- The scope of a fence; 6 and 7 are reserved (R162). -/
def FScope.ofCode (c : BitVec 3) : Option FScope :=
  match c.toNat with
  | 0 => some .context | 1 => some .core | 2 => some .cluster | 3 => some .tier | 4 => some .package
  | 5 => some .system
  | _ => none

/-- The system value of a selector; every other selector is reserved (R80). -/
def SysSel.ofCode (i : BitVec 8) : Option SysSel :=
  match (i.extractLsb' 4 4).toNat, (i.extractLsb' 0 4).toNat with
  | 0, 0 => some .fret | 0, 1 => some .cycle | 0, 2 => some .ident | 0, 3 => some .ast | 0, 4 => some .vflags
  | 0, 5 => some .vrm | 0, 6 => some .brfree | 0, 7 => some .brcount | 0, 8 => some .energy
  | 0, 9 => some .capolevel | 0, 10 => some .evqcount
  | 1, _ => some (.done (i.extractLsb' 0 4))
  | 2, _ => some (.nextid (i.extractLsb' 0 4))
  | 3, 0 => some (.sdone 0) | 3, 1 => some (.sdone 1) | 3, 2 => some (.sdone 2) | 3, 3 => some (.sdone 3)
  | 3, 4 => some (.ndone 0) | 3, 5 => some (.ndone 1) | 3, 6 => some (.ndone 2) | 3, 7 => some (.ndone 3)
  | _, _ => none

/-- The operand kind; 11 to 15 are reserved (R127). -/
def MKind.ofCode (k : BitVec 4) : Option MKind :=
  if k.getLsbD 3 then
    match (k.extractLsb' 0 3).toNat with
    | 0 => some .f16 | 1 => some .bf16 | 2 => some .i8
    | _ => none
  else some (.fm (k.extractLsb' 0 3))

/-- The type code t = {d[5], x} (R16). -/
def Fields.t (f : Fields) : BitVec 3 := BitVec.ofBool (top f.d) ++ f.x
/-- The element type with its reading (R16). -/
def Fields.vty (f : Fields) : Option VTy := VTy.ofCode f.t (top f.a)
/-- The element type where a[5] selects no reading. -/
def Fields.ety (f : Fields) : Option ETy := ETy.ofCode f.t
/-- The operand kind (R127). -/
def Fields.kind (f : Fields) : Option MKind :=
  MKind.ofCode (BitVec.ofBool (top f.d) ++ f.x ++ BitVec.ofBool (top f.a))
/-- The ordering code of amo, acas and famo: {d[5:4], a[5]} (R159). -/
def Fields.ord (f : Fields) : Ord := Ord.ofCode (hi2 f.d ++ BitVec.ofBool (top f.a))
/-- The operation of amo and famo: {b[5], x} (R159). -/
def Fields.aop (f : Fields) : BitVec 3 := BitVec.ofBool (top f.b) ++ f.x

/-- Class C and nop (R30). -/
def decodeControl (f : Fields) : Except DecodeError Instr :=
  let h := f.head
  match f.op.toNat with
  | 0x00 => chk (f.i20 == 0#20) (.nop h)
  | 0x01 => if f.x.getLsbD 0 then .ok (.brT h (f.i20.extractLsb' 1 19)) else .ok (.brN h (f.i20.extractLsb' 1 19))
  | 0x02 => .ok (.call h f.i20)
  | 0x03 => chk (f.d == 0#6 && f.b == 0#6 && f.x == 0#2) (if f.a == 63#6 then .ret h else .jr h f.a)
  | 0x04 => chk (f.d == 0#6) (.loop h f.a f.i8)
  | 0x05 => .ok (.loopi h f.d f.i14)
  | 0x06 => chk (f.i20 == 0#20) (.lbrk h)
  | 0x07 =>
    match f.d.toNat with
    | 0 => chk (f.i14 == 0#14) (.yieldNow h)
    | 1 => chk (f.i14.extractLsb' 6 8 == 0#8) (.yieldAt h (f.i14.extractLsb' 0 6))
    | 2 => chk (f.i14.extractLsb' 12 2 == 0#2) (.yieldQ h (f.i14.extractLsb' 0 12))
    | 3 => chk (f.i14.extractLsb' 8 6 == 0#6) (.yieldSc h (f.i14.extractLsb' 0 8))
    | _ => .error .reservedField
  | 0x08 => chk (f.i20 == 0#20) (.exit h)
  | 0x09 => chk (f.i20 == 0#20) (.rmark h)
  | 0x0A => .ok (.trap h f.i20)
  | 0x0B => chk (descValid (f.i20.extractLsb' 0 17 ++ 0#3)) (.fmt h (f.i20.extractLsb' 17 3) (f.i20.extractLsb' 0 17))
  | 0x0C => chk (hi3 f.d == 0#3 && f.b == 0#6 && f.x == 0#2) (.fmtr h (lo3 f.d) f.a)
  | 0x0D =>
    match f.d.toNat with
    | 0 => chk (f.i14.extractLsb' 4 10 == 0#10) (.capoAcq h (f.i14.extractLsb' 0 4))
    | 1 => chk (f.i14 == 0#14) (.capoRel h)
    | _ => .error .reservedField
  | _ => .error .reservedOpcode

/-- Class S (R31). -/
def decodeScalar (f : Fields) : Except DecodeError Instr :=
  let h := f.head
  match f.op.toNat with
  | 0x10 => chk (f.x == 0#2) (.add h f.d f.a f.b)
  | 0x11 => chk (f.x == 0#2) (.sub h f.d f.a f.b)
  | 0x12 => chk (f.x == 0#2) (.and h f.d f.a f.b)
  | 0x13 => chk (f.x == 0#2) (.or h f.d f.a f.b)
  | 0x14 => chk (f.x == 0#2) (.xor h f.d f.a f.b)
  | 0x15 => chk (f.x == 0#2) (.andn h f.d f.a f.b)
  | 0x16 =>
    match f.x.toNat with
    | 0 => .ok (.shl h f.d f.a f.b)
    | 1 => .ok (.shr h f.d f.a f.b)
    | 2 => .ok (.sra h f.d f.a f.b)
    | _ => .error .reservedField
  | 0x17 => .ok (.addi h f.d f.a f.i8)
  | 0x18 =>
    match (f.i8.extractLsb' 6 2).toNat with
    | 0 => .ok (.shli h f.d f.a (f.i8.extractLsb' 0 6))
    | 1 => .ok (.shri h f.d f.a (f.i8.extractLsb' 0 6))
    | 2 => .ok (.srai h f.d f.a (f.i8.extractLsb' 0 6))
    | _ => .error .reservedField
  | 0x19 => .ok (.li h f.d f.i14)
  | 0x1A => .ok (.lis h f.d f.i14)
  | 0x1B =>
    match f.x.toNat with
    | 0 => .ok (.mul h f.d f.a f.b)
    | 1 => .ok (.mulh h f.d f.a f.b)
    | 2 => .ok (.mulhn h f.d f.a f.b)
    | _ => .error .reservedField
  | 0x1C =>
    match f.x.toNat with
    | 0 => .ok (.div h f.d f.a f.b)
    | 1 => .ok (.divn h f.d f.a f.b)
    | 2 => .ok (.rem h f.d f.a f.b)
    | _ => .ok (.remn h f.d f.a f.b)
  | 0x1D =>
    match f.x.toNat with
    | 0 => .ok (.min h f.d f.a f.b)
    | 1 => .ok (.max h f.d f.a f.b)
    | 2 => .ok (.minn h f.d f.a f.b)
    | _ => .ok (.maxn h f.d f.a f.b)
  | 0x1E =>
    match f.x.toNat with
    | 0 => chk (f.b == 0#6) (.clz h f.d f.a)
    | 1 => chk (f.b == 0#6) (.ctz h f.d f.a)
    | 2 => chk (f.b == 0#6) (.popc h f.d f.a)
    | _ => .error .reservedField
  | 0x1F => rf (if f.x == 0#2 && predPairOk (lo3 f.d) then
      (Cond.ofCode (hi3 f.d)).map fun c => .cmp h c (lo3 f.d) f.a f.b else none)
  | 0x20 => rf (if predPairOk (lo3 f.d) then
      (Cond.ofCode (hi3 f.d)).map fun c => .cmpi h c (lo3 f.d) f.a f.i8 else none)
  | 0x21 =>
    let ok := hi3 f.d == 0#3 && predPairOk (lo3 f.d) && hi2 f.a == 0#2 && hi2 f.b == 0#2
    match f.x.toNat with
    | 0 => chk ok (.pand h (lo3 f.d) (lo4 f.a) (lo4 f.b))
    | 1 => chk ok (.por h (lo3 f.d) (lo4 f.a) (lo4 f.b))
    | 2 => chk ok (.pxor h (lo3 f.d) (lo4 f.a) (lo4 f.b))
    | _ => chk ok (.pandn h (lo3 f.d) (lo4 f.a) (lo4 f.b))
  | 0x22 => chk (hi3 f.d == 0#3 && predPairOk (lo3 f.d) && f.x == 0#2) (.movp h (lo3 f.d) f.a f.b)
  | 0x23 =>
    let l := f.i8.extractLsb' 0 3
    chk (f.a == 0#6 && f.i8.extractLsb' 4 4 == 0#4 && l.ult 6#3)
      (if f.i8.getLsbD 3 then .movlCount h f.d l else .movl h f.d l)
  | 0x24 => rf (if f.a == 0#6 then (SysSel.ofCode f.i8).map fun s => .rdsys h f.d s else none)
  | 0x25 =>
    match f.i8.toNat with
    | 4 => chk (f.d == 0#6) (.wrsysVflags h f.a)
    | 5 => chk (f.d == 0#6) (.wrsysVrm h f.a)
    | _ => .error .reservedField
  | 0x26 => .ok (.andi h f.d f.a f.i8)
  | _ => .error .reservedOpcode

/-- Classes E and T (R32). -/
def decodeEngine (f : Fields) : Except DecodeError Instr :=
  let h := f.head
  match f.op.toNat with
  | 0x30 => chk (hi2 f.b == 0#2 && f.x == 0#2 && hi3 f.a != 0#3 && lo3 f.a != 0#3)
      (.cpy h f.d (hi3 f.a) (lo3 f.a) (lo4 f.b))
  | 0x31 =>
    let l := lo4 f.d
    let o := f.ord
    let w := f.a.getLsbD 4
    let a := lo4 f.a
    let b := lo5 f.b
    match f.aop.toNat with
    | 0 => chk (famoAccepts .add o l b) (.famoAdd h l o w a b)
    | 1 => chk (famoAccepts .min o l b) (.famoMin h l o w a b)
    | 2 => chk (famoAccepts .max o l b) (.famoMax h l o w a b)
    | 3 => chk (famoAccepts .and o l b) (.famoAnd h l o w a b)
    | 4 => chk (famoAccepts .or o l b) (.famoOr h l o w a b)
    | 5 => chk (famoAccepts .xor o l b) (.famoXor h l o w a b)
    | 6 => chk (famoAccepts .swap o l b) (.famoSwap h l o w a b)
    | _ => chk (famoAccepts .cas o l b) (.famoCas h l o w a b)
  | 0x32 =>
    let ok := lo5 f.b == 0#5
    match f.aop.toNat with
    | 0 => chk ok (.poolAcqw h f.d f.a)
    | 1 => chk ok (.poolPub h f.d f.a)
    | 2 => chk ok (.poolPin h f.d f.a)
    | 3 => chk (ok && f.d == 0#6) (.poolUnpin h f.a)
    | 4 => chk ok (.poolGen h f.d f.a)
    | 5 => chk ok (.poolPubAfter h f.d f.a)
    | _ => .error .reservedField
  | 0x33 =>
    match f.x.toNat with
    | 0 => chk (f.b == 0#6 && !top f.a) (.qopPush h f.d (lo5 f.a))
    | 1 => chk (f.b == 0#6) (.qopPop h f.d f.a)
    | 2 => chk (f.b == 0#6) (.qopCount h f.d f.a)
    | _ => .error .reservedField
  | 0x34 =>
    match f.x.toNat with
    | 0 => chk (f.d == 0#6 && f.b == 0#6) (.scopeOpen h f.a)
    | 1 => chk (f.d == 0#6 && f.b == 0#6) (.scopeClose h f.a)
    | _ => .error .reservedField
  | 0x35 =>
    match f.x.toNat with
    | 0 => chk (f.d == 0#6 && f.b == 0#6 && !top f.a) (.brgPush h (lo5 f.a))
    | 1 => chk (f.a == 0#6 && f.b == 0#6 && !top f.d) (.brgPop h (lo5 f.d))
    | _ => .error .reservedField
  | 0x36 =>
    match f.x.toNat with
    | 0 => chk (hi3 f.d == 0#3 && f.b == 0#6) (.xsndScalar h (lo3 f.d) f.a)
    | 1 => chk (hi3 f.d == 0#3 && f.b == 0#6 && !top f.a) (.xsndVector h (lo3 f.d) (lo5 f.a))
    | _ => .error .reservedField
  | 0x37 =>
    match f.x.toNat with
    | 0 => chk (hi3 f.a == 0#3 && f.b == 0#6) (.xrcvScalar h f.d (lo3 f.a))
    | 1 => chk (hi3 f.a == 0#3 && f.b == 0#6 && !top f.d) (.xrcvVector h (lo5 f.d) (lo3 f.a))
    | _ => .error .reservedField
  | 0x38 =>
    let p := f.a.extractLsb' 1 5
    let ok := f.a.extractLsb' 0 1 == 0#1 && p != 0#5 && !top f.b
    match f.x.toNat with
    | 0 => chk ok (.txtOut h f.d p (lo5 f.b))
    | 1 => chk ok (.txtTok h f.d p (lo5 f.b))
    | _ => .error .reservedField
  | 0x39 =>
    let p := f.a.extractLsb' 1 5
    let c := f.b.extractLsb' 0 2
    let ok := f.d == 0#6 && hi3 f.b == 0#3
    let even := f.a.extractLsb' 0 1 == 0#1 && p != 0#5
    match f.x.toNat with
    | 0 => chk (ok && even && !f.b.getLsbD 2) (.sioRd h p c)
    | 1 => chk (ok && even) (.sioWr h p (f.b.getLsbD 2) c)
    | 2 => chk (ok && f.a == 0#6 && !f.b.getLsbD 2) (.sioFlush h c)
    | _ => .error .reservedField
  | 0x3A =>
    let q := f.a.extractLsb' 2 4
    let c := f.b.extractLsb' 0 2
    let ok := f.d == 0#6 && hi3 f.b == 0#3 && f.a.extractLsb' 0 2 == 0#2 && q != 0#4
    match f.x.toNat with
    | 0 => chk ok (.netSend h q (f.b.getLsbD 2) c)
    | 1 => chk ok (.netWrite h q (f.b.getLsbD 2) c)
    | 2 => chk (ok && !f.b.getLsbD 2) (.netRead h q c)
    | _ => .error .reservedField
  | 0x3B =>
    match f.x.toNat with
    | 0 => chk (f.d == 0#6) (.evtPost h f.a f.b)
    | 1 => chk (f.d == 0#6 && f.b == 0#6) (.evtIrq h f.a)
    | _ => .error .reservedField
  | _ => .error .reservedOpcode

/-- Class V, opcodes 0x40 to 0x4F (R33, R98). -/
def decodeVectorA (f : Fields) : Except DecodeError Instr :=
  let h := f.head
  let d := lo5 f.d
  let a := lo5 f.a
  let b := VSrc.ofCode f.b
  match f.op.toNat with
  | 0x40 => rf (f.vty.map fun t => .vadd h t d a b)
  | 0x41 => rf (f.vty.map fun t => .vsub h t d a b)
  | 0x42 => rf (f.vty.map fun t => .vmul h t d a b)
  | 0x43 => rf (f.vty.map fun t => .vfma h t d a b)
  | 0x44 => rf (f.vty.map fun t => .vfnma h t d a b)
  | 0x45 => rf (f.vty.map fun t => .vmin h t d a b)
  | 0x46 => rf (f.vty.map fun t => .vmax h t d a b)
  | 0x47 => rf (if f.b.extractLsb' 1 5 == 0#5 then
      f.vty.map fun t => if f.b.getLsbD 0 then .vneg h t d a else .vabs h t d a else none)
  | 0x48 => rf (f.vty.map fun t => .vand h t d a b)
  | 0x49 => rf (f.vty.map fun t => .vor h t d a b)
  | 0x4A => rf (f.vty.map fun t => .vxor h t d a b)
  | 0x4B => rf (f.vty.bind fun t => if t.isInt then some (.vshl h t d a b) else none)
  | 0x4C => rf (f.vty.bind fun t => if t.isInt then some (.vshr h t d a b) else none)
  | 0x4D => rf (if maskPairOk (lo3 f.d) then
      f.vty.map fun t => .vcmp h t (VCond.ofCode (f.d.extractLsb' 3 2)) (lo3 f.d) a b else none)
  | 0x4E => rf (f.vty.map fun t => .vsel h t d a b)
  | 0x4F =>
    let td := f.t
    let ts := lo3 f.b
    let hi := hi3 f.b
    if td == 6#3 then
      rf (if top f.a || ts.getLsbD 2 then none else
        (FTy.ofCode (ts.extractLsb' 0 2)).map fun s => .vcvt h (.toNarrow hi s) d a)
    else if ts == 6#3 then
      rf (if top f.a || td.getLsbD 2 then none else
        (FTy.ofCode f.x).map fun t => .vcvt h (.fromNarrow t hi) d a)
    else
      rf (if hi.extractLsb' 1 2 == 0#2 then
        f.vty.bind fun t => (VTy.ofCode ts (hi.getLsbD 0)).map fun s => .vcvt h (.elem t s) d a else none)
  | _ => .error .reservedOpcode

/-- Class V, opcodes 0x50 to 0x5D (R33, R98). -/
def decodeVectorB (f : Fields) : Except DecodeError Instr :=
  let h := f.head
  let d := lo5 f.d
  let a := lo5 f.a
  let b := lo5 f.b
  match f.op.toNat with
  | 0x50 =>
    match f.b.toNat with
    | 0 => rf (f.vty.map fun t => .vredSum h t d a)
    | 1 => rf (f.vty.map fun t => .vredMax h t d a)
    | 2 => rf (f.vty.map fun t => .vredMin h t d a)
    | _ => .error .reservedField
  | 0x51 => rf (if top f.b then f.vty.map fun t => .vbcast h t d a b else none)
  | 0x52 => rf (f.vty.map fun t => if top f.b then .vins h t d a b else .vext h t d a b)
  | 0x53 => rf (if top f.b then none else f.vty.map fun t => .vperm h t d a b)
  | 0x54 => rf (if top f.b then f.vty.map fun t => .vslide h t d a b else none)
  | 0x55 => rf (if top f.b && f.a == 0#6 then
      f.ety.bind fun t => if t.isInt then some (.viota h t d b) else none else none)
  | 0x56 => rf (if top f.d || top f.a || f.b != 0#6 then none else (FTy.ofCode f.x).map fun t => .vrcp h t d a)
  | 0x57 => rf (if top f.d || top f.a || f.b != 0#6 then none else (FTy.ofCode f.x).map fun t => .vrsq h t d a)
  | 0x58 => rf (if top f.d || top f.a || f.b != 0#6 then none else (FTy.ofCode f.x).map fun t => .vexp2 h t d a)
  | 0x59 => rf (if top f.d || top f.a || f.b != 0#6 then none else (FTy.ofCode f.x).map fun t => .vlog2 h t d a)
  | 0x5A => rf (if f.a == 0#6 then f.ety.map fun t => .vmov h t d (VSrc.ofCode f.b) else none)
  | 0x5B =>
    let kOk := f.d.extractLsb' 3 2 == 0#2 && maskPairOk (lo3 f.d)
    let aOk := hi2 f.a == 0#2
    match (BitVec.ofBool (top f.d) ++ f.x : BitVec 3).toNat with
    | 0 => chk (kOk && aOk && hi2 f.b == 0#2) (.vmskAnd h (lo3 f.d) (lo4 f.a) (lo4 f.b))
    | 1 => chk (kOk && aOk && hi2 f.b == 0#2) (.vmskOr h (lo3 f.d) (lo4 f.a) (lo4 f.b))
    | 2 => chk (kOk && aOk && hi2 f.b == 0#2) (.vmskXor h (lo3 f.d) (lo4 f.a) (lo4 f.b))
    | 3 => chk (kOk && aOk && f.b == 0#6) (.vmskNot h (lo3 f.d) (lo4 f.a))
    | 4 => chk (aOk && f.b == 0#6) (.vmskPopc h d (lo4 f.a))
    | 5 => chk (aOk && f.b == 0#6) (.vmskFfs h d (lo4 f.a))
    | _ => .error .reservedField
  | 0x5C => rf (if top f.b then none else
      f.ety.map fun t => if top f.a then .vunpk h t d a b else .vpack h t d a b)
  | 0x5D => rf (if top f.d || top f.a then none else
      (FTy.ofCode f.x).map fun t => .vscale h t d a (VSrc.ofCode f.b))
  | _ => .error .reservedOpcode

/-- Class M (R35). -/
def decodeMemory (f : Fields) : Except DecodeError Instr :=
  let h := f.head
  let d := lo5 f.d
  let base := Base.ofCode f.a
  match f.op.toNat with
  | 0x60 => rf (base.map fun a =>
      match f.x.toNat with
      | 0 => .ldsB h f.d a f.b
      | 1 => .ldsH h f.d a f.b
      | 2 => .ldsW h f.d a f.b
      | _ => .ldsD h f.d a f.b)
  | 0x61 => rf (base.bind fun a =>
      match f.x.toNat with
      | 0 => some (.ldzB h f.d a f.b)
      | 1 => some (.ldzH h f.d a f.b)
      | 2 => some (.ldzW h f.d a f.b)
      | _ => none)
  | 0x62 => rf (base.map fun a =>
      match f.x.toNat with
      | 0 => .stB h f.d a f.b
      | 1 => .stH h f.d a f.b
      | 2 => .stW h f.d a f.b
      | _ => .stD h f.d a f.b)
  | 0x63 => if top f.d then chk (!top f.a) (.vldT h d (lo5 f.a) f.i8) else rf (base.map fun a => .vld h d a f.i8)
  | 0x64 => rf (if top f.d then none else base.map fun a => .vst h d a f.i8)
  | 0x65 => rf (if top f.d then none else (EW.ofCode f.x).map fun w => .vldg h d f.a f.b w)
  | 0x66 => rf (if top f.d then none else (EW.ofCode f.x).map fun w => .vstg h d f.a f.b w)
  | 0x67 => rf (if top f.d || top f.b then none else (EW.ofCode f.x).map fun w => .vgath h d f.a (lo5 f.b) w)
  | 0x68 => rf (if top f.d || top f.b then none else (EW.ofCode f.x).map fun w => .vscat h d f.a (lo5 f.b) w)
  | 0x69 => chk (f.i8 == 0#8 && hi3 f.d != 7#3)
      (if hi3 f.d == 0#3 then .agsetBase h (lo3 f.d) f.a else .agsetStride h (hi3 f.d) (lo3 f.d) f.a)
  | 0x6A =>
    let l := lo4 f.d
    let o := f.ord
    let w := f.a.getLsbD 4
    let a := lo4 f.a
    let b := lo5 f.b
    match f.aop.toNat with
    | 0 => chk (amoAccepts .add o l) (.amoAdd h l o w a b)
    | 1 => chk (amoAccepts .min o l) (.amoMin h l o w a b)
    | 2 => chk (amoAccepts .max o l) (.amoMax h l o w a b)
    | 3 => chk (amoAccepts .and o l) (.amoAnd h l o w a b)
    | 4 => chk (amoAccepts .or o l) (.amoOr h l o w a b)
    | 5 => chk (amoAccepts .xor o l) (.amoXor h l o w a b)
    | 6 => chk (amoAccepts .swap o l) (.amoSwap h l o w a b)
    | _ => .error .reservedField
  | 0x6B => chk (!top f.b && f.x == 0#2 && acasAccepts f.ord) (.acas h (lo4 f.d) f.ord (f.a.getLsbD 4) (lo4 f.a) (lo5 f.b))
  | 0x6C =>
    let o := Ord.ofCode (f.i8.extractLsb' 2 3)
    let w := f.i8.getLsbD 5
    let ok := f.i8.extractLsb' 6 2 == 0#2
    match f.x.toNat with
    | 0 => chk (ok && aldAccepts o) (.ald h f.d f.a w o)
    | 1 => chk (ok && astAccepts o) (.ast h f.d f.a w o)
    | _ => .error .reservedField
  | 0x6D => chk (!top f.a) (.ldt h f.d (lo5 f.a) f.i8)
  | 0x6E => rf (if f.i20.extractLsb' 8 12 == 0#12 && f.i20.extractLsb' 3 5 != 0#5 then
      (FScope.ofCode (f.i20.extractLsb' 0 3)).map fun s => .fence h (f.i20.extractLsb' 3 5) s else none)
  | _ => .error .reservedOpcode

/-- Class X (R36). -/
def decodeMatrix (f : Fields) : Except DecodeError Instr :=
  let h := f.head
  let d := lo5 f.d
  let a := lo5 f.a
  let b := lo5 f.b
  match f.op.toNat with
  | 0x70 => rf (if d == 0#5 && b == 0#5 then
      f.kind.map fun k => if top f.b then .mldSp h k a else .mld h k a else none)
  | 0x71 => chk (f.d == 0#6 && f.a == 0#6 && f.b == 0#6 && f.x == 0#2) (.mswp h)
  | 0x72 => rf (if top f.b then none else f.kind.map fun k => .mma h k d a b)
  | 0x73 => chk (!top f.d && !top f.a && !top f.b && f.x == 0#2) (.aclr h d a b)
  | 0x74 => rf (if top f.b then none else (FTy.ofCode f.x).bind fun x =>
      if !top f.a || x == .f32 then some (.ard h (top f.d) d (top f.a) a b x) else none)
  | 0x75 => rf (if top f.b || top f.d then none else (FTy.ofCode f.x).bind fun x =>
      if !top f.a || x == .f32 then some (.awr h d (top f.a) a b x) else none)
  | 0x76 => chk (!top f.a && !top f.b && f.x == 0#2) (.aexp h f.d a b)
  | 0x77 => chk (!top f.d && !top f.a && !top f.b && f.x == 0#2) (.anrm h d a b)
  | _ => .error .reservedOpcode

/-- The instruction that the fields hold (R27). -/
def decodeFields (f : Fields) : Except DecodeError Instr :=
  match (f.op.extractLsb' 4 3).toNat with
  | 0 => decodeControl f
  | 1 | 2 => decodeScalar f
  | 3 => decodeEngine f
  | 4 => decodeVectorA f
  | 5 => decodeVectorB f
  | 6 => decodeMemory f
  | _ => decodeMatrix f

/-- The instruction of a slot word, or why there is none (R27). -/
def decodeWord (w : SlotWord) : Except DecodeError Instr := decodeFields (Fields.ofWord w)

/-- The port classes (R21). -/
inductive Cls where
  | c | s | e | t | v | m | x
  deriving DecidableEq, Repr

/-- A reserved opcode (R37). -/
def reservedOp (op : BitVec 7) : Bool :=
  let n := op.toNat
  n == 0x0E || n == 0x0F || (0x27 ≤ n && n ≤ 0x2F) || (0x3C ≤ n && n ≤ 0x3F) || n == 0x5E || n == 0x5F ||
    n == 0x6F || 0x78 ≤ n

/-- The class of an assigned opcode; nop and a reserved opcode have none (R21, R27). -/
def clsOf (op : BitVec 7) : Option Cls :=
  if reservedOp op then none else
    let n := op.toNat
    if n == 0 then none
    else if n ≤ 0x0D then some .c
    else if n ≤ 0x26 then some .s
    else if 0x35 ≤ n && n ≤ 0x37 then some .t
    else if n ≤ 0x3B then some .e
    else if n ≤ 0x5D then some .v
    else if n ≤ 0x6E then some .m
    else some .x

/-- The guard names a mask register (R14). -/
def maskGuarded (op : BitVec 7) : Bool :=
  let n := op.toNat
  (0x40 ≤ n && n ≤ 0x5D) || (0x63 ≤ n && n ≤ 0x68)

/-- The destinations that R22 counts. -/
inductive Dest where
  | sreg (r : BitVec 6)
  | ppair (k : BitVec 3)
  | qpair (k : BitVec 3)
  | vreg (r : BitVec 5)
  | fmreg (f : BitVec 3)
  | sysval (i : BitVec 8)
  | tileRows (t : BitVec 5)
  deriving DecidableEq, Repr

/-- A scalar destination other than s0 (R22). -/
def sdest (r : BitVec 6) : Option Dest := if r == 0#6 then none else some (.sreg r)

/-- The destination that a slot names, from its encoding alone (R22, R27): also with a reserved field value, and with
a reserved form selector where every form of the opcode names it through the same field. DEDUCED: the accumulator
tile row range is named by its tile (the rows stand in a register); see the assumption log, entry 17. A wrsys names the
register of its selector, a reserved selector too, so that two with one reserved selector name one (entry 37). -/
def destOf (f : Fields) : Option Dest :=
  let n := f.op.toNat
  if reservedOp f.op then none
  else if n == 0x4D then some (.qpair (lo3 f.d))
  else if n == 0x5B then
    if top f.d then (if f.x.getLsbD 1 then none else sdest (0#1 ++ lo5 f.d)) else some (.qpair (lo3 f.d))
  else if n == 0x50 || (n == 0x52 && !top f.b) then sdest (0#1 ++ lo5 f.d)
  else if 0x40 ≤ n && n ≤ 0x5D then some (.vreg (lo5 f.d))
  else if (0x10 ≤ n && n ≤ 0x1E) || n == 0x23 || n == 0x24 || n == 0x26 || n == 0x60 || n == 0x61 || n == 0x6D ||
    n == 0x76 then sdest f.d
  else if 0x1F ≤ n && n ≤ 0x22 then some (.ppair (lo3 f.d))
  else if n == 0x25 then some (.sysval f.i8)
  else if n == 0x02 then sdest 63#6
  else if n == 0x0B then some (.fmreg (hi3 f.d))
  else if n == 0x0C then some (.fmreg (lo3 f.d))
  else if n == 0x35 then (if f.x == 1#2 then some (.vreg (lo5 f.d)) else none)
  else if n == 0x37 then
    if f.x == 0#2 then sdest f.d else if f.x == 1#2 then some (.vreg (lo5 f.d)) else none
  else if n == 0x63 || n == 0x65 || n == 0x67 || n == 0x74 then some (.vreg (lo5 f.d))
  else if n == 0x6A then sdest (0#2 ++ lo4 f.d)
  else if n == 0x6B then (if f.ord == .rel then none else sdest (0#2 ++ lo4 f.d))
  else if n == 0x6C then (if f.x == 0#2 then sdest f.d else none)
  else if n == 0x72 || n == 0x73 || n == 0x75 || n == 0x77 then some (.tileRows (lo5 f.d))
  else none

/-- The instruction that the decoder reads from a table word; `nbits` is 32 for every row that has a word. -/
def decodeTableWord (nbits w : Nat) : Option Instr :=
  if nbits == 32 then
    match decodeWord (BitVec.ofNat 32 w) with
    | .ok i => some i
    | .error _ => none
  else none

end Sys2Proof
end

