-- ==== Sys2Proof/Machine/Number.lean ====
section
/-!
DEFINITION. The number formats of spec/06_number_formats.md and exact arithmetic on them: every operation forms its
exact value first and rounds once (R90), with the flags of R91.
-/

namespace Sys2Proof.Machine

/-- The value of a code: NaN (quiet or signalling), an infinity, or ± m × 2^e with a signed zero. -/
inductive Num where
  | nan (signalling : Bool)
  | inf (neg : Bool)
  | fin (neg : Bool) (m : Nat) (e : Int)
  deriving DecidableEq, Repr

/-- The sticky flags (R38): NV[4], DZ[3], OF[2], UF[1], NX[0]. -/
abbrev Flags := BitVec 5

def flagNV : Flags := 0b10000
def flagDZ : Flags := 0b01000
def flagOF : Flags := 0b00100
def flagUF : Flags := 0b00010
def flagNX : Flags := 0b00001

/-- The specials of a format (R87). -/
inductive Specials where
  | none | fn | ieee
  deriving DecidableEq, Repr

/-- A binary format (R83, R85): exponent bits, mantissa bits, sign, bias, specials; `signals` when its NaNs may be
signalling, as the IEEE formats' may. -/
structure Fmt where
  e : Nat
  m : Nat
  s : Bool
  bias : Int
  sp : Specials
  signals : Bool
  deriving DecidableEq, Repr

/-- FP32, FP16 and BF16 (R83). -/
def ftyFmt : FTy → Fmt
  | .f32 => ⟨8, 23, true, 127, .ieee, true⟩
  | .f16 => ⟨5, 10, true, 15, .ieee, true⟩
  | .bf16 => ⟨8, 7, true, 127, .ieee, true⟩

/-- The format of a descriptor (R85); the bias is in two's complement. -/
def descFmt (d : BitVec 20) : Fmt :=
  { e := (d.extractLsb' 17 3).toNat, m := (d.extractLsb' 14 3).toNat, s := d.getLsbD 13,
    bias := (d.extractLsb' 6 7).toInt,
    sp := match (d.extractLsb' 4 2).toNat with
      | 1 => .fn
      | 2 => .ieee
      | _ => .none,
    signals := false }

/-- Block scaling is enabled in the descriptor (R85). -/
def descBs (d : BitVec 20) : Bool := d.getLsbD 3

/-- The bits of a code of a descriptor's format (R86). -/
def Fmt.bits (f : Fmt) : Nat := (if f.s then 1 else 0) + f.e + f.m

/-- The exponent of the last mantissa bit of the lowest values (R86). -/
def Fmt.qmin (f : Fmt) : Int := if f.e = 0 then -f.bias else 1 - f.bias - f.m

/-- The magnitude code of the largest finite value, which excludes the codes that the specials claim (R87, R93). -/
def Fmt.maxMag (f : Fmt) : Nat :=
  match f.sp with
  | .none => 2 ^ (f.e + f.m) - 1
  | .fn => 2 ^ (f.e + f.m) - 2
  | .ieee => (2 ^ f.e - 2) * 2 ^ f.m + (2 ^ f.m - 1)

/-- The value of a magnitude code before specials (R86): mantissa and exponent. -/
def Fmt.magValue (f : Fmt) (mag : Nat) : Nat × Int :=
  let be := mag / 2 ^ f.m
  let fr := mag % 2 ^ f.m
  if f.e = 0 then (fr, -f.bias)
  else if be = 0 then (fr, 1 - f.bias - f.m)
  else (2 ^ f.m + fr, be - f.bias - f.m)

/-- The value of a code (R83, R86, R87); bits above the format's are ignored (R88). -/
def Fmt.unpack (f : Fmt) (code : Nat) : Num :=
  let neg := f.s && code.testBit (f.e + f.m)
  let mag := code % 2 ^ (f.e + f.m)
  let be := mag / 2 ^ f.m
  let fr := mag % 2 ^ f.m
  if f.sp = .fn && mag = 2 ^ (f.e + f.m) - 1 then .nan false
  else if f.sp = .ieee && be = 2 ^ f.e - 1 then
    if f.m ≠ 0 && fr = 0 then .inf neg
    else .nan (f.signals && !fr.testBit (f.m - 1))
  else
    let v := f.magValue mag
    .fin neg v.1 v.2

/-- The canonical NaN's code, where the format has one (R83, R87). -/
def Fmt.nanCode (f : Fmt) : Option Nat :=
  match f.sp with
  | .none => none
  | .fn => some (2 ^ (f.e + f.m) - 1)
  | .ieee => some ((2 ^ f.e - 1) * 2 ^ f.m + 2 ^ f.m / 2)

/-- The code of the positive infinity, where the format has one (R87). -/
def Fmt.infCode (f : Fmt) : Option Nat :=
  if f.sp = .ieee && f.m ≠ 0 then some ((2 ^ f.e - 1) * 2 ^ f.m) else none

/-- The number of bits of a natural number. -/
def bitLength (n : Nat) : Nat := if n = 0 then 0 else n.log2 + 1

/-- The rounding modes of vrm (R90). -/
inductive RMode where
  | nearest | zero | down | up
  deriving DecidableEq, Repr

/-- The mode that vrm holds (R38). -/
def RMode.ofBits (b : BitVec 2) : RMode :=
  match b.toNat with
  | 0 => .nearest
  | 1 => .zero
  | 2 => .down
  | _ => .up

/-- The mode rounds away from zero in the direction of the sign. -/
def RMode.awayFor (r : RMode) (neg : Bool) : Bool :=
  match r with
  | .nearest | .zero => false
  | .down => neg
  | .up => !neg

/-- `m` shifted right by `sh` places and rounded (R90), with whether the result differs; left when `sh` is negative.
A shift past every bit is cut to one past them, which rounds alike. A tie goes to the even neighbour by the parity of the
kept bits, in a format with no mantissa bits by that of the hidden bit (log entry 37). -/
def roundShift (r : RMode) (neg : Bool) (m : Nat) (sh : Int) : Nat × Bool :=
  if sh ≤ 0 then (m * 2 ^ (-sh).toNat, false)
  else
    let k := min sh.toNat (bitLength m + 2)
    let q := m / 2 ^ k
    let rem := m % 2 ^ k
    if rem = 0 then (q, false)
    else
      let half := 2 ^ (k - 1)
      let upw := match r with
        | .nearest => decide (rem > half) || (decide (rem = half) && decide (q % 2 = 1))
        | .zero => false
        | .down => neg
        | .up => !neg
      (if upw then q + 1 else q, true)

/-- The code of a finite magnitude mant × 2^q that the format represents. -/
def Fmt.magCode (f : Fmt) (mant : Nat) (q : Int) : Nat :=
  let n := mant * 2 ^ (q - f.qmin).toNat
  if f.e = 0 || n < 2 ^ f.m then n
  else
    let be := bitLength n - f.m
    be * 2 ^ f.m + (n / 2 ^ (be - 1) - 2 ^ f.m)

/-- Whether mant × 2^q exceeds the format's largest finite magnitude. -/
def Fmt.exceeds (f : Fmt) (mant : Nat) (q : Int) : Bool :=
  let mx := f.magValue f.maxMag
  if mant = 0 then false
  else if q + bitLength mant > mx.2 + bitLength mx.1 then true
  else if q + bitLength mant < mx.2 + bitLength mx.1 then false
  else if q ≥ mx.2 then decide (mant * 2 ^ (q - mx.2).toNat > mx.1)
  else decide (mant > mx.1 * 2 ^ (mx.2 - q).toNat)

/-- A value rounded once into a format, with its flags (R90 to R93; R107 for the IEEE formats). DESIGN CHOICE: where the
largest finite is 0, a nonzero value that rounds to 0 sets UF and NX and not OF (log entry 37). -/
def Fmt.pack (f : Fmt) (r : RMode) (v : Num) : Nat × Flags :=
  let sign := 2 ^ (f.e + f.m)
  let sb := fun (neg : Bool) => if neg && f.s then sign else 0
  match v with
  | .nan sig =>
    match f.nanCode with
    | none => (0, flagNV)
    | some c => (c, if sig then flagNV else 0)
  | .inf neg =>
    if neg && !f.s then (0, flagNV)
    else match f.infCode with
      | some c => (sb neg + c, 0)
      | none => (sb neg + f.maxMag, flagNV)
  | .fin neg m e =>
    if m = 0 then (sb neg, 0)
    else
      let lead := e + bitLength m - 1
      let q := if f.e = 0 then f.qmin else max (lead - f.m) f.qmin
      let rr := roundShift r neg m (q - e)
      let nx := if rr.2 then flagNX else 0
      let free := roundShift r neg m (lead - f.m - e)
      let tiny := if f.e = 0 then decide (lead < -f.bias)
        else rr.2 && decide (lead - f.m + bitLength free.1 - 1 < 1 - f.bias)
      let fl := nx ||| (if tiny then flagUF else 0)
      if rr.1 = 0 then (sb neg, fl)
      else if neg && !f.s then (0, flagNV)
      else if f.exceeds rr.1 q then
        match f.infCode with
        | some c => (sb neg + if r = .nearest || r.awayFor neg then c else f.maxMag, flagOF ||| flagNX ||| fl)
        | none => (sb neg + f.maxMag, flagOF ||| flagNX ||| fl)
      else (sb neg + f.magCode rr.1 q, fl)

/-- The signed mantissa of a finite value. -/
def signedMant (neg : Bool) (m : Nat) : Int := if neg then -(m : Int) else m

/-- A signed mantissa and exponent as a value; zero takes the given sign. -/
def numOf (m : Int) (e : Int) (zneg : Bool) : Num :=
  if m = 0 then .fin zneg 0 0 else .fin (decide (m < 0)) m.natAbs e

def Num.isNan : Num → Bool
  | .nan _ => true
  | _ => false
def Num.isSnan : Num → Bool
  | .nan s => s
  | _ => false
def Num.isZero : Num → Bool
  | .fin _ m _ => decide (m = 0)
  | _ => false
def Num.isInf : Num → Bool
  | .inf _ => true
  | _ => false
def Num.neg : Num → Num
  | .nan s => .nan s
  | .inf n => .inf (!n)
  | .fin n m e => .fin (!n) m e
def Num.negative : Num → Bool
  | .nan _ => false
  | .inf n => n
  | .fin n _ _ => n

/-- The exact sum of two values that are no NaN, with NV for ∞ − ∞; an exact zero sum has the sign of R99. -/
def addExact (r : RMode) (a b : Num) : Num × Flags :=
  match a, b with
  | .inf x, .inf y => if x = y then (.inf x, 0) else (.nan false, flagNV)
  | .inf x, _ => (.inf x, 0)
  | _, .inf y => (.inf y, 0)
  | .fin na ma ea, .fin nb mb eb =>
    if ma = 0 && mb = 0 then (.fin (if na = nb then na else decide (r = .down)) 0 0, 0)
    else
      let lo := min ea eb
      let t := signedMant na ma * 2 ^ (ea - lo).toNat + signedMant nb mb * 2 ^ (eb - lo).toNat
      (numOf t lo (decide (r = .down)), 0)
  | _, _ => (.nan false, 0)

/-- The exact product of two values that are no NaN; 0 × ∞ is invalid. -/
def mulExact (a b : Num) : Num × Flags :=
  match a, b with
  | .fin na ma ea, .fin nb mb eb => (.fin (na != nb) (ma * mb) (ea + eb), 0)
  | _, _ =>
    if a.isZero || b.isZero then (.nan false, flagNV) else (.inf (a.negative != b.negative), 0)

/-- a + b (R99, R92). -/
def fadd (r : RMode) (a b : Num) : Num × Flags :=
  let sig : Flags := if a.isSnan || b.isSnan then flagNV else 0
  if a.isNan || b.isNan then (.nan false, sig) else addExact r a b

/-- a × b (R99, R92). -/
def fmul (a b : Num) : Num × Flags :=
  let sig : Flags := if a.isSnan || b.isSnan then flagNV else 0
  if a.isNan || b.isNan then (.nan false, sig) else mulExact a b

/-- ± (a × b) + d, exactly (R99): 0 × ∞ is invalid even with a quiet NaN in d. -/
def ffma (r : RMode) (negProd : Bool) (a b d : Num) : Num × Flags :=
  let sig : Flags := if a.isSnan || b.isSnan || d.isSnan then flagNV else 0
  if (a.isZero && b.isInf) || (a.isInf && b.isZero) then (.nan false, flagNV)
  else if a.isNan || b.isNan || d.isNan then (.nan false, sig)
  else
    let p := (mulExact a b).1
    addExact r (if negProd then p.neg else p) d

/-- Comparison of two values that are no NaN: −1, 0 or 1; the zeros are equal. -/
def fcmp (a b : Num) : Int :=
  match a, b with
  | .inf x, .inf y => if x = y then 0 else if x then -1 else 1
  | .inf x, _ => if x then -1 else 1
  | _, .inf y => if y then 1 else -1
  | .fin na ma ea, .fin nb mb eb =>
    let lo := min ea eb
    let t := signedMant na ma * 2 ^ (ea - lo).toNat - signedMant nb mb * 2 ^ (eb - lo).toNat
    if t < 0 then -1 else if t = 0 then 0 else 1
  | _, _ => 0

/-- vmin and vmax of floats (R100): −0 counts as less than +0, one NaN yields the other operand. -/
def fminmax (wantMax : Bool) (a b : Num) : Num × Flags :=
  let sig : Flags := if a.isSnan || b.isSnan then flagNV else 0
  if a.isNan && b.isNan then (.nan false, sig)
  else if a.isNan then (b, sig)
  else if b.isNan then (a, sig)
  else
    let c := fcmp a b
    let aLess := decide (c < 0) || (decide (c = 0) && a.negative && !b.negative)
    (if aLess != wantMax then a else b, 0)

/-- A value rounded to an integer by a mode (R107), with whether the rounding changed it; a NaN or an infinity has
none. -/
def roundToInt (r : RMode) (v : Num) : Option (Int × Bool) :=
  match v with
  | .fin neg m e =>
    let rr := roundShift r neg m (-e)
    some (signedMant neg rr.1, rr.2)
  | _ => none

/-- The range of an integer element type of `w` bits (R84). -/
def intRange (nat : Bool) (w : Nat) : Int × Int :=
  if nat then (0, 2 ^ w - 1) else (-(2 ^ (w - 1)), 2 ^ (w - 1) - 1)

/-- A value cut to a range. -/
def clampInt (lo hi x : Int) : Int := if x < lo then lo else if x > hi then hi else x

/-- Float to integer (R107). -/
def toIntElem (r : RMode) (nat : Bool) (w : Nat) (v : Num) : Int × Flags :=
  let (lo, hi) := intRange nat w
  match v with
  | .nan _ => (0, flagNV)
  | .inf neg => (if neg then lo else hi, flagNV)
  | .fin _ _ _ =>
    match roundToInt r v with
    | none => (0, flagNV)
    | some (x, nx) => if x < lo || x > hi then (clampInt lo hi x, flagNV) else (x, if nx then flagNX else 0)

/-- ⌊√n⌋, one bit of the root at a time from the top. -/
def isqrtAux (n : Nat) : Nat → Nat → Nat
  | 0, acc => acc
  | k + 1, acc =>
    let t := acc + 2 ^ k
    isqrtAux n k (if t * t ≤ n then t else acc)

/-- ⌊√n⌋. -/
def isqrt (n : Nat) : Nat := isqrtAux n (bitLength n / 2 + 1) 0

/-- An inexact magnitude between m and m + 1 at exponent e, as a value half a unit above m: it rounds alike when m has
at least two bits more than the destination keeps. -/
def between (neg : Bool) (m : Nat) (e : Int) : Num := .fin neg (2 * m + 1) (e - 1)

/-- 1/x of a finite nonzero value (R110). -/
def recip (neg : Bool) (m : Nat) (e : Int) : Num :=
  let k := bitLength m + 64
  let q := 2 ^ k / m
  if 2 ^ k % m = 0 then .fin neg q (-(k : Int) - e) else between neg q (-(k : Int) - e)

/-- 1/√x of a finite positive value (R110). -/
def recipSqrt (m : Nat) (e : Int) : Num :=
  let m' := if e % 2 = 0 then m else 2 * m
  let e' := if e % 2 = 0 then e else e - 1
  let k := bitLength m' + 64
  let q := isqrt (2 ^ (2 * k) / m')
  let ex := -(k : Int) - e' / 2
  if q * q * m' = 2 ^ (2 * k) then .fin false q ex else between false q ex

/-- Places of the fixed-point numbers in which 2^x and log2 x are formed. UNVERIFIED: that no rounding boundary of the
three formats lies closer to the exact value; see the assumption log, entry 11. -/
def fxPlaces : Nat := 320

/-- 2^f for the fraction 0.b1b2…bn (most significant first), as a fixed-point number: the product of the square roots
2^(1/2), 2^(1/4), … of the set bits. -/
def exp2Frac : List Bool → Nat → Nat → Nat
  | [], _, acc => acc
  | b :: bs, root, acc =>
    let r := isqrt (root * 2 ^ fxPlaces)
    exp2Frac bs r (if b then acc * r / 2 ^ fxPlaces else acc)

/-- 2^x of a finite value (R110): exact for an integer, otherwise irrational. -/
def exp2Num (neg : Bool) (m : Nat) (e : Int) : Num :=
  let lead := e + bitLength m - 1
  if m = 0 then .fin false 1 0
  else if lead > 14 then (if neg then between false 1 (-40000) else .fin false 1 40000)
  else if lead < -60 then (if neg then between false (2 ^ 80 - 1) (-80) else between false (2 ^ 80) (-80))
  else
    let fb := (-e).toNat
    let x : Int := signedMant neg (if e < 0 then m else m * 2 ^ e.toNat)
    let ip := x / (2 ^ fb : Int)
    let fr := (x % (2 ^ fb : Int)).toNat
    if fr = 0 then .fin false 1 ip
    else
      let bits := (List.range fb).map fun i => fr.testBit (fb - 1 - i)
      between false (exp2Frac bits (2 * 2 ^ fxPlaces) (2 ^ fxPlaces)) (ip - fxPlaces)

/-- Bits of the fraction of log2 y for y in [1, 2), most significant first: the square of y is 2 or more exactly when
the next bit is 1. -/
def log2Bits : Nat → Nat → Nat → Nat
  | 0, _, acc => acc
  | n + 1, y, acc =>
    let y2 := y * y / 2 ^ fxPlaces
    if y2 ≥ 2 * 2 ^ fxPlaces then log2Bits n (y2 / 2) (2 * acc + 1) else log2Bits n y2 (2 * acc)

/-- log2 of a finite positive value (R110): exact for a power of two, otherwise irrational. -/
def log2Num (m : Nat) (e : Int) : Num :=
  let l := bitLength m - 1
  let lead := e + l
  if m = 2 ^ l then numOf lead 0 false
  else
    let n := 160
    let fr := log2Bits n (m * 2 ^ fxPlaces / 2 ^ l) 0
    if lead ≥ 0 then between false (lead.toNat * 2 ^ n + fr) (-(n : Int))
    else between true ((-lead).toNat * 2 ^ n - fr - 1) (-(n : Int))

/-- The function units (R110). -/
inductive UnitFn where
  | rcp | rsq | exp2 | log2
  deriving DecidableEq, Repr

/-- A function unit's exact value and its special cases (R110). -/
def unitFn (u : UnitFn) (v : Num) : Num × Flags :=
  match v with
  | .nan s => (.nan false, if s then flagNV else 0)
  | .inf neg =>
    match u with
    | .rcp => (.fin neg 0 0, 0)
    | .rsq => if neg then (.nan false, flagNV) else (.fin false 0 0, 0)
    | .exp2 => if neg then (.fin false 0 0, 0) else (.inf false, 0)
    | .log2 => if neg then (.nan false, flagNV) else (.inf false, 0)
  | .fin neg m e =>
    if m = 0 then
      match u with
      | .rcp => (.inf neg, flagDZ)
      | .rsq => (.inf neg, flagDZ)
      | .exp2 => (.fin false 1 0, 0)
      | .log2 => (.inf true, flagDZ)
    else
      match u with
      | .rcp => (recip neg m e, 0)
      | .rsq => if neg then (.nan false, flagNV) else (recipSqrt m e, 0)
      | .exp2 => (exp2Num neg m e, 0)
      | .log2 => if neg then (.nan false, flagNV) else (log2Num m e, 0)

/-- A signed mantissa at an exponent: an exact dyadic number. -/
structure Dyadic where
  m : Int
  e : Int
  deriving DecidableEq, Repr

/-- trunc(t / 2^x) (R133). -/
def Dyadic.truncAt (t : Dyadic) (x : Int) : Int :=
  if t.e ≥ x then t.m * 2 ^ (t.e - x).toNat
  else
    let k := min (x - t.e).toNat (bitLength t.m.natAbs + 1)
    t.m.tdiv (2 ^ k)

/-- rne(b / 2^s) (R133). -/
def rneShift (b : Int) (s : Nat) : Int :=
  signedMant (decide (b < 0)) (roundShift .nearest false b.natAbs s).1

end Sys2Proof.Machine
end

