-- ==== Sys2Proof/Machine/CoreState.lean ====
section
/-!
DEFINITION. The data of a cluster, its cores and its contexts: plain data only. Cycle numbers are core cycles of the
cluster's domain since it left reset (R80); Fret counts are natural numbers, cut to 64 bits where a program reads them.
-/

namespace Sys2Proof.Machine

/-- A sparse table: keys strictly rising; a key that is not listed holds the table's default. -/
abbrev FMap (α : Type) := List (Nat × α)

/-- Memory: the bytes that differ from what an unlisted address reads as, addresses strictly rising. -/
abbrev Memory := List Host.Cell

/-- One level of the loop stack (R38). -/
structure LoopLevel where
  index : BitVec 16
  count : BitVec 16
  start : PC
  stop  : PC
  deriving DecidableEq, Repr

/-- An address generator (R38). -/
structure AddrGen where
  base   : BitVec 32
  stride : Vector (BitVec 32) 6
  deriving DecidableEq, Repr

/-- The registers of R38 that a restart mark captures. Of each complementary pair the even member is held (R20). -/
structure Regs where
  s      : Vector Word 64
  /-- Bit k is p(2k), for k = 1 to 5; the other bits are not read. -/
  p      : BitVec 8
  /-- Entry k is q(2k), for k = 1 to 7. -/
  q      : Vector Mask 8
  v      : Vector Vec 32
  ag     : Vector AddrGen 8
  fm     : Vector (BitVec 20) 8
  vrm    : BitVec 2
  vflags : BitVec 5
  /-- Innermost level first; at most six. -/
  loops  : List LoopLevel
  deriving DecidableEq, Repr

/-- The register that a result lands in (R44). -/
inductive RegDest where
  | s (r : SReg)
  | v (r : VReg)
  | p (k : BitVec 3)
  | q (k : BitVec 3)
  | fm (f : BitVec 3)
  | vrm
  | vflags
  | agBase (n : BitVec 3)
  | agStride (n : BitVec 3) (l : BitVec 3)
  deriving DecidableEq, Repr

/-- A result in flight (R44, R96). -/
structure InFlight where
  id     : Nat
  /-- The cycle in which it lands. -/
  due    : Nat
  dest   : RegDest
  val    : Vec
  /-- The byte lanes that a vector or mask result writes (R96). -/
  en     : Mask
  /-- Flags ORed into vflags at the landing (R91). -/
  flags  : BitVec 5
  /-- False while the value still waits for its sample; a result with no value at its due cycle lands nothing. -/
  ready  : Bool
  issued : Nat
  baddr  : PC
  slot   : BitVec 3
  deriving DecidableEq, Repr

/-- The two memories that a core addresses (R116). -/
inductive Space where
  | lm | sp
  deriving DecidableEq, Repr

/-- How a scalar load extends its bytes (R152). -/
inductive LoadExt where
  | raw
  | sext (bits : Nat)
  deriving DecidableEq, Repr

/-- A load not yet sampled (R44, R204). -/
structure Load where
  /-- The result that it fills. -/
  id     : Nat
  space  : Space
  /-- The cycle in which the context's own stores are forwarded. -/
  fwdAt  : Nat
  /-- The cycle in which memory is sampled. -/
  memAt  : Nat
  /-- Byte of the result, and the local address that it reads. -/
  lanes  : List (Nat × Nat)
  ext    : LoadExt
  /-- The tag that a tag-checked load expects (R125). -/
  tag    : Option (BitVec 16)
  tagDone : Bool
  /-- Bytes of the result already supplied by forwarding, by byte of the result. -/
  fwd    : List (Nat × Byte)
  fwdDone : Bool
  /-- By local address, what bytes held before a store of the load's own bundle was written to them: such a store is not
  seen (R18). -/
  keep   : List (Nat × Byte)
  issued : Nat
  baddr  : PC
  slot   : BitVec 3
  deriving DecidableEq, Repr

/-- What a local atomic does to its bytes (R159 to R161). -/
inductive AKind where
  | rmw (op : AOp)
  | load
  | store
  deriving DecidableEq, Repr

/-- A local atomic (R158). -/
structure Atomic where
  kind : AKind
  /-- 4 or 8 bytes. -/
  n    : Nat
  space : Space
  addr : Nat
  val  : Word
  /-- The value that acas expects. -/
  exp  : Word
  /-- The result that it fills. -/
  res  : Option Nat
  cx   : CtxId
  baddr : PC
  slot : BitVec 3
  /-- The committed effect that a release atomic is. -/
  eff  : Option Nat
  deriving DecidableEq, Repr

/-- The pool operations (R262). -/
inductive PoolOp where
  | acqw | pub | pin | unpin | gen | pubAfter
  deriving DecidableEq, Repr

/-- The storage commands (R319). -/
inductive SioOp where
  | rd | wr | flush
  deriving DecidableEq, Repr

/-- The network commands (R319). -/
inductive NetOp where
  | send | write | read
  deriving DecidableEq, Repr

/-- A command as it stands in the gating buffer: the operands read at issue (R48). -/
inductive Cmd where
  /-- cpy: release time, the two records of 8 words, the channel, and frzowed at issue (R247, R250). -/
  | cpy (t : Word) (dst src : List Word) (ch : BitVec 4) (frz : BitVec 32)
  /-- famo: the operation, its ordering, the size, the address, the operand, the compare value, and sL with whether a
  result line is written (R256). -/
  | famo (op : AOp) (o : Ord) (n : Nat) (addr : Word) (val cmp : Word) (res : Option Word)
  /-- A pool operation: sA and sD (R262); `hasD` when d is not s0. -/
  | pool (op : PoolOp) (a d : Word) (hasD : Bool)
  /-- qop.push: sH and bytes 0 to 63 of vA (R289). -/
  | qpush (hd : Word) (bytes : List Byte)
  /-- qop.pop and qop.count: sH and the LM address register. -/
  | qpop (hd res : Word)
  | qcount (hd res : Word)
  /-- scope.open and scope.close (R291). -/
  | scope (openIt : Bool) (a : Word)
  /-- txt.out and txt.tok: sL unless it is s0, the parameter pair and sA (R301). -/
  | txt (tok : Bool) (d : Option Word) (p0 p1 a : Word)
  /-- A storage command: its parameter pair, the flag and the channel (R319). -/
  | sio (op : SioOp) (p0 p1 : Word) (fua : Bool) (ch : BitVec 2)
  /-- A network command: its four parameters, the flag and the channel (R319). -/
  | net (op : NetOp) (p : List Word) (ord : Bool) (ch : BitVec 2)
  | evtPost (code : BitVec 7) (target : CtxId) (detail : BitVec 32)
  | evtIrq (cl : ClusterId) (ident : BitVec 10)
  | brgPush (val : Vec)
  | brgPop
  deriving DecidableEq, Repr

/-- The kinds of gating buffer entry (R48). -/
inductive GKind where
  | scalar | vector | command
  deriving DecidableEq, Repr

/-- What an entry performs in its drain cycle (R49). -/
inductive Effect where
  /-- A store: bytes in the order they are written. -/
  | store (space : Space) (bytes : List (Nat × Byte))
  /-- A store to an interrupt file (R118). -/
  | irq (cl : ClusterId) (ident : BitVec 10)
  /-- A release atomic (R158). -/
  | atomic (a : Atomic)
  | cmd (c : Cmd)
  deriving DecidableEq, Repr

/-- An entry of the gating buffer (R48). -/
structure Entry where
  id     : Nat
  kind   : GKind
  eff    : Effect
  issued : Nat
  baddr  : PC
  slot   : BitVec 3
  deriving DecidableEq, Repr

/-- A committed entry waiting for the drain (R49), with the fences that hold its effect (R162). -/
structure DrainItem where
  cx     : CtxId
  entry  : Entry
  /-- The first cycle in which it may drain: one after its commit point. -/
  since  : Nat
  holds  : List Nat
  /-- The image, partition and AST of the context at the commit. -/
  img    : Option (BitVec 12)
  part   : BitVec 3
  ast    : BitVec 16
  deriving DecidableEq, Repr

/-- A control transfer to an invalid target, trapped in the cycle in which the target would issue (R25). -/
structure BadTarget where
  target : BitVec 18
  baddr  : PC
  slot   : BitVec 3
  /-- The issue cycle of the transferring bundle. -/
  issued : Nat
  deriving DecidableEq, Repr

/-- The set captured at a restart mark (R51). -/
structure Shadow where
  regs   : Regs
  pc     : PC
  /-- m + 1, the cycle from which the captured results are counted; for a release the cycle of the task's first
  bundle, and 0 until that has issued. -/
  base   : Nat
  inflight : List InFlight
  loads  : List Load
  /-- The mark is the task's release (R51), so capo.acq is allowed after a rollback to it (R69). -/
  release : Bool
  /-- The marking bundle transferred control to an invalid target, which is then the resume address (R25). -/
  bad    : Option BadTarget
  deriving DecidableEq, Repr

/-- Results in flight when a context stopped (R55), counted from `base` = c0. -/
structure Snapshot where
  base   : Nat
  inflight : List InFlight
  deriving DecidableEq, Repr

/-- An entry of a window table (R117). -/
structure Window where
  base  : Nat
  limit : Nat
  /-- 1: a claim; 0: a read grant. -/
  w     : Bool
  deriving DecidableEq, Repr

/-- What a waiting context waits for (R64, R163). -/
inductive WaitCond where
  /-- No condition: an ended or never bound context. -/
  | never
  | now
  | at (t : Nat)
  /-- A queue, with the Fret count and cycle in which its delivered entry's last write performed. -/
  | q (h : BitVec 12) (delivered : Option Nat)
  /-- A scope, with the cycle in which its finish was signalled. -/
  | sc (k : BitVec 8) (signalled : Option Nat)
  deriving DecidableEq, Repr

/-- A task that has ended: its entry's scope, and the cycle of its end, behind whose entries its message goes (R288). -/
structure TaskEnd where
  scope : BitVec 8
  cyc   : Nat
  deriving DecidableEq, Repr

/-- Where a context stands (R65, R163, R165). -/
inductive RunState where
  /-- No activity bound. -/
  | unbound
  | waiting
  | released
  | running
  /-- Exited, killed or stopped. -/
  | ended
  deriving DecidableEq, Repr

/-- One context of a core (R38, and what the chapters on scheduling, launch and power give it). -/
structure Context where
  run     : RunState
  /-- The number of the bound image, or of the last one while it stays admitted (R177). -/
  img     : Option (BitVec 12)
  part    : BitVec 3
  ast     : BitVec 16
  /-- The activity's index in its image. -/
  act     : Nat
  prio    : BitVec 3
  urgent  : Bool
  gang    : Option (BitVec 6)
  pc      : PC
  regs    : Regs
  energy  : Word
  inflight : List InFlight
  loads   : List Load
  gate    : List Entry
  shadow  : Option Shadow
  snap    : Option Snapshot
  /-- The region since the last mark holds an accumulator write, a local atomic or an xsnd outside a gang (R53). -/
  unrestartable : Bool
  /-- The cycle of the last mark (R53); `none` for a release. -/
  markAt  : Option Nat
  lmWin   : List Window
  spWin   : List Window
  tiles   : BitVec 32
  policy  : BitVec 2
  retry   : Nat
  retryInit : Nat
  budget  : Nat
  count   : Nat
  /-- The running count advances (R167). -/
  counting : Bool
  gateMax : Nat × Nat × Nat
  /-- Event area: first byte and N (R175). -/
  evtArea : Option (Nat × Nat)
  evtK    : Nat
  /-- The binding of the context to its image: a record of an earlier image's is not written to this one's area (R177). -/
  bindId  : Nat
  wait    : WaitCond
  /-- The Fret count from which the condition counts as due, for a late release (R174). -/
  relTime : Nat
  relCycle : Nat
  /-- The next bundle is the first after a release (R69). -/
  first   : Bool
  capo    : BitVec 4
  /-- A request for a level stands with the domain arbiter since this Fret count (R169). -/
  capoReq : Option (BitVec 4 × Nat)
  /-- The Fret count at which the level the release waited for was granted (R164). -/
  capoGrantAt : Option Nat
  /-- The level that a capo in the cycle in progress sets from the next cycle (R69). -/
  capoNext : Option (BitVec 4)
  /-- Cycle and charge of the bundles of the last 512 cycles (R171). -/
  charges : List (Nat × Nat)
  /-- The scope and the number of the queue entry that started the task (R290). -/
  entryScope : Option (BitVec 8 × Nat)
  badTarget : Option BadTarget
  /-- The earliest cycle in which it may issue again (R45, R52). -/
  nextIssue : Nat
  /-- The next bundle's loop levels that are still to step, once the bundle at this body end has issued (R41). -/
  stepAt  : Option PC
  /-- The last bundle to issue was a body-end bundle that stepped its innermost level without popping it (R166). -/
  steppedBody : Bool
  /-- A commit point of the context issued in the cycle in progress (R49, R211). -/
  marking : Bool
  /-- Tasks that have ended and whose task-end messages have not been sent, oldest first (R288, R290). -/
  taskEnds : List TaskEnd
  /-- A wait message is to be sent behind the last committed entry (R288). -/
  waitMsg : Bool
  deriving DecidableEq, Repr

/-- An accumulator row (R131). -/
structure AccRow where
  m : Vector Word 128
  e : BitVec 16
  h : BitVec 6
  v : Bool
  z : Bool
  deriving DecidableEq, Repr

/-- A plane as it was sampled: dense or sparse lines, scale lines and metadata lines (R128 to R130). -/
structure Plane where
  kind   : MKind
  /-- The descriptor captured with the plane, for a narrow kind. -/
  desc   : BitVec 20
  sparse : Bool
  lines  : FMap Vec
  scales : FMap Vec
  metas  : FMap Vec
  /-- The last commit cycle of the mmas that captured the plane (R136). -/
  useUntil : Nat
  /-- Which of the two plane memories of the core holds it: mswp exchanges them (R142). -/
  buf    : Bool
  deriving DecidableEq, Repr

/-- The bundle and slot that issued a matrix instruction. -/
structure Origin where
  cx    : CtxId
  baddr : PC
  slot  : BitVec 3
  issued : Nat
  deriving DecidableEq, Repr

/-- A plane load in progress (R136). -/
structure PlaneLoad where
  org    : Origin
  base   : Nat
  sbase  : Nat
  /-- P, the length of the window. -/
  p      : Nat
  /-- Value, scale and metadata lines. -/
  nValue : Nat
  nScale : Nat
  nMeta  : Nat
  /-- Local address of the first metadata line. -/
  metaBase : Nat
  deriving DecidableEq, Repr

/-- An mma in progress (R135). -/
structure Mma where
  org   : Origin
  tile  : Tile
  row0  : Nat
  m     : Nat
  kind  : MKind
  desc  : BitVec 20
  base  : Nat
  sbase : Nat
  /-- Cycles between rows: 4 with a 16-bit operand, 1 otherwise. -/
  g     : Nat
  plane : Plane
  /-- Activation bytes and scale bytes of the rows sampled and not yet committed; `none` for a row lost to an
  uncorrectable error (R208). -/
  rows  : FMap (Option (List Byte × List Byte))
  deriving DecidableEq, Repr

/-- What an accumulator write does at c+2 (R144, R145, R149). -/
inductive AccWriteOp where
  | clr (row0 n : Nat) (e : BitVec 16)
  | awr (row : Nat) (ty : FTy) (half : Bool) (val : Vec)
  | nrm (row : Nat) (e : BitVec 16)
  deriving DecidableEq, Repr

structure AccWrite where
  org  : Origin
  due  : Nat
  tile : Tile
  op   : AccWriteOp
  deriving DecidableEq, Repr

/-- What an accumulator read samples at c+2 (R146, R148). -/
inductive AccReadOp where
  | row (ty : FTy) (half : Bool) (sat : Bool)
  | header
  deriving DecidableEq, Repr

structure AccRead where
  org  : Origin
  due  : Nat
  tile : Tile
  row  : Nat
  op   : AccReadOp
  /-- The result that it fills. -/
  id   : Nat
  deriving DecidableEq, Repr

/-- An event record that enters the queue at the end of the cycle, with its rank within the cycle (R174). -/
structure EventNew where
  rank   : Nat
  code   : BitVec 8
  ctx    : CtxId
  slot   : BitVec 3
  baddr  : PC
  fret   : BitVec 40
  detail : BitVec 32
  /-- Posted by an image to which the context that it names is bound no longer (R177). -/
  stale  : Bool
  deriving DecidableEq, Repr

/-- A value in a latch, or on its way to one (R212, R213). -/
structure Arrival where
  due    : Nat
  sender : CoreId
  dst    : CoreId
  vec    : Bool
  val    : Vec
  cx     : CtxId
  issued : Nat
  deriving DecidableEq, Repr

/-- A count update crossing a bridge (R219). -/
structure Crossing where
  /-- The Fret count from which it has crossed. -/
  ready : Nat
  /-- True: a push on its way to the consumer; false: a final pop on its way to the producer. -/
  up    : Bool
  deriving DecidableEq, Repr

/-- A push that has drained and that a fence holds before the FIFO (R162, R273). -/
structure PushWait where
  val   : Vec
  /-- The committed effect that it performs. -/
  eff   : Nat
  holds : List Nat
  cx    : CtxId
  baddr : PC
  slot  : BitVec 3
  issued : Nat
  img   : Option (BitVec 12)
  part  : BitVec 3
  deriving DecidableEq, Repr

/-- A bridge FIFO, held at the consumer core (R218 to R221). -/
structure Bridge where
  fifo     : List Vec
  /-- The producer's copy of held. -/
  prodHeld : Nat
  /-- The consumer's copy of held. -/
  consHeld : Nat
  /-- u: pops issued and neither final nor discarded. -/
  u        : Nat
  crossings : List Crossing
  waiting  : List PushWait
  deriving DecidableEq, Repr

/-- A local atomic on its way (R158). -/
structure AtomicDue where
  due   : Nat
  core  : CoreId
  a     : Atomic
  issued : Nat
  deriving DecidableEq, Repr

/-- A line that holds an uncorrectable error, and the error's class (R208). -/
structure BadLine where
  st   : SramStore
  line : Nat
  cls  : Nat
  deriving DecidableEq, Repr

/-- A record held in an event queue, with the binding of the context that it names (R175, R177). -/
structure EvRecord where
  bits : BitVec 128
  bind : Nat
  deriving DecidableEq, Repr

/-- One compute core (R39). -/
structure Core where
  ctxs    : FMap Context
  lm      : Memory
  lmTags  : FMap (BitVec 16)
  istore  : Memory
  acc     : FMap AccRow
  plane   : Plane
  shadowPlane : Plane
  load    : Option PlaneLoad
  mmas    : List Mma
  mmaNext : Nat
  accW    : List AccWrite
  accR    : List AccRead
  /-- The last cycle in which the result of an ard or aexp issued so far lands (R123). -/
  accLand : Nat
  /-- The cycle in which the divider frees, the context that holds it, and the result that its division fills (R74). -/
  divFree : Nat
  divCx   : CtxId
  divId   : Nat
  evq     : List EvRecord
  evLost  : Nat
  evNew   : List EventNew
  drain   : List DrainItem
  /-- Drained evt commands that a fence holds, in drain order (R162, R273). -/
  heldEvts : List DrainItem
  /-- Entries drained in the cycle in progress. -/
  drained : Nat
  /-- An event record was written out in the cycle in progress (R175). -/
  evOut   : Bool
  /-- A class C slot issued in the cycle in progress (R175). -/
  issuedC : Bool
  /-- A bundle has issued, or been suppressed, in the cycle in progress. -/
  issued  : Bool
  atomics : List AtomicDue
  latches : FMap (Bool × Vec)
  bridge  : Bridge
  /-- The context selected (R165): it issues from its `nextIssue` on. -/
  running : Option CtxId
  /-- The earliest cycle of the next selection. -/
  selFrom : Nat
  /-- The next selection takes urgent contexts only (R166), with the running task's priority. -/
  selUrgent : Option (BitVec 3)
  /-- The image to which an activity was last bound on the core (R123). -/
  lastImg : Option (BitVec 12)
  /-- Lines of LM, accumulator rows, plane lines and store lines that hold an uncorrectable error (R208). -/
  badLines : List BadLine
  deriving DecidableEq, Repr

/-- A gang (R209 to R211). -/
structure Gang where
  members : List (CoreId × CtxId)
  policy  : BitVec 2
  retry   : Nat
  retryInit : Nat
  /-- A lone commit point stands since the last common mark. -/
  lone    : Bool
  /-- Arrivals captured at the common mark m, and m + 1 (R211, R213). -/
  base    : Nat
  captured : List Arrival
  killed  : List (CoreId × CtxId)
  /-- Members that issued a commit point in the cycle in progress. -/
  marks   : List (CoreId × CtxId)
  img     : Option (BitVec 12)
  deriving DecidableEq, Repr

/-- A write on its way to a scratchpad bank (R204, R205). -/
structure BankWrite where
  due   : Nat
  /-- The issue cycle of the store or atomic. -/
  issued : Nat
  core  : CoreId
  cx    : CtxId
  /-- A store's bytes, or a release atomic. -/
  bytes : List (Nat × Byte)
  atomic : Option Atomic
  /-- The committed effect that it performs. -/
  eff   : Option Nat
  deriving DecidableEq, Repr

/-- An identity on its way to an interrupt file (R177, R216). -/
structure IrqWay where
  /-- The sending cluster. -/
  src   : Nat
  /-- The core cycle of that cluster from which the identity is set pending. -/
  since : Nat
  ident : BitVec 10
  /-- The effect that it performs. -/
  eff   : Option Nat
  /-- Once the sender has lost its power: the Fret count from which the identity is set pending. -/
  gone  : Option Nat
  deriving DecidableEq, Repr

/-- A context of the package. -/
structure CtxRef where
  cl : ClusterId
  co : CoreId
  cx : CtxId
  deriving DecidableEq, Repr

/-- Where a trap is detected. -/
inductive TrapAt where
  /-- At issue: the bundle is suppressed (R24); the bundle after it. -/
  | issue (after : PC)
  /-- Where the target of a transfer would issue (R25). -/
  | target
  /-- At a sample, after issue (R125, R208). -/
  | sample
  /-- When a committed effect is performed or refused (R179). -/
  | effect
  deriving DecidableEq, Repr

/-- A trap detected (R172). -/
structure Trap where
  ctx    : CtxRef
  cause  : BitVec 8
  mask   : BitVec 8
  baddr  : PC
  detail : Word
  pos    : TrapAt
  /-- The issue cycle of the faulting instruction (R53). -/
  issued : Nat
  /-- The image and partition of the instruction. -/
  img    : Option (BitVec 12)
  part   : BitVec 3
  deriving DecidableEq, Repr

/-- What the containment of a trap still has to do (R180, R224, R293). -/
inductive Ending where
  /-- A context that it has killed gives up what it holds outside its core, and the levels that it held. -/
  | holdings (r : CtxRef) (img : Option (BitVec 12)) (part : BitVec 3) (levels : Nat)
  /-- A context of another domain is killed. -/
  | kill (r : CtxRef) (img : Option (BitVec 12)) (part : BitVec 3)
  /-- The image is retired. -/
  | retire (part : BitVec 3) (img : BitVec 12)
  deriving DecidableEq, Repr

/-- An access that the copy engine port of the scratchpad has taken in the cycle in progress (R203): the line, whether it
writes, and the channel. -/
structure PortUse where
  line  : Nat
  write : Bool
  ch    : BitVec 4
  deriving DecidableEq, Repr

/-- One cluster (R203 to R217). -/
structure Cluster where
  cores   : FMap Core
  cyc     : Nat
  /-- Clock periods of the domain not yet used by a core cycle or a frozen period. -/
  credit  : Nat
  frozen  : Nat
  /-- A correctable error was detected in the cycle in progress (R207). -/
  freezeReq : Bool
  /-- From a freeze to the next core cycle, engine accesses to the SRAMs are held (R207). -/
  engHeld : Bool
  scratch : Memory
  spTags  : FMap (BitVec 16)
  /-- Scratchpad lines that hold an uncorrectable error, with its class (R208). -/
  badLines : List (Nat × Nat)
  ifpend  : BitVec 1024
  ifen    : BitVec 1024
  /-- Identities on their way to this cluster's file (R177, R216). -/
  irqs    : List IrqWay
  tqrec   : FMap (BitVec 256)
  tqHead  : BitVec 5
  tqCount : Nat
  tqOvf   : Nat
  tqSeq   : BitVec 8
  ceCount : Nat
  ceStore : BitVec 4
  ceCore  : BitVec 3
  ceLine  : BitVec 17
  frzowed : BitVec 32
  gangs   : FMap Gang
  bank    : List BankWrite
  /-- The accesses of the cycle in progress at the banks' copy engine ports (R203). -/
  ports   : List PortUse
  arrivals : List Arrival
  /-- Traps that are taken when the cluster next takes its marks: those found at samples (R52, R208), those of gang members
  at issue (R211), and those found while the cluster's tier was halted (R224). -/
  pend    : List Trap
  /-- What the containment of the cluster's traps does outside its tier, and outside the cores: in the next Fret tick or
  in the cluster's next core cycle, after a halt if one falls between (R180, R224). -/
  ending  : List Ending
  deriving DecidableEq, Repr

end Sys2Proof.Machine
end

