-- ==== Sys2Proof/Machine/PackageState.lean ====
section
/-!
DEFINITION. The data of the package outside the clusters: domains, translation, copy engines, far atomics, pools,
queues, admitted images, text engines, ports and the root core. Plain data only.
-/

namespace Sys2Proof.Machine

/-- The slot that a command came from, for the trap records of R179. -/
structure CmdOrigin where
  ctx   : CtxRef
  baddr : PC
  slot  : BitVec 3
  img   : Option (BitVec 12)
  part  : BitVec 3
  ast   : BitVec 16
  deriving DecidableEq, Repr

/-- A capo request of a context (R169). -/
structure CapoReq where
  prio  : BitVec 3
  since : Nat
  ctx   : CtxRef
  level : BitVec 4
  deriving DecidableEq, Repr

/-- A voltage domain (R222). -/
structure Domain where
  vstep   : BitVec 4
  fcode   : BitVec 6
  wlnext  : BitVec 32
  lb      : BitVec 4
  budget  : BitVec 9
  wl      : BitVec 32
  tfcode  : BitVec 8
  thr     : BitVec 8
  fcur    : BitVec 6
  vcur    : BitVec 4
  temp    : BitVec 8
  /-- The temperature at the domain's sensor now, and the Fret tick of its next reading (R225; log entry 8). -/
  sense   : BitVec 8
  senseAt : Nat
  tripped : Bool
  waking  : Bool
  gated   : Bool
  gatePend : Bool
  /-- A gate request found both conditions met: the tier gates in the next tick, and the request never pends (R226). -/
  gateSoon : Bool
  throttled : Bool
  halted  : Bool
  detab   : FMap (BitVec 16)
  /-- The values that the halt to come, or the halt in progress, resumes with (R223, R225). -/
  target  : Option (BitVec 6 × BitVec 4)
  /-- A write to dfreq made during a halt (R223). -/
  held    : Option (BitVec 6 × BitVec 4)
  haltEnd : Option Nat
  /-- Start and end of the last halt, halts that follow one another without a cycle counted as one (R163). -/
  lastHalt : Option (Nat × Nat)
  wakeEnd : Option Nat
  /-- The last throttling transition (R225), and the one that the halt to come makes. -/
  lastTrans : Option Nat
  transTo : Option Bool
  capo    : List CapoReq
  /-- Levels held, as the arbiter counts them. -/
  granted : Nat
  /-- Levels returned, each with its Fret tick: they count from the next one (R169). -/
  returned : List (Nat × Nat)
  /-- Twelfths of a clock period by which the core clock leads the Fret tick (R2; assumption log entry 3). -/
  acc     : Nat
  deriving DecidableEq, Repr

/-- A translated page (R235 to R237). -/
structure TlbEntry where
  ast   : BitVec 16
  part  : BitVec 3
  /-- First virtual page number and log2 of the page size in bytes. -/
  vbase : Nat
  log2  : Nat
  pbase : Nat
  key   : BitVec 6
  io    : Bool
  re    : Bool
  ps    : Bool
  pin   : Bool
  x     : Bool
  w     : Bool
  r     : Bool
  deriving DecidableEq, Repr

/-- A table pointer held by a walk cache (R236). -/
structure WalkEntry where
  ast   : BitVec 16
  part  : BitVec 3
  level : Nat
  vbase : Nat
  table : Nat
  deriving DecidableEq, Repr

/-- What a stream's access asks for. -/
inductive Acc where
  | read | write | fetch
  deriving DecidableEq, Repr

/-- The stream of an engine that a fault stalls (R238). -/
inductive StreamId where
  | copy (cl : ClusterId) (ch : BitVec 4)
  | far (ctx : CtxRef)
  /-- The queue engine of a quadrant, for a context. -/
  | queue (ctx : CtxRef) (q : Quad)
  | text (e : BitVec 4) (s : Nat)
  | sio (p : BitVec 3) (ch : BitVec 2)
  | net (p : BitVec 3) (ch : BitVec 2)
  | host (f : HostFn)
  /-- A supervisor hart's own accesses: they raise exceptions, and never stall (R237). -/
  | hart (cl : ClusterId)
  deriving DecidableEq, Repr

/-- A fault held in a fault slot (R238). -/
structure FaultHeld where
  engine  : Nat
  inst    : Nat
  slot    : Nat
  service : ClusterId
  stream  : StreamId
  va      : BitVec 48
  deriving DecidableEq, Repr

/-- A stream that a translation fault has stalled: waiting for a slot, for a reply, or told to abort (R238). -/
inductive Stall where
  /-- With the Fret count at its detection. -/
  | waitSlot (kind : Nat) (level : Nat) (acc : Acc) (va : BitVec 48) (ast : BitVec 16) (since : Word)
  | waitReply (kind : Nat) (va : BitVec 48)
  | aborted (kind : Nat) (va : BitVec 48)
  deriving DecidableEq, Repr

/-- An access translated and not yet performed (R240, R242, R272): where it will perform, and with which page. -/
structure Ahead where
  id   : Nat
  pa   : Nat
  page : TlbEntry
  deriving DecidableEq, Repr

/-- An invalidation in progress (R240): the Fret count from which it may complete, and the accesses translated before it
that it waits for. -/
structure Inval where
  quad : Quad
  num  : Nat
  ready : Nat
  waits : List Nat
  deriving DecidableEq, Repr

/-- A key slot (R326, R242). -/
structure KeySlot where
  part    : Option (BitVec 3)
  revoking : Bool
  revoked : Bool
  gen     : Nat
  /-- The Fret count from which every access under a revoked key has performed. -/
  ready   : Nat
  deriving DecidableEq, Repr

/-- A partition (R292, R328). -/
structure Partition where
  defn    : PartDef
  tdisp   : Bool
  retired : Bool
  deriving DecidableEq, Repr

/-- A layout record decoded (R248). -/
structure Layout where
  base  : BitVec 64
  tag   : BitVec 16
  esize : Nat
  nd    : Nat
  space : BitVec 2
  core  : CoreId
  rsvd  : Bool
  /-- Count and stride of each dimension, innermost first. -/
  dims  : List (Nat × Int)
  deriving DecidableEq, Repr

/-- Where an effect performs, as far as it is known (R271, R272). -/
inductive EffPlace where
  /-- Not yet translated: within every scope. -/
  | anywhere
  /-- LM bytes of a core. -/
  | lm (cl : ClusterId) (co : CoreId) (first last : Nat)
  /-- The elements of a record in the LM of a core. -/
  | record (cl : ClusterId) (co : CoreId) (l : Layout)
  /-- A cluster's scratchpad or interrupt file. -/
  | cluster (cl : ClusterId)
  | vault (v : Nat)
  | host
  | bridge (cl : ClusterId)
  | quad (q : Quad)
  | package
  | farEnd
  deriving DecidableEq, Repr

/-- A copy command handed over (R246, R247). -/
structure CopyCmd where
  org   : CmdOrigin
  id    : BitVec 48
  src   : Layout
  dst   : Layout
  t     : Word
  frz   : BitVec 32
  handed : Nat
  /-- The cluster cycles before which it touches neither LM nor scratchpad (R255). -/
  cyc   : Nat
  holds : List Nat
  eff   : Nat
  launched : Bool
  /-- Elements already copied, and the Fret count from which the next part may be. -/
  pos   : Nat
  ready : Nat
  /-- The bytes of the next elements, already read and not yet written (R205, R238, R252). -/
  got   : List (List Byte)
  /-- Where the elements already copied to virtual addresses have performed (R272). -/
  wrote : List EffPlace
  /-- The translations already made for the source and destination accesses from element `pos` on (R240, R272). -/
  srcT  : List Ahead
  dstT  : List Ahead
  deriving DecidableEq, Repr

/-- A copy channel (R245, R253). -/
structure Channel where
  owner : Option CtxRef
  img   : Option (BitVec 12)
  next  : BitVec 48
  done  : BitVec 48
  cmds  : List CopyCmd
  /-- IDs completed, refused or dropped beyond `done`. -/
  ended : List (BitVec 48)
  stall : Option Stall
  deriving DecidableEq, Repr

/-- A far atomic handed over (R256, R257). -/
structure FarAtomic where
  id    : Nat
  org   : CmdOrigin
  op    : AOp
  ord   : Ord
  n     : Nat
  addr  : BitVec 48
  val   : Word
  cmp   : Word
  res   : Option (Nat × BitVec 16)
  holds : List Nat
  /-- The Fret count of the hand-over (R275). -/
  handed : Nat
  ready : Nat
  armed : Bool
  stall : Option Stall
  /-- Its translation, where that has been made before the controller performs it (R240, R272). -/
  loc   : Option Ahead
  deriving DecidableEq, Repr

/-- A result line on its way into LM, for a core cycle in which the drain leaves the port free (R120); a far atomic's
effect performs with it (R272). -/
structure LineWait where
  ctx   : CtxRef
  addr  : Nat
  bytes : List Byte
  tag   : BitVec 16
  eff   : Option Nat
  deriving DecidableEq, Repr

/-- A slot pool's directory entry and declaration (R258, R259). -/
structure Pool where
  handle : BitVec 12
  img    : BitVec 12
  part   : BitVec 3
  n      : Nat
  k      : Nat
  size   : Nat
  va     : Nat
  writer : CtxRef
  /-- Open has performed (R285); from admission until then the entry only holds its place and its memory (R258). -/
  opened : Bool
  latest : BitVec 7
  gen    : Word
  pubtime : Word
  held   : BitVec 7
  pend   : Bool
  pch    : BitVec 4
  pid    : BitVec 48
  /-- The deferred publish's result line and its effect. -/
  pres   : Option Word
  porg   : Option CmdOrigin
  peff   : Nat
  /-- The Fret count from which the directory has seen the watermark (R265). -/
  pseen  : Option Nat
  spoil  : Bool
  /-- The slot memory as admission found it mapped: offset, physical base and bytes of each page (R258, R268). -/
  mem    : List (Nat × Nat × Nat)
  pins   : List (CtxRef × Nat)
  /-- Contexts whose pin or held slot is released in step 1 of the next tick; `true` after a kill (R270). -/
  releases : List (CtxRef × Bool)
  deriving DecidableEq, Repr

/-- A message on a context's path to a directory or queue engine (R260, R278, R288). -/
inductive Msg where
  | pool (op : PoolOp) (a d : Word) (hasD : Bool)
  | qpush (hd : Word) (bytes : List Byte)
  | qpop (hd res : Word)
  | qcount (hd res : Word)
  | scope (openIt : Bool) (k : BitVec 8)
  | taskEnd (scope : BitVec 8)
  | waitQ (h : BitVec 12)
  | waitSc (k : BitVec 8)
  deriving DecidableEq, Repr

structure PathMsg where
  org   : CmdOrigin
  quad  : Quad
  msg   : Msg
  eff   : Option Nat
  holds : List Nat
  /-- Delay chosen, and the Fret count of arrival. -/
  armed : Bool
  ready : Nat
  stall : Option Stall
  /-- A block of a memory-backed queue has been swapped in for it (R287). -/
  swapped : Bool
  deriving DecidableEq, Repr

/-- An entry of a task queue (R286). -/
structure QEntry where
  bytes : List Byte
  num  : BitVec 48
  scope : Option (BitVec 8)
  deriving DecidableEq, Repr

/-- A context waiting on a queue (R288). -/
structure QWait where
  ctx : CtxRef
  since : Nat
  deriving DecidableEq, Repr

/-- A reservation in delivery (R288). -/
structure QDeliver where
  ctx   : CtxRef
  entry : QEntry
  ready : Nat
  deriving DecidableEq, Repr

/-- A task queue (R286 to R288). -/
structure Queue where
  handle : BitVec 12
  img    : BitVec 12
  part   : BitVec 3
  ast    : BitVec 16
  quad   : Quad
  occ    : Nat
  area   : Nat
  /-- Held in a resident place; otherwise memory-backed (R287). -/
  resident : Bool
  entries : List QEntry
  next   : BitVec 48
  waits  : List QWait
  delivers : List QDeliver
  deriving DecidableEq, Repr

/-- A finish scope (R290). -/
structure Scope where
  k      : BitVec 8
  img    : BitVec 12
  part   : BitVec 3
  quad   : Quad
  parent : Option (BitVec 8)
  openBit : Bool
  count  : Nat
  waits  : List CtxRef
  deriving DecidableEq, Repr

/-- First release of a context (R186). -/
inductive FirstRel where
  | now
  | at (t : Word)
  | q (h : BitVec 12)
  deriving DecidableEq, Repr

/-- A context as an image declares it (R186). -/
structure ActDecl where
  icore  : Nat
  cx     : CtxId
  prio   : BitVec 3
  urgent : Bool
  entry  : PC
  first  : FirstRel
  /-- Retry count and policy where they are declared; 15 and 1 where not (R186). -/
  retry  : Option (BitVec 4)
  policy : Option (BitVec 2)
  events : Option (Nat × Nat)
  /-- The level of its .capo, where it has one; 0 where not (R186). -/
  capo   : Option (BitVec 4)
  budget : Nat
  lm     : List Window
  sp     : List Window
  tiles  : List (Nat × Nat)
  /-- Gating maxima where they are declared; 64, 32 and 16 where not (R186). -/
  gate   : Option (Nat × Nat × Nat)
  deriving DecidableEq, Repr

structure GangDecl where
  /-- Indices of the member contexts. -/
  members : List Nat
  retry   : Option (BitVec 4)
  policy  : Option (BitVec 2)
  deriving DecidableEq, Repr

structure PoolDecl where
  handle : BitVec 12
  n      : Nat
  k      : Nat
  size   : Nat
  writer : Nat
  va     : Nat
  deriving DecidableEq, Repr

structure QueueDecl where
  handle : BitVec 12
  occ    : Nat
  area   : Nat
  deriving DecidableEq, Repr

structure ScopeDecl where
  k      : BitVec 8
  parent : Option (BitVec 8)
  deriving DecidableEq, Repr

/-- The kinds of channel that an image binds (R186). -/
inductive ChanKind where
  | cp | sio | net
  deriving DecidableEq, Repr

structure ChanDecl where
  kind : ChanKind
  ch   : BitVec 4
  act  : Nat
  deriving DecidableEq, Repr

/-- What an image declares (R185 to R187). -/
structure ImageDecl where
  acts   : List ActDecl
  gangs  : List GangDecl
  pools  : List PoolDecl
  queues : List QueueDecl
  scopes : List ScopeDecl
  chans  : List ChanDecl
  /-- Image core, origin and words. -/
  code   : List (Nat × Nat × List SlotWord)
  /-- Image core, LM address and bytes. -/
  data   : List (Nat × Nat × List Byte)
  /-- Virtual address and bytes. -/
  consts : List (Nat × List Byte)
  deriving DecidableEq, Repr

/-- An admitted image (R283 to R285). -/
structure Image where
  num    : BitVec 12
  part   : BitVec 3
  ast    : BitVec 16
  clPol  : BitVec 2
  imPol  : BitVec 2
  /-- The version of the header (R282). -/
  version : BitVec 16
  home   : Quad
  decl   : ImageDecl
  /-- Image core, cluster and core. -/
  place  : List (Nat × ClusterId × CoreId)
  digest : BitVec 384
  started : Bool
  stopped : Bool
  retired : Bool
  deriving DecidableEq, Repr

/-- A publication under check (R283), with the image's bytes as they stood when it was published (R317); none where they
could not be read. -/
structure Publication where
  image : Option (List Byte)
  va    : BitVec 48
  ast   : BitVec 16
  place : BitVec 48
  ready : Nat
  deriving DecidableEq, Repr

/-- An admission block (R283). -/
structure AdmBlock where
  ast    : BitVec 16
  place  : BitVec 48
  img    : BitVec 12
  reason : BitVec 8
  state  : BitVec 3
  check  : Option Publication
  deriving DecidableEq, Repr

/-- The commands of the package command stream (R285). -/
inductive SeqKind where
  | clear | load | openIt | bind
  deriving DecidableEq, Repr

/-- The commands of admcmd (R283). -/
inductive AdmOp where
  | start | stop | retire
  deriving DecidableEq, Repr

/-- A command that the launch sequencer has not performed; `again` for the Bind of a restart. -/
structure SeqCmd where
  kind  : SeqKind
  part  : BitVec 3
  img   : BitVec 12
  again : Bool
  ready : Nat
  /-- A Start follows the restart's Bind (R285). -/
  start : Bool
  /-- For a Clear that has begun to wait: the cycle, of each core, by which the matrix work issued before has completed
  (R123). -/
  idle  : Option (List (ClusterId × CoreId × Nat))
  deriving DecidableEq, Repr

/-- What a committed effect is for a fence (R162, R271, R272). -/
inductive EffKind where
  | st | cp | en | io | br
  deriving DecidableEq, Repr

/-- A committed effect that has not performed everywhere it will (R272). -/
structure Outstanding where
  id    : Nat
  ctx   : CtxRef
  kind  : EffKind
  places : List EffPlace
  deriving DecidableEq, Repr

/-- A fence's ordering point (R162, R273): the effects it waits for, and the Fret count at which its hold ended. -/
structure FencePoint where
  id    : Nat
  ctx   : CtxRef
  scope : FScope
  waits : List Nat
  ended : Option Nat
  /-- The point of one command that waits as if a fence stood before it (R265, R275): it holds no other. -/
  only  : Bool
  deriving DecidableEq, Repr

/-- An inbound request in process (R297): the Fret count of its arrival, its place among all arrivals, and its packet. -/
structure TextIn where
  since : Nat
  seq   : Nat
  pkt   : Packet
  deriving DecidableEq, Repr

/-- A binding slot of a text engine (R300). -/
structure TextSlot where
  /-- The slot's number: also of a binding that has been unbound and whose work in process goes on (R300). -/
  no     : BitVec 4
  valid  : Bool
  state  : BitVec 2
  reason : BitVec 8
  ast    : BitVec 16
  img    : BitVec 12
  vocab  : BitVec 48
  /-- Bytes of the vocabulary image, as the binding found it (R294). -/
  vlen   : Nat
  ep     : BitVec 16
  service : ClusterId
  area   : BitVec 48
  size   : BitVec 32
  queue  : BitVec 12
  rel    : BitVec 48
  err    : BitVec 48
  cnt    : BitVec 32
  /-- Bytes used of the ID area since binding, its write point, and the release word as last read (R297). -/
  used   : Nat
  wp     : Nat
  seen   : Nat
  ready  : Nat
  /-- Inbound requests in process. -/
  inbound : List TextIn
  stall  : Option Stall
  /-- The access that stalls is one of an inbound request. -/
  stallIn : Bool
  /-- The bytes that the work in process has read with the binding's own accesses, by address: none is read again when its
  stream resumes (R238). -/
  kept   : List (Nat × Byte)
  /-- Error records that wait for their ring to translate, in the order of their detection (R238, R306). -/
  errs   : List (BitVec 128)
  deriving DecidableEq, Repr

/-- A detokeniser's request state (R299). -/
structure ReqState where
  /-- The key of the binding in the engine's table. -/
  slot  : Nat
  req   : BitVec 32
  held  : List Byte
  seq   : BitVec 32
  peer  : BitVec 16
  deriving DecidableEq, Repr

/-- A txt command handed over (R301). -/
structure TextCmd where
  org   : CmdOrigin
  tok   : Bool
  d     : Option Word
  p0    : Word
  p1    : Word
  /-- The key of the binding in the engine's table. -/
  slot  : Nat
  final : Bool
  holds : List Nat
  eff   : Nat
  ready : Nat
  /-- Of a txt.tok whose source has been read: its IDs with their covered lengths, and the bytes of IDs written so far
  (R303). -/
  ids   : Option (List (Nat × Nat))
  put   : Nat
  /-- The bytes of its source read before its stream stalled (R238). -/
  got   : List Byte
  deriving DecidableEq, Repr

/-- A text engine (R300). -/
structure TextEngine where
  /-- epart: its partition field, which counts only while the engine is assigned. -/
  epart  : BitVec 3
  assigned : Bool
  /-- The binding slots 0 to 15; from 16 on, bindings that have been unbound while work of theirs was in process. -/
  slots  : FMap TextSlot
  states : List ReqState
  cmds   : List TextCmd
  tpsel  : BitVec 20
  tpfa   : BitVec 128
  deriving DecidableEq, Repr

/-- A storage or network command handed over (R320). -/
structure PortCmd where
  org   : CmdOrigin
  id    : BitVec 48
  sio   : Option SioOp
  net   : Option NetOp
  p     : List Word
  flag  : Bool
  holds : List Nat
  eff   : Nat
  ready : Nat
  /-- The drive's write number at which a flush was submitted (R321); for a network command, that its domain had been
  revoked at its hand-over (R326). -/
  mark  : Option Nat
  /-- Its drive or its peer has taken it, and the transfer is under way. -/
  begun : Bool
  /-- Of a transfer under way: the bytes read so far from virtual memory, or those not yet written to it (R238). -/
  data  : List Byte
  deriving DecidableEq, Repr

/-- The kinds of inbound network traffic (R322). -/
inductive InKind where
  | send | rmaWrite | rmaRead
  deriving DecidableEq, Repr

/-- A storage or network channel (R318). -/
structure PortChan where
  valid  : Bool
  state  : BitVec 2
  reason : BitVec 8
  ast    : BitVec 16
  /-- starget or nep. -/
  r08    : Word
  /-- nring. -/
  r10    : Word
  /-- nrsize. -/
  r18    : Word
  /-- nmr. -/
  r20    : Word
  npsel  : BitVec 12
  npfa   : BitVec 128
  /-- The context that an image binds, and the image. -/
  owner  : Option CtxRef
  img    : Option (BitVec 12)
  next   : BitVec 48
  done   : BitVec 48
  ended  : List (BitVec 48)
  cmds   : List PortCmd
  used   : Nat
  wp     : Nat
  checkAt : Nat
  /-- Inbound traffic in process, with the Fret counts of its arrival. -/
  inbound : List (InKind × Nat × Packet)
  /-- The bytes that the first of them has read, by address: none is read again when the stream resumes (R238). -/
  kept   : List (Nat × Byte)
  stall  : Option Stall
  deriving DecidableEq, Repr

/-- A peer of an endpoint (R323). -/
structure Peer where
  ep      : BitVec 16
  index   : BitVec 12
  fa      : BitVec 128
  rep     : BitVec 16
  learned : Bool
  deriving DecidableEq, Repr

/-- A namespace of a drive (R318, R321): its bytes as reads return them, its durable bytes, and the counted writes that
are not durable, oldest first, with their numbers. -/
structure Drive where
  ns      : NsDef
  now     : Memory
  durable : Memory
  vol     : List (Nat × Nat × Byte)
  seq     : Nat
  deriving DecidableEq, Repr

/-- What leaves the package (the model's own record, assumption log entry 8). -/
inductive Output where
  /-- A UE send: endpoint, peer address, remote endpoint, bytes. -/
  | send (ep : BitVec 16) (fa : BitVec 128) (rep : BitVec 16) (bytes : List Byte)
  | rmaWrite (ep : BitVec 16) (fa : BitVec 128) (rep : BitVec 16) (key : BitVec 16) (off : Word) (bytes : List Byte)
  | rmaReadReq (ep : BitVec 16) (fa : BitVec 128) (rep : BitVec 16) (key : BitVec 16) (off : Word) (len : Nat)
  /-- Bytes returned to a peer's RMA read. -/
  | rmaData (fa : BitVec 128) (rep : BitVec 16) (bytes : List Byte)
  /-- A UET resource error or a refused RMA operation. -/
  | refusal (fa : BitVec 128) (rep : BitVec 16)
  /-- A host read's completion: bytes, or Unsupported Request. -/
  | hostData (f : HostFn) (bytes : Option (List Byte))
  /-- A write through the host window, by the virtual function of a partition (R232). -/
  | hostPost (part : BitVec 3) (addr : Nat) (bytes : List Byte)
  /-- What a supervisor hart's load or fetch returns. -/
  | hartData (cl : ClusterId) (bytes : List Byte)
  /-- An exception of a supervisor hart (R237): a page fault for kinds 1 to 3, an access fault for kinds 4 to 8. -/
  | hartFault (cl : ClusterId) (page : Bool) (va : BitVec 48)
  | spdm (bytes : List Byte)
  deriving DecidableEq, Repr

/-- A host access waiting in its function's stream (R317). -/
structure HostWait where
  acc  : HostAccess
  data : Option (List Byte)
  deriving DecidableEq, Repr

/-- A byte of vault memory before a write: the tick of the write, the address, the byte, and the key and generation under
which it then stood, if any (R233, R257). -/
structure VaultOld where
  tick : Nat
  addr : Nat
  byte : Byte
  key  : Option (BitVec 6 × Nat)
  deriving DecidableEq, Repr

/-- A supervisor core (R6, R214): the registers of an RV64GC hart in machine mode (PRESUMED, log entry 40), and the kernel
that root firmware has loaded into it (R327). -/
structure Hart where
  pc   : Word
  /-- x0 to x31; x0 reads 0. -/
  x    : Vector Word 32
  f    : Vector Word 32
  fflags : BitVec 5
  frm  : BitVec 3
  /-- mstatus: MIE, MPIE and FS. -/
  ie   : Bool
  pie  : Bool
  fs   : BitVec 2
  /-- The CSRs mie, mtvec, mscratch, mepc, mcause, mtval, mcycle and minstret. -/
  mie  : Word
  mtvec : Word
  mscratch : Word
  mepc : Word
  mcause : Word
  mtval : Word
  mcycle : Word
  minstret : Word
  /-- A reservation held on its own memory, by address and length. -/
  ownRes : Option (Nat × Nat)
  /-- The memory that holds its kernel: its first virtual address, its length and its bytes (log entry 40). -/
  base : Nat
  size : Nat
  own  : Memory
  /-- The address space of its other accesses (R239). -/
  ast  : BitVec 16
  /-- Thirds of a hart cycle that the Fret tick leads by: 2.4 GHz to 1.8 GHz (R214). -/
  acc  : Nat
  deriving DecidableEq, Repr

/-- Everything outside the clusters. -/
structure Package where
  fret    : Nat
  doms    : FMap Domain
  vault   : Memory
  /-- Key slot and generation under which a 16-byte block of a vault line stands, by its address divided by 16 (R233, R242);
  none for a block that nothing has written, and for one that the hardware itself wrote last, which every key reads (log
  entry 5). -/
  vaultKey : FMap (BitVec 6 × Nat)
  vaultBad : List Nat
  /-- The writes to vault memory of the last 4,096 Fret ticks, oldest first (R257, .spec). -/
  vaultLog : List VaultOld
  parts   : FMap Partition
  keys    : FMap KeySlot
  asttab  : FMap Word
  fltbase : FMap Word
  invseq  : FMap Nat
  invdone : FMap Nat
  invref  : FMap Nat
  invals  : List Inval
  /-- Agents' own TLBs, by agent number, and the base dies' shared TLBs and walk caches (R236). -/
  tlbs    : FMap (List TlbEntry)
  shared  : FMap (List TlbEntry)
  walks   : FMap (List WalkEntry)
  faults  : List FaultHeld
  /-- Record numbers of the engines, by 8 × engine + instance (R238). -/
  fltseq  : FMap (BitVec 8)
  chans   : FMap Channel
  fars    : List FarAtomic
  lines   : List LineWait
  pools   : List Pool
  queues  : List Queue
  scopes  : List Scope
  path    : List PathMsg
  images  : List Image
  adm     : FMap AdmBlock
  seq     : List SeqCmd
  /-- Commands of admcmd that wait for their image's earlier commands, in their order (R285). -/
  admWait : List (AdmOp × BitVec 3 × BitVec 12)
  /-- The const pages that the launch sequencer has mapped, each with its image (R185, R285). -/
  constMaps : List (BitVec 12 × TlbEntry)
  outs    : List Outstanding
  fences  : List FencePoint
  text    : FMap TextEngine
  sio     : FMap PortChan
  net     : FMap PortChan
  peers   : List Peer
  drives  : List Drive
  /-- Host accesses in each function's stream, and the stream's stall (R317). -/
  hostQ   : FMap (List HostWait)
  hostStall : FMap Stall
  hostDrops : FMap Nat
  out     : List Output
  /-- Interrupts raised at the root core: partitions, domains and base dies (R222, R225, R293). -/
  rootPart : List (BitVec 3)
  rootDom  : List Dom
  /-- Measurement registers (R327). -/
  meas    : FMap (BitVec 384)
  /-- The supervisor cores into which a kernel has been loaded, by cluster (R214, R327). -/
  harts   : FMap Hart
  /-- The reservations of harts on vault memory: the first address and the length of each (log entry 40). -/
  resv    : FMap (Nat × Nat)
  /-- Whether the boot ROM has verified root firmware (R327); none before a boot. -/
  boot    : Option Bool
  deriving DecidableEq, Repr

end Sys2Proof.Machine
end

