-- ==== Sys2Proof/Machine/Store.lean ====
section
/-!
DEFINITION. Sparse tables, memories in their canonical form, lists with keys, and the conversions between bytes and
words (R3: little-endian everywhere).
-/

namespace Sys2Proof.Machine

/-- The value at a key, if listed. -/
def FMap.find {α : Type} (m : FMap α) (k : Nat) : Option α :=
  match m with
  | [] => none
  | (i, v) :: rest => if i = k then some v else FMap.find rest k

/-- The table with a key set, keys strictly rising. -/
def FMap.put {α : Type} (m : FMap α) (k : Nat) (v : α) : FMap α :=
  match m with
  | [] => [(k, v)]
  | (i, w) :: rest =>
    if k < i then (k, v) :: (i, w) :: rest
    else if k = i then (k, v) :: rest
    else (i, w) :: FMap.put rest k v

/-- The table without a key. -/
def FMap.del {α : Type} (m : FMap α) (k : Nat) : FMap α := m.filter fun p => p.1 != k

/-- The keys listed. -/
def FMap.keys {α : Type} (m : FMap α) : List Nat := m.map Prod.fst

/-- The byte at an address; what an unlisted address reads as is `d`, or nothing. -/
def Memory.byte (d : Option Byte) (m : Memory) (a : Nat) : Option Byte :=
  match m with
  | [] => d
  | (i, b) :: rest => if i = a then some b else Memory.byte d rest a

/-- The memory with one byte written, in canonical form: writing what an unlisted address reads as removes the entry. -/
def Memory.put (d : Option Byte) (m : Memory) (a : Nat) (b : Byte) : Memory :=
  match m with
  | [] => if d = some b then [] else [(a, b)]
  | (i, c) :: rest =>
    if a < i then (if d = some b then (i, c) :: rest else (a, b) :: (i, c) :: rest)
    else if a = i then (if d = some b then rest else (a, b) :: rest)
    else (i, c) :: Memory.put d rest a b

/-- Bytes written in the order of the list. -/
def Memory.putAll (d : Option Byte) (m : Memory) (l : List (Nat × Byte)) : Memory :=
  l.foldl (fun m p => m.put d p.1 p.2) m

/-- The bytes from `first` to `last` back at what an unlisted address reads as. -/
def Memory.clear (m : Memory) (first last : Nat) : Memory :=
  m.filter fun p => decide (p.1 < first) || decide (last < p.1)

/-- Addresses strictly rising, and no entry equal to what an unlisted address reads as. -/
def Memory.wf (d : Option Byte) (m : Memory) : Bool :=
  match m with
  | [] => true
  | [(_, b)] => decide (d ≠ some b)
  | (a, b) :: (a', b') :: rest => decide (d ≠ some b) && decide (a < a') && Memory.wf d ((a', b') :: rest)

/-- The bytes of a range, where an unlisted byte reads as `d`. -/
def Memory.bytes (d : Byte) (m : Memory) (a n : Nat) : List Byte :=
  (List.range n).map fun i => (m.byte (some d) (a + i)).getD d

/-- Bytes at rising addresses from `a`. -/
def cellsAt (a : Nat) (l : List Byte) : List (Nat × Byte) := l.mapIdx fun i b => (a + i, b)

/-- The natural number of bytes, lowest first. -/
def natOfBytes (l : List Byte) : Nat := l.foldr (fun b n => b.toNat + 256 * n) 0

/-- The `n` low bytes of a natural number, lowest first. -/
def bytesOfNat (n v : Nat) : List Byte := (List.range n).map fun i => BitVec.ofNat 8 (v >>> (8 * i))

/-- Byte `i` of a vector. -/
def vecByte (v : Vec) (i : Nat) : Byte := v.extractLsb' (8 * i) 8

/-- A vector from its bytes, lowest first. -/
def vecOfBytes (l : List Byte) : Vec := BitVec.ofNat 2048 (natOfBytes l)

/-- The bytes of a vector, lowest first. -/
def vecBytes (v : Vec) : List Byte := bytesOfNat 256 v.toNat

/-- The vector with some bytes replaced. -/
def vecSetBytes (v : Vec) (l : List (Nat × Byte)) : Vec :=
  l.foldl (fun v p => (v &&& ~~~((0xFF#2048) <<< (8 * p.1))) ||| (BitVec.ofNat 2048 p.2.toNat <<< (8 * p.1))) v

/-- A mask with each bit spread over its byte lane. -/
def maskExpand (q : Mask) : Vec :=
  if q = BitVec.allOnes 256 then BitVec.allOnes 2048
  else (List.range 256).foldl (fun v i => if q.getLsbD i then v ||| ((0xFF#2048) <<< (8 * i)) else v) 0

/-- The byte lanes of `new` where the mask has its bit, of `old` elsewhere. -/
def vecMerge (old new : Vec) (q : Mask) : Vec :=
  let e := maskExpand q
  (old &&& ~~~e) ||| (new &&& e)

/-- The first entry that meets a test, replaced. -/
def replaceFirst {α : Type} (p : α → Bool) (f : α → α) : List α → List α
  | [] => []
  | x :: xs => if p x then f x :: xs else x :: replaceFirst p f xs

/-- An element put before the first that it goes before. -/
def insertBy {α : Type} (before : α → α → Bool) (x : α) : List α → List α
  | [] => [x]
  | y :: ys => if before x y then x :: y :: ys else y :: insertBy before x ys

/-- A list in order; elements of equal rank keep the order in which they stand. -/
def sortBy {α : Type} (before : α → α → Bool) (l : List α) : List α :=
  l.foldl (fun acc x => insertBy before x acc) []

/-- The key of a domain: the tiers first (R222). -/
def domKey : Dom → Nat
  | .tier u q => (if u then 4 else 0) + q.toNat
  | .base q => 8 + q.toNat

/-- The quadrant of a cluster (R7). -/
def quadOf (cl : ClusterId) : Quad :=
  BitVec.ofNat 2 (2 * ((cl.toNat % 16) / 8) + (cl.toNat % 4) / 2)

/-- The tier domain of a cluster (R218). -/
def domOf (cl : ClusterId) : Dom := .tier (cl.getLsbD 4) (quadOf cl)

/-- The clusters of a tier domain (R218). -/
def clustersOf (d : Dom) : List ClusterId :=
  match d with
  | .tier _ _ => ((List.range 32).map (BitVec.ofNat 5)).filter fun c => domOf c = d
  | .base _ => []

end Sys2Proof.Machine
end

