-- ==== Sys2Proof/Machine/Crypto.lean ====
section
/-!
DEFINITION. SHA-384 and the verification of an ECDSA signature on the curve brainpoolP384r1, which the specification names
(R6, R282, R327, R328) and does not define: taken from FIPS 180-4, FIPS 186-5 and RFC 5639 (log entry 7, PRESUMED).
-/

namespace Sys2Proof.Machine

/-! ## SHA-384 -/

/-- The first primes, all below 410: the 80 that SHA-384 takes its constants from. -/
def shaPrimes : List Nat :=
  (List.range 410).filter fun p => decide (2 ≤ p) && (List.range 21).all fun d => decide (d < 2 ∨ p ≤ d) || p % d != 0

/-- The greatest `r` below `2 ^ bits` with `r ^ k ≤ n`, one bit at a time from the top. -/
def rootBelow (k n : Nat) : Nat → Nat → Nat
  | 0, r => r
  | bits + 1, r => rootBelow k n bits (if (r + 2 ^ bits) ^ k ≤ n then r + 2 ^ bits else r)

/-- The first 64 fractional bits of the `k`-th root of a number below 512. -/
def rootFraction (k p : Nat) : Word := BitVec.ofNat 64 (rootBelow k (p * 2 ^ (64 * k)) 70 0)

/-- The constants of the 80 rounds, of the cube roots of the primes. -/
def shaConstants : List Word := shaPrimes.map (rootFraction 3)

/-- The initial values of SHA-384, of the square roots of the 9th to 16th primes. -/
def shaInit : List Word := ((shaPrimes.drop 8).take 8).map (rootFraction 2)

/-- A word of eight bytes, the highest first. -/
def bigEndian (l : List Byte) : Nat := natOfBytes l.reverse

/-- A message padded to whole blocks of 128 bytes: one bit, zeros, and its length in bits. -/
def shaPad (l : List Byte) : List Byte :=
  l ++ [0x80] ++ List.replicate ((239 - l.length % 128) % 128) 0 ++ (bytesOfNat 16 (8 * l.length)).reverse

/-- The words of the message schedule after the first sixteen, the newest first. -/
def shaSchedule : Nat → List Word → List Word
  | 0, w => w
  | n + 1, w =>
    let at' := fun (i : Nat) => w.getD (i - 1) 0
    let s0 := fun (x : Word) => x.rotateRight 1 ^^^ x.rotateRight 8 ^^^ (x >>> 7)
    let s1 := fun (x : Word) => x.rotateRight 19 ^^^ x.rotateRight 61 ^^^ (x >>> 6)
    shaSchedule n ((s1 (at' 2) + at' 7 + s0 (at' 15) + at' 16) :: w)

/-- One round. -/
def shaRound (h : List Word) (k : Word × Word) : List Word :=
  match h with
  | [a, b, c, d, e, f, g, x] =>
    let t1 := x + (e.rotateRight 14 ^^^ e.rotateRight 18 ^^^ e.rotateRight 41) + ((e &&& f) ^^^ (~~~e &&& g)) + k.1 + k.2
    let t2 := (a.rotateRight 28 ^^^ a.rotateRight 34 ^^^ a.rotateRight 39) + ((a &&& b) ^^^ (a &&& c) ^^^ (b &&& c))
    [t1 + t2, a, b, c, d + t1, e, f, g]
  | _ => h

/-- One block. -/
def shaBlock (h : List Word) (block : List Byte) : List Word :=
  let first := (List.range 16).map fun i => BitVec.ofNat 64 (bigEndian ((block.drop (8 * i)).take 8))
  let w := (shaSchedule 64 first.reverse).reverse
  List.zipWith (fun x y => x + y) h ((shaConstants.zip w).foldl shaRound h)

/-- The blocks of a padded message. -/
def shaBlocks : Nat → List Byte → List Word → List Word
  | 0, _, h => h
  | n + 1, l, h => shaBlocks n (l.drop 128) (shaBlock h (l.take 128))

/-- SHA-384 as a number, its first byte the highest. -/
def sha384 (l : List Byte) : BitVec 384 :=
  let m := shaPad l
  BitVec.ofNat 384 (((shaBlocks (m.length / 128) m shaInit).take 6).foldl (fun n w => n * 2 ^ 64 + w.toNat) 0)

/-! ## ECDSA on brainpoolP384r1 -/

/-- The field's prime, the coefficient a, the base point and its order. -/
def curveP : Nat := 0x8cb91e82a3386d280f5d6f7e50e641df152f7109ed5456b412b1da197fb71123acd3a729901d1a71874700133107ec53
def curveA : Nat := 0x7bc382c63d8c150c3c72080ace05afa0c2bea28e4fb22787139165efba91f90f8aa5814a503ad4eb04a8c7dd22ce2826
def curveG : Nat × Nat :=
  (0x1d1c64f068cf45ffa2a63a81b7c13f6b8847a3e77ef14fe3db7fcafe0cbd10e8e826e03436d646aaef87b2e247d4af1e,
   0x8abe1d7520f9c2a45cb1eb8e95cfd55262b70b29feec5864e19c054ff99129280e4646217791811142820341263c5315)
def curveN : Nat := 0x8cb91e82a3386d280f5d6f7e50e641df152f7109ed5456b31f166e6cac0425a7cf3ab6af6b7fc3103b883202e9046565

/-- A power modulo `m`, of an exponent of at most `fuel` bits. -/
def powMod (m : Nat) : Nat → Nat → Nat → Nat
  | 0, _, _ => 1 % m
  | n + 1, b, e =>
    let r := powMod m n (b * b % m) (e / 2)
    if e % 2 = 1 then r * b % m else r

/-- The inverse modulo a prime. -/
def invMod (m x : Nat) : Nat := powMod m 384 x (m - 2)

/-- The sum of two points; none is the point at infinity. -/
def pointAdd (a b : Option (Nat × Nat)) : Option (Nat × Nat) :=
  match a, b with
  | none, q => q
  | q, none => q
  | some (x1, y1), some (x2, y2) =>
    if x1 = x2 ∧ (y1 + y2) % curveP = 0 then none
    else
      let slope := if x1 = x2 then (3 * x1 * x1 + curveA) * invMod curveP (2 * y1 % curveP) % curveP
        else (y2 + curveP - y1) * invMod curveP ((x2 + curveP - x1) % curveP) % curveP
      let x3 := (slope * slope + 2 * curveP - x1 - x2) % curveP
      some (x3, (slope * (x1 + curveP - x3) + curveP - y1) % curveP)

/-- A multiple of a point, of at most `fuel` bits. -/
def pointMul : Nat → Option (Nat × Nat) → Nat → Option (Nat × Nat)
  | 0, _, _ => none
  | n + 1, q, k =>
    let r := pointMul n (pointAdd q q) (k / 2)
    if k % 2 = 1 then pointAdd r q else r

/-- A signature (r, s) of a message verifies under a public key. -/
def ecdsaVerify (key : Nat × Nat) (message : List Byte) (r s : Nat) : Bool :=
  decide (0 < r) && decide (r < curveN) && decide (0 < s) && decide (s < curveN) &&
    let w := invMod curveN s
    let u1 := (sha384 message).toNat * w % curveN
    let u2 := r * w % curveN
    match pointAdd (pointMul 384 (some curveG) u1) (pointMul 384 (some key) u2) with
    | none => false
    | some (x, _) => x % curveN == r

end Sys2Proof.Machine
end

