-- ==== Sys2Proof/Machine/Aes.lean ====
section
/-!
DEFINITION. AES-256 and its XTS mode on a block of a vault line, which the specification names (R6, R233) and does not
define: taken from FIPS 197 and IEEE 1619 (log entry 7, PRESUMED).
-/

namespace Sys2Proof.Machine

/-! ## The field of the bytes -/

/-- A byte times x. -/
def gfTimesX (a : Byte) : Byte := (a <<< 1) ^^^ (if a.getLsbD 7 then 0x1B else 0)

/-- The product of a byte and the low `n` bits of another. -/
def gfProduct : Nat → Byte → Byte → Byte
  | 0, _, _ => 0
  | n + 1, a, b => (if b.getLsbD 0 then a else 0) ^^^ gfProduct n (gfTimesX a) (b >>> 1)

def gfMul (a b : Byte) : Byte := gfProduct 8 a b

/-- `a` to the power of 2 ^ (n + 1) - 2: for n = 7 the inverse of a byte, and 0 for 0. -/
def gfPower : Nat → Byte → Byte
  | 0, _ => 1
  | n + 1, a => gfMul (gfMul a a) (gfPower n (gfMul a a))

def gfInverse (a : Byte) : Byte := gfPower 7 a

/-- SubBytes and its inverse, on one byte. -/
def aesSub (a : Byte) : Byte :=
  let b := gfInverse a
  b ^^^ b.rotateLeft 1 ^^^ b.rotateLeft 2 ^^^ b.rotateLeft 3 ^^^ b.rotateLeft 4 ^^^ 0x63
def aesUnsub (s : Byte) : Byte := gfInverse (s.rotateLeft 1 ^^^ s.rotateLeft 3 ^^^ s.rotateLeft 6 ^^^ 0x05)

/-! ## The cipher -/

/-- Bytes added. -/
def addBytes (a b : List Byte) : List Byte := List.zipWith (fun x y => x ^^^ y) a b

/-- The words of the key schedule after the first eight, the newest first; `i` is the number of the next. -/
def aesSchedule : Nat → Nat → Byte → List (List Byte) → List (List Byte)
  | 0, _, _, w => w
  | n + 1, i, rc, w =>
    let last := w.headD []
    let t :=
      if i % 8 = 0 then addBytes ((last.drop 1 ++ last.take 1).map aesSub) [rc, 0, 0, 0]
      else if i % 8 = 4 then last.map aesSub
      else last
    aesSchedule n (i + 1) (if i % 8 = 0 then gfTimesX rc else rc) (addBytes (w.getD 7 []) t :: w)

/-- The fifteen round keys of a key of 32 bytes. -/
def aesKeys (key : List Byte) : List (List Byte) :=
  let first := (List.range 8).map fun i => (key.drop (4 * i)).take 4
  let w := (aesSchedule 52 8 1 first.reverse).reverse
  (List.range 15).map fun r => ((w.drop (4 * r)).take 4).flatten

/-- ShiftRows by `k` columns a row: 1 in a cipher, 3 in its inverse. -/
def aesShift (k : Nat) (s : List Byte) : List Byte :=
  (List.range 16).map fun i => s.getD (4 * ((i / 4 + k * (i % 4)) % 4) + i % 4) 0

/-- MixColumns by the factors of a column's four bytes. -/
def aesMix (f : List Byte) (s : List Byte) : List Byte :=
  (List.range 16).map fun i =>
    (List.range 4).foldl (fun a j => a ^^^ gfMul (f.getD j 0) (s.getD (4 * (i / 4) + (i + j) % 4) 0)) 0

/-- One block of 16 bytes enciphered under a key. -/
def aesEncrypt (key b : List Byte) : List Byte :=
  let ks := aesKeys key
  let sub := fun (s : List Byte) => aesShift 1 (s.map aesSub)
  let mid := ((ks.drop 1).take 13).foldl (fun s k => addBytes (aesMix [2, 3, 1, 1] (sub s)) k) (addBytes b (ks.getD 0 []))
  addBytes (sub mid) (ks.getD 14 [])

/-- One block deciphered. -/
def aesDecrypt (key b : List Byte) : List Byte :=
  let ks := aesKeys key
  let unsub := fun (s : List Byte) => (aesShift 3 s).map aesUnsub
  let mid := ((ks.drop 1).take 13).reverse.foldl (fun s k => aesMix [14, 11, 13, 9] (addBytes (unsub s) k))
    (addBytes b (ks.getD 14 []))
  addBytes (unsub mid) (ks.getD 0 [])

/-! ## XTS (R233) -/

/-- A number of 128 bits, lowest byte first, times x. -/
def xtsTimesX (t : Nat) : Nat := (2 * t % 2 ^ 128) ^^^ (if t.testBit 127 then 0x87 else 0)

/-- The whitening of block `j` of a line under the second half of a key: the data unit's number is the line's address divided by
256. -/
def xtsWhite (key : List Byte) (line j : Nat) : List Byte :=
  bytesOfNat 16 (Nat.repeat xtsTimesX j (natOfBytes (aesEncrypt (key.drop 32) (bytesOfNat 16 line))))

/-- Block `j` of a line enciphered, and deciphered, under a key of 64 bytes. -/
def xtsSeal (key : List Byte) (line j : Nat) (b : List Byte) : List Byte :=
  let w := xtsWhite key line j
  addBytes (aesEncrypt (key.take 32) (addBytes b w)) w
def xtsOpen (key : List Byte) (line j : Nat) (b : List Byte) : List Byte :=
  let w := xtsWhite key line j
  addBytes (aesDecrypt (key.take 32) (addBytes b w)) w

end Sys2Proof.Machine
end

