-- ==== Sys2Proof/Config.lean ====
section
/-!
DEFINITION. What the specification leaves open: constants without a body, so that nothing can be proved of their
values. Each is named in the assumption log.
-/

namespace Sys2Proof

/-- A delay that is not architectural, in Fret ticks or units, drawn by the free-value counter (log entry 2). -/
opaque Config.freeDelay : Nat → Nat

/-- A choice that the specification leaves open, drawn by the free-value counter (log entry 2). -/
opaque Config.freeChoice : Nat → Nat

/-- The bytes of a read that the specification does not state (log entry 5). -/
opaque Config.freeByte : Nat → Byte

/-- The two AES-256 keys that a key slot holds in a generation, the data key in the low half (R233, R242; log entry 7). -/
opaque Config.vaultSecret : BitVec 6 → Nat → BitVec 512

/-- What the body of a Umasin image declares: its layout is not in the specification (log entry 6). -/
opaque Config.imageBody : List Byte → Option Machine.ImageDecl

/-- The public image key of a partition, a point of the curve, that root firmware holds (R283; log entry 7). -/
opaque Config.imageKey : BitVec 3 → Nat × Nat

/-- The root firmware in the boot flash, its signature (r, s) and the vendor key (R327; log entry 7). -/
opaque Config.firmware : List Byte
opaque Config.firmwareSig : Nat × Nat
opaque Config.vendorKey : Nat × Nat

/-- The cluster kernel that root firmware loads into each cluster's supervisor core (R327; log entry 7). -/
opaque Config.kernel : BitVec 5 → List Byte

/-- Where a supervisor core's own memory stands in its virtual addresses, its length, the entry of its kernel and its AST
(R214, R327; log entry 40). -/
opaque Config.kernelPlace : BitVec 5 → Nat × Nat × Word × BitVec 16

/-- The device's answer to an SPDM request, given the measurements that it reports (log entry 7). -/
opaque Config.spdmAnswer : List Byte → List (BitVec 384) → List Byte

end Sys2Proof
end

