-- ==== Sys2Proof/Machine/Reset.lean ====
section
/-!
DEFINITION. The values at reset and at binding. A key that a sparse table does not list holds the value given here.
-/

namespace Sys2Proof.Machine

/-- An address generator at binding (R38). -/
def AddrGen.reset : AddrGen := ⟨0, Vector.replicate 6 0⟩

/-- The format registers at binding (R38, R85). -/
def fmReset : Vector (BitVec 20) 8 :=
  ⟨#[0x8E1D0#20, 0xAA3E0#20, 0x46040#20, 0x720D0#20, 0x8E1D0#20, 0x8E1D0#20, 0x8E1D0#20, 0x8E1D0#20], rfl⟩

/-- The registers at binding (R38, R20). -/
def Regs.reset : Regs :=
  { s := Vector.replicate 64 0, p := 0, q := Vector.replicate 8 0, v := Vector.replicate 32 0,
    ag := Vector.replicate 8 AddrGen.reset, fm := fmReset, vrm := 0, vflags := 0, loops := [] }

/-- A context to which nothing was ever bound. -/
def Context.reset : Context :=
  { run := .unbound, img := none, part := 0, ast := 0, act := 0, prio := 0, urgent := false, gang := none, pc := 0,
    regs := Regs.reset, energy := 0, inflight := [], loads := [], gate := [], shadow := none, snap := none,
    unrestartable := false, markAt := none, lmWin := [], spWin := [], tiles := 0, policy := 0, retry := 0,
    retryInit := 0, budget := 0, count := 0, counting := false, gateMax := (64, 32, 16), evtArea := none, evtK := 0, bindId := 0,
    wait := .never, relTime := 0, relCycle := 0, first := false, capo := 0, capoReq := none, capoGrantAt := none,
    capoNext := none, charges := [], entryScope := none, badTarget := none, nextIssue := 0, stepAt := none,
    steppedBody := false, marking := false, taskEnds := [], waitMsg := false }

/-- An accumulator row at reset and at binding (R123). -/
def AccRow.reset : AccRow := ⟨Vector.replicate 128 0, 0, 62, false, false⟩

/-- A plane at reset, in one of the two plane memories: i8 zeros (R141, R123). -/
def Plane.reset (buf : Bool) : Plane := ⟨.i8, 0, false, [], [], [], 0, buf⟩

/-- An empty bridge FIFO (R221). -/
def Bridge.reset : Bridge := ⟨[], 0, 0, 0, [], []⟩

/-- A core at reset (R327). -/
def Core.reset : Core :=
  { ctxs := [], lm := [], lmTags := [], istore := [], acc := [], plane := Plane.reset false, shadowPlane := Plane.reset true,
    load := none, mmas := [], mmaNext := 0, accW := [], accR := [], accLand := 0, divFree := 0, divCx := 0, divId := 0, evq := [], evLost := 0,
    evNew := [], drain := [], heldEvts := [], drained := 0, evOut := false, issuedC := false, issued := false, atomics := [], latches := [],
    bridge := Bridge.reset, running := none, selFrom := 0, selUrgent := none, lastImg := none, badLines := [] }

/-- A cluster at reset (R215, R327). -/
def Cluster.reset : Cluster :=
  { cores := [], cyc := 0, credit := 0, frozen := 0, freezeReq := false, engHeld := false, scratch := [], spTags := [], badLines := [],
    ifpend := 0, ifen := 0, irqs := [], tqrec := [], tqHead := 0, tqCount := 0, tqOvf := 0, tqSeq := 0, ceCount := 0,
    ceStore := 0, ceCore := 0, ceLine := 0, frzowed := 0, gangs := [], bank := [], ports := [], arrivals := [],
    pend := [], ending := [] }

/-- A domain at cold reset (R222, R327): the tiers gated, the base dies running at 1,800 MHz. -/
def Domain.reset (d : Dom) : Domain :=
  let f : BitVec 6 := match d with
    | .tier _ _ => 36
    | .base _ => 24
  { vstep := 8, fcode := f, wlnext := 0, lb := 1,
    budget := match d with
      | .tier _ _ => 380
      | .base _ => 120,
    wl := 0, tfcode := 0, thr := 105, fcur := f, vcur := 8, temp := 0, sense := 0, senseAt := 1800, tripped := false, waking := false,
    gated := match d with
      | .tier _ _ => true
      | .base _ => false,
    gatePend := false, gateSoon := false, throttled := false, halted := false, detab := [], target := none, held := none, haltEnd := none,
    lastHalt := none, wakeEnd := none, lastTrans := none, transTo := none, capo := [], granted := 0, returned := [], acc := 0 }

/-- A supervisor core with a kernel just loaded (R327): every register at 0 but the program counter, and no interrupt enabled
(log entry 40). -/
def Hart.loaded (base size : Nat) (entry : Word) (ast : BitVec 16) (kernel : List Byte) : Hart :=
  { pc := entry, x := Vector.replicate 32 0, f := Vector.replicate 32 0, fflags := 0, frm := 0, ie := false, pie := false,
    fs := 0, mie := 0, mtvec := 0, mscratch := 0, mepc := 0, mcause := 0, mtval := 0, mcycle := 0, minstret := 0,
    ownRes := none, base := base, size := size,
    own := Memory.putAll (some 0) [] (cellsAt base (kernel.take size)), ast := ast, acc := 0 }

/-- Everything outside the clusters at cold reset (R327). -/
def Package.reset : Package :=
  { fret := 0, doms := [], vault := [], vaultKey := [], vaultBad := [], vaultLog := [], parts := [], keys := [],
    asttab := [], fltbase := [], invseq := [], invdone := [], invref := [], invals := [], tlbs := [],
    shared := [], walks := [], faults := [], fltseq := [], chans := [], fars := [], lines := [], pools := [], queues := [],
    scopes := [], path := [], images := [], adm := [], seq := [], admWait := [], constMaps := [], outs := [], fences := [], text := [], sio := [],
    net := [], peers := [], drives := [], hostQ := [], hostStall := [],
    hostDrops := [], out := [], rootPart := [], rootDom := [], meas := [], harts := [], resv := [], boot := none }

end Sys2Proof.Machine
end

