-- ==== Sys2Proof/Machine/State.lean ====
section
/-!
DEFINITION. The state of the machine: the architectural state (`Mach`) and the frame of the bundle that is issuing.
Plain data only.
-/

namespace Sys2Proof.Machine

/-- The parts of a cluster cycle, in the order in which they are taken (log entry 1). -/
inductive Phase where
  | arrive | land | sample | issue | mark | release | select | gang | preempt | write | last
  deriving DecidableEq, Repr

/-- Where the machine stands within a Fret tick (log entry 1). -/
inductive Stage where
  /-- Inputs that have come due. -/
  | inputs
  /-- The agents outside the clusters. -/
  | agents
  /-- The core cycles of the clusters. -/
  | cycles
  | phase (cl : ClusterId) (p : Phase)
  | tickEnd
  deriving DecidableEq, Repr

/-- Moves of the model that no row of the table names. -/
inductive Move where
  /-- The samples of scalar and vector loads in LM (R152, R153). -/
  | loads (cl : ClusterId) (co : CoreId)
  /-- The commit points of a cluster's cycle taken as marks (R51, R211). -/
  | marks (cl : ClusterId)
  /-- The traps whose detection waited for the marks of the cycle (R211, R224). -/
  | traps (cl : ClusterId)
  /-- Drained evt commands that no fence holds any longer (R273). -/
  | evts (cl : ClusterId) (co : CoreId)
  /-- A misaligned target detected where the target would issue (R25). -/
  | target (cl : ClusterId) (co : CoreId) (cx : CtxId)
  /-- Local atomics in LM (R158). -/
  | atomics (cl : ClusterId) (co : CoreId)
  /-- A part of a copy (R252), an access that a fault had stalled included: outside the core cycles, its samples of the
  scratchpad, and in a core cycle (R205). -/
  | copyPart (cl : ClusterId) (ch : BitVec 4)
  /-- Accesses of a copy translated before they are made (R240, R272). -/
  | copyAhead (cl : ClusterId) (ch : BitVec 4)
  | copyRead (cl : ClusterId) (ch : BitVec 4)
  | copyLocal (cl : ClusterId) (ch : BitVec 4)
  /-- A message of a context taking its path (R260, R288). -/
  | send (cl : ClusterId) (co : CoreId) (cx : CtxId)
  /-- What the containment of a cluster's traps has to do in the tick after them (R180, R224). -/
  | endings (cl : ClusterId)
  /-- Fence holds that end (R273). -/
  | holds
  /-- Far atomics that no fence holds travel on (R256, R273). -/
  | travel
  /-- Result lines that reach a cluster's LM in a core cycle (R120, R207, R224). -/
  | lines (cl : ClusterId)
  /-- A fault that waits for a fault slot (R238). -/
  | faultSlot (st : StreamId)
  /-- Inbound traffic and host accesses that a fault had stalled (R238). -/
  | textIn (e : BitVec 4) (n : Nat)
  | netIn (k : BitVec 5)
  | hostIn (f : HostFn)
  /-- An access of a supervisor hart (R214). -/
  | hart (a : HartAccess)
  /-- A supervisor hart runs for a Fret tick (R214). -/
  | runHart (cl : ClusterId)
  /-- A domain's sensor is read (R225): SENSOR_READING at its own times. -/
  | sense (d : Dom)
  /-- The temperature at a domain's sensor, between two readings (R225). -/
  | heat (d : Dom) (temp : BitVec 8)
  /-- Commands of admcmd that have waited for their image's earlier commands (R285). -/
  | admNext
  deriving DecidableEq, Repr

/-- What the machine is to do next. -/
inductive Job where
  | event (i : Instr)
  | issue (cl : ClusterId) (co : CoreId)
  | move (m : Move)
  deriving DecidableEq, Repr

/-- An input to the machine (log entry 8): a row of the table that an agent outside the model takes, or an access of a
supervisor hart. -/
inductive Input where
  | event (i : Instr)
  | hart (a : HartAccess)
  deriving DecidableEq, Repr

/-- Everything but the frame of the issuing bundle. -/
structure Mach where
  clusters : FMap Cluster
  pk : Package
  /-- Inputs to come: the Fret count from which each is due (log entry 8). -/
  inbox : List (Nat × Input)
  stage : Stage
  todo : List Job
  /-- Delays chosen in advance; the free values of Config serve when none is left (log entry 2). -/
  delays : List Nat
  /-- Free values drawn. -/
  free : Nat
  /-- The next identifier of a result, an entry or an effect. -/
  nextId : Nat
  deriving DecidableEq, Repr

/-- A trap raised by the issuing bundle (R24). -/
structure Raise where
  /-- The slot that raised it; no bit for a trap that the bundle raises as a whole (R172). -/
  mask   : BitVec 8
  cause  : BitVec 8
  detail : Word
  deriving DecidableEq, Repr

/-- The frame of the bundle that is issuing. -/
structure Issue where
  cl    : ClusterId
  co    : CoreId
  cx    : CtxId
  /-- The slot that is executing. -/
  slot  : BitVec 3
  baddr : PC
  /-- The address after the bundle's last slot. -/
  after : PC
  /-- The machine before the bundle, from which its slots read. -/
  before : Option Mach
  raises : List Raise
  /-- The bundle holds a commit point (R49). -/
  commit : Bool
  /-- The release atomics of the bundle, the last entries of its commit (R158). -/
  rels   : List Entry
  /-- The fences of the bundle: their points and kinds (R273). -/
  fences : List (Nat × BitVec 5)
  /-- The bundle transferred control, or broke its loop: no level steps (R41, R42). -/
  transferred : Bool
  /-- The activity ends with this bundle (R65). -/
  exits  : Bool
  /-- A slot of the bundle is a division (R74). -/
  divides : Bool
  deriving DecidableEq, Repr

/-- The state of the machine. -/
structure State where
  mach : Mach
  iss  : Issue
  deriving DecidableEq, Repr

/-- The reasons for which the machine stops. -/
inductive Fault where
  /-- A root-core write to an address of the package map at which nothing stands (R232, R243); raised by
  registerWrite. Safe: the model stops where the bus faults. -/
  | addressesNothing (addr : Nat)
  deriving DecidableEq, Repr

/-- The reasons for which an instruction has no meaning in the model. -/
inductive Refusal where
  /-- The instruction is not modelled; raised by the dispatcher alone. Safe: nothing can be proved of the instruction. -/
  | notModelled (mnemonic : String)
  deriving DecidableEq, Repr

/-- The machine at cold reset (R327). -/
def Mach.reset : Mach :=
  { clusters := [], pk := Package.reset, inbox := [], stage := .inputs, todo := [], delays := [], free := 0,
    nextId := 0 }

/-- No bundle is issuing. -/
def Issue.idle : Issue :=
  { cl := 0, co := 0, cx := 0, slot := 0, baddr := 0, after := 0, before := none, raises := [], commit := false,
    rels := [], fences := [], transferred := false, exits := false, divides := false }

/-- The state right after cold reset (R327). -/
def State.reset : State := ⟨Mach.reset, Issue.idle⟩

end Sys2Proof.Machine
end

