-- ==== Sys2Proof/Machine/Ops.lean ====
section
/-!
DEFINITION. The operations that the meanings share: reading and writing the tables of State, free values, register
access, results in flight, records and events, commits, ends and rollbacks of contexts, and TAKING A TRAP with its
containment.
-/

namespace Sys2Proof.Machine

/-! ## The tables -/

def Mach.cluster (m : Mach) (cl : ClusterId) : Cluster := (m.clusters.find cl.toNat).getD Cluster.reset
def Mach.setCluster (m : Mach) (cl : ClusterId) (c : Cluster) : Mach :=
  { m with clusters := m.clusters.put cl.toNat c }
def Mach.modCluster (m : Mach) (cl : ClusterId) (f : Cluster → Cluster) : Mach := m.setCluster cl (f (m.cluster cl))

def Cluster.core (c : Cluster) (co : CoreId) : Core := (c.cores.find co.toNat).getD Core.reset
def Cluster.setCore (c : Cluster) (co : CoreId) (k : Core) : Cluster := { c with cores := c.cores.put co.toNat k }

def Mach.core (m : Mach) (cl : ClusterId) (co : CoreId) : Core := (m.cluster cl).core co
def Mach.setCore (m : Mach) (cl : ClusterId) (co : CoreId) (k : Core) : Mach :=
  m.modCluster cl fun c => c.setCore co k
def Mach.modCore (m : Mach) (cl : ClusterId) (co : CoreId) (f : Core → Core) : Mach :=
  m.setCore cl co (f (m.core cl co))

def Core.ctx (k : Core) (cx : CtxId) : Context := (k.ctxs.find cx.toNat).getD Context.reset
def Core.setCtx (k : Core) (cx : CtxId) (x : Context) : Core := { k with ctxs := k.ctxs.put cx.toNat x }
def Core.modCtx (k : Core) (cx : CtxId) (f : Context → Context) : Core := k.setCtx cx (f (k.ctx cx))

def Mach.ctx (m : Mach) (r : CtxRef) : Context := (m.core r.cl r.co).ctx r.cx
def Mach.modCtx (m : Mach) (r : CtxRef) (f : Context → Context) : Mach :=
  m.modCore r.cl r.co fun k => k.modCtx r.cx f

def Mach.modPk (m : Mach) (f : Package → Package) : Mach := { m with pk := f m.pk }
def Package.dom (p : Package) (d : Dom) : Domain := (p.doms.find (domKey d)).getD (Domain.reset d)
def Package.modDom (p : Package) (d : Dom) (f : Domain → Domain) : Package :=
  { p with doms := p.doms.put (domKey d) (f (p.dom d)) }
def Mach.dom (m : Mach) (d : Dom) : Domain := m.pk.dom d
def Mach.modDom (m : Mach) (d : Dom) (f : Domain → Domain) : Mach := m.modPk fun p => p.modDom d f

/-- The core cycle of a cluster. -/
def Mach.cyc (m : Mach) (cl : ClusterId) : Nat := (m.cluster cl).cyc
/-- The Fret count (R2, R244). -/
def Mach.fret (m : Mach) : Word := BitVec.ofNat 64 m.pk.fret

/-- The value of the Fret counter (R244). -/
def Package.count (p : Package) : Nat := p.fret % 2 ^ 64
/-- The tick at which the counter, not wrapping again, shows a value. -/
def Package.tickOf (p : Package) (w : Word) : Nat := p.fret - p.count + w.toNat

/-- The boot ROM has refused root firmware (R327): it never runs. -/
def Package.dead (p : Package) : Bool := p.boot == some false
/-- Something that root firmware does; after a failed boot nothing (R327). -/
def Mach.byRoot (m : Mach) (f : Mach → Mach) : Mach := if m.pk.dead then m else f m

def coreIds : List CoreId := (List.range 8).map (BitVec.ofNat 3)
def ctxIds : List CtxId := (List.range 8).map (BitVec.ofNat 3)
def clusterIds : List ClusterId := (List.range 32).map (BitVec.ofNat 5)

/-- The key of a context in a package table. -/
def CtxRef.key (r : CtxRef) : Nat := (r.cl.toNat * 8 + r.co.toNat) * 8 + r.cx.toNat

/-! ## Identifiers and free values -/

/-- The next identifier, and the machine after it is taken. -/
def Mach.fresh (m : Mach) : Nat × Mach := (m.nextId, { m with nextId := m.nextId + 1 })

/-- A delay that is not architectural (log entry 2). -/
def Mach.delay (m : Mach) : Nat × Mach :=
  match m.delays with
  | d :: rest => (d, { m with delays := rest })
  | [] => (Config.freeDelay m.free, { m with free := m.free + 1 })

/-- A choice that the specification leaves open (log entry 2). -/
def Mach.choice (m : Mach) : Nat × Mach :=
  match m.delays with
  | d :: rest => (d, { m with delays := rest })
  | [] => (Config.freeChoice m.free, { m with free := m.free + 1 })

/-- `n` free bytes (log entry 5). -/
def Mach.freeBytes (m : Mach) (n : Nat) : List Byte × Mach :=
  ((List.range n).map fun i => Config.freeByte (m.free + i), { m with free := m.free + n })

/-! ## Registers -/

/-- A scalar register; s0 reads 0 (R38). -/
def Regs.sreg (r : Regs) (n : SReg) : Word := if n = 0 then 0 else r.s[n.toNat]'(n.isLt)

/-- A scalar register written; a write to s0 is discarded (R38). -/
def Regs.setS (r : Regs) (n : SReg) (w : Word) : Regs := if n = 0 then r else { r with s := r.s.set n.toNat w n.isLt }

/-- A vector register (R38). -/
def Regs.vreg (r : Regs) (n : VReg) : Vec := r.v[n.toNat]'(n.isLt)

/-- A vector register written. -/
def Regs.setV (r : Regs) (n : VReg) (w : Vec) : Regs := { r with v := r.v.set n.toNat w n.isLt }

/-- The innermost level is in its first iteration: p12 (R41). -/
def Regs.firstIter (r : Regs) : Bool :=
  match r.loops with
  | [] => false
  | l :: _ => l.index == 0

/-- The innermost level is in its last iteration: p14 (R41). -/
def Regs.lastIter (r : Regs) : Bool :=
  match r.loops with
  | [] => false
  | l :: _ => l.index == l.count - 1

/-- The even member of a predicate pair (R20, R41). -/
def Regs.predEven (r : Regs) (k : BitVec 3) : Bool :=
  if k = 0 then true else if k = 6 then r.firstIter else if k = 7 then r.lastIter else r.p.getLsbD k.toNat

/-- A predicate register; the odd member is the complement of the even one (R20). -/
def Regs.pred (r : Regs) (n : PReg) : Bool := r.predEven (n.extractLsb' 1 3) != n.getLsbD 0

/-- A predicate pair written by its even member. -/
def Regs.setP (r : Regs) (k : BitVec 3) (b : Bool) : Regs :=
  { r with p := if b then r.p ||| (1#8 <<< k.toNat) else r.p &&& ~~~(1#8 <<< k.toNat) }

/-- The even member of a mask pair (R20). -/
def Regs.maskEven (r : Regs) (k : BitVec 3) : Mask := if k = 0 then BitVec.allOnes 256 else r.q[k.toNat]'(k.isLt)

/-- A mask register (R20). -/
def Regs.mask (r : Regs) (n : QReg) : Mask :=
  if n.getLsbD 0 then ~~~(r.maskEven (n.extractLsb' 1 3)) else r.maskEven (n.extractLsb' 1 3)

/-- A mask pair written by its even member. -/
def Regs.setQ (r : Regs) (k : BitVec 3) (w : Mask) : Regs := { r with q := r.q.set k.toNat w k.isLt }

/-- A format register (R38). -/
def Regs.fmReg (r : Regs) (f : BitVec 3) : BitVec 20 := r.fm[f.toNat]'(f.isLt)

/-- The address that a generator forms (R38): strides of the active levels, outermost first, modulo 2^32. -/
def Regs.agAddr (r : Regs) (n : BitVec 3) : BitVec 32 :=
  let g := r.ag[n.toNat]'(n.isLt)
  (r.loops.reverse.zip g.stride.toList).foldl (fun a p => a + p.1.index.setWidth 32 * p.2) g.base

/-- A generator's base or stride written (R156). -/
def Regs.setAg (r : Regs) (n : BitVec 3) (f : AddrGen → AddrGen) : Regs :=
  { r with ag := r.ag.set n.toNat (f (r.ag[n.toNat]'(n.isLt))) n.isLt }

/-- A result written to its register (R44, R96): the enabled byte lanes of a vector or mask, the whole of any other. -/
def Regs.land (r : Regs) (d : RegDest) (val : Vec) (en : Mask) : Regs :=
  match d with
  | .s n => r.setS n (val.setWidth 64)
  | .v n => r.setV n (vecMerge (r.vreg n) val en)
  | .p k => r.setP k (val.getLsbD 0)
  | .q k => r.setQ k ((r.maskEven k &&& ~~~en) ||| (val.setWidth 256 &&& en))
  | .fm f => { r with fm := r.fm.set f.toNat (val.setWidth 20) f.isLt }
  | .vrm => { r with vrm := val.setWidth 2 }
  | .vflags => { r with vflags := val.setWidth 5 }
  | .agBase n => r.setAg n fun g => { g with base := val.setWidth 32 }
  | .agStride n l => r.setAg n fun g =>
      if h : l.toNat < 6 then { g with stride := g.stride.set l.toNat (val.setWidth 32) h } else g

/-- One result lands, with the flags that it accumulates (R91). -/
def Regs.landResult (g : Regs) (r : InFlight) : Regs :=
  let g := g.land r.dest r.val r.en
  { g with vflags := g.vflags ||| r.flags }

/-- The results put in the order in which they land in one cycle: writes of vflags, then the others, each as issued. -/
def landingOrder (l : List InFlight) : List InFlight :=
  (l.filter fun r => r.dest == .vflags) ++ l.filter fun r => r.dest != .vflags

/-- The set of a release mark, once the task's first bundle issues in cycle `base` (R51, R56): the results due before it
have landed, in their order, and the others keep their offsets from it. -/
def Shadow.settle (h : Shadow) (base : Nat) : Shadow :=
  let due := sortBy (fun a b => decide (a.due < b.due)) (landingOrder (h.inflight.filter fun r => decide (r.due < base)))
  { h with
    base := base, regs := (due.filter InFlight.ready).foldl Regs.landResult h.regs,
    inflight := h.inflight.filter fun r => decide (base ≤ r.due) }

/-! ## The issuing bundle -/

/-- The context that is issuing. -/
def State.ref (s : State) : CtxRef := ⟨s.iss.cl, s.iss.co, s.iss.cx⟩
/-- The machine from which the slots of the bundle read (R18). -/
def State.pre (s : State) : Mach := s.iss.before.getD s.mach
/-- The context as the slots of the bundle read it. -/
def State.preCtx (s : State) : Context := s.pre.ctx s.ref
/-- The registers as the slots of the bundle read them. -/
def State.regs (s : State) : Regs := s.preCtx.regs
/-- The issue cycle. -/
def State.now (s : State) : Nat := s.pre.cyc s.iss.cl

/-- The predicate guard of a slot (R19). -/
def State.pguard (s : State) (h : Head) : Bool := s.regs.pred h.guard
/-- The mask guard of a slot (R19). -/
def State.mguard (s : State) (h : Head) : Mask := s.regs.mask h.guard
/-- A scalar register read at issue (R57). -/
def State.sreg (s : State) (n : SReg) : Word := s.regs.sreg n
/-- A vector register read at issue. -/
def State.vreg (s : State) (n : VReg) : Vec := s.regs.vreg n

def State.modMach (s : State) (f : Mach → Mach) : State := { s with mach := f s.mach }
def State.modCtx (s : State) (f : Context → Context) : State := s.modMach fun m => m.modCtx s.ref f
def State.modCore (s : State) (f : Core → Core) : State := s.modMach fun m => m.modCore s.iss.cl s.iss.co f

/-- An effect of a slot, unless the bundle is suppressed (R24). -/
def State.perform (s : State) (f : State → State) : State := if s.iss.raises.isEmpty then f s else s

/-- A predicated slot's effect (R19): nothing when the guard reads false. -/
def State.guarded (s : State) (h : Head) (f : State → State) : State := if s.pguard h then s.perform f else s

/-- A predicated slot whose checks are made even in a suppressed bundle (R24: the lowest cause of all its slots). -/
def State.checkedSlot (s : State) (h : Head) (f : State → State) : State := if s.pguard h then f s else s

/-- A result that lands `lat` cycles after issue (R44). -/
def State.result (s : State) (lat : Nat) (d : RegDest) (val : Vec) (en : Mask) (fl : Flags) : State :=
  let (id, m) := s.mach.fresh
  let r : InFlight := ⟨id, s.now + lat, d, val, en, fl, true, s.now, s.iss.baddr, s.iss.slot⟩
  { s with mach := m.modCtx s.ref fun x => { x with inflight := x.inflight ++ [r] } }

/-- A scalar result. -/
def State.scalar (s : State) (lat : Nat) (d : SReg) (w : Word) : State :=
  s.result lat (.s d) (w.setWidth 2048) (BitVec.allOnes 256) 0

/-- A predicate pair, available at c+1 (R76). -/
def State.predicate (s : State) (k : BitVec 3) (b : Bool) : State :=
  s.result 1 (.p k) (if b then 1 else 0) (BitVec.allOnes 256) 0

/-- A result whose value is supplied by a later sample: its identifier and the machine with it. -/
def State.await (s : State) (lat : Nat) (d : RegDest) (en : Mask) : Nat × State :=
  let (id, m) := s.mach.fresh
  let r : InFlight := ⟨id, s.now + lat, d, 0, en, 0, false, s.now, s.iss.baddr, s.iss.slot⟩
  (id, { s with mach := m.modCtx s.ref fun x => { x with inflight := x.inflight ++ [r] } })

/-- The value of a result, wherever the result stands: in flight, captured at a mark or in the snapshot. -/
def InFlight.fill (id : Nat) (val : Vec) (fl : Flags) (l : List InFlight) : List InFlight :=
  l.map fun r => if r.id = id then { r with val := val, flags := r.flags ||| fl, ready := true } else r

def Context.fill (x : Context) (id : Nat) (val : Vec) (fl : Flags) : Context :=
  { x with
    inflight := InFlight.fill id val fl x.inflight,
    shadow := x.shadow.map fun h => { h with inflight := InFlight.fill id val fl h.inflight },
    snap := x.snap.map fun h => { h with inflight := InFlight.fill id val fl h.inflight } }

/-- Results counted from one cycle, counted from another (R52, R55). -/
def InFlight.rebase (base r : Nat) (l : List InFlight) : List InFlight :=
  l.map fun x => { x with due := x.due - base + r }

/-! ## Trap records, interrupt identities and events -/

/-- An identity set pending (R216). -/
def Cluster.setPending (c : Cluster) (ident : Nat) : Cluster :=
  if ident = 0 ∨ 1023 < ident then c else { c with ifpend := c.ifpend ||| (1#1024 <<< ident) }

/-- The identity of a trap record (R173). -/
def trapIdentity (cause : BitVec 8) : Nat := if cause.toNat ≤ 0x0E then cause.toNat else 15

/-- A trap record (R172). DESIGN CHOICE: the address of a bundle that begins past the store, at 0x4_0000, reads 0 in the
record's field of 18 bits (R23; log entry 37). -/
def trapRecord (seq mask cause : BitVec 8) (r : CtxRef) (lvl : BitVec 3) (act : BitVec 2) (baddr : PC)
    (fret detail : Word) : BitVec 256 :=
  0#24 ++ seq ++ mask ++ cause ++ r.cl ++ r.co ++ r.cx ++ lvl ++ act ++ 0#46 ++ baddr.setWidth 18 ++ fret ++ detail

/-- A record enters the trap queue (R173, R216): dropped when the queue is full, its number consumed and its identity
set pending all the same. -/
def Cluster.pushTrap (c : Cluster) (mask cause : BitVec 8) (r : CtxRef) (lvl : BitVec 3) (act : BitVec 2)
    (baddr : PC) (fret detail : Word) : Cluster :=
  let rec' := trapRecord c.tqSeq mask cause r lvl act baddr fret detail
  let c := { c with tqSeq := c.tqSeq + 1 }
  let c :=
    if c.tqCount < 32 then
      { c with tqrec := c.tqrec.put ((c.tqHead.toNat + c.tqCount) % 32) rec', tqCount := c.tqCount + 1 }
    else { c with tqOvf := min 65535 (c.tqOvf + 1) }
  c.setPending (trapIdentity cause)

/-- Ranks of R174 within a cycle. -/
def rankCollision : Nat := 0
def rankLate : Nat := 1
def rankMatrix : Nat := 2
def rankEngine : Nat := 3
def rankSoftware : Nat := 4

/-- An event of the cycle in progress (R174). -/
def Core.event (k : Core) (e : EventNew) : Core := { k with evNew := k.evNew ++ [e] }

/-- The record of an event (R174). -/
def eventRecord (e : EventNew) (lost : Nat) : BitVec 128 :=
  e.detail ++ e.fret ++ e.baddr.setWidth 18 ++ e.slot ++ e.ctx ++ BitVec.ofNat 16 (min lost 65535) ++ 0#8 ++ e.code

/-- The low 40 bits of the Fret count. -/
def Mach.fret40 (m : Mach) : BitVec 40 := BitVec.ofNat 40 m.pk.fret

/-! ## Domains and capo grants -/

/-- Levels returned to the domain in tick `t` (R169): they count from the next one. -/
def Mach.returnLevels (m : Mach) (cl : ClusterId) (t n : Nat) : Mach :=
  m.modDom (domOf cl) fun d => { d with returned := d.returned ++ [(t, n)] }

/-- The request of a context withdrawn. -/
def Mach.dropCapoReq (m : Mach) (r : CtxRef) : Mach :=
  m.modDom (domOf r.cl) fun d => { d with capo := d.capo.filter fun q => q.ctx != r }

/-! ## The effects of a context outside itself -/

/-- An effect performed everywhere (R272). -/
def Mach.performed (m : Mach) (id : Nat) : Mach :=
  m.modPk fun p => { p with outs := p.outs.filter fun o => o.id != id }

/-- Engine accesses to the SRAMs of a cluster are held: it is frozen, or its tier halted (R207, R224). -/
def Mach.sramHeld (m : Mach) (cl : ClusterId) : Bool := (m.cluster cl).engHeld || (m.dom (domOf cl)).halted

/-- A test of every number below `n`. -/
def allBelow (f : Nat → Bool) : Nat → Bool
  | 0 => true
  | n + 1 => f n && allBelow f n

/-- The parts of the local space (R116). -/
inductive Region where
  | lm | sp | irq | nothing
  deriving DecidableEq, Repr

/-- The decode of a local address (R116). -/
def region (a : Nat) : Region :=
  if a ≤ 0x1FFFFF then .lm
  else if 0x40000000 ≤ a ∧ a ≤ 0x41FFFFFF then .sp
  else if 0x70000000 ≤ a ∧ a ≤ 0x7001FFFF then .irq
  else .nothing

/-- A layout record as a group of eight registers holds it (R248). -/
def layoutOf (ws : List Word) : Layout :=
  let w := (ws.drop 1).foldr (fun x acc => x.toNat + 2 ^ 64 * acc) 0
  let field := fun (lo n : Nat) => w / 2 ^ lo % 2 ^ n
  let nd := field 18 4
  { base := ws.headD 0, tag := BitVec.ofNat 16 (field 0 16), esize := 2 ^ field 16 2, nd := nd,
    space := BitVec.ofNat 2 (field 22 2), core := BitVec.ofNat 3 (field 24 3), rsvd := decide (field 27 1 = 1),
    dims := (List.range (nd + 1)).map fun d =>
      (field (28 + 42 * d) 16 + 1, (BitVec.ofNat 26 (field (28 + 42 * d + 16) 26)).toInt) }

/-- The number of elements of a record (R249). -/
def Layout.count (l : Layout) : Nat := l.dims.foldl (fun n d => n * d.1) 1

/-- The offset of element `e` in elements (R249): dimension 0 varies fastest. -/
def offsetOf : List (Nat × Int) → Nat → Int
  | [], _ => 0
  | d :: rest, e => (e % d.1 : Nat) * d.2 + offsetOf rest (e / d.1)

/-- The address of element `e` (R249): exact, with no wrap. -/
def Layout.addr (l : Layout) (e : Nat) : Int := (l.base.toNat : Int) + (l.esize : Int) * offsetOf l.dims e

/-- The least and the greatest address that a record's elements touch. -/
def Layout.extent (l : Layout) : Int × Int :=
  let reach := l.dims.map fun d => ((d.1 : Int) - 1) * d.2
  let lo := reach.foldl (fun a x => a + min 0 x) 0
  let hi := reach.foldl (fun a x => a + max 0 x) 0
  ((l.base.toNat : Int) + l.esize * lo, (l.base.toNat : Int) + l.esize * hi + l.esize - 1)

/-- Where the local destination of a copy lies (R271). -/
def copyPlaces (r : CtxRef) (l : Layout) : List EffPlace :=
  if l.space = 0 then [.anywhere]
  else if region l.extent.1.toNat = .sp then [.cluster r.cl]
  else [.record r.cl (if l.space = 2 then l.core else r.co) l]

/-- Where an effect's accesses perform, once known (R272). -/
def Mach.placed (m : Mach) (id : Nat) (places : List EffPlace) : Mach :=
  m.modPk fun p => { p with outs := p.outs.map fun o => if o.id = id then { o with places := places } else o }

/-- A line number lies in a window. -/
def Window.has (w : Window) (line : Nat) : Bool := decide (w.base ≤ line) && decide (line ≤ w.limit)

/-- A place lies within a scope of a context (R271). -/
def EffPlace.within (m : Mach) (r : CtxRef) (sc : FScope) (p : EffPlace) : Bool :=
  let own := fun (a : Nat) => (m.ctx r).lmWin.any fun w => w.has (a / 256)
  let lmRank := fun (cl : ClusterId) (co : CoreId) (inside : Bool) =>
    if cl ≠ r.cl then (if domOf cl = domOf r.cl then 3 else 4) else if co ≠ r.co then 2 else if inside then 0 else 1
  let rank : Nat := match p with
    | .anywhere => 0
    | .lm cl co a b => lmRank cl co ((List.range (b / 256 - a / 256 + 1)).all fun i => own (a + 256 * i))
    | .record cl co l => lmRank cl co (allBelow (fun e => own (l.addr e).toNat) l.count)
    | .cluster cl => if cl = r.cl then 2 else if domOf cl = domOf r.cl then 3 else 4
    | .vault v => if v = r.cl.toNat then 2 else if domOf (BitVec.ofNat 5 v) = domOf r.cl then 3 else 4
    | .bridge cl => if domOf cl = domOf r.cl || quadOf cl = quadOf r.cl then 3 else 4
    | .quad q => if q = quadOf r.cl then 3 else 4
    | .package => 4
    | .host => 5
    | .farEnd => 5
  let lim : Nat := match sc with
    | .context => 0
    | .core => 1
    | .cluster => 2
    | .tier => 3
    | .package => 4
    | .system => 5
  decide (rank ≤ lim)

/-- An outstanding effect has performed at a scope (R272): all that is left of it lies outside. -/
def Mach.performedAt (m : Mach) (r : CtxRef) (sc : FScope) (id : Nat) : Bool :=
  !m.pk.outs.any fun o => o.id == id && o.places.any fun p => p.within m r sc

/-- A fence's condition holds (R273). -/
def Mach.fenceMet (m : Mach) (f : FencePoint) : Bool := f.waits.all fun w => m.performedAt f.ctx f.scope w

/-- No fence holds a command any longer (R273): the hold ended in an earlier tick. -/
def Mach.free? (m : Mach) (holds : List Nat) : Bool :=
  holds.all fun h => !m.pk.fences.any fun f =>
    f.id == h && (match f.ended with
      | none => true
      | some t => decide (m.pk.fret ≤ t))

/-- The kinds of a fence's field [7:3] (R162). -/
def kindIn (kinds : BitVec 5) (k : EffKind) : Bool :=
  kinds.getLsbD (match k with
    | .st => 0 | .cp => 1 | .en => 2 | .io => 3 | .br => 4)

/-- The kind of an entry's effect (R162), where a fence names it. -/
def Effect.fenceKind : Effect → Option EffKind
  | .store _ _ | .irq _ _ | .atomic _ => some .st
  | .cmd c =>
    match c with
    | .cpy _ _ _ _ _ => some .cp
    | .famo _ _ _ _ _ _ _ | .pool _ _ _ _ | .qpush _ _ | .qpop _ _ | .qcount _ _ | .scope _ _ => some .en
    | .txt _ _ _ _ _ | .sio _ _ _ _ _ | .net _ _ _ _ | .evtPost _ _ _ | .evtIrq _ _ => some .io
    | .brgPush _ => some .br
    | .brgPop => none

/-- The entry is a command that a fence holds (R162): an engine command or a push. -/
def Effect.held : Effect → Bool
  | .store _ _ | .irq _ _ | .atomic _ => false
  | .cmd c =>
    match c with
    | .brgPop => false
    | .cpy _ _ _ _ _ | .famo _ _ _ _ _ _ _ | .pool _ _ _ _ | .qpush _ _ | .qpop _ _ | .qcount _ _ | .scope _ _
    | .txt _ _ _ _ _ | .sio _ _ _ _ _ | .net _ _ _ _ | .evtPost _ _ _ | .evtIrq _ _ | .brgPush _ => true

/-- The places of a list of local bytes: those of LM by their lines. -/
def bytePlace (r : CtxRef) (space : Space) (addrs : List Nat) : List EffPlace :=
  match space with
  | .sp => if addrs.isEmpty then [] else [.cluster r.cl]
  | .lm => ((addrs.map fun a => a / 256).dedup).map fun n => .lm r.cl r.co (256 * n) (256 * n + 255)

/-- The image to which a context is bound. -/
def Package.image (p : Package) (part : BitVec 3) (n : BitVec 12) : Option Image :=
  p.images.find? fun i => i.part == part && i.num == n

/-- The image of a context (R177: its last binding, while the image stays admitted). -/
def Mach.imageOf (m : Mach) (r : CtxRef) : Option Image :=
  match (m.ctx r).img with
  | none => none
  | some n => m.pk.image (m.ctx r).part n

/-- The pool of a handle of an image. -/
def Package.poolOf (p : Package) (part : BitVec 3) (img : Option (BitVec 12)) (h : BitVec 12) : Option Pool :=
  p.pools.find? fun o => o.opened && o.handle == h && o.part == part && some o.img == img

/-- The handle that a pool command names (R262). -/
def poolHandle (op : PoolOp) (a : Word) : BitVec 12 := if op = .pubAfter then a.extractLsb' 48 12 else a.setWidth 12

/-- The quadrant whose directory holds the pool that a command of a context names; its own where none does. -/
def Package.poolQuad (p : Package) (r : CtxRef) (part : BitVec 3) (img : Option (BitVec 12)) (op : PoolOp) (a : Word) : Quad :=
  ((p.poolOf part img (poolHandle op a)).map fun x => quadOf x.writer.cl).getD (quadOf r.cl)

/-- Where an entry performs, as far as it is known at its commit (R271): the registers read at issue name the local bytes of a
copy and the pool of a pool command. A command that brings data from a far end writes
it to virtual memory too, at places not yet translated (R272). -/
def Mach.effPlaces (m : Mach) (r : CtxRef) (e : Effect) : List EffPlace :=
  match e with
  | .store m' bytes => bytePlace r m' (bytes.map Prod.fst)
  | .irq cl _ => [.cluster cl]
  | .atomic a => bytePlace r a.space [a.addr, a.addr + a.n - 1]
  | .cmd c =>
    match c with
    | .cpy _ dst _ _ _ => copyPlaces r (layoutOf dst)
    | .famo _ _ _ _ _ _ _ => [.anywhere]
    | .pool op a _ _ => [.quad (m.pk.poolQuad r (m.ctx r).part (m.ctx r).img op a)]
    | .qpush _ _ | .qpop _ _ | .qcount _ _ | .scope _ _ =>
      match m.imageOf r with
      | none => [.package]
      | some i => [.quad i.home]
    | .txt false _ _ _ _ | .sio .flush _ _ _ _ | .sio .wr _ _ _ _ | .net .send _ _ _ | .net .write _ _ _ => [.farEnd]
    | .txt true _ _ _ _ | .sio .rd _ _ _ _ | .net .read _ _ _ => [.farEnd, .anywhere]
    | .evtPost _ tgt _ =>
      match ((m.core r.cl r.co).ctx tgt).evtArea with
      | none => []
      | some (b, n) => [.lm r.cl r.co b (b + 16 * n - 1)]
    | .evtIrq cl _ => [.cluster cl]
    | .brgPush _ => [.bridge r.cl]
    | .brgPop => []

/-- The kinds that a command waits for as if a package fence stood before it (R265, R275). -/
def Effect.impliedFence : Effect → Option (BitVec 5)
  | .store _ _ | .irq _ _ | .atomic _ => none
  | .cmd c =>
    match c with
    | .pool .pub _ _ _ => some 0b00111
    | .famo _ .rel _ _ _ _ _ | .famo _ .ar _ _ _ _ _ => some 0b11111
    | .pool _ _ _ _ | .famo _ _ _ _ _ _ _ | .cpy _ _ _ _ _ | .qpush _ _ | .qpop _ _ | .qcount _ _ | .scope _ _
    | .txt _ _ _ _ _ | .sio _ _ _ _ _ | .net _ _ _ _ | .evtPost _ _ _ | .evtIrq _ _ | .brgPush _ | .brgPop => none

/-- The committed effects of a context, not performed, of some kinds. -/
def Package.outsOf (p : Package) (r : CtxRef) (kinds : BitVec 5) : List Nat :=
  (p.outs.filter fun o => o.ctx == r && kindIn kinds o.kind).map Outstanding.id

/-- An ordering point in a context's drain stream (R162): a fence's, or that of one command `only` (R265, R275). -/
def Mach.placeFence (m : Mach) (r : CtxRef) (kinds : BitVec 5) (sc : FScope) (only : Bool) : Nat × Mach :=
  let (id, m) := m.fresh
  (id, m.modPk fun p => { p with fences := p.fences ++ [⟨id, r, sc, p.outsOf r kinds, none, only⟩] })

/-- An entry commits (R49): it waits for the drain; `own` are the fences of its own bundle, before which it counts
(R273). -/
def Mach.commitEntry (m : Mach) (r : CtxRef) (own : List (Nat × BitVec 5)) (e : Entry) : Mach :=
  let holds := if e.eff.held then
      (m.pk.fences.filter fun f => f.ctx == r && !f.only && !(own.any fun o => o.1 == f.id) && !(m.fenceMet f && f.ended.isNone)).map
        FencePoint.id
    else []
  let (holds, m) := match e.eff.impliedFence with
    | none => (holds, m)
    | some k => let (id, m) := m.placeFence r k .package true; (holds ++ [id], m)
  let m := match e.eff.fenceKind with
    | none => m
    | some k => m.modPk fun p =>
        { p with
          outs := p.outs ++ [(⟨e.id, r, k, m.effPlaces r e.eff⟩ : Outstanding)],
          fences := p.fences.map fun (f : FencePoint) =>
            if own.any fun o => o.1 == f.id && kindIn o.2 k then { f with waits := f.waits ++ [e.id] } else f }
  let x := m.ctx r
  m.modCore r.cl r.co fun c => { c with drain := c.drain ++ [⟨r.cx, e, m.cyc r.cl + 1, holds, x.img, x.part, x.ast⟩] }

/-- Every entry of a context's gating buffer commits (R49). -/
def Mach.commitAll (m : Mach) (r : CtxRef) (own : List (Nat × BitVec 5)) : Mach :=
  let es := (m.ctx r).gate
  es.foldl (fun m e => m.commitEntry r own e) (m.modCtx r fun x => { x with gate := [] })

/-- An entry of the issuing bundle enters the gating buffer (R48), or commits with the commit point that its bundle
holds (R18). -/
def State.gatePush (s : State) (k : GKind) (e : Effect) : State :=
  let (id, m) := s.mach.fresh
  let en : Entry := ⟨id, k, e, s.now, s.iss.baddr, s.iss.slot⟩
  if s.iss.commit then { s with mach := m.commitEntry s.ref s.iss.fences en }
  else { s with mach := m.modCtx s.ref fun x => { x with gate := x.gate ++ [en] } }

/-! ## Loop levels and control -/

/-- Bytes of a slot word in the instruction store (R14: 0xFFFF_FFFF outside the images' code). -/
def Core.slotWord (k : Core) (a : Nat) : SlotWord := BitVec.ofNat 32 (natOfBytes (k.istore.bytes 0xFF a 4))

/-- The slots of the bundle at an address, at most `fuel`, and whether one of them ends it (R17). -/
def Core.frame (k : Core) (a : Nat) : Nat → List SlotWord × Bool
  | 0 => ([], false)
  | fuel + 1 =>
    if a > 0x3FFFC then ([], false)
    else
      let w := k.slotWord a
      if w.getLsbD 31 then ([w], true)
      else
        let r := k.frame (a + 4) fuel
        (w :: r.1, r.2)

/-- The bundle at an address, and whether one of its slots ends it (R17). The word past the end of the store, to which a
bundle that ends at 0x3_FFFC falls through, lies outside every image's code and reads 0xFFFF_FFFF: a one-slot bundle (log
entry 37). -/
def Core.bundleAt (k : Core) (a : Nat) : List SlotWord × Bool :=
  if 0x3FFFC < a then ([BitVec.allOnes 32], true) else k.frame a 8

/-- The address after the bundle at an address. -/
def Core.bundleEnd (k : Core) (a : Nat) : Nat := a + 4 * (k.bundleAt a).1.length

/-- The address of the `n`-th bundle after the one at `a`. -/
def Core.bundleAfter (k : Core) (a : Nat) : Nat → Nat
  | 0 => a
  | n + 1 => k.bundleAfter (k.bundleEnd a) n

/-- The innermost level's step at the body end `e` (R41): the levels after it, the bundle it selects if it does not
pop, and whether the next level outward ends there too. -/
def stepLevel (e : PC) (loops : List LoopLevel) : List LoopLevel × Option PC × Bool :=
  match loops with
  | [] => ([], none, false)
  | l :: rest =>
    if l.index.toNat + 1 < l.count.toNat then ({ l with index := l.index + 1 } :: rest, some l.start, false)
    else (rest, none, match rest with
      | [] => false
      | l' :: _ => l'.stop == e)

/-- Every level that ends at `e`, stepped from the innermost outward (R41): the levels and the bundle selected, if one
does not pop. -/
def stepLevels (e : PC) : Nat → List LoopLevel → List LoopLevel × Option PC
  | 0, loops => (loops, none)
  | n + 1, loops =>
    match loops with
    | [] => ([], none)
    | l :: rest =>
      if l.stop ≠ e then (l :: rest, none)
      else
        match stepLevel e (l :: rest) with
        | (ls, some pc, _) => (ls, some pc)
        | (ls, none, _) => stepLevels e n ls

/-- The bundle at `e` would have issued and transferred no control: the context at the bundle that follows (R178). -/
def Context.stepPast (x : Context) (e after : PC) : Context :=
  let r := stepLevels e 6 x.regs.loops
  { x with regs := { x.regs with loops := r.1 }, pc := r.2.getD after }

/-! ## Ends of contexts -/

/-- Pops of a gating buffer that are not final (R220). -/
def popsIn (g : List Entry) : Nat :=
  (g.filter fun e => match e.eff with
    | .cmd .brgPop => true
    | .cmd _ | .store _ _ | .irq _ _ | .atomic _ => false).length

/-- Uncommitted pops discarded (R220). -/
def Core.dropPops (k : Core) (cx : CtxId) : Core :=
  { k with bridge := { k.bridge with u := k.bridge.u - popsIn (k.ctx cx).gate } }

/-- A context that stops issuing leaves its core free for selection from the next cycle (R165). -/
def Core.leave (k : Core) (cx : CtxId) (cyc : Nat) : Core :=
  if k.running = some cx then { k with running := none, selFrom := cyc + 1 } else k

/-- What a context holds in pools, queues and scopes given up (R65, R180): pins, held slots, waits, undelivered entries. An
entry that was in delivery stands at the head again, by its age among the queue's pushes (R286, R288). -/
def Package.release (p : Package) (r : CtxRef) (img : Option (BitVec 12)) (part : BitVec 3) (kill : Bool) : Package :=
  { p with
    outs := p.outs.filter fun e => !(kill && p.pools.any fun o => o.pend && o.writer == r && o.peff == e.id),
    pools := p.pools.map fun o =>
      if o.part = part ∧ some o.img = img then
        { o with releases := (o.releases.filter fun q => q.1 != r) ++ [(r, kill)],
                 pend := if kill && o.writer == r then false else o.pend }
      else o,
    queues := p.queues.map fun q =>
      { q with
        waits := q.waits.filter fun w => w.ctx != r,
        entries := if kill then sortBy (fun a b => decide ((a.num - q.next).toNat < (b.num - q.next).toNat))
            (((q.delivers.filter fun d => d.ctx == r).map QDeliver.entry) ++ q.entries)
          else q.entries,
        delivers := if kill then q.delivers.filter fun d => d.ctx != r else q.delivers },
    scopes := p.scopes.map fun c => { c with waits := c.waits.filter fun w => w != r },
    path := p.path.filter fun g => !(g.org.ctx == r && (match g.msg with
      | .waitQ _ | .waitSc _ => true
      | .pool _ _ _ _ | .qpush _ _ | .qpop _ _ | .qcount _ _ | .scope _ _ | .taskEnd _ => false)) }

/-- A context stops with its results in flight: a division among them is captured, and frees the divider (R55). One that a
rollback has discarded is not among them, and holds the divider for its eighteen cycles (R74). -/
def Core.freeDivider (k : Core) (cx : CtxId) : Core :=
  if k.divCx = cx ∧ (k.ctx cx).inflight.any (fun r => r.id == k.divId) then { k with divFree := 0 } else k

/-- The level that a context holds, or falls to in the cycle in progress (R169). -/
def Context.level (x : Context) : Nat := (x.capoNext.getD x.capo).toNat

/-- An ended context has no level and no request for one (R65). -/
def Mach.dropLevel (m : Mach) (r : CtxRef) : Mach :=
  (m.dropCapoReq r).modCtx r fun x => { x with capo := 0, capoReq := none, capoNext := none }

/-- What an ended context held outside its core given up in tick `t` (R65, R180): its `n` levels, and what
`Package.release` names. -/
def Mach.giveUp (m : Mach) (r : CtxRef) (img : Option (BitVec 12)) (part : BitVec 3) (kill : Bool) (t n : Nat) : Mach :=
  (m.returnLevels r.cl t n).modPk fun p => p.release r img part kill

/-- The task that a delivered entry has started ends (R290). -/
def Context.endTask (x : Context) (cyc : Nat) : Context :=
  match x.entryScope with
  | none => x
  | some (k, _) => { x with taskEnds := x.taskEnds ++ [⟨k, cyc⟩], entryScope := none }

/-- A context stops for good (R65, R180): by exit, its entries already committed, or killed, its uncommitted entries
discarded. The divider stays held (R74). -/
def Mach.stopCtx (m : Mach) (r : CtxRef) (kill : Bool) : Mach :=
  let x := m.ctx r
  let cyc := m.cyc r.cl
  let m := m.modCore r.cl r.co fun k =>
    ((k.dropPops r.cx).leave r.cx cyc).modCtx r.cx fun x =>
      { x.endTask cyc with
               run := .ended, wait := .never, inflight := [], loads := [], gate := [], shadow := none, snap := none,
               regs := { x.regs with loops := [] }, counting := false, badTarget := none, stepAt := none,
               waitMsg := false }
  match x.gang with
  | none => m
  | some g =>
    if kill then m.modCluster r.cl fun c =>
      match c.gangs.find g.toNat with
      | none => c
      | some gg => { c with gangs := c.gangs.put g.toNat { gg with killed := gg.killed ++ [(r.co, r.cx)] } }
    else m

/-- A context ends, and gives up what it holds outside its core, in tick `t` (R65, R180). -/
def Mach.endCtx (m : Mach) (r : CtxRef) (kill : Bool) (t : Nat) : Mach :=
  let x := m.ctx r
  ((m.stopCtx r kill).dropLevel r).giveUp r x.img x.part kill t x.level

/-- A context holds a bound activity (R65). -/
def Context.bound (x : Context) : Bool :=
  match x.run with
  | .unbound | .ended => false
  | .waiting | .released | .running => true

/-- A kill (R180); of a context already ended it changes nothing (R293). -/
def Mach.kill (m : Mach) (r : CtxRef) : Mach := if (m.ctx r).bound then m.endCtx r true m.pk.fret else m

/-- The contexts of a cluster bound to an image. -/
def Mach.imageCtxs (m : Mach) (cl : ClusterId) (part : BitVec 3) (n : BitVec 12) : List CtxRef :=
  coreIds.flatMap fun co => (ctxIds.map fun cx => (⟨cl, co, cx⟩ : CtxRef)).filter fun r =>
    let x := m.ctx r
    x.bound && x.img == some n && x.part == part

/-- Every context of an image, of one cluster or of the package. -/
def Mach.killAll (m : Mach) (rs : List CtxRef) : Mach := rs.foldl (fun m r => m.kill r) m

/-- One thing that the containment of a trap still has to do, done in tick `t` (R180, R224, R293). -/
def Mach.ending (m : Mach) (t : Nat) (e : Ending) : Mach :=
  match e with
  | .holdings r img part n => m.giveUp r img part true t n
  | .kill r img part =>
    let x := m.ctx r
    if x.bound && x.img == img && x.part == part then m.endCtx r true t else m
  | .retire part n => { m with todo := .event (.admcmdRetire part n) :: m.todo }

/-- What the containment of a cluster's traps still has to do (R180, R224), done in tick `t`. -/
def Mach.endings (m : Mach) (cl : ClusterId) (t : Nat) : Mach :=
  (m.cluster cl).ending.foldl (fun m e => m.ending t e) (m.modCluster cl fun c => { c with ending := [] })

/-- The containment of a trap of cluster `cl` has one more thing to do: in the next Fret tick or in the cluster's next core
cycle, whichever comes first, and after a halt if one begins before (R224). -/
def Mach.owe (m : Mach) (cl : ClusterId) (e : Ending) : Mach :=
  m.modCluster cl fun c => { c with ending := c.ending ++ [e] }

/-- The kill of a trap's containment in cluster `cl` (R180, R224): a context of the cluster's domain stops at once, and
what it holds outside its core, as the life of a context of another domain, ends with the rest of the containment. -/
def Mach.trapKill (m : Mach) (cl : ClusterId) (r : CtxRef) : Mach :=
  let x := m.ctx r
  if !x.bound then m
  else if domOf r.cl = domOf cl then ((m.stopCtx r true).dropLevel r).owe cl (.holdings r x.img x.part x.level)
  else m.owe cl (.kill r x.img x.part)

/-- The containment of a trap has stopped a context in the last core cycle before a halt, and takes effect after it (R224). -/
def Mach.containing (m : Mach) (r : CtxRef) : Bool :=
  (m.dom (domOf r.cl)).halted && clusterIds.any fun cl => (m.cluster cl).ending.any fun e => match e with
    | .holdings q _ _ _ => q == r
    | .kill _ _ _ | .retire _ _ => false

/-- A context holds a bound activity, as what lies outside its core finds it (R65, R224). -/
def Mach.boundAt (m : Mach) (r : CtxRef) : Bool := (m.ctx r).bound || m.containing r

/-- Every context of a containment level killed. -/
def Mach.trapKillAll (m : Mach) (cl : ClusterId) (rs : List CtxRef) : Mach := rs.foldl (fun m r => m.trapKill cl r) m

/-! ## Rollback -/

/-- The entries and results of a discarded region are dropped and the shadow set restored (R52): `d` is the cycle of
the fault. A running context resumes at d+4; a pre-empted one when it is next selected, no earlier than d+4. -/
def Context.rollback (x : Context) (running : Bool) (d : Nat) : Context :=
  match x.shadow with
  | none => x
  | some h =>
    let keep := fun (l : Load) => h.inflight.any fun r => r.id == l.id
    let x := { x with
      regs := h.regs, pc := h.pc, gate := [], loads := x.loads.filter keep, unrestartable := false,
      nextIssue := d + 4, first := h.release, badTarget := h.bad, stepAt := none, steppedBody := false }
    if running then { x with inflight := InFlight.rebase h.base (d + 4) h.inflight, snap := none }
    else { x with inflight := [], snap := some ⟨h.base, h.inflight⟩ }

/-- Arrivals from bundles that a rollback discards (R213). -/
def Cluster.dropArrivals (c : Cluster) (co : CoreId) (cx : CtxId) (mark : Option Nat) : Cluster :=
  { c with arrivals := c.arrivals.filter fun a =>
      !(a.sender == co && a.cx == cx && (match mark with
        | none => true
        | some t => decide (t < a.issued))) }

/-- Traps found in the cycle in progress, at issue or at a sample, by bundles that a rollback discards: they are taken no
longer (log entry 18). -/
def Cluster.dropTraps (c : Cluster) (r : CtxRef) : Cluster :=
  { c with pend := c.pend.filter fun t => !(t.ctx == r && t.pos != .effect) }

/-- One context rolls back (R52). -/
def Mach.rollbackCtx (m : Mach) (r : CtxRef) : Mach :=
  let d := m.cyc r.cl
  let mark := (m.ctx r).markAt
  let m := m.modCluster r.cl fun c => (c.dropArrivals r.co r.cx mark).dropTraps r
  m.modCore r.cl r.co fun k =>
    let run := k.running == some r.cx
    let k := k.dropPops r.cx
    k.modCtx r.cx fun x => x.rollback run d

/-- A gang rolls back to its common mark (R211): every member that is not killed, and the arrivals captured there, each at
its offset from the resume bundle, before it where it fell due before the first bundle of a release (R213). -/
def Mach.rollbackGang (m : Mach) (cl : ClusterId) (g : Gang) : Mach :=
  let d := m.cyc cl
  let live := g.members.filter fun x => !g.killed.contains x
  let m := live.foldl (fun m x => m.rollbackCtx ⟨cl, x.1, x.2⟩) m
  m.modCluster cl fun c =>
    { c with arrivals := (c.arrivals.filter fun a => !live.contains (a.sender, a.cx)) ++
        g.captured.map fun a => { a with due := a.due + (d + 4) - g.base } }

/-! ## Taking a trap -/

/-- The levels of containment (R178). -/
inductive TrapLevel where
  | context | gang | cluster | image | partition
  deriving DecidableEq, Repr

def TrapLevel.code : TrapLevel → BitVec 3
  | .context => 0 | .gang => 1 | .cluster => 2 | .image => 3 | .partition => 4

/-- What a kill ends (R293). -/
inductive KillScope where
  | context | gang | cluster | image | retire
  deriving DecidableEq, Repr

/-- The action taken (R172, R178). -/
inductive TrapAct where
  | ignore | retry | kill (k : KillScope)
  deriving DecidableEq, Repr

def TrapAct.code : TrapAct → BitVec 2
  | .ignore => 0 | .retry => 1 | .kill _ => 2

/-- The causes that ignore absorbs (R179): 0x10 to 0x14 when detected after issue. -/
def ignorable (cause : BitVec 8) (pos : TrapAt) : Bool :=
  let c := cause.toNat
  c == 4 || c == 5 || c == 6 || c == 8 || c == 9 || c == 0x0D ||
    (decide (0x10 ≤ c) && decide (c ≤ 0x14) && decide (pos = .effect))

/-- A command dropped after issue: retry acts as ignore (R179). -/
def lateCommand (cause : BitVec 8) (pos : TrapAt) : Bool := decide (0x10 ≤ cause.toNat) && decide (pos = .effect)

/-- What kill parent ends (R293). -/
def TrapLevel.parent (l : TrapLevel) (ganged : Bool) : KillScope :=
  match l with
  | .context => if ganged then .gang else .cluster
  | .gang => .cluster
  | .cluster => .image
  | .image => .retire
  | .partition => .retire

/-- What kill self ends (R293). -/
def TrapLevel.self : TrapLevel → KillScope
  | .context => .context | .gang => .gang | .cluster => .cluster | .image => .image | .partition => .retire

/-- A level with its policy, its retry count and whether R53 and R211 forbid a rollback there. -/
structure LevelPolicy where
  lvl    : TrapLevel
  policy : Nat
  retry  : Nat
  unrestartable : Bool
  deriving DecidableEq, Repr

/-- The first level, from the context outward, that absorbs a trap (R178, R179, R293), with the cause that R53 makes
of it and the action. A gang member's context never absorbs by retry (R211). -/
def contain (ganged : Bool) (pos : TrapAt) : List LevelPolicy → BitVec 8 → TrapLevel × TrapAct × BitVec 8
  | [], cause => (.partition, .kill .retire, cause)
  | l :: rest, cause =>
    let up := contain ganged pos rest cause
    let ign := if ignorable cause pos then (l.lvl, .ignore, cause) else up
    match l.policy with
    | 0 => ign
    | 1 =>
      match l.lvl with
      | .cluster | .image => ign
      | .partition => up
      | .context | .gang =>
        if lateCommand cause pos then (l.lvl, .ignore, cause)
        else if cause = 0x0E || (ganged && decide (l.lvl = .context)) || l.retry == 0 then up
        else if l.unrestartable then contain ganged pos rest 0x0E
        else (l.lvl, .retry, cause)
    | 2 => (l.lvl, .kill l.lvl.self, cause)
    | _ => (l.lvl, .kill (l.lvl.parent ganged), cause)

/-- The levels above a context with their policies (R293). -/
def Mach.levels (m : Mach) (t : Trap) : List LevelPolicy :=
  let x := m.ctx t.ctx
  let own := x.img == t.img && x.part == t.part
  let late := match x.markAt with
    | none => false
    | some k => decide (t.issued ≤ k)
  let gang := match x.gang with
    | none => none
    | some g => (m.cluster t.ctx.cl).gangs.find g.toNat
  let image := match t.img with
    | none => none
    | some n => m.pk.image t.part n
  let ctxL := if own then [⟨.context, x.policy.toNat, x.retry, x.unrestartable || late⟩] else []
  let gangL := match gang with
    | none => []
    | some g =>
      if own then
        let live := g.members.filter fun c => !g.killed.contains c
        [⟨.gang, g.policy.toNat, g.retry,
          g.lone || late || live.any fun c => (m.ctx ⟨t.ctx.cl, c.1, c.2⟩).unrestartable⟩]
      else []
  let imgL := match image with
    | none => []
    | some i => [⟨.cluster, i.clPol.toNat, 0, false⟩, ⟨.image, i.imPol.toNat, 0, false⟩]
  ctxL ++ gangL ++ imgL

/-- Results counted anew for a context that resumes after a trap at `d` (R55): those due before `c0` have landed. A bundle
after a suppressed first one is no first bundle: a capo.acq there traps (R69; log entry 37). -/
def Context.resumeAt (x : Context) (c0 d : Nat) : Context :=
  { x with inflight := InFlight.rebase c0 (d + 4) (x.inflight.filter fun r => decide (c0 ≤ r.due)),
           nextIssue := d + 4, first := false, badTarget := none }

/-- The action of the level that absorbs (R178, R180, R293). A kill of the context that has stopped for the trap frees the
divider where its division is captured (R55, R74). -/
def Mach.contained (m : Mach) (t : Trap) (lvl : TrapLevel) (act : TrapAct) : Mach :=
  let r := t.ctx
  let x := m.ctx r
  match act with
  | .ignore =>
    match t.pos with
    | .issue after =>
      if !x.bound then m
      else m.modCore r.cl r.co fun k =>
        (k.freeDivider r.cx).modCtx r.cx fun x =>
          ((x.stepPast t.baddr after).resumeAt (m.cyc r.cl) (m.cyc r.cl))
    | .target | .sample | .effect => m
  | .retry =>
    match lvl, x.gang with
    | .gang, some g =>
      match (m.cluster r.cl).gangs.find g.toNat with
      | none => m
      | some gg =>
        let gg := { gg with retry := gg.retry - 1 }
        (m.modCluster r.cl fun c => { c with gangs := c.gangs.put g.toNat gg }).rollbackGang r.cl gg
    | _, _ => (m.modCtx r fun x => { x with retry := x.retry - 1 }).rollbackCtx r
  | .kill k =>
    let m := if x.bound && x.img == t.img && x.part == t.part then m.modCore r.cl r.co fun c => c.freeDivider r.cx else m
    match k with
    | .context => m.trapKill r.cl r
    | .gang =>
      match x.gang with
      | none => m.trapKill r.cl r
      | some g =>
        match (m.cluster r.cl).gangs.find g.toNat with
        | none => m.trapKill r.cl r
        | some gg => m.trapKillAll r.cl (gg.members.map fun c => ⟨r.cl, c.1, c.2⟩)
    | .cluster =>
      match t.img with
      | none => m.trapKill r.cl r
      | some n => m.trapKillAll r.cl (m.imageCtxs r.cl t.part n)
    | .image =>
      match t.img with
      | none => m.trapKill r.cl r
      | some n => m.trapKillAll r.cl (clusterIds.flatMap fun cl => m.imageCtxs cl t.part n)
    | .retire =>
      match t.img with
      | none => m.trapKill r.cl r
      | some n =>
        (m.trapKillAll r.cl (clusterIds.flatMap fun cl => m.imageCtxs cl t.part n)).owe r.cl (.retire t.part n)

/-- TAKING A TRAP (R172, R173, R178 to R180, R293): the level that absorbs it is settled, the record is written with
that level and action, the identity is set pending, and then the level acts. A fault that reaches the partition level
raises its interrupt at the root core. -/
def Mach.trap (m : Mach) (t : Trap) : Mach :=
  let ganged := (m.ctx t.ctx).gang.isSome
  let (lvl, act, cause) := contain ganged t.pos (m.levels t) t.cause
  let m := m.modCluster t.ctx.cl fun c =>
    c.pushTrap t.mask cause t.ctx lvl.code act.code t.baddr m.fret t.detail
  let m := if lvl = .partition then m.modPk fun p => { p with rootPart := p.rootPart ++ [t.part] } else m
  m.contained t lvl act

/-- A trap held until the cluster next takes its marks. -/
def Mach.deferTrap (m : Mach) (t : Trap) : Mach := m.modCluster t.ctx.cl fun c => { c with pend := c.pend ++ [t] }

/-- A trap found at issue: a gang member's is contained once the marks of the cycle are known, since a lone commit point
forbids a rollback from its own cycle on (R211), and so is that of a context for which one found at a sample waits. -/
def Mach.trapAtIssue (m : Mach) (t : Trap) : Mach :=
  if (m.ctx t.ctx).gang.isSome || (m.cluster t.ctx.cl).pend.any fun q => q.ctx == t.ctx then m.deferTrap t else m.trap t

/-- A trap found by an engine or at a bridge: none is detected during a halt (R224). -/
def Mach.trapLate (m : Mach) (t : Trap) : Mach :=
  if (m.dom (domOf t.ctx.cl)).halted then m.deferTrap t else m.trap t

/-- The trap that a bundle takes (R24): the lowest cause, the slots that raised it, the detail of the first of them. -/
def Issue.trap (iss : Issue) (m : Mach) (rs : List Raise) : Option Trap :=
  match rs with
  | [] => none
  | r :: rest =>
    let cause := rest.foldl (fun c x => if x.cause.toNat < c.toNat then x.cause else c) r.cause
    let hit := rs.filter fun x => x.cause == cause
    let mask := hit.foldl (fun k x => k ||| x.mask) 0
    let x := m.ctx ⟨iss.cl, iss.co, iss.cx⟩
    some { ctx := ⟨iss.cl, iss.co, iss.cx⟩, cause := cause, mask := mask, baddr := iss.baddr,
           detail := (hit.head?.map Raise.detail).getD 0, pos := .issue iss.after, issued := m.cyc iss.cl,
           img := x.img, part := x.part }

/-- The issuing bundle raises a trap (R24): nothing of the bundle takes effect, and the machine is the one before it
with the trap taken. DESIGN CHOICE: a class C slot of it therefore holds back no record of the event queue (R175; log
entry 37). -/
def State.raiseMask (s : State) (mask cause : BitVec 8) (detail : Word) : State :=
  let rs := s.iss.raises ++ [⟨mask, cause, detail⟩]
  let m := s.pre
  { mach := match s.iss.trap m rs with
      | none => m
      | some t => m.trapAtIssue t,
    iss := { s.iss with raises := rs, before := some m } }

/-- A slot raises a trap at its issue (R24). -/
def State.raise (s : State) (cause : BitVec 8) (detail : Word) : State :=
  s.raiseMask (1#8 <<< s.iss.slot.toNat) cause detail

/-- The trap of a command that an engine drops after issue (R179). -/
def Mach.trapCommand (m : Mach) (o : CmdOrigin) (cause : BitVec 8) (detail : Word) : Mach :=
  m.trapLate { ctx := o.ctx, cause := cause, mask := 1#8 <<< o.slot.toNat, baddr := o.baddr, detail := detail,
               pos := .effect, issued := 0, img := o.img, part := o.part }

end Sys2Proof.Machine
end

