-- ==== Sys2Proof/Machine/Operands.lean ====
section
/-!
DEFINITION. Operand forms: memory addresses and their checks (R116 to R118, R150, R151), masks and elements (R95 to
R97), and the loads and stores that the memory instructions make of them.
-/

namespace Sys2Proof.Machine

/-! ## Addresses -/

/-- The base of a layout B memory slot (R150). -/
def State.baseAddr (s : State) (b : Base) : BitVec 32 :=
  match b with
  | .sreg r => (s.sreg (r.setWidth 6)).setWidth 32
  | .gen n => s.regs.agAddr n

/-- The address of a layout B memory slot (R150). -/
def State.memAddr (s : State) (b : Base) (off : Int) : Nat := (s.baseAddr b + BitVec.ofInt 32 off).toNat

/-- What an access does. -/
inductive AccessKind where
  /-- A load from LM or scratchpad. -/
  | load
  /-- A load that reaches LM only (R154, R155, R140). -/
  | loadLM
  /-- A store or atomic that writes. -/
  | write
  /-- A store that reaches LM only (R155). -/
  | writeLM
  deriving DecidableEq, Repr

def AccessKind.writes : AccessKind → Bool
  | .write | .writeLM => true
  | .load | .loadLM => false

def AccessKind.lmOnly : AccessKind → Bool
  | .loadLM | .writeLM => true
  | .load | .write => false

/-- A cluster belongs to a partition (R292). -/
def Package.clusterIn (p : Package) (part : BitVec 3) (cl : ClusterId) : Bool :=
  match p.parts.find part.toNat with
  | none => false
  | some d =>
    let x := cl.toNat % 4
    let y := cl.toNat % 16 / 4
    !d.retired && decide (d.defn.x0.toNat ≤ x) && decide (x ≤ d.defn.x1.toNat) && decide (d.defn.y0.toNat ≤ y) &&
      decide (y ≤ d.defn.y1.toNat) && d.defn.tiers.getLsbD (if cl.getLsbD 4 then 1 else 0)

/-- The check that one byte fails, if any (R116): `first` is the range of the access's first byte, `irqOk` whether an
access to an interrupt file has the form of R118. -/
def byteFault (m : Mach) (x : Context) (k : AccessKind) (irqOk : Bool) (first : Region) (a : Nat) : Option Nat :=
  let rg := region a
  if rg = .nothing ∨ rg ≠ first then some 0
  else match rg with
    | .nothing => some 0
    | .irq =>
      if !m.pk.clusterIn x.part (BitVec.ofNat 5 ((a - 0x70000000) / 0x1000)) then some 3
      else if irqOk then none else some 4
    | .sp =>
      if k.lmOnly then some 1
      else
        let line := (a - 0x40000000) / 256
        if !x.spWin.any (fun w => w.has line) then some 1
        else if k.writes && !x.spWin.any (fun w => w.w && w.has line) then some 2 else none
    | .lm =>
      let line := a / 256
      if !x.lmWin.any (fun w => w.has line) then some 1
      else if k.writes && !x.lmWin.any (fun w => w.w && w.has line) then some 2 else none

/-- The lowest byte of some accesses that fails a check, with its kind (R116). Each access is a list of byte
addresses. DEDUCED: the store past the claim that the kernel of R196 makes at length 0 faults here, cause 0x0A, before its
budget is overrun (log entry 38). -/
def accessFault (m : Mach) (x : Context) (k : AccessKind) (irqOk : Bool) (accs : List (List Nat)) :
    Option (Nat × Nat) :=
  (accs.flatMap fun bs =>
    match bs with
    | [] => []
    | b :: _ => bs.filterMap fun a => (byteFault m x k irqOk (region b) a).map fun kd => (a, kd)).foldl
    (fun best f => match best with
      | none => some f
      | some g => if f.1 < g.1 then some f else some g) none

/-- The detail of a local-address fault (R116). DESIGN CHOICE: an address at or above 2^32, which a masked access near the
end of the space can form, shows its low 32 bits (log entry 37). -/
def addrDetail (kind addr : Nat) : Word := BitVec.ofNat 64 (kind * 2 ^ 32 + addr % 2 ^ 32)

/-- The detail of a misaligned access (R151). -/
def alignDetail (addr reason : Nat) : Word := BitVec.ofNat 64 (3 * 2 ^ 62 + addr % 2 ^ 32 * 16 + reason)

/-- An effect behind the checks of its accesses (R116, R151): a local-address fault first, then misalignment. -/
def State.checked (s : State) (k : AccessKind) (irqOk : Bool) (accs : List (List Nat)) (mis : Option (Nat × Nat))
    (f : State → State) : State :=
  match accessFault s.pre s.preCtx k irqOk accs with
  | some (a, kd) => s.raise 0x0A (addrDetail kd a)
  | none =>
    match mis with
    | some (a, reason) => s.raise 0x14 (alignDetail a reason)
    | none => s.perform f

/-- The bytes of a contiguous access. -/
def span (a n : Nat) : List Nat := (List.range n).map fun i => a + i

/-- The memory of a range, and the offset in it (R116). -/
def spaceOf (a : Nat) : Space × Nat := if region a = .sp then (.sp, a - 0x40000000) else (.lm, a)

/-- The local address of an offset in a memory. -/
def Space.addr : Space → Nat → Nat
  | .lm, o => o
  | .sp, o => o + 0x40000000

/-! ## Loads and stores -/

/-- A load of some bytes into a result that lands `lat` cycles after issue (R152 to R155). -/
def State.loadBytes (s : State) (lat : Nat) (d : RegDest) (en : Mask) (lanes : List (Nat × Nat)) (ext : LoadExt)
    (tag : Option (BitVec 16)) : State :=
  match lanes with
  | [] => s
  | (_, a) :: _ =>
    let space := (spaceOf a).1
    let (id, s) := s.await lat d en
    let memAt := match space with
      | .lm => s.now + 2
      | .sp => s.now + 7
    s.modCtx fun x =>
      { x with loads := x.loads ++
          [{ id := id, space := space, fwdAt := s.now + 2, memAt := memAt,
             lanes := lanes.map fun p => (p.1, (spaceOf p.2).2), ext := ext, tag := tag, tagDone := false, fwd := [],
             fwdDone := false, keep := [], issued := s.now, baddr := s.iss.baddr, slot := s.iss.slot }] }

/-- A scalar load (R152). -/
def State.scalarLoad (s : State) (h : Head) (d : SReg) (b : Base) (off : Int) (n : Nat) (ext : LoadExt) : State :=
  s.checkedSlot h fun s =>
    let a := s.memAddr b off
    s.checked .load false [span a n] (if a % n ≠ 0 then some (a, 1) else none) fun s =>
      s.loadBytes (if region a = .sp then 13 else 5) (.s d) (BitVec.allOnes 256) ((span a n).mapIdx fun i x => (i, x))
        ext none

/-- A scalar store (R152, R118). -/
def State.scalarStore (s : State) (h : Head) (d : SReg) (b : Base) (off : Int) (n : Nat) : State :=
  s.checkedSlot h fun s =>
    let a := s.memAddr b off
    let v := s.sreg d
    let val := v.toNat % 2 ^ (8 * n)
    let irqOk := decide (4 ≤ n) && decide (a % 0x1000 = 0) && decide (64 ≤ val) && decide (val ≤ 1023)
    s.checked .write irqOk [span a n] (if a % n ≠ 0 then some (a, 1) else none) fun s =>
      if region a = .irq then
        s.gatePush .scalar (.irq (BitVec.ofNat 5 ((a - 0x70000000) / 0x1000)) (BitVec.ofNat 10 val))
      else
        s.gatePush .scalar (.store (spaceOf a).1 (cellsAt (spaceOf a).2 (bytesOfNat n val)))

/-- The byte lanes of a mask. -/
def lanesOf (q : Mask) : List Nat := (List.range 256).filter fun j => q.getLsbD j

/-- A whole-vector load (R153, R154). -/
def State.vectorLoad (s : State) (h : Head) (d : VReg) (b : Base) (imm : BitVec 8) (tag : Option (BitVec 16)) : State :=
  let a := s.memAddr b (imm.toInt * 256)
  let q := s.mguard h
  let lanes := (lanesOf q).map fun j => (j, a + j)
  let k : AccessKind := if tag.isSome then .loadLM else .load
  s.checked k false [lanes.map Prod.snd] (if a % 2 ≠ 0 ∧ lanes ≠ [] then some (a, 2) else none) fun s =>
    s.loadBytes (if lanes.any (fun p => region p.2 = .sp) then 14 else 6) (.v d) q lanes .raw tag

/-- The entry of a vector store: none of a slot under q1, which is always nullified (R19, R48, R153; DEDUCED, log
entry 21). -/
def State.pushVector (s : State) (h : Head) (space : Space) (bytes : List (Nat × Byte)) : State :=
  if h.guard = 1 then s else s.gatePush .vector (.store space bytes)

/-- A whole-vector store (R153). -/
def State.vectorStore (s : State) (h : Head) (d : VReg) (b : Base) (imm : BitVec 8) : State :=
  let a := s.memAddr b (imm.toInt * 256)
  let q := s.mguard h
  let v := s.vreg d
  let lanes := (lanesOf q).map fun j => (j, a + j)
  s.checked .write false [lanes.map Prod.snd] (if a % 2 ≠ 0 ∧ lanes ≠ [] then some (a, 2) else none) fun s =>
    let space := match lanes with
      | [] => Space.lm
      | (_, x) :: _ => (spaceOf x).1
    s.pushVector h space (lanes.map fun p => ((spaceOf p.2).2, vecByte v p.1))

/-! ## Elements (R95, R96) -/

/-- The element width in bytes. -/
def ewBytes : EW → Nat
  | .byte => 1 | .half => 2 | .word => 4

/-- The bit width of an element type. -/
def vtyBits : VTy → Nat
  | .f32 | .i32 | .n32 => 32
  | .f16 | .bf16 | .i16 | .n16 => 16
  | .i8 | .n8 => 8

/-- Element `i` of `w` bits of a vector. -/
def elem (w : Nat) (v : Vec) (i : Nat) : Nat := (v.toNat >>> (w * i)) % 2 ^ w

/-- The elements of a vector, lowest first. -/
def elems (w : Nat) (v : Vec) : List Nat := (List.range (2048 / w)).map (elem w v)

/-- A vector from its elements, lowest first. -/
def ofElems (w : Nat) (l : List Nat) : Vec :=
  BitVec.ofNat 2048 (l.foldr (fun x acc => x % 2 ^ w + acc * 2 ^ w) 0)

/-- The mask bit of element `i` of `w` bits: that of its lowest byte lane (R96). -/
def elemOn (w : Nat) (q : Mask) (i : Nat) : Bool := q.getLsbD (w / 8 * i)

/-- The byte lanes of the enabled elements of `w` bits (R96). -/
def elemMask (w : Nat) (q : Mask) : Mask :=
  if q = BitVec.allOnes 256 then q
  else if w = 8 then q
  else
    BitVec.ofNat 256 ((List.range (2048 / w)).foldl (fun acc i =>
      if elemOn w q i then acc ||| ((2 ^ (w / 8) - 1) <<< (w / 8 * i)) else acc) 0)

/-- Operand b of a vector slot for elements of `w` bits (R97). -/
def State.vsrc (s : State) (w : Nat) (b : VSrc) : Vec :=
  match b with
  | .vec r => s.vreg r
  | .scal r =>
    let x := (s.sreg (r.setWidth 6)).toNat % 2 ^ w
    ofElems w (List.replicate (2048 / w) x)

/-- The byte accesses of the enabled elements of R155, with their element numbers. -/
def gatherAddrs (w : EW) (q : Mask) (addr : Nat → Nat) : List (Nat × Nat) :=
  (List.range (256 / (ewBytes w))).filterMap fun i => if elemOn (8 * (ewBytes w)) q i then some (i, addr i) else none

/-- The address of element `i` for vldg and vstg (R155). -/
def strideAddr (base stride : Word) (i : Nat) : Nat :=
  (base.setWidth 32 + BitVec.ofNat 32 i * stride.setWidth 32 : BitVec 32).toNat

/-- The address of element `i` for vgath and vscat (R155). -/
def indexAddr (base : Word) (idx : Vec) (w : EW) (i : Nat) : Nat :=
  (base.setWidth 32 + BitVec.ofNat 32 (elem (8 * (ewBytes w)) idx i * (ewBytes w)) : BitVec 32).toNat

/-- The first misaligned element (R151). -/
def elemMisaligned (w : EW) (l : List (Nat × Nat)) : Option (Nat × Nat) :=
  (l.find? fun p => decide (p.2 % (ewBytes w) ≠ 0)).map fun p => (p.2, 3)

/-- A strided or gathered load (R155). -/
def State.elemLoad (s : State) (h : Head) (d : VReg) (w : EW) (addr : Nat → Nat) : State :=
  let q := s.mguard h
  let l := gatherAddrs w q addr
  s.checked .loadLM false (l.map fun p => span p.2 (ewBytes w)) (elemMisaligned w l) fun s =>
    s.loadBytes 8 (.v d) (elemMask (8 * (ewBytes w)) q)
      (l.flatMap fun p => (List.range (ewBytes w)).map fun j => (p.1 * (ewBytes w) + j, p.2 + j)) .raw none

/-- A strided or scattered store (R155). -/
def State.elemStore (s : State) (h : Head) (d : VReg) (w : EW) (addr : Nat → Nat) : State :=
  let q := s.mguard h
  let v := s.vreg d
  let l := gatherAddrs w q addr
  s.checked .writeLM false (l.map fun p => span p.2 (ewBytes w)) (elemMisaligned w l) fun s =>
    s.pushVector h .lm
      (l.flatMap fun p => (List.range (ewBytes w)).map fun j => (p.2 + j, vecByte v (p.1 * (ewBytes w) + j)))

end Sys2Proof.Machine
end

