-- ==== Sys2Proof/Machine/Flags.lean ====
section
/-!
DEFINITION. What a vector instruction computes on one element, with the flags it sets (R91, R92, R99 to R114), and
the results made of it.
-/

namespace Sys2Proof.Machine

/-- An element's result and flags. -/
abbrev Lane := Nat × Flags

/-- The float format of an element type. -/
def vtyFloat : VTy → Option Fmt
  | .f32 => some (ftyFmt .f32)
  | .f16 => some (ftyFmt .f16)
  | .bf16 => some (ftyFmt .bf16)
  | .i32 | .i16 | .i8 | .n32 | .n16 | .n8 => none

/-- The natural reading (R97). -/
def vtyNat : VTy → Bool
  | .n32 | .n16 | .n8 => true
  | .f32 | .f16 | .bf16 | .i32 | .i16 | .i8 => false

/-- An integer element read signed or natural. -/
def readInt (nat : Bool) (w x : Nat) : Int := if nat then (x : Int) else (BitVec.ofNat w x).toInt

/-- An integer cut to `w` bits (R99: wraps modulo 2^w). -/
def wrapInt (w : Nat) (x : Int) : Nat := (x % (2 ^ w : Int)).toNat

/-- A value rounded into a float element, with the flags of the operation beside those of the rounding. -/
def roundLane (f : Fmt) (r : RMode) (v : Num × Flags) : Lane :=
  let p := f.pack r v.1
  (p.1, p.2 ||| v.2)

/-- The arithmetic operations of R99. -/
inductive VArith where
  | add | sub | mul | fma | fnma
  deriving DecidableEq, Repr

/-- R99 on one element; `d` is the old destination. -/
def vArith (op : VArith) (t : VTy) (r : RMode) (a b d : Nat) : Lane :=
  match vtyFloat t with
  | some f =>
    let x := f.unpack a
    let y := f.unpack b
    let z := f.unpack d
    match op with
    | .add => roundLane f r (fadd r x y)
    | .sub => roundLane f r (fadd r x y.neg)
    | .mul => roundLane f r (fmul x y)
    | .fma => roundLane f r (ffma r false x y z)
    | .fnma => roundLane f r (ffma r true x y z)
  | none =>
    let w := vtyBits t
    (wrapInt w (match op with
      | .add => (a : Int) + b
      | .sub => (a : Int) - b
      | .mul => (a : Int) * b
      | .fma => (a : Int) * b + d
      | .fnma => (d : Int) - a * b), 0)

/-- vmin and vmax on one element (R100). -/
def vMinMax (wantMax : Bool) (t : VTy) (a b : Nat) : Lane :=
  match vtyFloat t with
  | some f =>
    let p := fminmax wantMax (f.unpack a) (f.unpack b)
    ((f.pack .nearest p.1).1, p.2)
  | none =>
    let less := decide (readInt (vtyNat t) (vtyBits t) a < readInt (vtyNat t) (vtyBits t) b)
    (if less != wantMax then a else b, 0)

/-- vabs and vneg on one element (R101). -/
def vSign (negate : Bool) (t : VTy) (a : Nat) : Lane :=
  match vtyFloat t with
  | some f =>
    let s := 2 ^ (f.e + f.m)
    match f.unpack a with
    | .nan sig => ((f.nanCode).getD 0, if sig then flagNV else 0)
    | .inf _ | .fin _ _ _ => (if negate then a ^^^ s else a % s, 0)
  | none =>
    let w := vtyBits t
    let x := readInt (vtyNat t) w a
    (wrapInt w (if negate then -x else (BitVec.ofNat w a).toInt.natAbs), 0)

/-- The logical operations of R102 and R105. -/
inductive VLogic where
  | and | or | xor
  deriving DecidableEq, Repr

def vLogic (op : VLogic) (a b : Nat) : Nat :=
  match op with
  | .and => a &&& b
  | .or => a ||| b
  | .xor => a ^^^ b

/-- vshl and vshr on one element (R102). -/
def vShift (left : Bool) (t : VTy) (a m : Nat) : Nat :=
  let w := vtyBits t
  if left then (if w ≤ m then 0 else (a <<< m) % 2 ^ w)
  else if vtyNat t then (if w ≤ m then 0 else a >>> m)
  else ((BitVec.ofNat w a).sshiftRight (min m w)).toNat

/-- vcmp on one element (R103): the condition and its flags. -/
def vCompare (c : VCond) (t : VTy) (a b : Nat) : Bool × Flags :=
  match vtyFloat t with
  | some f =>
    let x := f.unpack a
    let y := f.unpack b
    if x.isNan || y.isNan then
      match c with
      | .eq => (false, if x.isSnan || y.isSnan then flagNV else 0)
      | .ne => (true, if x.isSnan || y.isSnan then flagNV else 0)
      | .lt => (false, flagNV)
      | .le => (false, flagNV)
    else
      let o := fcmp x y
      (match c with
        | .eq => decide (o = 0)
        | .ne => decide (o ≠ 0)
        | .lt => decide (o < 0)
        | .le => decide (o ≤ 0), 0)
  | none =>
    let x := readInt (vtyNat t) (vtyBits t) a
    let y := readInt (vtyNat t) (vtyBits t) b
    (match c with
      | .eq => decide (x = y)
      | .ne => decide (x ≠ y)
      | .lt => decide (x < y)
      | .le => decide (x ≤ y), 0)

/-- vscale on one element (R108). -/
def vScale (f : Fmt) (r : RMode) (a : Nat) (x : Int) : Lane :=
  match f.unpack a with
  | .nan sig => ((f.nanCode).getD 0, if sig then flagNV else 0)
  | .inf neg => f.pack r (.inf neg)
  | .fin neg m e => f.pack r (.fin neg m (e + x))

/-- A function unit on one element (R110): always to nearest even. -/
def vUnit (u : UnitFn) (f : Fmt) (a : Nat) : Lane := roundLane f .nearest (unitFn u (f.unpack a))

/-! ## Conversion (R106, R107) -/

/-- A source or destination of vcvt. -/
inductive CvtTy where
  | float (f : Fmt)
  | narrow (f : Fmt)
  | int (nat : Bool) (w : Nat)
  deriving DecidableEq, Repr

/-- Bits of an element's container (R88, R95). -/
def CvtTy.width : CvtTy → Nat
  | .float f => f.bits
  | .narrow f => if f.bits ≤ 4 then 4 else 8
  | .int _ w => w

def cvtOfV (t : VTy) : CvtTy :=
  match vtyFloat t with
  | some f => .float f
  | none => .int (vtyNat t) (vtyBits t)

/-- The destination and source of a conversion; a format register is read at issue (R94). -/
def cvtTypes (r : Regs) : CvtForm → CvtTy × CvtTy
  | .elem d s => (cvtOfV d, cvtOfV s)
  | .toNarrow f s => (.narrow (descFmt (r.fmReg f)), .float (ftyFmt s))
  | .fromNarrow d f => (.float (ftyFmt d), .narrow (descFmt (r.fmReg f)))

/-- vcvt on one element (R107). -/
def vConvert (r : RMode) (dst src : CvtTy) (a : Nat) : Lane :=
  match src, dst with
  | .float f, .float g => let v := f.unpack a; roundLane g r (v, if v.isSnan then flagNV else 0)
  | .float f, .narrow g => let v := f.unpack a; roundLane g r (v, if v.isSnan then flagNV else 0)
  | .narrow f, .float g => g.pack r (f.unpack a)
  | .narrow f, .narrow g => g.pack r (f.unpack a)
  | .float f, .int nat w => let p := toIntElem r nat w (f.unpack a); (wrapInt w p.1, p.2)
  | .narrow f, .int nat w => let p := toIntElem r nat w (f.unpack a); (wrapInt w p.1, p.2)
  | .int nat w, .float g =>
    let x := readInt nat w a
    g.pack r (.fin (decide (x < 0)) x.natAbs 0)
  | .int nat w, .narrow g =>
    let x := readInt nat w a
    g.pack r (.fin (decide (x < 0)) x.natAbs 0)
  | .int sn sw, .int dn dw =>
    let x := readInt sn sw a
    if dw < sw ∨ (dw = sw ∧ sn ≠ dn) then (wrapInt dw (clampInt (intRange dn dw).1 (intRange dn dw).2 x), 0)
    else (wrapInt dw x, 0)

/-! ## Reductions (R109) -/

/-- The operations of vred. -/
inductive VRed where
  | sum | max | min
  deriving DecidableEq, Repr

/-- The identity of a reduction (R109). -/
def vredIdentity (op : VRed) (t : VTy) : Nat :=
  match vtyFloat t with
  | some f =>
    let inf := (f.infCode).getD 0
    match op with
    | .sum => 0
    | .max => inf + 2 ^ (f.e + f.m)
    | .min => inf
  | none =>
    let rg := intRange (vtyNat t) (vtyBits t)
    match op with
    | .sum => 0
    | .max => wrapInt (vtyBits t) rg.1
    | .min => wrapInt (vtyBits t) rg.2

/-- A node of the tree (R109). -/
def vredNode (op : VRed) (t : VTy) (r : RMode) (a b : Lane) : Lane :=
  let p := match op with
    | .sum => vArith .add t r a.1 b.1 0
    | .max => vMinMax true t a.1 b.1
    | .min => vMinMax false t a.1 b.1
  (p.1, p.2 ||| a.2 ||| b.2)

/-- One level of the tree: neighbours in pairs. -/
def vredLevel (f : Lane → Lane → Lane) : List Lane → List Lane
  | a :: b :: rest => f a b :: vredLevel f rest
  | l => l

/-- The tree (R109): at most eight levels. -/
def vredTree (f : Lane → Lane → Lane) : Nat → List Lane → Lane
  | _, [] => (0, 0)
  | _, [a] => a
  | 0, a :: _ => a
  | n + 1, l => vredTree f n (vredLevel f l)

/-- An element extended into a scalar register (R109, R112). -/
def extendElem (t : VTy) (x : Nat) : Word :=
  match vtyFloat t with
  | some _ => BitVec.ofNat 64 x
  | none => BitVec.ofInt 64 (readInt (vtyNat t) (vtyBits t) x)

/-! ## Results -/

/-- The lanes of the enabled elements; a disabled element is not computed (R96). -/
def lanesFor (w : Nat) (q : Mask) (f : Nat → Lane) : List Lane :=
  (List.range (2048 / w)).map fun i => if elemOn w q i then f i else (0, 0)

/-- The flags of some lanes together. -/
def laneFlags (l : List Lane) : Flags := l.foldl (fun fl x => fl ||| x.2) 0

/-- A vector result computed element by element under the mask guard (R96). -/
def State.vecResult (s : State) (h : Head) (lat : Nat) (d : VReg) (w : Nat) (f : Nat → Lane) : State :=
  s.perform fun s =>
    let q := s.mguard h
    let l := lanesFor w q f
    s.result lat (.v d) (ofElems w (l.map Prod.fst)) (elemMask w q) (laneFlags l)

/-- The rounding mode at issue (R82, R96). -/
def State.rmode (s : State) : RMode := RMode.ofBits s.regs.vrm

end Sys2Proof.Machine
end

