-- ==== Sys2Proof/Machine/Scalar.lean ====
section
/-!
DEFINITION. The scalar and predicate instructions (R70 to R79).
-/

namespace Sys2Proof.Machine

/-- A scalar operation on two registers, landing at c + `lat` (R57, R44). -/
def scalarOp (f : Word → Word → Word) (lat : Nat) (h : Head) (d a b : SReg) (s : State) : State :=
  s.guarded h fun s => s.scalar lat d (f (s.sreg a) (s.sreg b))

/-- The amount of a shift (R70): bits 5 to 0. -/
def shiftAmount (b : Word) : Nat := b.toNat % 64

/-- add (R70). -/
def execAdd (h : Head) (d a b : SReg) (s : State) : Host.Outcome State Fault Refusal :=
  .next (scalarOp (fun x y => x + y) 1 h d a b s)
/-- sub (R70). -/
def execSub (h : Head) (d a b : SReg) (s : State) : Host.Outcome State Fault Refusal :=
  .next (scalarOp (fun x y => x - y) 1 h d a b s)
/-- and (R70). -/
def execAnd (h : Head) (d a b : SReg) (s : State) : Host.Outcome State Fault Refusal :=
  .next (scalarOp (fun x y => x &&& y) 1 h d a b s)
/-- or (R70). -/
def execOr (h : Head) (d a b : SReg) (s : State) : Host.Outcome State Fault Refusal :=
  .next (scalarOp (fun x y => x ||| y) 1 h d a b s)
/-- xor (R70). -/
def execXor (h : Head) (d a b : SReg) (s : State) : Host.Outcome State Fault Refusal :=
  .next (scalarOp (fun x y => x ^^^ y) 1 h d a b s)
/-- andn (R70). -/
def execAndn (h : Head) (d a b : SReg) (s : State) : Host.Outcome State Fault Refusal :=
  .next (scalarOp (fun x y => x &&& ~~~y) 1 h d a b s)
/-- shl (R70). -/
def execShl (h : Head) (d a b : SReg) (s : State) : Host.Outcome State Fault Refusal :=
  .next (scalarOp (fun x y => x <<< shiftAmount y) 1 h d a b s)
/-- shr (R70). -/
def execShr (h : Head) (d a b : SReg) (s : State) : Host.Outcome State Fault Refusal :=
  .next (scalarOp (fun x y => x >>> shiftAmount y) 1 h d a b s)
/-- sra (R70). -/
def execSra (h : Head) (d a b : SReg) (s : State) : Host.Outcome State Fault Refusal :=
  .next (scalarOp (fun x y => x.sshiftRight (shiftAmount y)) 1 h d a b s)
/-- min (R70). -/
def execMin (h : Head) (d a b : SReg) (s : State) : Host.Outcome State Fault Refusal :=
  .next (scalarOp (fun x y => if x.slt y then x else y) 1 h d a b s)
/-- max (R70). -/
def execMax (h : Head) (d a b : SReg) (s : State) : Host.Outcome State Fault Refusal :=
  .next (scalarOp (fun x y => if x.slt y then y else x) 1 h d a b s)
/-- minn (R70). -/
def execMinn (h : Head) (d a b : SReg) (s : State) : Host.Outcome State Fault Refusal :=
  .next (scalarOp (fun x y => if x.ult y then x else y) 1 h d a b s)
/-- maxn (R70). -/
def execMaxn (h : Head) (d a b : SReg) (s : State) : Host.Outcome State Fault Refusal :=
  .next (scalarOp (fun x y => if x.ult y then y else x) 1 h d a b s)

/-- A scalar operation on one register. -/
def scalarUn (f : Word → Word) (h : Head) (d a : SReg) (s : State) : State :=
  s.guarded h fun s => s.scalar 1 d (f (s.sreg a))

/-- addi (R71). -/
def execAddi (h : Head) (d a : SReg) (imm : BitVec 8) (s : State) : Host.Outcome State Fault Refusal :=
  .next (scalarUn (fun x => x + imm.signExtend 64) h d a s)
/-- andi (R71). -/
def execAndi (h : Head) (d a : SReg) (imm : BitVec 8) (s : State) : Host.Outcome State Fault Refusal :=
  .next (scalarUn (fun x => x &&& imm.setWidth 64) h d a s)
/-- shli (R71). -/
def execShli (h : Head) (d a : SReg) (n : BitVec 6) (s : State) : Host.Outcome State Fault Refusal :=
  .next (scalarUn (fun x => x <<< n.toNat) h d a s)
/-- shri (R71). -/
def execShri (h : Head) (d a : SReg) (n : BitVec 6) (s : State) : Host.Outcome State Fault Refusal :=
  .next (scalarUn (fun x => x >>> n.toNat) h d a s)
/-- srai (R71). -/
def execSrai (h : Head) (d a : SReg) (n : BitVec 6) (s : State) : Host.Outcome State Fault Refusal :=
  .next (scalarUn (fun x => x.sshiftRight n.toNat) h d a s)

/-- li (R72). -/
def execLi (h : Head) (d : SReg) (imm : BitVec 14) (s : State) : Host.Outcome State Fault Refusal :=
  .next (s.guarded h fun s => s.scalar 1 d (imm.signExtend 64))
/-- lis (R72). -/
def execLis (h : Head) (d : SReg) (imm : BitVec 14) (s : State) : Host.Outcome State Fault Refusal :=
  .next (s.guarded h fun s => s.scalar 1 d ((s.sreg d <<< 14) ||| imm.setWidth 64))

/-- mul (R73). -/
def execMul (h : Head) (d a b : SReg) (s : State) : Host.Outcome State Fault Refusal :=
  .next (scalarOp (fun x y => x * y) 3 h d a b s)
/-- mulh (R73). -/
def execMulh (h : Head) (d a b : SReg) (s : State) : Host.Outcome State Fault Refusal :=
  .next (scalarOp (fun x y => (x.signExtend 128 * y.signExtend 128).extractLsb' 64 64) 3 h d a b s)
/-- mulhn (R73). -/
def execMulhn (h : Head) (d a b : SReg) (s : State) : Host.Outcome State Fault Refusal :=
  .next (scalarOp (fun x y => (x.setWidth 128 * y.setWidth 128).extractLsb' 64 64) 3 h d a b s)

/-- Signed quotient and remainder (R74). -/
def divSigned (x y : Word) : Word × Word :=
  if y = 0 then (BitVec.allOnes 64, x)
  else if x = BitVec.intMin 64 ∧ y = BitVec.allOnes 64 then (BitVec.intMin 64, 0)
  else (BitVec.ofInt 64 (x.toInt.tdiv y.toInt), BitVec.ofInt 64 (x.toInt.tmod y.toInt))

/-- Natural quotient and remainder (R74). -/
def divNatural (x y : Word) : Word × Word :=
  if y = 0 then (BitVec.allOnes 64, x) else (BitVec.ofNat 64 (x.toNat / y.toNat), BitVec.ofNat 64 (x.toNat % y.toNat))

/-- The detail of unit-busy for a division (R74). -/
def divBusy (left : Nat) : Word := BitVec.ofNat 64 (5 + 16 * left)

/-- A division (R74): it holds the core's divider from c to c+17. -/
def divide (f : Word → Word → Word) (h : Head) (d a b : SReg) (s : State) : State :=
  if s.pguard h then
    let k := s.pre.core s.iss.cl s.iss.co
    let second := s.iss.divides
    let s := { s with iss := { s.iss with divides := true } }
    if s.now < k.divFree then s.raise 0x08 (divBusy (k.divFree - s.now))
    else if second then s.raise 0x08 (divBusy 18)
    else s.perform fun s =>
      (s.scalar 18 d (f (s.sreg a) (s.sreg b))).modCore fun k =>
        { k with divFree := s.now + 18, divCx := s.iss.cx, divId := s.mach.nextId }
  else s

/-- div (R74). -/
def execDiv (h : Head) (d a b : SReg) (s : State) : Host.Outcome State Fault Refusal :=
  .next (divide (fun x y => (divSigned x y).1) h d a b s)
/-- divn (R74). -/
def execDivn (h : Head) (d a b : SReg) (s : State) : Host.Outcome State Fault Refusal :=
  .next (divide (fun x y => (divNatural x y).1) h d a b s)
/-- rem (R74). -/
def execRem (h : Head) (d a b : SReg) (s : State) : Host.Outcome State Fault Refusal :=
  .next (divide (fun x y => (divSigned x y).2) h d a b s)
/-- remn (R74). -/
def execRemn (h : Head) (d a b : SReg) (s : State) : Host.Outcome State Fault Refusal :=
  .next (divide (fun x y => (divNatural x y).2) h d a b s)

/-- The bits of a word, lowest first. -/
def wordBits (x : Word) : List Bool := (List.range 64).map fun i => x.getLsbD i

/-- clz (R75): 64 for zero. -/
def execClz (h : Head) (d a : SReg) (s : State) : Host.Outcome State Fault Refusal :=
  .next (scalarUn (fun x => BitVec.ofNat 64 ((wordBits x).reverse.takeWhile (fun b => !b)).length) h d a s)
/-- ctz (R75): 64 for zero. -/
def execCtz (h : Head) (d a : SReg) (s : State) : Host.Outcome State Fault Refusal :=
  .next (scalarUn (fun x => BitVec.ofNat 64 ((wordBits x).takeWhile (fun b => !b)).length) h d a s)
/-- popc (R75). -/
def execPopc (h : Head) (d a : SReg) (s : State) : Host.Outcome State Fault Refusal :=
  .next (scalarUn (fun x => BitVec.ofNat 64 ((wordBits x).filter id).length) h d a s)

/-- The conditions of R76. -/
def condHolds (c : Cond) (x y : Word) : Bool :=
  match c with
  | .eq => x == y
  | .ne => x != y
  | .lt => x.slt y
  | .ge => !x.slt y
  | .ltn => x.ult y
  | .gen => !x.ult y
  | .tst => x &&& y != 0

/-- cmp (R76). -/
def execCmp (h : Head) (c : Cond) (k : BitVec 3) (a b : SReg) (s : State) : Host.Outcome State Fault Refusal :=
  .next (s.guarded h fun s => s.predicate k (condHolds c (s.sreg a) (s.sreg b)))

/-- The immediate of cmpi (R76). -/
def cmpImm (c : Cond) (imm : BitVec 8) : Word :=
  match c with
  | .ltn | .gen => imm.setWidth 64
  | .eq | .ne | .lt | .ge | .tst => imm.signExtend 64

/-- cmpi (R76). -/
def execCmpi (h : Head) (c : Cond) (k : BitVec 3) (a : SReg) (imm : BitVec 8) (s : State) :
    Host.Outcome State Fault Refusal :=
  .next (s.guarded h fun s => s.predicate k (condHolds c (s.sreg a) (cmpImm c imm)))

/-- Predicate logic (R77). -/
def predOp (f : Bool → Bool → Bool) (h : Head) (k : BitVec 3) (a b : PReg) (s : State) : State :=
  s.guarded h fun s => s.predicate k (f (s.regs.pred a) (s.regs.pred b))

/-- pand (R77). -/
def execPand (h : Head) (k : BitVec 3) (a b : PReg) (s : State) : Host.Outcome State Fault Refusal :=
  .next (predOp (fun x y => x && y) h k a b s)
/-- por (R77). -/
def execPor (h : Head) (k : BitVec 3) (a b : PReg) (s : State) : Host.Outcome State Fault Refusal :=
  .next (predOp (fun x y => x || y) h k a b s)
/-- pxor (R77). -/
def execPxor (h : Head) (k : BitVec 3) (a b : PReg) (s : State) : Host.Outcome State Fault Refusal :=
  .next (predOp (fun x y => x != y) h k a b s)
/-- pandn (R77). -/
def execPandn (h : Head) (k : BitVec 3) (a b : PReg) (s : State) : Host.Outcome State Fault Refusal :=
  .next (predOp (fun x y => x && !y) h k a b s)

/-- movp (R78). -/
def execMovp (h : Head) (k : BitVec 3) (a : SReg) (n : BitVec 6) (s : State) : Host.Outcome State Fault Refusal :=
  .next (s.guarded h fun s => s.predicate k ((s.sreg a).getLsbD n.toNat))

/-- A field of the level `l` places outward from the innermost (R79); 0 past the loop depth. -/
def levelField (f : LoopLevel → BitVec 16) (l : BitVec 3) (r : Regs) : Word :=
  match r.loops[l.toNat]? with
  | none => 0
  | some x => (f x).setWidth 64

/-- movl, the index (R79). -/
def execMovl (h : Head) (d : SReg) (l : BitVec 3) (s : State) : Host.Outcome State Fault Refusal :=
  .next (s.guarded h fun s => s.scalar 1 d (levelField LoopLevel.index l s.regs))
/-- movl, the count (R79). -/
def execMovlCount (h : Head) (d : SReg) (l : BitVec 3) (s : State) : Host.Outcome State Fault Refusal :=
  .next (s.guarded h fun s => s.scalar 1 d (levelField LoopLevel.count l s.regs))

end Sys2Proof.Machine
end

