-- ==== Sys2Proof/Machine/Vector.lean ====
section
/-!
DEFINITION. The vector instructions of spec/07_vector_instructions.md.
-/

namespace Sys2Proof.Machine

/-- The bit width of a type without a natural reading. -/
def etyBits : ETy → Nat
  | .f32 | .i32 => 32
  | .f16 | .bf16 | .i16 => 16
  | .i8 => 8

/-- An operation of R99. -/
def vecArith (op : VArith) (lat : Nat) (h : Head) (t : VTy) (d a : VReg) (b : VSrc) (s : State) : State :=
  let w := vtyBits t
  let x := s.vreg a
  let y := s.vsrc w b
  let z := s.vreg d
  s.vecResult h lat d w fun i => vArith op t s.rmode (elem w x i) (elem w y i) (elem w z i)

/-- An operation on the elements of vA and operand b that sets its own flags. -/
def vecBinary (f : Nat → Nat → Lane) (lat : Nat) (h : Head) (t : VTy) (d a : VReg) (b : VSrc) (s : State) : State :=
  let w := vtyBits t
  let x := s.vreg a
  let y := s.vsrc w b
  s.vecResult h lat d w fun i => f (elem w x i) (elem w y i)

/-- vadd (R99). -/
def execVadd (h : Head) (t : VTy) (d a : VReg) (b : VSrc) (s : State) : Host.Outcome State Fault Refusal :=
  .next (vecArith .add 3 h t d a b s)
/-- vsub (R99). -/
def execVsub (h : Head) (t : VTy) (d a : VReg) (b : VSrc) (s : State) : Host.Outcome State Fault Refusal :=
  .next (vecArith .sub 3 h t d a b s)
/-- vmul (R99). -/
def execVmul (h : Head) (t : VTy) (d a : VReg) (b : VSrc) (s : State) : Host.Outcome State Fault Refusal :=
  .next (vecArith .mul 5 h t d a b s)
/-- vfma (R99). -/
def execVfma (h : Head) (t : VTy) (d a : VReg) (b : VSrc) (s : State) : Host.Outcome State Fault Refusal :=
  .next (vecArith .fma 5 h t d a b s)
/-- vfnma (R99). -/
def execVfnma (h : Head) (t : VTy) (d a : VReg) (b : VSrc) (s : State) : Host.Outcome State Fault Refusal :=
  .next (vecArith .fnma 5 h t d a b s)
/-- vmin (R100). -/
def execVmin (h : Head) (t : VTy) (d a : VReg) (b : VSrc) (s : State) : Host.Outcome State Fault Refusal :=
  .next (vecBinary (vMinMax false t) 3 h t d a b s)
/-- vmax (R100). -/
def execVmax (h : Head) (t : VTy) (d a : VReg) (b : VSrc) (s : State) : Host.Outcome State Fault Refusal :=
  .next (vecBinary (vMinMax true t) 3 h t d a b s)
/-- vabs (R101). -/
def execVabs (h : Head) (t : VTy) (d a : VReg) (s : State) : Host.Outcome State Fault Refusal :=
  let x := s.vreg a
  .next (s.vecResult h 3 d (vtyBits t) fun i => vSign false t (elem (vtyBits t) x i))
/-- vneg (R101). -/
def execVneg (h : Head) (t : VTy) (d a : VReg) (s : State) : Host.Outcome State Fault Refusal :=
  let x := s.vreg a
  .next (s.vecResult h 3 d (vtyBits t) fun i => vSign true t (elem (vtyBits t) x i))
/-- vand (R102). -/
def execVand (h : Head) (t : VTy) (d a : VReg) (b : VSrc) (s : State) : Host.Outcome State Fault Refusal :=
  .next (vecBinary (fun x y => (vLogic .and x y, 0)) 3 h t d a b s)
/-- vor (R102). -/
def execVor (h : Head) (t : VTy) (d a : VReg) (b : VSrc) (s : State) : Host.Outcome State Fault Refusal :=
  .next (vecBinary (fun x y => (vLogic .or x y, 0)) 3 h t d a b s)
/-- vxor (R102). -/
def execVxor (h : Head) (t : VTy) (d a : VReg) (b : VSrc) (s : State) : Host.Outcome State Fault Refusal :=
  .next (vecBinary (fun x y => (vLogic .xor x y, 0)) 3 h t d a b s)
/-- vshl (R102). -/
def execVshl (h : Head) (t : VTy) (d a : VReg) (b : VSrc) (s : State) : Host.Outcome State Fault Refusal :=
  .next (vecBinary (fun x y => (vShift true t x y, 0)) 3 h t d a b s)
/-- vshr (R102). -/
def execVshr (h : Head) (t : VTy) (d a : VReg) (b : VSrc) (s : State) : Host.Outcome State Fault Refusal :=
  .next (vecBinary (fun x y => (vShift false t x y, 0)) 3 h t d a b s)

/-- vcmp (R103): every byte bit of an enabled element takes the condition. -/
def execVcmp (h : Head) (t : VTy) (c : VCond) (k : BitVec 3) (a : VReg) (b : VSrc) (s : State) :
    Host.Outcome State Fault Refusal :=
  let w := vtyBits t
  let x := s.vreg a
  let y := s.vsrc w b
  .next (s.perform fun s =>
    let q := s.mguard h
    let l := (List.range (2048 / w)).map fun i =>
      if elemOn w q i then vCompare c t (elem w x i) (elem w y i) else (false, 0)
    let ones := 2 ^ (w / 8) - 1
    let bits := (l.map fun p => if p.1 then ones else 0).foldr (fun v acc => v + acc * 2 ^ (w / 8)) 0
    s.result 3 (.q k) (BitVec.ofNat 2048 bits) (elemMask w q) (l.foldl (fun fl p => fl ||| p.2) 0))

/-- vsel (R104): every element is written. -/
def execVsel (h : Head) (t : VTy) (d a : VReg) (b : VSrc) (s : State) : Host.Outcome State Fault Refusal :=
  let w := vtyBits t
  .next (s.perform fun s =>
    s.result 3 (.v d) (vecMerge (s.vsrc w b) (s.vreg a) (elemMask w (s.mguard h))) (BitVec.allOnes 256) 0)

/-- vcvt (R106, R107): elements past the source's count take 0. -/
def execVcvt (h : Head) (f : CvtForm) (d a : VReg) (s : State) : Host.Outcome State Fault Refusal :=
  let (dt, st) := cvtTypes s.regs f
  let x := s.vreg a
  let n := min (2048 / st.width) (2048 / dt.width)
  .next (s.perform fun s =>
    let q := s.mguard h
    let on := fun i => q.getLsbD (dt.width * i / 8)
    let l := (List.range (2048 / dt.width)).map fun i =>
      if on i && decide (i < n) then vConvert s.rmode dt st (elem st.width x i) else (0, 0)
    s.result 4 (.v d) (ofElems dt.width (l.map Prod.fst)) (elemMask (max 8 dt.width) q) (laneFlags l))

/-- A reduction (R109). -/
def vecReduce (op : VRed) (h : Head) (t : VTy) (d : BitVec 5) (a : VReg) (s : State) : State :=
  let w := vtyBits t
  let x := s.vreg a
  s.perform fun s =>
    let q := s.mguard h
    let l := (List.range (2048 / w)).map fun i =>
      ((if elemOn w q i then elem w x i else vredIdentity op t, 0) : Lane)
    let y := vredTree (vredNode op t s.rmode) 9 l
    s.result 8 (.s (d.setWidth 6)) ((extendElem t y.1).setWidth 2048) (BitVec.allOnes 256) y.2

/-- vred.sum (R109). -/
def execVredSum (h : Head) (t : VTy) (d : BitVec 5) (a : VReg) (s : State) : Host.Outcome State Fault Refusal :=
  .next (vecReduce .sum h t d a s)
/-- vred.max (R109). -/
def execVredMax (h : Head) (t : VTy) (d : BitVec 5) (a : VReg) (s : State) : Host.Outcome State Fault Refusal :=
  .next (vecReduce .max h t d a s)
/-- vred.min (R109). -/
def execVredMin (h : Head) (t : VTy) (d : BitVec 5) (a : VReg) (s : State) : Host.Outcome State Fault Refusal :=
  .next (vecReduce .min h t d a s)

/-- vbcast (R111). -/
def execVbcast (h : Head) (t : VTy) (d a : VReg) (b : BitVec 5) (s : State) : Host.Outcome State Fault Refusal :=
  let w := vtyBits t
  let x := elem w (s.vreg a) ((s.sreg (b.setWidth 6)).toNat % (2048 / w))
  .next (s.vecResult h 3 d w fun _ => (x, 0))

/-- vext (R112): nothing is written when the element's predicate is 0. -/
def execVext (h : Head) (t : VTy) (d a : BitVec 5) (b : VReg) (s : State) : Host.Outcome State Fault Refusal :=
  let w := vtyBits t
  let i := (s.sreg (a.setWidth 6)).toNat % (2048 / w)
  .next (if elemOn w (s.mguard h) i then
    s.perform fun s => s.scalar 3 (d.setWidth 6) (extendElem t (elem w (s.vreg b) i)) else s)

/-- vins (R112): element sA mod N alone is written. -/
def execVins (h : Head) (t : VTy) (d : VReg) (a b : BitVec 5) (s : State) : Host.Outcome State Fault Refusal :=
  let w := vtyBits t
  let j := (s.sreg (a.setWidth 6)).toNat % (2048 / w)
  let x := (s.sreg (b.setWidth 6)).toNat % 2 ^ w
  .next (s.perform fun s =>
    let en : Mask := if elemOn w (s.mguard h) j then BitVec.ofNat 256 ((2 ^ (w / 8) - 1) <<< (w / 8 * j)) else 0
    s.result 3 (.v d) (BitVec.ofNat 2048 (x <<< (w * j))) en 0)

/-- vperm (R113). -/
def execVperm (h : Head) (t : VTy) (d a b : VReg) (s : State) : Host.Outcome State Fault Refusal :=
  let w := vtyBits t
  let x := s.vreg a
  let y := s.vreg b
  .next (s.vecResult h 4 d w fun i => (elem w x (elem w y i % (2048 / w)), 0))

/-- vslide (R113). -/
def execVslide (h : Head) (t : VTy) (d a : VReg) (b : BitVec 5) (s : State) : Host.Outcome State Fault Refusal :=
  let w := vtyBits t
  let x := s.vreg a
  let k := (s.sreg (b.setWidth 6)).toInt
  .next (s.vecResult h 4 d w fun i =>
    let j := (i : Int) + k
    (if 0 ≤ j ∧ j < ((2048 / w : Nat) : Int) then elem w x j.toNat else 0, 0))

/-- viota (R111). -/
def execViota (h : Head) (t : ETy) (d : VReg) (b : BitVec 5) (s : State) : Host.Outcome State Fault Refusal :=
  let w := etyBits t
  let x := (s.sreg (b.setWidth 6)).toNat
  .next (s.vecResult h 3 d w fun i => ((x + i) % 2 ^ w, 0))

/-- A function unit (R110). -/
def vecUnit (u : UnitFn) (h : Head) (t : FTy) (d a : VReg) (s : State) : State :=
  let f := ftyFmt t
  let x := s.vreg a
  s.vecResult h 11 d f.bits fun i => vUnit u f (elem f.bits x i)

/-- vrcp (R110). -/
def execVrcp (h : Head) (t : FTy) (d a : VReg) (s : State) : Host.Outcome State Fault Refusal :=
  .next (vecUnit .rcp h t d a s)
/-- vrsq (R110). -/
def execVrsq (h : Head) (t : FTy) (d a : VReg) (s : State) : Host.Outcome State Fault Refusal :=
  .next (vecUnit .rsq h t d a s)
/-- vexp2 (R110). -/
def execVexp2 (h : Head) (t : FTy) (d a : VReg) (s : State) : Host.Outcome State Fault Refusal :=
  .next (vecUnit .exp2 h t d a s)
/-- vlog2 (R110). -/
def execVlog2 (h : Head) (t : FTy) (d a : VReg) (s : State) : Host.Outcome State Fault Refusal :=
  .next (vecUnit .log2 h t d a s)

/-- vmov (R111). -/
def execVmov (h : Head) (t : ETy) (d : VReg) (b : VSrc) (s : State) : Host.Outcome State Fault Refusal :=
  let w := etyBits t
  let y := s.vsrc w b
  .next (s.vecResult h 3 d w fun i => (elem w y i, 0))

/-- vmsk on two masks, or on one (R105). -/
def maskOp (f : Mask → Mask → Mask) (h : Head) (k : BitVec 3) (a b : QReg) (s : State) : State :=
  s.perform fun s =>
    s.result 1 (.q k) ((f (s.regs.mask a) (s.regs.mask b)).setWidth 2048) (s.mguard h) 0

/-- vmsk.and (R105). -/
def execVmskAnd (h : Head) (k : BitVec 3) (a b : QReg) (s : State) : Host.Outcome State Fault Refusal :=
  .next (maskOp (fun x y => x &&& y) h k a b s)
/-- vmsk.or (R105). -/
def execVmskOr (h : Head) (k : BitVec 3) (a b : QReg) (s : State) : Host.Outcome State Fault Refusal :=
  .next (maskOp (fun x y => x ||| y) h k a b s)
/-- vmsk.xor (R105). -/
def execVmskXor (h : Head) (k : BitVec 3) (a b : QReg) (s : State) : Host.Outcome State Fault Refusal :=
  .next (maskOp (fun x y => x ^^^ y) h k a b s)
/-- vmsk.not (R105). -/
def execVmskNot (h : Head) (k : BitVec 3) (a : QReg) (s : State) : Host.Outcome State Fault Refusal :=
  .next (maskOp (fun x _ => ~~~x) h k a 0 s)

/-- The byte lanes that vmsk.popc and vmsk.ffs look at (R105). -/
def State.maskLanes (s : State) (h : Head) (a : QReg) : List Nat := lanesOf (s.regs.mask a &&& s.mguard h)

/-- vmsk.popc (R105). -/
def execVmskPopc (h : Head) (d : BitVec 5) (a : QReg) (s : State) : Host.Outcome State Fault Refusal :=
  .next (s.perform fun s => s.scalar 8 (d.setWidth 6) (BitVec.ofNat 64 (s.maskLanes h a).length))
/-- vmsk.ffs (R105). -/
def execVmskFfs (h : Head) (d : BitVec 5) (a : QReg) (s : State) : Host.Outcome State Fault Refusal :=
  .next (s.perform fun s => s.scalar 8 (d.setWidth 6) (BitVec.ofNat 64 ((s.maskLanes h a).head?.getD 256)))

/-- vpack (R114). -/
def execVpack (h : Head) (t : ETy) (d a b : VReg) (s : State) : Host.Outcome State Fault Refusal :=
  let w := etyBits t
  let x := s.vreg a
  let y := s.vreg b
  let m := 2048 / w / 2
  .next (s.vecResult h 4 d w fun i => (if i < m then elem w x (2 * i) else elem w y (2 * (i - m)), 0))
/-- vunpk (R114). -/
def execVunpk (h : Head) (t : ETy) (d a b : VReg) (s : State) : Host.Outcome State Fault Refusal :=
  let w := etyBits t
  let x := s.vreg a
  let y := s.vreg b
  .next (s.vecResult h 4 d w fun i => (if i % 2 = 0 then elem w x (i / 2) else elem w y (i / 2), 0))

/-- vscale (R108). -/
def execVscale (h : Head) (t : FTy) (d a : VReg) (b : VSrc) (s : State) : Host.Outcome State Fault Refusal :=
  let f := ftyFmt t
  let x := s.vreg a
  let k := fun (i : Nat) => match b with
    | .vec r => (vecByte (s.vreg r) (i / 32)).toInt
    | .scal r => ((s.sreg (r.setWidth 6)).setWidth 8).toInt
  .next (s.vecResult h 4 d f.bits fun i => vScale f s.rmode (elem f.bits x i) (k i))

end Sys2Proof.Machine
end

