-- ==== Sys2Proof/Machine/Control.lean ====
section
/-!
DEFINITION. The control instructions (R58 to R69), class C, and nop.
-/

namespace Sys2Proof.Machine

/-- nop (R58). -/
def execNop (_h : Head) (s : State) : Host.Outcome State Fault Refusal := .next s

/-- The bundle transfers control to `a`, its next bundle at issue cycle c + `lat`. -/
def State.goto (s : State) (a : PC) (lat : Nat) : State :=
  let s := s.modCtx fun x => { x with pc := a, nextIssue := s.now + lat }
  { s with iss := { s.iss with transferred := true } }

/-- The code of a context's own image on its core: origin and words (R25, R185). -/
def Mach.codeOf (m : Mach) (r : CtxRef) : List (Nat × List SlotWord) :=
  match m.imageOf r with
  | none => []
  | some im =>
    im.decl.code.filterMap fun c =>
      if im.place.any fun p => p.1 == c.1 && p.2.1 == r.cl && p.2.2 == r.co then some (c.2.1, c.2.2) else none

/-- A valid target of a control transfer (R25). -/
def Mach.validTarget (m : Mach) (r : CtxRef) (a : Nat) : Bool :=
  decide (a % 4 = 0) && decide (a < 0x40000) && (m.codeOf r).any fun c =>
    decide (c.1 ≤ a) && decide (a < c.1 + 4 * c.2.length) &&
      (decide (a = c.1) || ((m.core r.cl r.co).slotWord (a - 4)).getLsbD 31)

/-- A taken transfer (R25, R42): loop escape first, then the target. -/
def State.transfer (s : State) (a : Int) (lat : Nat) (f : State → State) : State :=
  if s.regs.loops.any fun l => decide (a < l.start.toNat) || decide ((l.stop.toNat : Int) < a) then s.raise 0x03 0
  else s.perform fun s =>
    let s := f s
    let tgt := BitVec.ofInt 18 a
    let pc : PC := tgt.setWidth 19
    if 0 ≤ a ∧ s.pre.validTarget s.ref a.toNat then s.goto pc lat
    else
      let s := s.goto pc lat
      s.modCtx fun x => { x with badTarget := some ⟨tgt, s.iss.baddr, s.iss.slot, s.now⟩ }

/-- The target of a relative transfer (R59). -/
def State.relTarget (s : State) (off : Int) : Int := (s.iss.baddr.toNat : Int) + off * 4

/-- A branch (R59, R45): the guard is the condition. -/
def branch (hintTaken : Bool) (h : Head) (off : BitVec 19) (s : State) : State :=
  if s.pguard h then s.transfer (s.relTarget off.toInt) (if hintTaken then 1 else 4) id
  else if hintTaken then s.perform fun s => s.modCtx fun x => { x with nextIssue := s.now + 4 }
  else s

/-- br.t (R59). -/
def execBrT (h : Head) (off : BitVec 19) (s : State) : Host.Outcome State Fault Refusal := .next (branch true h off s)
/-- br.n (R59). -/
def execBrN (h : Head) (off : BitVec 19) (s : State) : Host.Outcome State Fault Refusal := .next (branch false h off s)

/-- call (R60). -/
def execCall (h : Head) (off : BitVec 20) (s : State) : Host.Outcome State Fault Refusal :=
  .next (if s.pguard h then
    s.transfer (s.relTarget off.toInt) 1 fun s => s.scalar 1 63 (s.iss.after.setWidth 64)
  else s)

/-- A jump to a register (R61): a target outside the instruction store is not valid. -/
def jump (h : Head) (a : SReg) (s : State) : State :=
  if s.pguard h then s.transfer ((s.sreg a).toNat : Int) 3 id else s

/-- jr (R61). -/
def execJr (h : Head) (a : SReg) (s : State) : Host.Outcome State Fault Refusal := .next (jump h a s)
/-- ret: jr s63 (R61). -/
def execRet (h : Head) (s : State) : Host.Outcome State Fault Refusal := .next (jump h 63 s)

/-- A counted loop (R40, R62): a body of `b` bundles after this one, `n` times. DESIGN CHOICE: one at depth 6 whose body also
ends past the enclosing body's end reports detail 1, the depth (log entry 37). -/
def startLoop (h : Head) (b n : Nat) (s : State) : State :=
  s.checkedSlot h fun s =>
    let k := s.pre.core s.iss.cl s.iss.co
    let last := k.bundleAfter s.iss.after.toNat (b - 1)
    if n = 0 then s.perform fun s => s.goto (BitVec.ofNat 19 (k.bundleEnd last)) 1
    else if s.regs.loops.length ≥ 6 then s.raise 0x03 1
    else if s.regs.loops.head?.any fun l => decide (l.stop.toNat < last) then s.raise 0x03 3
    else s.perform fun s => s.modCtx fun x =>
      { x with regs := { x.regs with
          loops := ⟨0, BitVec.ofNat 16 n, s.iss.after, BitVec.ofNat 19 last⟩ :: x.regs.loops } }

/-- loop (R62): a count above 65,535 counts as 65,535. -/
def execLoop (h : Head) (a : SReg) (body : BitVec 8) (s : State) : Host.Outcome State Fault Refusal :=
  .next (startLoop h (body.toNat + 1) (min (s.sreg a).toNat 65535) s)
/-- loopi (R62). -/
def execLoopi (h : Head) (body : BitVec 6) (n : BitVec 14) (s : State) : Host.Outcome State Fault Refusal :=
  .next (startLoop h (body.toNat + 1) n.toNat s)

/-- lbrk (R42, R63). -/
def execLbrk (h : Head) (s : State) : Host.Outcome State Fault Refusal :=
  .next (s.checkedSlot h fun s =>
    match s.regs.loops with
    | [] => s.raise 0x03 2
    | l :: rest => s.perform fun s =>
      let s := s.modCtx fun x => { x with regs := { x.regs with loops := rest } }
      s.goto (BitVec.ofNat 19 ((s.pre.core s.iss.cl s.iss.co).bundleEnd l.stop.toNat)) 1)

/-- A commit point (R49, R51): every entry of the buffer commits, and the bundle is to be a mark. -/
def State.commitPoint (s : State) : State :=
  { mach := (s.mach.commitAll s.ref s.iss.fences).modCtx s.ref fun x => { x with marking := true },
    iss := { s.iss with commit := true } }

/-- A yield (R64): commit, release condition, end of the task. -/
def yieldOn (h : Head) (cond : State → WaitCond) (msg : Bool) (rel : State → Nat) (s : State) : State :=
  s.guarded h fun s =>
    let s := s.commitPoint
    let s := s.modCtx fun x =>
      { x.endTask s.now with
               run := .waiting, wait := cond s, relTime := rel s, waitMsg := msg,
               capoReq := none, capoGrantAt := none }
    s.modCore fun k => k.leave s.iss.cx s.now

/-- yield.now (R64). -/
def execYieldNow (h : Head) (s : State) : Host.Outcome State Fault Refusal :=
  .next (yieldOn h (fun _ => .now) false (fun s => s.pre.pk.fret) s)
/-- yield.at (R64): the time is read at issue. -/
def execYieldAt (h : Head) (a : SReg) (s : State) : Host.Outcome State Fault Refusal :=
  .next (yieldOn h (fun s => .at (s.sreg a).toNat) false (fun s => max (s.pre.pk.tickOf (s.sreg a)) s.pre.pk.fret) s)
/-- yield.q (R64, R288). -/
def execYieldQ (h : Head) (q : BitVec 12) (s : State) : Host.Outcome State Fault Refusal :=
  .next (yieldOn h (fun _ => .q q none) true (fun s => s.pre.pk.fret) s)
/-- yield.sc (R64, R290). -/
def execYieldSc (h : Head) (k : BitVec 8) (s : State) : Host.Outcome State Fault Refusal :=
  .next (yieldOn h (fun _ => .sc k none) true (fun s => s.pre.pk.fret) s)

/-- exit (R65): the entries commit, results in flight are discarded, the activity is no longer bound. -/
def execExit (h : Head) (s : State) : Host.Outcome State Fault Refusal :=
  .next (s.guarded h fun s =>
    let s := s.commitPoint
    { mach := s.mach.endCtx s.ref false s.mach.pk.fret, iss := { s.iss with exits := true } })

/-- rmark (R66). -/
def execRmark (h : Head) (s : State) : Host.Outcome State Fault Refusal :=
  .next (s.guarded h fun s => s.commitPoint)

/-- trap (R67): cause 0x0D with the code. -/
def execTrap (h : Head) (code : BitVec 20) (s : State) : Host.Outcome State Fault Refusal :=
  .next (if s.pguard h then s.raise 0x0D (code.setWidth 64) else s)

/-- fmt (R68): the descriptor governs operations from c+4 on. -/
def execFmt (h : Head) (f : BitVec 3) (desc : BitVec 17) (s : State) : Host.Outcome State Fault Refusal :=
  .next (s.guarded h fun s => s.result 4 (.fm f) ((desc ++ 0#3).setWidth 2048) (BitVec.allOnes 256) 0)

/-- fmtr (R68): an invalid descriptor raises cause 0x14. -/
def execFmtr (h : Head) (f : BitVec 3) (a : SReg) (s : State) : Host.Outcome State Fault Refusal :=
  let desc : BitVec 20 := (s.sreg a).setWidth 20
  .next (if s.pguard h then
    if descValid desc then s.perform fun s => s.result 4 (.fm f) (desc.setWidth 2048) (BitVec.allOnes 256) 0
    else s.raise 0x14 (0b01#2 ++ 0#39 ++ f ++ desc)
  else s)

/-- The context's level falls to `level` (R69, R169): the difference returns to the domain, and capolevel follows from
c+1. -/
def State.setLevel (s : State) (level : BitVec 4) : State :=
  let held := s.preCtx.capo
  let s := s.modMach fun m => m.returnLevels s.iss.cl m.pk.fret (held.toNat - level.toNat)
  s.modCtx fun x => { x with capoNext := some level }

/-- capo.acq (R69). -/
def execCapoAcq (h : Head) (level : BitVec 4) (s : State) : Host.Outcome State Fault Refusal :=
  .next (if s.pguard h then
    if !s.preCtx.first then s.raise 0x0C 1
    else if s.preCtx.capo.toNat < level.toNat then s.raise 0x0C 2
    else s.perform fun s => s.setLevel level
  else s)
/-- capo.rel (R69). -/
def execCapoRel (h : Head) (s : State) : Host.Outcome State Fault Refusal :=
  .next (s.guarded h fun s => s.setLevel 0)

end Sys2Proof.Machine
end

