-- ==== Sys2Proof/Machine/Transfer.lean ====
section
/-!
DEFINITION. Class T: the bridge instructions (R218 to R221) and timed transfers (R212, R213).
-/

namespace Sys2Proof.Machine

/-- The tier-U cluster above a router's tier-L cluster (R218). -/
def upperOf (cl : ClusterId) : ClusterId := cl ||| 16#5
/-- The cluster at the other end of a core's bridge FIFO. -/
def otherEnd (cl : ClusterId) : ClusterId := cl ^^^ 16#5
/-- The core of tier U is the consumer (R218). -/
def isConsumer (cl : ClusterId) : Bool := cl.getLsbD 4

/-- The bridge FIFO of a core, held at the consumer (R218). -/
def Mach.bridge (m : Mach) (cl : ClusterId) (co : CoreId) : Bridge := (m.core (upperOf cl) co).bridge
/-- The bridge FIFO of a core changed. -/
def Mach.modBridge (m : Mach) (cl : ClusterId) (co : CoreId) (f : Bridge → Bridge) : Mach :=
  m.modCore (upperOf cl) co fun k => { k with bridge := f k.bridge }

/-- A tier whose end of a bridge FIFO cannot be reached (R221, R225). -/
def Domain.away (d : Domain) : Bool := d.gated || d.waking || d.tripped

/-- The FIFO of a core is available to a context (R221, R224). -/
def Mach.bridgeOk (m : Mach) (r : CtxRef) : Bool :=
  let x := m.ctx r
  let o := otherEnd r.cl
  m.pk.clusterIn x.part o && !(m.dom (domOf o)).away &&
    ctxIds.any fun cx =>
      let y := m.ctx ⟨o, r.co, cx⟩
      m.boundAt ⟨o, r.co, cx⟩ && y.img.isSome && y.img == x.img && y.part == x.part

/-- held as a core reads it (R219). -/
def Mach.bridgeHeld (m : Mach) (r : CtxRef) : Nat :=
  if isConsumer r.cl then (m.bridge r.cl r.co).consHeld else (m.bridge r.cl r.co).prodHeld

/-- The detail of cause 0x05 (R221). -/
def bridgeDetail (kind cnt : Nat) : Word := BitVec.ofNat 64 (kind + cnt * 65536)

/-- brg.push (R220, R221). -/
def execBrgPush (h : Head) (v : VReg) (s : State) : Host.Outcome State Fault Refusal :=
  .next (if s.pguard h then
    if isConsumer s.iss.cl || !s.pre.bridgeOk s.ref then s.raise 0x05 (bridgeDetail 3 0)
    else s.perform fun s => s.gatePush .command (.cmd (.brgPush (s.vreg v)))
  else s)

/-- Another context of the core holds uncommitted pops (R220). -/
def Core.popHolder (k : Core) (cx : CtxId) : Bool := ctxIds.any fun c => c != cx && decide (0 < popsIn (k.ctx c).gate)

/-- brg.pop (R220, R221): kind 3, then kind 2, then kind 0. -/
def execBrgPop (h : Head) (d : VReg) (s : State) : Host.Outcome State Fault Refusal :=
  .next (if s.pguard h then
    let k := s.pre.core s.iss.cl s.iss.co
    let b := k.bridge
    if !isConsumer s.iss.cl || !s.pre.bridgeOk s.ref then s.raise 0x05 (bridgeDetail 3 0)
    else if k.popHolder s.iss.cx then s.raise 0x05 (bridgeDetail 2 0)
    else if b.consHeld ≤ b.u then s.raise 0x05 (bridgeDetail 0 b.consHeld)
    else s.perform fun s =>
      let s := s.result 4 (.v d) ((b.fifo[b.u]?).getD 0) (BitVec.allOnes 256) 0
      let s := s.modCore fun k => { k with bridge := { k.bridge with u := k.bridge.u + 1 } }
      s.gatePush .command (.cmd .brgPop)
  else s)

/-- L(i, j) in core cycles (R212). -/
def transferTable : List (List Nat) :=
  [[4, 6, 8, 10, 5, 7, 9, 11], [6, 4, 6, 8, 7, 5, 7, 9], [8, 6, 4, 6, 9, 7, 5, 7], [10, 8, 6, 4, 11, 9, 7, 5],
   [5, 7, 9, 11, 4, 6, 8, 10], [7, 5, 7, 9, 6, 4, 6, 8], [9, 7, 5, 7, 8, 6, 4, 6], [11, 9, 7, 5, 10, 8, 6, 4]]

/-- L(i, j) (R212). -/
def transferTime (i j : CoreId) : Nat := ((transferTable.getD i.toNat []).getD j.toNat 0)

/-- xsnd (R213): not gated; outside a gang its region is unrestartable (R53). -/
def sendTo (vec : Bool) (h : Head) (j : CoreId) (val : State → Vec) (s : State) : State :=
  s.guarded h fun s =>
    let a : Arrival := ⟨s.now + transferTime s.iss.co j, s.iss.co, j, vec, val s, s.iss.cx, s.now⟩
    let s := s.modMach fun m => m.modCluster s.iss.cl fun c => { c with arrivals := c.arrivals ++ [a] }
    if s.preCtx.gang.isSome then s else s.modCtx fun x => { x with unrestartable := true }

/-- xsnd of a scalar (R213). -/
def execXsndScalar (h : Head) (j : BitVec 3) (a : SReg) (s : State) : Host.Outcome State Fault Refusal :=
  .next (sendTo false h j (fun s => (s.sreg a).setWidth 2048) s)
/-- xsnd of a vector (R213). -/
def execXsndVector (h : Head) (j : BitVec 3) (a : VReg) (s : State) : Host.Outcome State Fault Refusal :=
  .next (sendTo true h j (fun s => s.vreg a) s)

/-- xrcv (R213): the latch holds a value in the cycle of its arrival only. -/
def receive (vec : Bool) (h : Head) (d : RegDest) (i : CoreId) (s : State) : State :=
  if s.pguard h then
    let detail : Nat → Word := fun found => BitVec.ofNat 64 (i.toNat + (if vec then 8 else 0) + 16 * found)
    match (s.pre.core s.iss.cl s.iss.co).latches.find i.toNat with
    | none => s.raise 0x06 (detail 0)
    | some (kind, val) =>
      if kind = vec then s.perform fun s => s.result 1 d val (BitVec.allOnes 256) 0 else s.raise 0x06 (detail 1)
  else s

/-- xrcv of a scalar (R213). -/
def execXrcvScalar (h : Head) (d : SReg) (i : BitVec 3) (s : State) : Host.Outcome State Fault Refusal :=
  .next (receive false h (.s d) i s)
/-- xrcv of a vector (R213). -/
def execXrcvVector (h : Head) (d : VReg) (i : BitVec 3) (s : State) : Host.Outcome State Fault Refusal :=
  .next (receive true h (.v d) i s)

end Sys2Proof.Machine
end

