-- ==== Sys2Proof/Machine/System.lean ====
section
/-!
DEFINITION. The system values (R80 to R82).
-/

namespace Sys2Proof.Machine

/-- A copy channel's key. -/
def chanKey (cl : ClusterId) (ch : BitVec 4) : Nat := cl.toNat * 16 + ch.toNat
/-- A storage or network channel's key (R318). -/
def portKey (p : BitVec 3) (ch : BitVec 2) : Nat := p.toNat * 4 + ch.toNat

/-- A channel is bound to an activity of the context's own image (R81). -/
def ownChannel (x : Context) (owner : Option CtxRef) (img : Option (BitVec 12)) : Bool :=
  owner.isSome && img.isSome && img == x.img

/-- A copy channel at the start of an image's life (R253): the first ID is 1. -/
def Channel.reset : Channel := ⟨none, none, 1, 0, [], [], none⟩

def Package.chan (p : Package) (cl : ClusterId) (ch : BitVec 4) : Channel :=
  (p.chans.find (chanKey cl ch)).getD Channel.reset

/-- A storage or network channel at reset (R318, R320). -/
def PortChan.reset : PortChan :=
  { valid := false, state := 0, reason := 0, ast := 0, r08 := 0, r10 := 0, r18 := 0, r20 := 0, npsel := 0, npfa := 0,
    owner := none, img := none, next := 1, done := 0, ended := [], cmds := [], used := 0, wp := 0, checkAt := 0,
    inbound := [], kept := [], stall := none }

def Package.sioChan (p : Package) (k : Nat) : PortChan := (p.sio.find k).getD PortChan.reset
def Package.netChan (p : Package) (k : Nat) : PortChan := (p.net.find k).getD PortChan.reset

/-- A watermark or an ID of a channel (R80, R81). -/
def chanValue (x : Context) (owner : Option CtxRef) (img : Option (BitVec 12)) (v : BitVec 48) : Word :=
  if ownChannel x owner img then v.setWidth 64 else 0

/-- A system value as it stands at the issue (R80). -/
def sysValue (m : Mach) (r : CtxRef) (sel : SysSel) : Word :=
  let x := m.ctx r
  match sel with
  | .fret => m.fret
  | .cycle => BitVec.ofNat 64 (m.cyc r.cl)
  | .ident => (r.cl ++ r.co ++ r.cx).setWidth 64
  | .ast => x.ast.setWidth 64
  | .vflags => x.regs.vflags.setWidth 64
  | .vrm => x.regs.vrm.setWidth 64
  | .brfree => if m.bridgeOk r then BitVec.ofNat 64 (16 - m.bridgeHeld r) else 0
  | .brcount => if m.bridgeOk r then BitVec.ofNat 64 (m.bridgeHeld r) else 0
  | .energy => x.energy
  | .capolevel => x.capo.setWidth 64
  | .evqcount => BitVec.ofNat 64 (m.core r.cl r.co).evq.length
  | .done ch => let c := m.pk.chan r.cl ch; chanValue x c.owner c.img c.done
  | .nextid ch => let c := m.pk.chan r.cl ch; chanValue x c.owner c.img c.next
  | .sdone ch => let c := m.pk.sioChan (portKey x.part ch); chanValue x c.owner c.img c.done
  | .ndone ch => let c := m.pk.netChan (portKey x.part ch); chanValue x c.owner c.img c.done

/-- rdsys (R80): sampled at c, available at c+1. -/
def execRdsys (h : Head) (d : SReg) (sel : SysSel) (s : State) : Host.Outcome State Fault Refusal :=
  .next (s.guarded h fun s => s.scalar 1 d (sysValue s.pre s.ref sel))

/-- wrsys vflags (R82). -/
def execWrsysVflags (h : Head) (a : SReg) (s : State) : Host.Outcome State Fault Refusal :=
  .next (s.guarded h fun s => s.result 1 .vflags ((s.sreg a).setWidth 2048) (BitVec.allOnes 256) 0)
/-- wrsys vrm (R82). -/
def execWrsysVrm (h : Head) (a : SReg) (s : State) : Host.Outcome State Fault Refusal :=
  .next (s.guarded h fun s => s.result 1 .vrm ((s.sreg a).setWidth 2048) (BitVec.allOnes 256) 0)

end Sys2Proof.Machine
end

