-- ==== Sys2Proof/Machine/Engine.lean ====
section
/-!
DEFINITION. The engine commands, class E, as they issue: each reads its registers and enters one command entry (R48).
-/

namespace Sys2Proof.Machine

/-- A command entry of a predicated slot. -/
def State.command (s : State) (h : Head) (c : State → Cmd) : State :=
  s.guarded h fun s => s.gatePush .command (.cmd (c s))

/-- A group of `n` scalar registers from `base`. -/
def State.group (s : State) (base n : Nat) : List Word :=
  (List.range n).map fun i => s.sreg (BitVec.ofNat 6 (base + i))

/-- cpy (R250): sT, frzowed and the two layout records are read at issue. -/
def execCpy (h : Head) (t : SReg) (kd ks : BitVec 3) (ch : BitVec 4) (s : State) : Host.Outcome State Fault Refusal :=
  .next (s.command h fun s => .cpy (s.sreg t) (s.group (8 * kd.toNat) 8) (s.group (8 * ks.toNat) 8) ch
    (s.pre.cluster s.iss.cl).frzowed)

/-- famo (R256): sL, sA, sB and, for cas, sB+1 are read at issue. -/
def famo (op : AOp) (h : Head) (l : BitVec 4) (o : Ord) (w : Bool) (a : BitVec 4) (b : BitVec 5) (s : State) : State :=
  s.command h fun s => .famo op o (if w then 8 else 4) (s.sreg (a.setWidth 6)) (s.sreg (b.setWidth 6))
    (s.sreg (b.setWidth 6 + 1)) (if l = 0 then none else some (s.sreg (l.setWidth 6)))

/-- famo.add (R257). -/
def execFamoAdd (h : Head) (l : BitVec 4) (o : Ord) (w : Bool) (a : BitVec 4) (b : BitVec 5) (s : State) :
    Host.Outcome State Fault Refusal := .next (famo .add h l o w a b s)
/-- famo.min (R257). -/
def execFamoMin (h : Head) (l : BitVec 4) (o : Ord) (w : Bool) (a : BitVec 4) (b : BitVec 5) (s : State) :
    Host.Outcome State Fault Refusal := .next (famo .min h l o w a b s)
/-- famo.max (R257). -/
def execFamoMax (h : Head) (l : BitVec 4) (o : Ord) (w : Bool) (a : BitVec 4) (b : BitVec 5) (s : State) :
    Host.Outcome State Fault Refusal := .next (famo .max h l o w a b s)
/-- famo.and (R257). -/
def execFamoAnd (h : Head) (l : BitVec 4) (o : Ord) (w : Bool) (a : BitVec 4) (b : BitVec 5) (s : State) :
    Host.Outcome State Fault Refusal := .next (famo .and h l o w a b s)
/-- famo.or (R257). -/
def execFamoOr (h : Head) (l : BitVec 4) (o : Ord) (w : Bool) (a : BitVec 4) (b : BitVec 5) (s : State) :
    Host.Outcome State Fault Refusal := .next (famo .or h l o w a b s)
/-- famo.xor (R257). -/
def execFamoXor (h : Head) (l : BitVec 4) (o : Ord) (w : Bool) (a : BitVec 4) (b : BitVec 5) (s : State) :
    Host.Outcome State Fault Refusal := .next (famo .xor h l o w a b s)
/-- famo.swap (R257). -/
def execFamoSwap (h : Head) (l : BitVec 4) (o : Ord) (w : Bool) (a : BitVec 4) (b : BitVec 5) (s : State) :
    Host.Outcome State Fault Refusal := .next (famo .swap h l o w a b s)
/-- famo.cas (R257). -/
def execFamoCas (h : Head) (l : BitVec 4) (o : Ord) (w : Bool) (a : BitVec 4) (b : BitVec 5) (s : State) :
    Host.Outcome State Fault Refusal := .next (famo .cas h l o w a b s)

/-- A pool command (R262). -/
def poolCmd (op : PoolOp) (h : Head) (d a : SReg) (s : State) : State :=
  s.command h fun s => .pool op (s.sreg a) (s.sreg d) (d != 0)

/-- pool.acqw (R264). -/
def execPoolAcqw (h : Head) (d a : SReg) (s : State) : Host.Outcome State Fault Refusal :=
  .next (poolCmd .acqw h d a s)
/-- pool.pub (R265). -/
def execPoolPub (h : Head) (d a : SReg) (s : State) : Host.Outcome State Fault Refusal :=
  .next (poolCmd .pub h d a s)
/-- pool.pin (R266). -/
def execPoolPin (h : Head) (d a : SReg) (s : State) : Host.Outcome State Fault Refusal :=
  .next (poolCmd .pin h d a s)
/-- pool.gen (R267). -/
def execPoolGen (h : Head) (d a : SReg) (s : State) : Host.Outcome State Fault Refusal :=
  .next (poolCmd .gen h d a s)
/-- pool.pub.after (R265). -/
def execPoolPubAfter (h : Head) (d a : SReg) (s : State) : Host.Outcome State Fault Refusal :=
  .next (poolCmd .pubAfter h d a s)
/-- pool.unpin (R266). -/
def execPoolUnpin (h : Head) (a : SReg) (s : State) : Host.Outcome State Fault Refusal :=
  .next (poolCmd .unpin h 0 a s)

/-- qop.push (R289): bytes 0 to 63 of the vector are read with the header. -/
def execQopPush (h : Head) (d : SReg) (v : VReg) (s : State) : Host.Outcome State Fault Refusal :=
  .next (s.command h fun s => .qpush (s.sreg d) (bytesOfNat 64 (s.vreg v).toNat))
/-- qop.pop (R289). -/
def execQopPop (h : Head) (d a : SReg) (s : State) : Host.Outcome State Fault Refusal :=
  .next (s.command h fun s => .qpop (s.sreg a) (s.sreg d))
/-- qop.count (R289). -/
def execQopCount (h : Head) (d a : SReg) (s : State) : Host.Outcome State Fault Refusal :=
  .next (s.command h fun s => .qcount (s.sreg a) (s.sreg d))
/-- scope.open (R291). -/
def execScopeOpen (h : Head) (a : SReg) (s : State) : Host.Outcome State Fault Refusal :=
  .next (s.command h fun s => .scope true (s.sreg a))
/-- scope.close (R291). -/
def execScopeClose (h : Head) (a : SReg) (s : State) : Host.Outcome State Fault Refusal :=
  .next (s.command h fun s => .scope false (s.sreg a))

/-- A txt command (R301): the result register, the parameter pair, and the handle with the final flag. -/
def txtCmd (tok : Bool) (h : Head) (d : SReg) (p a : BitVec 5) (s : State) : State :=
  s.command h fun s => .txt tok (if d = 0 then none else some (s.sreg d)) (s.sreg (p ++ 0#1)) (s.sreg (p ++ 1#1)) (s.sreg (a.setWidth 6))

/-- txt.out (R301). -/
def execTxtOut (h : Head) (d : SReg) (p a : BitVec 5) (s : State) : Host.Outcome State Fault Refusal :=
  .next (txtCmd false h d p a s)
/-- txt.tok (R301). -/
def execTxtTok (h : Head) (d : SReg) (p a : BitVec 5) (s : State) : Host.Outcome State Fault Refusal :=
  .next (txtCmd true h d p a s)

/-- sio.rd (R320). -/
def execSioRd (h : Head) (p : BitVec 5) (c : BitVec 2) (s : State) : Host.Outcome State Fault Refusal :=
  .next (s.command h fun s => .sio .rd (s.sreg (p ++ 0#1)) (s.sreg (p ++ 1#1)) false c)
/-- sio.wr (R320). -/
def execSioWr (h : Head) (p : BitVec 5) (fua : Bool) (c : BitVec 2) (s : State) : Host.Outcome State Fault Refusal :=
  .next (s.command h fun s => .sio .wr (s.sreg (p ++ 0#1)) (s.sreg (p ++ 1#1)) fua c)
/-- sio.flush (R320). -/
def execSioFlush (h : Head) (c : BitVec 2) (s : State) : Host.Outcome State Fault Refusal :=
  .next (s.command h fun _ => .sio .flush 0 0 false c)

/-- net.send (R320). -/
def execNetSend (h : Head) (q : BitVec 4) (ord : Bool) (c : BitVec 2) (s : State) : Host.Outcome State Fault Refusal :=
  .next (s.command h fun s => .net .send (s.group (4 * q.toNat) 4) ord c)
/-- net.write (R320). -/
def execNetWrite (h : Head) (q : BitVec 4) (ord : Bool) (c : BitVec 2) (s : State) : Host.Outcome State Fault Refusal :=
  .next (s.command h fun s => .net .write (s.group (4 * q.toNat) 4) ord c)
/-- net.read (R320). -/
def execNetRead (h : Head) (q : BitVec 4) (c : BitVec 2) (s : State) : Host.Outcome State Fault Refusal :=
  .next (s.command h fun s => .net .read (s.group (4 * q.toNat) 4) false c)

/-- A context counts as bound to the issuing context's image (R177). -/
def Mach.eventTarget (m : Mach) (r : CtxRef) (cx : CtxId) : Bool :=
  let x := m.ctx r
  let y := m.ctx ⟨r.cl, r.co, cx⟩
  y.img.isSome && y.img == x.img && y.part == x.part && (y.bound || (m.imageOf ⟨r.cl, r.co, cx⟩).isSome)

/-- evt.post (R176, R177). -/
def execEvtPost (h : Head) (a b : SReg) (s : State) : Host.Outcome State Fault Refusal :=
  let w := s.sreg a
  let target : CtxId := w.extractLsb' 8 3
  .next (s.checkedSlot h fun s =>
    if s.pre.eventTarget s.ref target then
      s.perform fun s => s.gatePush .command (.cmd (.evtPost (w.setWidth 7) target ((s.sreg b).setWidth 32)))
    else s.raise 0x0A (addrDetail 6 target.toNat))

/-- evt.irq (R177): the partition check before the identity's. -/
def execEvtIrq (h : Head) (a : SReg) (s : State) : Host.Outcome State Fault Refusal :=
  let w := s.sreg a
  let cl : ClusterId := w.setWidth 5
  let ident : BitVec 10 := w.extractLsb' 16 10
  let addr := 0x70000000 + 0x1000 * cl.toNat
  .next (s.checkedSlot h fun s =>
    if !s.pre.pk.clusterIn s.preCtx.part cl then s.raise 0x0A (addrDetail 3 addr)
    else if ident.toNat < 64 then s.raise 0x0A (addrDetail 4 addr)
    else s.perform fun s => s.gatePush .command (.cmd (.evtIrq cl ident)))

end Sys2Proof.Machine
end

