-- ==== Sys2Proof/Machine/MemoryIns.lean ====
section
/-!
DEFINITION. The memory and atomic instructions of spec/10_memory_and_atomic_instructions.md, class M.
-/

namespace Sys2Proof.Machine

/-- lds.b (R152). -/
def execLdsB (h : Head) (d : SReg) (a : Base) (o : BitVec 6) (s : State) : Host.Outcome State Fault Refusal :=
  .next (s.scalarLoad h d a (o.toInt * 1) 1 (.sext 8))
/-- lds.h (R152). -/
def execLdsH (h : Head) (d : SReg) (a : Base) (o : BitVec 6) (s : State) : Host.Outcome State Fault Refusal :=
  .next (s.scalarLoad h d a (o.toInt * 2) 2 (.sext 16))
/-- lds.w (R152). -/
def execLdsW (h : Head) (d : SReg) (a : Base) (o : BitVec 6) (s : State) : Host.Outcome State Fault Refusal :=
  .next (s.scalarLoad h d a (o.toInt * 4) 4 (.sext 32))
/-- lds.d (R152). -/
def execLdsD (h : Head) (d : SReg) (a : Base) (o : BitVec 6) (s : State) : Host.Outcome State Fault Refusal :=
  .next (s.scalarLoad h d a (o.toInt * 8) 8 (.raw))
/-- ldz.b (R152). -/
def execLdzB (h : Head) (d : SReg) (a : Base) (o : BitVec 6) (s : State) : Host.Outcome State Fault Refusal :=
  .next (s.scalarLoad h d a (o.toInt * 1) 1 (.raw))
/-- ldz.h (R152). -/
def execLdzH (h : Head) (d : SReg) (a : Base) (o : BitVec 6) (s : State) : Host.Outcome State Fault Refusal :=
  .next (s.scalarLoad h d a (o.toInt * 2) 2 (.raw))
/-- ldz.w (R152). -/
def execLdzW (h : Head) (d : SReg) (a : Base) (o : BitVec 6) (s : State) : Host.Outcome State Fault Refusal :=
  .next (s.scalarLoad h d a (o.toInt * 4) 4 (.raw))
/-- st.b (R152). -/
def execStB (h : Head) (d : SReg) (a : Base) (o : BitVec 6) (s : State) : Host.Outcome State Fault Refusal :=
  .next (s.scalarStore h d a (o.toInt * 1) 1)
/-- st.h (R152). -/
def execStH (h : Head) (d : SReg) (a : Base) (o : BitVec 6) (s : State) : Host.Outcome State Fault Refusal :=
  .next (s.scalarStore h d a (o.toInt * 2) 2)
/-- st.w (R152). -/
def execStW (h : Head) (d : SReg) (a : Base) (o : BitVec 6) (s : State) : Host.Outcome State Fault Refusal :=
  .next (s.scalarStore h d a (o.toInt * 4) 4)
/-- st.d (R152). -/
def execStD (h : Head) (d : SReg) (a : Base) (o : BitVec 6) (s : State) : Host.Outcome State Fault Refusal :=
  .next (s.scalarStore h d a (o.toInt * 8) 8)

/-- vld (R153). -/
def execVld (h : Head) (d : VReg) (a : Base) (imm : BitVec 8) (s : State) : Host.Outcome State Fault Refusal :=
  .next (s.vectorLoad h d a imm none)

/-- The tag that a tag-checked load expects (R154): bits 47 to 32 of its base register. -/
def State.expectedTag (s : State) (a : BitVec 5) : BitVec 16 := (s.sreg (a.setWidth 6)).extractLsb' 32 16

/-- vld.t (R154). -/
def execVldT (h : Head) (d : VReg) (a : BitVec 5) (imm : BitVec 8) (s : State) : Host.Outcome State Fault Refusal :=
  .next (s.vectorLoad h d (.sreg a) imm (some (s.expectedTag a)))
/-- vst (R153). -/
def execVst (h : Head) (d : VReg) (a : Base) (imm : BitVec 8) (s : State) : Host.Outcome State Fault Refusal :=
  .next (s.vectorStore h d a imm)
/-- vldg (R155). -/
def execVldg (h : Head) (d : VReg) (a b : SReg) (w : EW) (s : State) : Host.Outcome State Fault Refusal :=
  .next (s.elemLoad h d w (strideAddr (s.sreg a) (s.sreg b)))
/-- vstg (R155). -/
def execVstg (h : Head) (d : VReg) (a b : SReg) (w : EW) (s : State) : Host.Outcome State Fault Refusal :=
  .next (s.elemStore h d w (strideAddr (s.sreg a) (s.sreg b)))
/-- vgath (R155). -/
def execVgath (h : Head) (d : VReg) (a : SReg) (b : VReg) (w : EW) (s : State) : Host.Outcome State Fault Refusal :=
  .next (s.elemLoad h d w (indexAddr (s.sreg a) (s.vreg b) w))
/-- vscat (R155). -/
def execVscat (h : Head) (d : VReg) (a : SReg) (b : VReg) (w : EW) (s : State) : Host.Outcome State Fault Refusal :=
  .next (s.elemStore h d w (indexAddr (s.sreg a) (s.vreg b) w))

/-- ldt (R154): 64 bits of LM, tag-checked. -/
def execLdt (h : Head) (d : SReg) (a : BitVec 5) (imm : BitVec 8) (s : State) : Host.Outcome State Fault Refusal :=
  .next (s.checkedSlot h fun s =>
    let x := s.memAddr (.sreg a) (imm.toInt * 8)
    s.checked .loadLM false [span x 8] (if x % 8 ≠ 0 then some (x, 1) else none) fun s =>
      s.loadBytes 5 (.s d) (BitVec.allOnes 256) ((span x 8).mapIdx fun i y => (i, y)) .raw (some (s.expectedTag a)))

/-- agset of a base (R156). -/
def execAgsetBase (h : Head) (n : BitVec 3) (a : SReg) (s : State) : Host.Outcome State Fault Refusal :=
  .next (s.guarded h fun s => s.result 1 (.agBase n) ((s.sreg a).setWidth 2048) (BitVec.allOnes 256) 0)
/-- agset of stride f − 1 (R156). -/
def execAgsetStride (h : Head) (f n : BitVec 3) (a : SReg) (s : State) : Host.Outcome State Fault Refusal :=
  .next (s.guarded h fun s => s.result 1 (.agStride n (f - 1)) ((s.sreg a).setWidth 2048) (BitVec.allOnes 256) 0)

/-- An operation on two numbers of `n` bytes (R159, R257). -/
def applyOp (op : AOp) (n : Nat) (old v exp : Nat) : Nat :=
  let w := 8 * n
  let less := decide ((BitVec.ofNat w old).toInt < (BitVec.ofNat w v).toInt)
  match op with
  | .add => (old + v) % 2 ^ w
  | .min => if less then old else v
  | .max => if less then v else old
  | .and => old &&& v
  | .or => old ||| v
  | .xor => old ^^^ v
  | .swap => v
  | .cas => if old = exp then v else old

/-- A local atomic (R158): checked at issue; a release atomic commits and enters the drain last, any other performs at
c+2 in LM or at its bank cycle c+7; it makes its region unrestartable. -/
def State.atomic (s : State) (h : Head) (kind : AKind) (acc : AccessKind) (o : Ord) (w : Bool) (addr : Word)
    (val exp : Word) (dest : Option SReg) : State :=
  s.checkedSlot h fun s =>
    let n := if w then 8 else 4
    let a := (addr.setWidth 32 : BitVec 32).toNat
    s.checked acc false [span a n] (if a % n ≠ 0 then some (a, 1) else none) fun s =>
      let s := s.modCtx fun x => { x with unrestartable := true }
      let space : Space := (spaceOf a).1
      let off : Nat := (spaceOf a).2
      let mk := fun (res eff : Option Nat) =>
        ({ kind := kind, n := n, space := space, addr := off, val := val, exp := exp, res := res, cx := s.iss.cx,
           baddr := s.iss.baddr, slot := s.iss.slot, eff := eff } : Atomic)
      if o = .rel then
        let s := s.commitPoint
        let (id, m) := s.mach.fresh
        { mach := m,
          iss := { s.iss with rels := s.iss.rels ++
            [⟨id, .scalar, .atomic (mk none (some id)), s.now, s.iss.baddr, s.iss.slot⟩] } }
      else
        let r : Option Nat × State := match dest with
          | none => (none, s)
          | some d =>
            let p := s.await (if space = Space.sp then 13 else 5) (.s d) (BitVec.allOnes 256)
            (some p.1, p.2)
        let at' := mk r.1 none
        match space with
        | .lm => r.2.modCore fun k =>
            { k with atomics := k.atomics ++ [⟨s.now + 2, s.iss.co, at', s.now⟩] }
        | .sp => r.2.modMach fun m => m.modCluster s.iss.cl fun c =>
            { c with bank := c.bank ++ [⟨s.now + 7, s.now, s.iss.co, s.iss.cx, [], some at', none⟩] }

/-- The ordering returns a value (R159). -/
def retOrd (o : Ord) : Bool :=
  match o with
  | .com | .qnt | .rel => false
  | .unp | .nord | .spec | .acq | .ar => true

/-- amo (R159). -/
def amo (op : AOp) (h : Head) (l : BitVec 4) (o : Ord) (w : Bool) (a : BitVec 4) (b : BitVec 5) (s : State) : State :=
  s.atomic h (.rmw op) .write o w (s.sreg (a.setWidth 6)) (s.sreg (b.setWidth 6)) 0
    (if retOrd o then some (l.setWidth 6) else none)

/-- amo.add (R159). -/
def execAmoAdd (h : Head) (l : BitVec 4) (o : Ord) (w : Bool) (a : BitVec 4) (b : BitVec 5) (s : State) :
    Host.Outcome State Fault Refusal := .next (amo .add h l o w a b s)
/-- amo.min (R159). -/
def execAmoMin (h : Head) (l : BitVec 4) (o : Ord) (w : Bool) (a : BitVec 4) (b : BitVec 5) (s : State) :
    Host.Outcome State Fault Refusal := .next (amo .min h l o w a b s)
/-- amo.max (R159). -/
def execAmoMax (h : Head) (l : BitVec 4) (o : Ord) (w : Bool) (a : BitVec 4) (b : BitVec 5) (s : State) :
    Host.Outcome State Fault Refusal := .next (amo .max h l o w a b s)
/-- amo.and (R159). -/
def execAmoAnd (h : Head) (l : BitVec 4) (o : Ord) (w : Bool) (a : BitVec 4) (b : BitVec 5) (s : State) :
    Host.Outcome State Fault Refusal := .next (amo .and h l o w a b s)
/-- amo.or (R159). -/
def execAmoOr (h : Head) (l : BitVec 4) (o : Ord) (w : Bool) (a : BitVec 4) (b : BitVec 5) (s : State) :
    Host.Outcome State Fault Refusal := .next (amo .or h l o w a b s)
/-- amo.xor (R159). -/
def execAmoXor (h : Head) (l : BitVec 4) (o : Ord) (w : Bool) (a : BitVec 4) (b : BitVec 5) (s : State) :
    Host.Outcome State Fault Refusal := .next (amo .xor h l o w a b s)
/-- amo.swap (R159). -/
def execAmoSwap (h : Head) (l : BitVec 4) (o : Ord) (w : Bool) (a : BitVec 4) (b : BitVec 5) (s : State) :
    Host.Outcome State Fault Refusal := .next (amo .swap h l o w a b s)

/-- acas (R160): the expected value is read from sD. -/
def execAcas (h : Head) (l : BitVec 4) (o : Ord) (w : Bool) (a : BitVec 4) (b : BitVec 5) (s : State) :
    Host.Outcome State Fault Refusal :=
  .next (s.atomic h (.rmw .cas) .write o w (s.sreg (a.setWidth 6)) (s.sreg (b.setWidth 6)) (s.sreg (l.setWidth 6))
    (if o = .rel then none else some (l.setWidth 6)))
/-- ald (R161). -/
def execAld (h : Head) (d a : SReg) (w : Bool) (o : Ord) (s : State) : Host.Outcome State Fault Refusal :=
  .next (s.atomic h .load .load o w (s.sreg a) 0 0 (some d))
/-- ast (R161). -/
def execAst (h : Head) (d a : SReg) (w : Bool) (o : Ord) (s : State) : Host.Outcome State Fault Refusal :=
  .next (s.atomic h .store .write o w (s.sreg a) (s.sreg d) 0 none)

/-- fence (R162): an ordering point, then a commit whose entries count as before it (R273). -/
def execFence (h : Head) (kinds : BitVec 5) (scope : FScope) (s : State) : Host.Outcome State Fault Refusal :=
  .next (s.guarded h fun s =>
    let (id, m) := s.mach.placeFence s.ref kinds scope false
    let s : State := { mach := m, iss := { s.iss with fences := s.iss.fences ++ [(id, kinds)] } }
    s.commitPoint)

end Sys2Proof.Machine
end

