-- ==== Sys2Proof/Machine/Matrix.lean ====
section
/-!
DEFINITION. The matrix and accumulator instructions as they issue, class X (R127 to R149).
-/

namespace Sys2Proof.Machine

/-! ## Operand kinds -/

/-- The descriptor that a kind captures at issue (R94, R127). -/
def kindDesc (r : Regs) : MKind → BitVec 20
  | .fm f => r.fmReg f
  | .f16 | .bf16 | .i8 => 0

/-- Bits of an element's container (R127). -/
def kindBits (k : MKind) (desc : BitVec 20) : Nat :=
  match k with
  | .fm _ => if (descFmt desc).bits ≤ 4 then 4 else 8
  | .f16 | .bf16 => 16
  | .i8 => 8

/-- K (R127). -/
def kindDepth (k : MKind) (desc : BitVec 20) : Nat := if kindBits k desc = 4 then 256 else 128
/-- A 16-bit operand (R127). -/
def kindWide : MKind → Bool
  | .f16 | .bf16 => true
  | .fm _ | .i8 => false
/-- Scales are read (R129). -/
def kindScaled (k : MKind) (desc : BitVec 20) : Bool :=
  match k with
  | .fm _ => descBs desc
  | .f16 | .bf16 | .i8 => false
/-- Bytes of a plane row (R127). -/
def planeRow (k : MKind) (desc : BitVec 20) : Nat := 128 * kindBits k desc / 8
/-- Bytes of an activation row (R127). -/
def actRow (k : MKind) (desc : BitVec 20) : Nat := kindDepth k desc * kindBits k desc / 8
/-- P, the lines of a dense plane (R128). -/
def planeLines (k : MKind) : Nat := if kindWide k then 128 else 64

/-- Scale lines of a plane (R129). -/
def scaleLines (k : MKind) (desc : BitVec 20) : Nat := if kindScaled k desc then kindDepth k desc / 64 else 0
/-- Metadata lines of a plane (R130). -/
def metaLines (sparse : Bool) (k : MKind) (desc : BitVec 20) : Nat := if sparse then kindDepth k desc / 8 else 0

/-- K of a plane. -/
def Plane.depth (p : Plane) : Nat := kindDepth p.kind p.desc

/-! ## Checks -/

/-- The detail of a matrix operand trap (R140). -/
def matrixDetail (count row0 reason : Nat) : Word :=
  BitVec.ofNat 64 (2 * 2 ^ 62 + count * 65536 + row0 * 256 + reason)

/-- A write of the accumulator store scheduled: cycle, tile, row (R137). -/
abbrev AccSlot := Nat × Nat × Nat

/-- The rows and cycles that an mma writes (R135). -/
def mmaSlots (issued g tile row0 m : Nat) : List AccSlot :=
  (List.range m).map fun r => (issued + 24 + g * r, tile, row0 + r)

/-- The writes that earlier bundles have scheduled (R137). -/
def Core.scheduled (k : Core) : List AccSlot :=
  (k.mmas.flatMap fun x => mmaSlots x.org.issued x.g x.tile.toNat x.row0 x.m) ++
    k.accW.flatMap fun w =>
      match w.op with
      | .clr row0 n _ => (List.range n).map fun i => (w.due, w.tile.toNat, row0 + i)
      | .awr row _ _ _ => [(w.due, w.tile.toNat, row)]
      | .nrm row _ => [(w.due, w.tile.toNat, row)]

/-- The first collision of new writes with scheduled ones (R137): earliest cycle, then lowest row. -/
def Core.rowConflict (k : Core) (new : List AccSlot) : Option AccSlot :=
  let old := k.scheduled
  (new.filter fun w => old.contains w).foldl (fun best w => match best with
    | none => some w
    | some b => if w.1 < b.1 ∨ (w.1 = b.1 ∧ w.2.2 < b.2.2) then some w else some b) none

/-- The detail of a row conflict (R137). -/
def conflictDetail (now : Nat) (w : AccSlot) : Word :=
  BitVec.ofNat 64 (w.2.1 * 2 ^ 27 + w.2.2 * 2 ^ 20 + (w.1 - now))

/-- The checks of a matrix slot, by rising cause (R24): unit-busy, row conflict, tile, windows, operand. -/
def State.matrixChecked (s : State) (h : Head) (busy : Option Nat) (writes : List AccSlot) (tileOk : Bool) (tile : Nat)
    (accs : List (List Nat)) (operand : Option Word) (f : State → State) : State :=
  s.checkedSlot h fun s =>
    match busy with
    | some d => s.raise 0x08 (BitVec.ofNat 64 d)
    | none =>
      match (s.pre.core s.iss.cl s.iss.co).rowConflict writes with
      | some w => s.raise 0x09 (conflictDetail s.now w)
      | none =>
        if !tileOk then s.raise 0x0A (addrDetail 5 tile)
        else match accessFault s.pre s.preCtx .loadLM false accs with
          | some (a, kd) => s.raise 0x0A (addrDetail kd a)
          | none =>
            match operand with
            | some d => s.raise 0x14 d
            | none => s.perform f

/-- The tile is allocated to the context (R122). -/
def State.ownsTile (s : State) (t : Tile) : Bool := s.preCtx.tiles.getLsbD t.toNat

/-- The issuing bundle and slot. -/
def State.origin (s : State) : Origin := ⟨s.iss.cx, s.iss.baddr, s.iss.slot, s.now⟩

/-- The region is unrestartable (R53). -/
def State.noRestart (s : State) : State := s.modCtx fun x => { x with unrestartable := true }

/-! ## mld and mswp -/

/-- mld and mld.sp (R141, R136): the shadow plane is loaded over the window of P cycles. -/
def loadPlane (sparse : Bool) (h : Head) (k : MKind) (a : BitVec 5) (s : State) : State :=
  let w := s.sreg (a.setWidth 6)
  let desc := kindDesc s.regs k
  let base := (w.setWidth 32 : BitVec 32).toNat
  let sbase := (w.extractLsb' 32 32).toNat
  let depth := kindDepth k desc
  let p := planeLines k
  let nv := if sparse then depth / 2 * planeRow k desc / 256 else p
  let ns := scaleLines k desc
  let nm := metaLines sparse k desc
  let metaBase := base + nv * 256
  let core := s.pre.core s.iss.cl s.iss.co
  let busy :=
    if s.now + 2 ≤ core.shadowPlane.useUntil then some 2
    else if core.load.any fun l => decide (s.now < l.org.issued + 2 + l.p) then some 3
    else none
  let lines := (List.range nv).map (fun n => span (base + n * 256) 256) ++
    (List.range ns).map (fun n => span (sbase + n * 256) 256) ++
    (List.range nm).map fun n => span (metaBase + n * 256) 256
  let operand := if base % 256 ≠ 0 ∨ (ns ≠ 0 ∧ sbase % 256 ≠ 0) then some (matrixDetail 0 0 3) else none
  s.matrixChecked h busy [] (s.preCtx.tiles != 0) 32 lines operand fun s =>
    s.modCore fun c =>
      { c with shadowPlane := ⟨k, desc, sparse, [], [], [], 0, c.shadowPlane.buf⟩,
               load := some ⟨s.origin, base, sbase, p, nv, ns, nm, metaBase⟩ }

/-- mld (R141). -/
def execMld (h : Head) (k : MKind) (a : BitVec 5) (s : State) : Host.Outcome State Fault Refusal :=
  .next (loadPlane false h k a s)
/-- mld.sp (R130, R141). -/
def execMldSp (h : Head) (k : MKind) (a : BitVec 5) (s : State) : Host.Outcome State Fault Refusal :=
  .next (loadPlane true h k a s)

/-- mswp (R142). -/
def execMswp (h : Head) (s : State) : Host.Outcome State Fault Refusal :=
  let core := s.pre.core s.iss.cl s.iss.co
  let busy := if core.load.any fun l => decide (s.now < l.org.issued + 2 + l.p) then some 4 else none
  .next (s.matrixChecked h busy [] (s.preCtx.tiles != 0) 32 [] none fun s =>
    s.modCore fun c => { c with plane := c.shadowPlane, shadowPlane := c.plane })

/-! ## mma -/

/-- mma (R143, R135). -/
def execMma (h : Head) (k : MKind) (t : Tile) (a b : BitVec 5) (s : State) : Host.Outcome State Fault Refusal :=
  let wa := s.sreg (a.setWidth 6)
  let wb := s.sreg (b.setWidth 6)
  let m := (wb.setWidth 8 : BitVec 8).toNat
  let row0 := (wb.extractLsb' 8 7).toNat
  let desc := kindDesc s.regs k
  let base := (wa.setWidth 32 : BitVec 32).toNat
  let sbase := (wa.extractLsb' 32 32).toNat
  let core := s.pre.core s.iss.cl s.iss.co
  let rb := actRow k desc
  let sb := kindDepth k desc / 32
  let scaled := kindScaled k desc
  let rows := min m (128 - row0)
  let g := if kindWide k || kindWide core.plane.kind then 4 else 1
  let busy := if s.now < core.mmaNext then some 1 else none
  let accs := if m = 0 then [] else
    (List.range rows).map (fun r => span (base + r * rb) rb) ++
      (if scaled then (List.range rows).map fun r => span (sbase + 8 * r) sb else [])
  let operand :=
    if m = 0 then none
    else if 128 < m then some (matrixDetail m row0 1)
    else if 128 < row0 + m then some (matrixDetail m row0 2)
    else if base % rb ≠ 0 ∨ (scaled ∧ sbase % 8 ≠ 0) then some (matrixDetail m row0 3)
    else if kindDepth k desc ≠ core.plane.depth then some (matrixDetail m row0 4)
    else none
  .next (s.matrixChecked h busy (mmaSlots s.now g t.toNat row0 rows) (s.ownsTile t) t.toNat accs operand fun s =>
    let s := s.noRestart
    s.modCore fun c =>
      if m = 0 then { c with mmaNext := s.now + 1 }
      else
        { c with
          mmaNext := s.now + g * m,
          plane := { c.plane with useUntil := max c.plane.useUntil (s.now + 24 + g * (m - 1)) },
          mmas := c.mmas ++ [⟨s.origin, t, row0, m, k, desc, base, sbase, g, core.plane, []⟩] })

/-! ## Accumulator instructions -/

/-- A write of the accumulator store at c+2 (R137). -/
def State.accWrite (s : State) (t : Tile) (op : AccWriteOp) : State :=
  let s := s.noRestart
  s.modCore fun c => { c with accW := c.accW ++ [⟨s.origin, s.now + 2, t, op⟩] }

/-- The row that a register names. -/
def State.rowOf (s : State) (b : BitVec 5) : Nat := ((s.sreg (b.setWidth 6)).extractLsb' 0 7).toNat

/-- aclr (R144). DESIGN CHOICE: one that R140 refuses has its rows up to 127 checked for a row conflict first (R137), whose
cause 0x09 is then the bundle's (log entry 37). -/
def execAclr (h : Head) (t : Tile) (a b : BitVec 5) (s : State) : Host.Outcome State Fault Refusal :=
  let wb := s.sreg (b.setWidth 6)
  let n := (wb.setWidth 8 : BitVec 8).toNat
  let row0 := (wb.extractLsb' 8 7).toNat
  let rows := (List.range (min n (128 - row0))).map fun i => ((s.now + 2, t.toNat, row0 + i) : AccSlot)
  let operand := if 128 < n then some (matrixDetail n row0 1)
    else if 128 < row0 + n then some (matrixDetail n row0 2) else none
  .next (s.matrixChecked h none rows (s.ownsTile t) t.toNat [] operand fun s =>
    s.accWrite t (.clr row0 n ((s.sreg (a.setWidth 6)).setWidth 16)))

/-- awr (R145). -/
def execAwr (h : Head) (t : Tile) (hf : Bool) (a : VReg) (b : BitVec 5) (x : FTy) (s : State) :
    Host.Outcome State Fault Refusal :=
  let row := s.rowOf b
  .next (s.matrixChecked h none [(s.now + 2, t.toNat, row)] (s.ownsTile t) t.toNat [] none fun s =>
    s.accWrite t (.awr row x hf (s.vreg a)))

/-- anrm (R149). -/
def execAnrm (h : Head) (t : Tile) (a b : BitVec 5) (s : State) : Host.Outcome State Fault Refusal :=
  let row := s.rowOf b
  .next (s.matrixChecked h none [(s.now + 2, t.toNat, row)] (s.ownsTile t) t.toNat [] none fun s =>
    s.accWrite t (.nrm row ((s.sreg (a.setWidth 6)).setWidth 16)))

/-- A read of the accumulator store: its sample at c+2 supplies the result. -/
def State.accRead (s : State) (h : Head) (t : Tile) (b : BitVec 5) (lat : Nat) (d : RegDest) (op : AccReadOp) : State :=
  let row := s.rowOf b
  s.matrixChecked h none [] (s.ownsTile t) t.toNat [] none fun s =>
    let (id, s) := s.await lat d (BitVec.allOnes 256)
    s.modCore fun c =>
      { c with accR := c.accR ++ [⟨s.origin, s.now + 2, t, row, op, id⟩], accLand := max c.accLand (s.now + lat) }

/-- ard (R146). -/
def execArd (h : Head) (sat : Bool) (d : VReg) (hf : Bool) (t : Tile) (b : BitVec 5) (x : FTy) (s : State) :
    Host.Outcome State Fault Refusal :=
  .next (s.accRead h t b 6 (.v d) (.row x hf sat))

/-- aexp (R148). -/
def execAexp (h : Head) (d : SReg) (t : Tile) (b : BitVec 5) (s : State) : Host.Outcome State Fault Refusal :=
  .next (s.accRead h t b 4 (.s d) .header)

end Sys2Proof.Machine
end

