-- ==== Sys2Proof/Machine/MatrixUnit.lean ====
section
/-!
DEFINITION. What the matrix unit does after issue: samples, row commits, plane loads, accumulator writes and reads
(R131 to R139, R208).
-/

namespace Sys2Proof.Machine

/-! ## Rows -/

/-- The window of a mantissa (R132). -/
def mantMax : Int := 2 ^ 62 - 1
def mantMin : Int := -(2 ^ 62)

/-- H of R132. -/
def headroom (m : List Int) : BitVec 6 :=
  BitVec.ofNat 6 (62 - (m.map fun x => bitLength x.natAbs).foldl max 0)

/-- A row with its mantissas written and H recomputed (R132). -/
def AccRow.withMants (r : AccRow) (m : List Int) : AccRow :=
  { r with m := Vector.ofFn fun i => BitVec.ofInt 64 (m.getD i.val 0), h := headroom m }

/-- The mantissas of a row. -/
def AccRow.mants (r : AccRow) : List Int := r.m.toList.map BitVec.toInt

/-- The sums of a commit at one exponent (R133). -/
def commitSums (b : List Int) (terms : Nat → List Dyadic) (e : Int) (s : Nat) : List Int :=
  b.mapIdx fun j x => rneShift x s + ((terms j).map fun t => t.truncAt (e + s)).sum

/-- The smallest s that fits, or saturation at the largest exponent (R133): s, the sums and whether they were clamped. -/
def commitLoop (b : List Int) (terms : Nat → List Dyadic) (e : Int) : Nat → Nat → Nat × List Int × Bool
  | fuel, s =>
    let res := commitSums b terms e s
    if res.all fun x => decide (mantMin ≤ x) && decide (x ≤ mantMax) then (s, res, false)
    else if e + s ≥ 32767 then
      (s, res.map (fun x => if x > mantMax then mantMax else if x < mantMin then -mantMax else x), true)
    else match fuel with
      | 0 => (s, res, false)
      | fuel + 1 => commitLoop b terms e fuel (s + 1)

/-- The row commit (R133): the row after it, s and whether it saturated. -/
def AccRow.commit (r : AccRow) (replaced : Nat → Bool) (terms : Nat → List Dyadic) : AccRow × Nat × Bool :=
  let b := r.mants.mapIdx fun j x => if replaced j then 0 else x
  let e := r.e.toInt
  let (s, res, sat) := commitLoop b terms e (32767 - e).toNat 0
  let r := { r with e := BitVec.ofInt 16 (e + s), z := r.z || sat }
  (r.withMants res, s, sat)

/-- anrm on a row (R149). -/
def AccRow.renorm (r : AccRow) (e : BitVec 16) : AccRow × Bool :=
  let et := e.toInt
  let e0 := r.e.toInt
  let res := r.mants.map fun m =>
    if et ≥ e0 then (rneShift m (et - e0).toNat, false)
    else
      let k := min (e0 - et).toNat 200
      let x := m * 2 ^ k
      if x > mantMax then (mantMax, true) else if x < mantMin then (-mantMax, true) else (x, false)
  let sat := res.any Prod.snd
  let r := { r with e := e, z := r.z || sat }
  (r.withMants (res.map Prod.fst), sat)

/-- aexp's word (R131, R148). -/
def AccRow.header (r : AccRow) : Word :=
  (BitVec.ofBool r.z ++ BitVec.ofBool r.v ++ r.h ++ r.e : BitVec 24).setWidth 64

/-- One lane of ard (R146, R147). -/
def ardLane (f : Fmt) (sat : Bool) (r : AccRow) (j : Nat) : Nat :=
  if r.v then (f.nanCode).getD 0
  else
    let m := ((r.m.toList).getD j 0).toInt
    if m = 0 then 0
    else
      let p := f.pack .nearest (numOf m r.e.toInt false)
      if sat && (p.2 &&& flagOF) != 0 then f.maxMag + (if m < 0 then 2 ^ (f.e + f.m) else 0) else p.1

/-! ## Values -/

/-- An element's value: its number, exactly. -/
def kindNum (k : MKind) (desc : BitVec 20) (code : Nat) : Num :=
  match k with
  | .fm _ => (descFmt desc).unpack code
  | .f16 => (ftyFmt .f16).unpack code
  | .bf16 => (ftyFmt .bf16).unpack code
  | .i8 => let x := (BitVec.ofNat 8 code).toInt; .fin (decide (x < 0)) x.natAbs 0

/-- Byte `o` of some lines. -/
def lineByte (l : FMap Vec) (o : Nat) : Nat := (vecByte ((l.find (o / 256)).getD 0) (o % 256)).toNat

/-- The code of `w` bits at bit offset `o` of some lines. -/
def lineCode (l : FMap Vec) (w o : Nat) : Nat :=
  if w = 16 then lineByte l (o / 8) + 256 * lineByte l (o / 8 + 1)
  else if w = 8 then lineByte l (o / 8)
  else (lineByte l (o / 8) >>> (o % 8)) % 16

/-- The code W(k, j) of a plane, a sparse plane expanded (R128, R130). -/
def Plane.code (p : Plane) (k j : Nat) : Nat :=
  let w := kindBits p.kind p.desc
  let at' := fun (row : Nat) => lineCode p.lines w (row * 8 * planeRow p.kind p.desc + j * w)
  if p.sparse then
    let g := k / 4
    let u := k % 4
    let md := lineByte p.metas (128 * g + j)
    if md / 4 % 4 = u then at' (2 * g + 1) else if md % 4 = u then at' (2 * g) else 0
  else at' k

/-- The scale of block `b` of column `j` (R129). -/
def Plane.scale (p : Plane) (b j : Nat) : Int :=
  if kindScaled p.kind p.desc then (BitVec.ofNat 8 (lineByte p.scales (128 * b + j))).toInt else 0

/-- Every W(k, j) of the plane is finite. -/
def Plane.finite (p : Plane) : Bool :=
  (List.range p.depth).all fun k => (List.range 128).all fun j =>
    match kindNum p.kind p.desc (p.code k j) with
    | .fin _ _ _ => true
    | .nan _ | .inf _ => false

/-- The numbers of an activation row. -/
def actNums (k : MKind) (desc : BitVec 20) (bytes : List Byte) : List Num :=
  let w := kindBits k desc
  let n := natOfBytes bytes
  (List.range (kindDepth k desc)).map fun i => kindNum k desc ((n >>> (w * i)) % 2 ^ w)

/-- An exact product of R134; a factor that is no number counts as a zero term. -/
def exactTerm (a w : Num) (x : Int) : Dyadic :=
  match a, w with
  | .fin na ma ea, .fin nb mb eb => ⟨signedMant na ma * signedMant nb mb, ea + eb + x⟩
  | _, _ => ⟨0, 0⟩

/-- The terms of column `j` in the commit of an activation row (R134). -/
def mmaTerms (p : Plane) (a : List Num) (scales : List Byte) (scaled : Bool) (j : Nat) : List Dyadic :=
  a.mapIdx fun k x =>
    exactTerm x (kindNum p.kind p.desc (p.code k j))
      ((if scaled then (scales.getD (k / 32) 0).toInt else 0) + p.scale (k / 32) j)

/-! ## The accumulator store of a core -/

/-- The key of a row. -/
def accKey (tile row : Nat) : Nat := tile * 128 + row

def Core.accRow (k : Core) (tile row : Nat) : AccRow := (k.acc.find (accKey tile row)).getD AccRow.reset
def Core.setAccRow (k : Core) (tile row : Nat) (r : AccRow) : Core := { k with acc := k.acc.put (accKey tile row) r }

/-- A matrix event (R139). -/
def Core.matrixEvent (k : Core) (o : Origin) (fret : BitVec 40) (code : BitVec 8) (tile row low : Nat) : Core :=
  k.event ⟨rankMatrix, code, o.cx, o.slot, o.baddr, fret, BitVec.ofNat 32 (tile * 2 ^ 27 + row * 2 ^ 20 + min low 65535), false⟩

/-- A commit into a row with its events (R133, R134, R139). -/
def Core.commitRow (k : Core) (o : Origin) (fret : BitVec 40) (tile row : Nat) (replaced : Nat → Bool)
    (terms : Nat → List Dyadic) (special : Bool) : Core :=
  let r := k.accRow tile row
  let k := if special && !r.v then k.matrixEvent o fret 0x22 tile row 0 else k
  let (r, s, sat) := ({ r with v := r.v || special }).commit replaced terms
  let k := k.setAccRow tile row r
  if sat then k.matrixEvent o fret 0x21 tile row s
  else if 1 ≤ s then k.matrixEvent o fret 0x20 tile row s else k

/-! ## Forwarding and errors -/

/-- The bytes of a context's own gated stores issued before a cycle, oldest first (R50, R56). -/
def Core.ownStores (k : Core) (cx : CtxId) (before : Nat) (space : Space) : List (Nat × Byte) :=
  let es := ((k.drain.filter fun d => d.cx == cx).map DrainItem.entry) ++ (k.ctx cx).gate
  es.flatMap fun e =>
    if before ≤ e.issued then []
    else match e.eff with
      | .store m bytes => if m = space then bytes else []
      | .irq _ _ | .atomic _ | .cmd _ => []

/-- The value of the last own store to a byte. -/
def lastStore (l : List (Nat × Byte)) (a : Nat) : Option Byte :=
  l.foldl (fun acc p => if p.1 = a then some p.2 else acc) none

/-- Bytes of LM through the matrix port at a cycle (R120). -/
def Core.portBytes (k : Core) (cx : CtxId) (cyc a n : Nat) : List Byte :=
  let own := k.ownStores cx (cyc - 1) .lm
  (List.range n).map fun i => (lastStore own (a + i)).getD ((k.lm.byte (some 0) (a + i)).getD 0)

/-- The class of the uncorrectable error that a line holds (R208). -/
def Core.badAt (k : Core) (st : SramStore) (line : Nat) : Option Nat :=
  (k.badLines.find? fun b => b.st == st && b.line == line).map BadLine.cls
/-- A line that holds an uncorrectable error (R208). -/
def Core.bad (k : Core) (st : SramStore) (line : Nat) : Bool := (k.badAt st line).isSome
/-- Lines written whole: they deliver data again (R208). -/
def Core.mend (k : Core) (st : SramStore) (lines : List Nat) : Core :=
  if k.badLines.isEmpty then k
  else { k with badLines := k.badLines.filter fun b => !(b.st == st && lines.contains b.line) }

/-- An uncorrectable error that an access found: store, class and the address of the record. -/
structure ErrorAt where
  st   : SramStore
  cls  : Nat
  addr : Nat
  deriving DecidableEq, Repr

/-- Plane lines of one of the core's two plane memories, as `badLines` counts them: the value lines from 0, then the
scale lines, then the metadata lines (log entry 37). -/
def planeKey (buf : Bool) (line : Nat) : Nat := if buf then 2 ^ 18 + line else line

/-- The lines that a plane holds. -/
def Plane.lineCount (p : Plane) : Nat := planeLines p.kind + scaleLines p.kind p.desc + metaLines p.sparse p.kind p.desc

/-- The first line of a plane that holds an uncorrectable error (R208). -/
def Core.planeError (k : Core) (p : Plane) : Option ErrorAt :=
  (k.badLines.find? fun b => b.st == .plane && decide (planeKey p.buf 0 ≤ b.line) &&
    decide (b.line < planeKey p.buf p.lineCount)).map fun b => ⟨.plane, b.cls, b.line - planeKey p.buf 0⟩

/-- The number of a store in a record (R208). -/
def storeCode : SramStore → Nat
  | .lm => 0 | .scratchpad => 1 | .accumulator => 2 | .plane => 3 | .instr => 4

/-- The detail of cause 0x0B (R208). -/
def errorDetail (e : ErrorAt) : Word :=
  BitVec.ofNat 64 (e.cls % 16 * 2 ^ 36 + storeCode e.st * 2 ^ 32 + e.addr % 2 ^ 32)

/-- The trap of an uncorrectable error found after issue (R208): taken by `how`, at once or with the marks of the cycle. Of
a context that has ended since it is recorded too, for its matrix work and atomics run on (R138, R180); of one whose image
has been retired it has no context left (log entry 18). -/
def Mach.errorTrap (m : Mach) (how : Mach → Trap → Mach) (cl : ClusterId) (co : CoreId) (o : Origin) (e : ErrorAt) :
    Mach :=
  let x := m.ctx ⟨cl, co, o.cx⟩
  if x.run = .unbound then m
  else
    how m { ctx := ⟨cl, co, o.cx⟩, cause := 0x0B, mask := 1#8 <<< o.slot.toNat, baddr := o.baddr,
            detail := errorDetail e, pos := .sample, issued := o.issued, img := x.img, part := x.part }

/-! ## The steps -/

/-- One row sample of an mma, if it falls in this cycle (R135). -/
def Mma.sampleAt (x : Mma) (k : Core) (cyc : Nat) : Mma × Option ErrorAt :=
  let d := cyc - (x.org.issued + 2)
  if cyc < x.org.issued + 2 ∨ d % x.g ≠ 0 ∨ x.m ≤ d / x.g then (x, none)
  else
    let r := d / x.g
    let rb := actRow x.kind x.desc
    let a := x.base + r * rb
    let sa := x.sbase + 8 * r
    let scaled := kindScaled x.kind x.desc
    let sn := kindDepth x.kind x.desc / 32
    let lmErr := fun (x : Nat) => (k.badAt .lm (x / 256)).map fun c => (⟨.lm, c, x⟩ : ErrorAt)
    match (lmErr a).or ((if scaled then lmErr sa else none).or (k.planeError x.plane)) with
    | some e => ({ x with rows := x.rows.put r none }, some e)
    | none =>
      ({ x with rows := x.rows.put r (some (k.portBytes x.org.cx cyc a rb,
          if scaled then k.portBytes x.org.cx cyc sa sn else [])) }, none)

/-- The traps of some samples. -/
def Mach.errorTraps (m : Mach) (how : Mach → Trap → Mach) (cl : ClusterId) (co : CoreId)
    (l : List (Origin × Option ErrorAt)) : Mach :=
  l.foldl (fun m e => match e.2 with
    | none => m
    | some x => m.errorTrap how cl co e.1 x) m

/-- MMA_ROW_SAMPLE (R135). -/
def execMmaRowSample (cl : ClusterId) (co : CoreId) (s : State) : Host.Outcome State Fault Refusal :=
  let cyc := s.mach.cyc cl
  let k := s.mach.core cl co
  let l := k.mmas.map fun x => x.sampleAt k cyc
  .next (s.modMach fun m =>
    (m.modCore cl co fun k => { k with mmas := l.map Prod.fst }).errorTraps Mach.deferTrap cl co
      (l.map fun p => (p.1.org, p.2)))

/-- One row commit of an mma, if it falls in this cycle (R133, R135). -/
def Core.commitMma (k : Core) (x : Mma) (cyc : Nat) (fret : BitVec 40) : Core × Option ErrorAt :=
  let d := cyc - (x.org.issued + 24)
  if cyc < x.org.issued + 24 ∨ d % x.g ≠ 0 ∨ x.m ≤ d / x.g then (k, none)
  else
    let r := d / x.g
    match (x.rows.find r).getD none with
    | none => (k, none)
    | some (bytes, scales) =>
      let row := x.row0 + r
      match k.badAt .accumulator (accKey x.tile.toNat row) with
      | some c => (k, some ⟨.accumulator, c, accKey x.tile.toNat row⟩)
      | none =>
        let a := actNums x.kind x.desc bytes
        let special := !x.plane.finite || a.any fun v => match v with
          | .fin _ _ _ => false
          | .nan _ | .inf _ => true
        (k.commitRow x.org fret x.tile.toNat row (fun _ => false)
          (mmaTerms x.plane a scales (kindScaled x.kind x.desc)) special, none)

/-- MMA_ROW_COMMIT (R133). -/
def execMmaRowCommit (cl : ClusterId) (co : CoreId) (s : State) : Host.Outcome State Fault Refusal :=
  let cyc := s.mach.cyc cl
  let fret := s.mach.fret40
  let k := s.mach.core cl co
  let r := k.mmas.foldl (fun (acc : Core × List (Origin × Option ErrorAt)) x =>
    let p := acc.1.commitMma x cyc fret
    (p.1, acc.2 ++ [(x.org, p.2)])) (k, [])
  let k := { r.1 with mmas := r.1.mmas.filter fun x => decide (cyc < x.org.issued + 24 + x.g * (x.m - 1)) }
  .next (s.modMach fun m => (m.setCore cl co k).errorTraps Mach.trap cl co r.2)

/-- One line of a stream of a plane load (R136): the line's number if it falls in this cycle. -/
def streamLine (cyc first n : Nat) : Option Nat := if first ≤ cyc ∧ cyc < first + n then some (cyc - first) else none

/-- PLANE_LINE_SAMPLE (R136): the lines of the two streams that fall in this cycle. DESIGN CHOICE: a line whose sample met
an uncorrectable error (R208) stays out of the plane, which the mld has emptied, and reads as zeros (log entry 37). -/
def execPlaneLineSample (cl : ClusterId) (co : CoreId) (s : State) : Host.Outcome State Fault Refusal :=
  let cyc := s.mach.cyc cl
  let k := s.mach.core cl co
  match k.load with
  | none => .next s
  | some l =>
    let c0 := l.org.issued
    let read := fun (base : Nat) (n : Option Nat) =>
      match n with
      | none => (none : Option (Nat × Except ErrorAt Vec))
      | some i =>
        let a := base + 256 * i
        some (i, match k.badAt .lm (a / 256) with
          | some c => .error ⟨.lm, c, a⟩
          | none => .ok (vecOfBytes (k.portBytes l.org.cx cyc a 256)))
    let v := read l.base (streamLine cyc (c0 + 2) l.nValue)
    let sc := read l.sbase (streamLine cyc (c0 + 2) l.nScale)
    let mt := read l.metaBase (streamLine cyc (c0 + 2 + l.nScale) l.nMeta)
    let add := fun (t : FMap Vec) (x : Option (Nat × Except ErrorAt Vec)) =>
      match x with
      | some (i, .ok b) => t.put i b
      | some (_, .error _) => t
      | none => t
    let err := fun (x : Option (Nat × Except ErrorAt Vec)) =>
      match x with
      | some (_, .error e) => [(l.org, some e)]
      | some (_, .ok _) => []
      | none => []
    let whole := fun (first : Nat) (x : Option (Nat × Except ErrorAt Vec)) =>
      match x with
      | some (i, .ok _) => [planeKey k.shadowPlane.buf (first + i)]
      | some (_, .error _) => []
      | none => []
    .next (s.modMach fun m =>
      (m.modCore cl co fun k =>
        let p := k.shadowPlane
        let k := k.mend .plane (whole 0 v ++ whole l.p sc ++ whole (l.p + l.nScale) mt)
        { k with shadowPlane := { p with lines := add p.lines v, scales := add p.scales sc, metas := add p.metas mt } }).errorTraps
        Mach.deferTrap cl co (err v ++ err sc ++ err mt))

/-- PLANE_LOAD_COMPLETE (R136): P + 2 cycles after issue. -/
def execPlaneLoadComplete (cl : ClusterId) (co : CoreId) (s : State) : Host.Outcome State Fault Refusal :=
  let cyc := s.mach.cyc cl
  .next (s.modMach fun m => m.modCore cl co fun k =>
    match k.load with
    | none => k
    | some l => if l.org.issued + 2 + l.p ≤ cyc then { k with load := none } else k)

/-- An awr lane's number and the column that it replaces (R145). -/
def awrNum (ty : FTy) (half : Bool) (val : Vec) (j : Nat) : Option Num :=
  let f := ftyFmt ty
  let lane := if ty = .f32 then (if half then j - 64 else j) else j
  let inside := if ty = .f32 then (if half then decide (64 ≤ j) else decide (j < 64)) else true
  if inside then some (f.unpack (elem f.bits val lane)) else none

/-- One accumulator write (R144, R145, R149). -/
def Core.accWriteNow (k : Core) (w : AccWrite) (fret : BitVec 40) : Core × Option ErrorAt :=
  let t := w.tile.toNat
  match w.op with
  | .clr row0 n e =>
    ((List.range n).foldl (fun k i =>
      let key := accKey t (row0 + i)
      (k.mend .accumulator [key]).setAccRow t (row0 + i) { AccRow.reset with e := e }) k, none)
  | .awr row ty half val =>
    match k.badAt .accumulator (accKey t row) with
    | some c => (k, some ⟨.accumulator, c, accKey t row⟩)
    | none =>
      let num := awrNum ty half val
      let term := fun j => match num j with
        | some (.fin n m e) => [(⟨signedMant n m, e⟩ : Dyadic)]
        | some (.nan _) => []
        | some (.inf _) => []
        | none => []
      let special := (List.range 128).any fun j => match num j with
        | some (.nan _) => true
        | some (.inf _) => true
        | some (.fin _ _ _) => false
        | none => false
      (k.commitRow w.org fret t row (fun j => (num j).isSome) term special, none)
  | .nrm row e =>
    match k.badAt .accumulator (accKey t row) with
    | some c => (k, some ⟨.accumulator, c, accKey t row⟩)
    | none =>
      let (r, sat) := (k.accRow t row).renorm e
      let k := k.setAccRow t row r
      (if sat then k.matrixEvent w.org fret 0x21 t row 0 else k, none)

/-- ACCUMULATOR_WRITE (R137): the writes due in this cycle. -/
def execAccumulatorWrite (cl : ClusterId) (co : CoreId) (s : State) : Host.Outcome State Fault Refusal :=
  let cyc := s.mach.cyc cl
  let fret := s.mach.fret40
  let k := s.mach.core cl co
  let due := k.accW.filter fun w => decide (w.due ≤ cyc)
  let r := due.foldl (fun (acc : Core × List (Origin × Option ErrorAt)) w =>
    let p := acc.1.accWriteNow w fret
    (p.1, acc.2 ++ [(w.org, p.2)])) (k, [])
  let k := { r.1 with accW := r.1.accW.filter fun w => decide (cyc < w.due) }
  .next (s.modMach fun m => (m.setCore cl co k).errorTraps Mach.trap cl co r.2)

/-- The value that an accumulator read samples (R146 to R148). -/
def Core.accReadValue (k : Core) (a : AccRead) : Vec :=
  let r := k.accRow a.tile.toNat a.row
  match a.op with
  | .header => r.header.setWidth 2048
  | .row ty half sat =>
    let f := ftyFmt ty
    let j0 := if ty = .f32 ∧ half then 64 else 0
    ofElems f.bits ((List.range (2048 / f.bits)).map fun i => ardLane f sat r (j0 + i))

/-- ACCUMULATOR_READ_SAMPLE (R146, R148): samples precede the writes of the cycle (R137). -/
def execAccumulatorReadSample (cl : ClusterId) (co : CoreId) (s : State) : Host.Outcome State Fault Refusal :=
  let cyc := s.mach.cyc cl
  let k := s.mach.core cl co
  let due := k.accR.filter fun a => decide (a.due ≤ cyc)
  let badAt := fun (a : AccRead) => k.badAt .accumulator (accKey a.tile.toNat a.row)
  let k' := due.foldl (fun (c : Core) a =>
    if (badAt a).isSome then c else c.modCtx a.org.cx fun x => x.fill a.id (k.accReadValue a) 0) k
  let k' := { k' with accR := k'.accR.filter fun a => decide (cyc < a.due) }
  .next (s.modMach fun m => (m.setCore cl co k').errorTraps Mach.deferTrap cl co
    (due.map fun a => (a.org, (badAt a).map fun c => ⟨.accumulator, c, accKey a.tile.toNat a.row⟩)))

end Sys2Proof.Machine
end

