-- ==== Sys2Proof/Machine/Power.lean ====
section
/-!
DEFINITION. Energy (R170, R171), capo grants (R169), and the voltage domains: halts, throttling, trips and gating
(R222 to R226).
-/

namespace Sys2Proof.Machine

/-! ## What a slot charges (R170) -/

/-- One item of a bundle's charge: class, width code, and the number of times it is charged. -/
structure ChargeItem where
  cls   : Nat
  width : Nat
  times : Nat
  deriving DecidableEq, Repr

/-- The width code of elements or accesses of `w` bits. -/
def widthCode (w : Nat) : Nat := if w ≤ 4 then 0 else if w ≤ 8 then 1 else if w ≤ 16 then 2 else 3

/-- The width code of an operand kind (R127). -/
def kindCode (k : MKind) (desc : BitVec 20) : Nat :=
  match k with
  | .f16 | .bf16 => 2
  | .i8 => 1
  | .fm _ => if (descFmt desc).bits ≤ 4 then 0 else 1

/-- The width of a floating point type. -/
def ftyBits : FTy → Nat
  | .f32 => 32
  | .f16 | .bf16 => 16

/-- The access of an M slot of `w` bits at a local address: LM, scratchpad, or neither. -/
def accessCharge (a w : Nat) : List ChargeItem :=
  match region a with
  | .lm => [⟨5, widthCode w, 1⟩]
  | .sp => [⟨6, widthCode w, 1⟩]
  | .irq | .nothing => []

/-- The access of an M slot under a mask: none when no lane is enabled. -/
def maskedCharge (lanes : List Nat) (w : Nat) : List ChargeItem :=
  match lanes with
  | [] => []
  | a :: _ => accessCharge a w

/-- The accesses of a whole vector. -/
def State.vectorCharge (s : State) (h : Head) (b : Base) (imm : BitVec 8) : List ChargeItem :=
  maskedCharge ((lanesOf (s.mguard h)).map fun j => s.memAddr b (imm.toInt * 256) + j) 32

/-- The accesses of a strided, gathered or scattered slot. -/
def State.elemCharge (s : State) (h : Head) (w : EW) (addr : Nat → Nat) : List ChargeItem :=
  maskedCharge ((gatherAddrs w (s.mguard h) addr).map Prod.snd) (8 * ewBytes w)

/-- A scalar memory access. -/
def State.scalarCharge (s : State) (b : Base) (o : BitVec 6) (n : Nat) : List ChargeItem :=
  accessCharge (s.memAddr b (o.toInt * n)) (8 * n)

/-- A vector slot of the classes 2 to 4. -/
def vcharge (cls w : Nat) : List ChargeItem := [⟨cls, widthCode w, 1⟩]

/-- A local atomic. -/
def State.atomicCharge (s : State) (r : BitVec 6) : List ChargeItem :=
  accessCharge ((s.sreg r).setWidth 32 : BitVec 32).toNat 32

/-- What an executing slot charges beside its fetch (R170). A nop, agset and fence are in no class. -/
def State.slotCharge (s : State) (i : Instr) : List ChargeItem :=
  match i with
  | .nop _ | .agsetBase _ _ _ | .agsetStride _ _ _ _ | .fence _ _ _ => []
  | .brT _ _ | .brN _ _ | .call _ _ | .jr _ _ | .ret _ | .loop _ _ _ | .loopi _ _ _ | .lbrk _ | .yieldNow _
  | .yieldAt _ _ | .yieldQ _ _ | .yieldSc _ _ | .exit _ | .rmark _ | .trap _ _ | .fmt _ _ _ | .fmtr _ _ _
  | .capoAcq _ _ | .capoRel _ => [⟨0, 3, 1⟩]
  | .add _ _ _ _ | .sub _ _ _ _ | .and _ _ _ _ | .or _ _ _ _ | .xor _ _ _ _ | .andn _ _ _ _ | .shl _ _ _ _
  | .shr _ _ _ _ | .sra _ _ _ _ | .addi _ _ _ _ | .andi _ _ _ _ | .shli _ _ _ _ | .shri _ _ _ _ | .srai _ _ _ _
  | .li _ _ _ | .lis _ _ _ | .min _ _ _ _ | .max _ _ _ _ | .minn _ _ _ _ | .maxn _ _ _ _ | .clz _ _ _ | .ctz _ _ _
  | .popc _ _ _ | .cmp _ _ _ _ _ | .cmpi _ _ _ _ _ | .pand _ _ _ _ | .por _ _ _ _ | .pxor _ _ _ _ | .pandn _ _ _ _
  | .movp _ _ _ _ | .movl _ _ _ | .movlCount _ _ _ | .rdsys _ _ _ | .wrsysVflags _ _ | .wrsysVrm _ _ => [⟨0, 3, 1⟩]
  | .mul _ _ _ _ | .mulh _ _ _ _ | .mulhn _ _ _ _ | .div _ _ _ _ | .divn _ _ _ _ | .rem _ _ _ _ | .remn _ _ _ _ =>
    [⟨1, 3, 1⟩]
  | .cpy _ _ _ _ _ | .famoAdd _ _ _ _ _ _ | .famoMin _ _ _ _ _ _ | .famoMax _ _ _ _ _ _ | .famoAnd _ _ _ _ _ _
  | .famoOr _ _ _ _ _ _ | .famoXor _ _ _ _ _ _ | .famoSwap _ _ _ _ _ _ | .famoCas _ _ _ _ _ _ | .poolAcqw _ _ _
  | .poolPub _ _ _ | .poolPin _ _ _ | .poolUnpin _ _ | .poolGen _ _ _ | .poolPubAfter _ _ _ | .qopPush _ _ _
  | .qopPop _ _ _ | .qopCount _ _ _ | .scopeOpen _ _ | .scopeClose _ _ | .brgPush _ _ | .brgPop _ _
  | .xsndScalar _ _ _ | .xsndVector _ _ _ | .xrcvScalar _ _ _ | .xrcvVector _ _ _ | .txtOut _ _ _ _ | .txtTok _ _ _ _
  | .sioRd _ _ _ | .sioWr _ _ _ _ | .sioFlush _ _ | .netSend _ _ _ _ | .netWrite _ _ _ _ | .netRead _ _ _
  | .evtPost _ _ _ | .evtIrq _ _ => [⟨10, 0, 1⟩]
  | .vadd _ t _ _ _ | .vsub _ t _ _ _ | .vmin _ t _ _ _ | .vmax _ t _ _ _ | .vabs _ t _ _ | .vneg _ t _ _
  | .vand _ t _ _ _ | .vor _ t _ _ _ | .vxor _ t _ _ _ | .vshl _ t _ _ _ | .vshr _ t _ _ _ | .vcmp _ t _ _ _ _
  | .vsel _ t _ _ _ | .vbcast _ t _ _ _ | .vext _ t _ _ _ | .vins _ t _ _ _ | .vperm _ t _ _ _ | .vslide _ t _ _ _ =>
    vcharge 2 (vtyBits t)
  | .viota _ t _ _ | .vmov _ t _ _ | .vpack _ t _ _ _ | .vunpk _ t _ _ _ => vcharge 2 (etyBits t)
  | .vscale _ t _ _ _ => vcharge 2 (ftyBits t)
  | .vcvt _ f _ _ => let c := cvtTypes s.regs f; vcharge 2 (max c.1.width c.2.width)
  | .vmskAnd _ _ _ _ | .vmskOr _ _ _ _ | .vmskXor _ _ _ _ | .vmskNot _ _ _ => [⟨2, 0, 1⟩]
  | .vmul _ t _ _ _ | .vfma _ t _ _ _ | .vfnma _ t _ _ _ => vcharge 3 (vtyBits t)
  | .vredSum _ t _ _ | .vredMax _ t _ _ | .vredMin _ t _ _ => vcharge 4 (vtyBits t)
  | .vrcp _ t _ _ | .vrsq _ t _ _ | .vexp2 _ t _ _ | .vlog2 _ t _ _ => vcharge 4 (ftyBits t)
  | .vmskPopc _ _ _ | .vmskFfs _ _ _ => [⟨4, 0, 1⟩]
  | .ldsB _ _ a o | .ldzB _ _ a o | .stB _ _ a o => s.scalarCharge a o 1
  | .ldsH _ _ a o | .ldzH _ _ a o | .stH _ _ a o => s.scalarCharge a o 2
  | .ldsW _ _ a o | .ldzW _ _ a o | .stW _ _ a o => s.scalarCharge a o 4
  | .ldsD _ _ a o | .stD _ _ a o => s.scalarCharge a o 8
  | .vld h _ a imm | .vst h _ a imm => s.vectorCharge h a imm
  | .vldT h _ a imm => s.vectorCharge h (.sreg a) imm
  | .vldg h _ a b w | .vstg h _ a b w => s.elemCharge h w (strideAddr (s.sreg a) (s.sreg b))
  | .vgath h _ a b w | .vscat h _ a b w => s.elemCharge h w (indexAddr (s.sreg a) (s.vreg b) w)
  | .amoAdd _ _ _ _ a _ | .amoMin _ _ _ _ a _ | .amoMax _ _ _ _ a _ | .amoAnd _ _ _ _ a _ | .amoOr _ _ _ _ a _
  | .amoXor _ _ _ _ a _ | .amoSwap _ _ _ _ a _ | .acas _ _ _ _ a _ => s.atomicCharge (a.setWidth 6)
  | .ald _ _ a _ _ | .ast _ _ a _ _ => s.atomicCharge a
  | .ldt _ _ a imm => accessCharge (s.memAddr (.sreg a) (imm.toInt * 8)) 64
  | .mma _ k _ _ b =>
    let p := (s.pre.core s.iss.cl s.iss.co).plane
    let m := ((s.sreg (b.setWidth 6)).setWidth 8 : BitVec 8).toNat
    [⟨7, max (kindCode k (kindDesc s.regs k)) (kindCode p.kind p.desc), m⟩]
  | .mld _ k _ | .mldSp _ k _ => [⟨8, kindCode k (kindDesc s.regs k), planeLines k⟩]
  | .awr _ _ _ _ _ x | .ard _ _ _ _ _ _ x => [⟨9, if x = .f32 then 3 else 2, 1⟩]
  | .aclr _ _ _ _ | .aexp _ _ _ _ | .anrm _ _ _ _ | .mswp _ => [⟨9, 3, 1⟩]
  | .resultLands _ _ _ | .tagCheckSample _ _ _ | .drainEntry _ _ | .scratchpadBankAccess _ | .loopLevelStep _ _ _
  | .contextRelease _ _ _ | .contextSelection _ _ | .preemption _ _ | .budgetOverrun _ _ _ | .capoGrant _
  | .eventWriteOut _ _ | .mmaRowSample _ _ | .mmaRowCommit _ _ | .planeLineSample _ _ | .planeLoadComplete _ _
  | .accumulatorWrite _ _ | .accumulatorReadSample _ _ | .correctableErrorFreeze _ _ _ _ | .freezeEnd _
  | .uncorrectableError _ _ _ _ | .gangRelease _ _ | .timedTransferArrival _ _ | .interruptPending _
  | .ifpendClear _ _ _ | .ifclaim _ | .ifset _ _ | .tqpop _ _ | .bridgeCountCrossing _ _ | .dfreqWrite _ _
  | .haltStart _ | .haltEnd _ | .gateRequest _ | .wake _ | .cancelGateRequest _ | .tierGate _ | .wakeComplete _
  | .sensorReading _ _ | .invreq _ _ _ | .invalidationComplete _ | .fltreplyReplay _ _ | .fltreplyAbort _ _
  | .asttabWrite _ _ | .keyRevocation _ | .keyRevocationComplete _ | .copyLaunch _ _ | .copyComplete _ _
  | .farAtomicPerform _ | .directoryTick _ | .waitMessage _ _ _ | .taskEndMessage _ _ _ | .queueEngineTick _
  | .admpub _ _ | .admissionResult _ | .admcmdStart _ _ | .admcmdStop _ _ | .admcmdRetire _ _ | .clearCommand
  | .loadCommand | .openCommand | .bindCommand | .imageNumberFree _ | .inboundRequest _ | .txtOutProcess _
  | .txtTokProcess _ | .bctlBind _ _ _ | .bctlUnbind _ _ | .bindingCheckResult _ _ | .peerEnter _ _ | .peerFree _
  | .hostRead _ | .hostWrite _ _ | .channelBind _ _ _ | .channelUnbind _ _ | .channelCheckResult _ _
  | .storageCommandComplete _ | .networkCommandComplete _ | .inboundNetworkSend _ | .inboundRmaWrite _
  | .inboundRmaRead _ | .coldReset | .spdmRequest _ _ | .registerWrite _ _ | .lossOfPowerAtTheDrive _ _
  | .datasetManagementDeallocate _ _ _ | .tdispLock _ | .partitionRetirement _ | .partitionDefinition _ _
  | .keySlotAssignment _ _ _ => []

/-- The slot is nullified by a predicate guard that reads false, or by q1 (R19); a slot under another mask guard always
issues. -/
def State.nullified (s : State) (i : Instr) : Bool :=
  match fieldsOf i with
  | none => false
  | some f => if maskGuarded f.op then f.guard == 1 else f.op != 0 && !s.regs.pred f.guard

/-- The innermost body holds at most 64 bundles and the bundle at `a` (R43). -/
def Core.buffered (k : Core) (loops : List LoopLevel) (a : PC) : Bool :=
  match loops with
  | [] => false
  | l :: _ =>
    decide (l.start ≤ a) && decide (a ≤ l.stop) &&
      (List.range 64).any fun n => k.bundleAfter l.start.toNat n == l.stop.toNat

/-- An entry of a domain's energy table (R170). -/
def Domain.energy (d : Domain) (cls width : Nat) : Nat :=
  if 14 ≤ cls then 0 else ((d.detab.find (cls * 64 + width * 16 + d.vcur.toNat)).getD 0).toNat

/-- The charge of a bundle (R170): each slot, and its fetch. -/
def State.bundleCharge (s : State) (is : List Instr) : Nat :=
  let d := s.pre.dom (domOf s.iss.cl)
  let fetch := if (s.pre.core s.iss.cl s.iss.co).buffered s.regs.loops s.iss.baddr then 12 else 11
  (is.map fun i =>
    d.energy fetch 0 +
      (if s.nullified i then d.energy 13 0
       else ((s.slotCharge i).map fun c => c.times * d.energy c.cls c.width).sum)).sum

/-- The charges of the 512-cycle window that ends at `now` (R171). -/
def windowOf (now : Nat) (l : List (Nat × Nat)) : List (Nat × Nat) := l.filter fun p => decide (now < p.1 + 512)

/-- The allowance of a context (R171). -/
def Domain.allowance (d : Domain) (capo : BitVec 4) : Nat := (d.lb.toNat + capo.toNat) * d.wl.toNat

/-! ## Capo grants (R169) -/

/-- The order of the arbiter's list: priority, then the Fret count of the request, then the context's number. -/
def CapoReq.before (a b : CapoReq) : Bool :=
  if a.prio ≠ b.prio then decide (b.prio < a.prio)
  else if a.since ≠ b.since then decide (a.since < b.since)
  else decide (a.ctx.key < b.ctx.key)

/-- A list with one request put in its place. -/
def CapoReq.insert (r : CapoReq) : List CapoReq → List CapoReq
  | [] => [r]
  | x :: xs => if r.before x then r :: x :: xs else x :: CapoReq.insert r xs

/-- Grants from the head of the list while they fit (R169). -/
def Mach.grantAll (d : Dom) : List CapoReq → Mach → Mach
  | [], m => m
  | r :: rest, m =>
    let dm := m.dom d
    let held := (m.ctx r.ctx).capo.toNat
    if (dm.granted - held + r.level.toNat : Int) ≤ (dm.budget.toNat : Int) - 32 * dm.lb.toNat then
      let m := m.modDom d fun x => { x with granted := x.granted - held + r.level.toNat, capo := rest }
      let m := m.modCtx r.ctx fun x =>
        { x with capo := r.level, capoReq := none, capoGrantAt := some m.pk.fret }
      Mach.grantAll d rest m
    else m

/-- CAPO_GRANT (R169): returned levels count, then the list is served from its head. -/
def execCapoGrant (d : Dom) (s : State) : Host.Outcome State Fault Refusal :=
  .next (s.modMach fun m =>
    let t := m.pk.fret
    let m := m.modDom d fun x =>
      { x with granted := x.granted - ((x.returned.filter fun p => decide (p.1 < t)).map Prod.snd).sum,
               returned := x.returned.filter fun p => decide (t ≤ p.1) }
    Mach.grantAll d (m.dom d).capo m)

/-! ## Halts (R223, R224) -/

/-- A base die. -/
def domIsBase : Dom → Bool
  | .tier _ _ => false
  | .base _ => true

/-- DFREQ_WRITE (R222, R223): the requested values; a reserved code is ignored, and so is a base die's write. -/
def execDfreqWrite (d : Dom) (v : BitVec 64) (s : State) : Host.Outcome State Fault Refusal :=
  .next (if domIsBase d then s else s.modMach fun m => m.modDom d fun x =>
    let f : BitVec 6 := v.setWidth 6
    let x := { x with vstep := v.extractLsb' 8 4, fcode := if f.toNat ≤ 60 then f else x.fcode }
    if x.throttled || x.transTo.isSome then x
    else if x.halted then { x with held := some (x.fcode, x.vstep) }
    else if x.fcode = x.fcur ∧ x.vstep = x.vcur then { x with target := none }
    else { x with target := some (x.fcode, x.vstep) })

/-- HALT_START (R223): from this Fret tick no core cycle of the domain runs. -/
def execHaltStart (d : Dom) (s : State) : Host.Outcome State Fault Refusal :=
  .next (s.modMach fun m => m.modDom d fun x =>
    if x.target.isSome && !x.halted then
      let t := m.pk.fret
      let first := match x.lastHalt with
        | some (a, b) => if b = t then a else t
        | none => t
      let x := { x with halted := true, haltEnd := some (t + 1024), lastHalt := some (first, t + 1024) }
      match x.transTo with
      | none => x
      | some true => { x with throttled := true, lastTrans := some t, transTo := none }
      | some false =>
        { x with throttled := false, lastTrans := some t, transTo := none, target := some (x.fcode, x.vstep) }
    else x)

/-- HALT_END (R223): the domain resumes at the new values, its clock in a free phase (R2, log entry 3); a held write
starts a further halt. -/
def execHaltEnd (d : Dom) (s : State) : Host.Outcome State Fault Refusal :=
  let t := s.mach.pk.fret
  let x := s.mach.dom d
  .next (match x.haltEnd with
    | none => s
    | some e =>
      if t < e then s
      else
        let (f, v) := x.target.getD (x.fcur, x.vcur)
        let x := { x with halted := false, haltEnd := none, target := none, fcur := f, vcur := v, wl := x.wlnext }
        let x := match x.transTo with
          | some true => { x with target := some (x.tfcode.setWidth 6, x.vcur), held := none }
          | some false => { x with target := some (x.fcode, x.vstep), held := none }
          | none =>
            match x.held with
            | none => x
            | some h => { x with held := none, target := if h = (x.fcur, x.vcur) || x.throttled then none else some h }
        let s := s.modMach fun m =>
          let (c, m) := m.choice
          m.modDom d fun _ => { x with acc := c % 36 }
        if x.target.isSome then s.modMach fun m => { m with todo := .event (.haltStart d) :: m.todo } else s)

/-! ## Power lost: trips and gating (R225, R226) -/

/-- What a context keeps of an activity that has ended: its declarations (R65, R177). -/
def Context.declared (x : Context) : Context :=
  match x.run with
  | .unbound => Context.reset
  | .waiting | .released | .running | .ended =>
    { Context.reset with
      run := .ended, img := x.img, part := x.part, ast := x.ast, act := x.act, prio := x.prio, urgent := x.urgent,
      gang := x.gang, lmWin := x.lmWin, spWin := x.spWin, tiles := x.tiles, policy := x.policy,
      retryInit := x.retryInit, budget := x.budget, gateMax := x.gateMax, evtArea := x.evtArea, evtK := x.evtK }

/-- A core without power: its memories and registers at their reset values. -/
def Core.unpowered (k : Core) : Core :=
  { Core.reset with ctxs := k.ctxs.map fun p => (p.1, p.2.declared), lastImg := k.lastImg }

/-- A cluster without power. -/
def Cluster.unpowered (c : Cluster) : Cluster :=
  { Cluster.reset with cores := c.cores.map fun p => (p.1, p.2.unpowered), gangs := c.gangs }

/-- The committed effects that a cluster has not performed: they are lost with its power. -/
def Cluster.pendingEffects (c : Cluster) : List Nat :=
  (c.cores.flatMap fun p =>
    ((p.2.drain ++ p.2.heldEvts).map fun d => d.entry.id) ++ (p.2.bridge.waiting.map PushWait.eff) ++
      p.2.atomics.filterMap fun a => a.a.eff) ++
  (c.bank.filterMap BankWrite.eff) ++ c.irqs.filterMap IrqWay.eff

/-- The bridge FIFO of a core emptied and its counters reset (R221). -/
def Mach.clearBridge (m : Mach) (cl : ClusterId) (co : CoreId) : Mach := m.modBridge cl co fun _ => Bridge.reset

/-- Identities on their way from a tier that loses its power (R177, R216): each is set pending no sooner than its sender's
eight cycles would have passed at the lowest frequency. -/
def Mach.strandIrqs (m : Mach) (d : Dom) : Mach :=
  clusterIds.foldl (fun m dst => if (m.cluster dst).irqs.isEmpty then m else m.modCluster dst fun c =>
    { c with irqs := c.irqs.map fun (q : IrqWay) =>
        if domOf (BitVec.ofNat 5 q.src) = d ∧ q.gone.isNone then
          { q with gone := some (m.pk.fret + 3 * (q.since + 1 - m.cyc (BitVec.ofNat 5 q.src))) }
        else q }) m

/-- The result lines held for a tier discarded (R225): the effects that they perform are over. -/
def Mach.dropLines (m : Mach) (d : Dom) : Mach :=
  let gone := m.pk.lines.filter fun l => domOf l.ctx.cl = d
  let ended := gone.filterMap LineWait.eff
  m.modPk fun p =>
    { p with lines := p.lines.filter fun l => domOf l.ctx.cl ≠ d, outs := p.outs.filter fun o => !ended.contains o.id }

/-- The cycles of R255 are over for the copies of a tier that leaves reset: its core cycles count from 0. -/
def Mach.restartCopies (m : Mach) (d : Dom) : Mach :=
  let restart := fun (c : Nat × Channel) =>
    if domOf (BitVec.ofNat 5 (c.1 / 16)) = d then
      (c.1, ({ c.2 with cmds := c.2.cmds.map fun (k : CopyCmd) => { k with cyc := 0 } } : Channel))
    else c
  m.modPk fun p => { p with chans := p.chans.map restart }

/-- What the containment of a tier's traps still has to do (R180). -/
def Mach.endingsOf (m : Mach) (d : Dom) : Mach := (clustersOf d).foldl (fun m cl => m.endings cl m.pk.fret) m

/-- A tier domain's power removed. -/
def Mach.unpower (m : Mach) (d : Dom) : Mach :=
  let cls := clustersOf d
  let lost := cls.flatMap fun cl => (m.cluster cl).pendingEffects
  let m := m.modPk fun p => { p with outs := p.outs.filter fun o => !lost.contains o.id }
  let m := cls.foldl (fun m cl => m.modCluster cl Cluster.unpowered) m
  cls.foldl (fun m cl => coreIds.foldl (fun m co => m.clearBridge cl co) m) m

/-- Every context of a tier. -/
def tierCtxs (d : Dom) : List CtxRef :=
  (clustersOf d).flatMap fun cl => coreIds.flatMap fun co => ctxIds.map fun cx => ⟨cl, co, cx⟩

/-- A tier trips (R225): its contexts end as by a kill, without a record, and its power is removed. -/
def Mach.tripTier (m : Mach) (d : Dom) : Mach :=
  let m := (m.killAll (tierCtxs d)).endingsOf d
  let m := ((m.strandIrqs d).unpower d).dropLines d
  let m := m.modDom d fun x =>
    { x with tripped := true, target := none, held := none, halted := false, haltEnd := none, transTo := none,
             gatePend := false, gateSoon := false, waking := false, wakeEnd := none, acc := 0 }
  m.modPk fun p => { p with rootDom := p.rootDom ++ [d] }

/-- A domain trips (R222, R225): a base die takes both tiers of its quadrant with it. -/
def Mach.trip (m : Mach) (d : Dom) : Mach :=
  match d with
  | .tier _ _ => m.tripTier d
  | .base q =>
    let m := (m.tripTier (.tier false q)).tripTier (.tier true q)
    (m.modDom d fun x => { x with tripped := true }).modPk fun p => { p with rootDom := p.rootDom ++ [d] }

/-- The threshold of a transition (R225): 1,800,000 Fret ticks after the last one. -/
def Domain.mayMove (x : Domain) (t : Nat) : Bool :=
  match x.lastTrans with
  | none => true
  | some l => decide (l + 1800000 ≤ t)

/-- A tier's throttling at a reading (R225): the halt that a reading asks for starts in the next Fret tick, or when the
halt in progress ends. -/
def Domain.throttle (x : Domain) (t : Nat) : Domain :=
  if x.transTo.isSome || !x.mayMove t then x
  else if !x.throttled && decide (x.thr.toNat ≤ x.temp.toNat) then
    { x with transTo := some true, held := none,
             target := if x.halted then x.target else some (x.tfcode.setWidth 6, x.vcur) }
  else if x.throttled && decide (x.temp.toNat + 3 ≤ x.thr.toNat) then
    { x with transTo := some false, held := none, target := if x.halted then x.target else some (x.fcode, x.vstep) }
  else x

/-- A domain's sensor gives a reading (R225, R222); the next is due 1,800 Fret ticks later. -/
def Mach.reading (m : Mach) (d : Dom) (temp : BitVec 8) : Mach :=
  let t := m.pk.fret
  let m := m.modDom d fun x => { x with temp := temp, senseAt := t + 1800 }
  if 115 ≤ temp.toNat then m.trip d
  else match d with
    | .tier _ _ => m.modDom d fun x => x.throttle t
    | .base _ =>
      if (m.dom d).thr.toNat ≤ temp.toNat then m.modPk fun p => { p with rootDom := p.rootDom ++ [d] } else m

/-- SENSOR_READING (R225): the reading that the sensor of a domain gives. -/
def execSensorReading (d : Dom) (temp : BitVec 8) (s : State) : Host.Outcome State Fault Refusal :=
  .next (s.modMach fun m => m.reading d temp)

/-- A bridge FIFO is empty, with no push crossing and no drain entry outstanding (R226). -/
def Mach.bridgeQuiet (m : Mach) (cl : ClusterId) (co : CoreId) : Bool :=
  let b := m.bridge cl co
  let isBridge := fun (d : DrainItem) => match d.entry.eff with
    | .cmd (.brgPush _) => true
    | .cmd .brgPop => true
    | .cmd _ | .store _ _ | .irq _ _ | .atomic _ => false
  b.fifo.isEmpty && b.waiting.isEmpty && !(b.crossings.any Crossing.up) &&
    !((m.core (upperOf cl) co).drain.any isBridge) && !((m.core (otherEnd (upperOf cl)) co).drain.any isBridge)

/-- Both conditions of a gate hold (R226). -/
def Mach.mayGate (m : Mach) (d : Dom) : Bool :=
  (!(tierCtxs d).any m.boundAt) &&
    (clustersOf d).all fun cl => coreIds.all fun co => m.bridgeQuiet cl co

/-- GATE_REQUEST (R226). -/
def execGateRequest (d : Dom) (s : State) : Host.Outcome State Fault Refusal :=
  .next (if domIsBase d then s else s.modMach fun m => m.modDom d fun x =>
    if x.gated || x.waking || x.tripped then x
    else if m.mayGate d then { x with gateSoon := !x.gatePend }
    else { x with gatePend := true })

/-- CANCEL_GATE_REQUEST (R222, R226). -/
def execCancelGateRequest (d : Dom) (s : State) : Host.Outcome State Fault Refusal :=
  .next (s.modMach fun m => m.modDom d fun x => { x with gatePend := false, gateSoon := false })

/-- A tier wakes (R226): 36,000 Fret ticks. -/
def Domain.startWake (x : Domain) (t : Nat) : Domain :=
  { x with waking := true, gated := false, tripped := false, gatePend := false, gateSoon := false, wakeEnd := some (t + 36000) }

/-- Root firmware loads a cluster's kernel into its supervisor core, once (R327). -/
def Package.loadHart (p : Package) (cl : ClusterId) : Package :=
  if (p.harts.find cl.toNat).isSome then p
  else
    let (base, size, entry, ast) := Config.kernelPlace cl
    { p with harts := p.harts.put cl.toNat (Hart.loaded base size entry ast (Config.kernel cl)) }

/-- The kernels of a tier's clusters measured and loaded by root firmware, before their domain first wakes (R327); none
before firmware has been booted. -/
def Mach.measureKernels (m : Mach) (d : Dom) : Mach :=
  if m.pk.boot = some true then
    m.modPk fun p => (clustersOf d).foldl Package.loadHart { p with meas := (clustersOf d).foldl (fun t cl =>
      if (t.find (cl.toNat + 1)).isSome then t else t.put (cl.toNat + 1) (sha384 (Config.kernel cl))) p.meas }
  else m

/-- WAKE (R222, R225, R226): of a gated tier, or of a tripped domain that has cooled. -/
def execWake (d : Dom) (s : State) : Host.Outcome State Fault Refusal :=
  .next (s.modMach fun m => m.byRoot fun m =>
    let x := m.dom d
    let cool := decide (x.temp.toNat + 3 ≤ x.thr.toNat)
    if domIsBase d then (if x.tripped && cool then m.modDom d fun x => { x with tripped := false } else m)
    else if (x.tripped && cool) || (x.gated && !x.tripped) then
      (m.measureKernels d).modDom d fun x => x.startWake m.pk.fret
    else m)

/-- TIER_GATE (R226): a request gates the tier once both conditions hold, and pends until they do. -/
def execTierGate (d : Dom) (s : State) : Host.Outcome State Fault Refusal :=
  .next (s.modMach fun m =>
    let x := m.dom d
    if !(x.gatePend || x.gateSoon) then m
    else if m.mayGate d then
      ((m.endingsOf d).strandIrqs d).modDom d fun x => { x with gated := true, gatePend := false, gateSoon := false }
    else m.modDom d fun x => { x with gatePend := true, gateSoon := false })

/-- WAKE_COMPLETE (R226): memories and registers at their reset values, core cycles from 0, and the clock in a free
phase (R2, log entry 3). -/
def execWakeComplete (d : Dom) (s : State) : Host.Outcome State Fault Refusal :=
  .next (s.modMach fun m =>
    match (m.dom d).wakeEnd with
    | none => m
    | some e =>
      if m.pk.fret < e then m
      else
        let (c, m) := (((m.unpower d).dropLines d).restartCopies d).choice
        m.modDom d fun x => { x with waking := false, wakeEnd := none, acc := c % 36 })

/-- The domain runs core cycles (R223, R225, R226). -/
def Domain.runs (x : Domain) : Bool := !x.halted && !x.gated && !x.waking && !x.tripped

end Sys2Proof.Machine
end

