-- ==== Sys2Proof/Machine/Bundle.lean ====
section
/-!
DEFINITION. The issue of a bundle: framing (R17), refusal (R22, R23), the checks that a bundle fails as a whole (R50,
R167, R171, R208), and what remains to be done once its slots have issued (R41, R49, R170).
-/

namespace Sys2Proof.Machine

/-! ## Refusal (R22, R23) -/

/-- Two guards are the members of one complementary pair (R22): predicates with predicates, masks with masks. -/
def guardsPair (f g : Fields) : Bool :=
  maskGuarded f.op == maskGuarded g.op && f.guard.extractLsb' 1 3 == g.guard.extractLsb' 1 3 && f.guard != g.guard

/-- The slots that name one destination although their guards form no complementary pair (R22). -/
def duplicates (l : List (Nat × Fields)) : List Nat :=
  let named := l.filterMap fun p => (destOf p.2).map fun d => (p.1, p.2, d)
  named.filterMap fun p =>
    let same := named.filter fun q => q.2.2 == p.2.2
    if same.any fun q => same.any fun r => q.1 != r.1 && !guardsPair q.2.1 r.2.1 then some p.1 else none

/-- The slots of a class. -/
def slotsOf (l : List (Nat × Fields)) (cls : Cls) : List Nat := (l.filter fun p => clsOf p.2.op == some cls).map Prod.fst

/-- Slots of an opcode. -/
def countOp (l : List (Nat × Fields)) (op : BitVec 7) : Nat := (l.filter fun p => p.2.op == op).length

/-- The slots of an oversubscribed class (R21). -/
def oversubscribed (l : List (Nat × Fields)) (cls : Cls) : List Nat :=
  let s := slotsOf l cls
  let lim : Nat := match cls with
    | .c | .e | .x => 1
    | .s | .v | .m | .t => 2
  let twice := cls == .t && (decide (1 < countOp l 0x35) || decide (1 < countOp l 0x36) || decide (1 < countOp l 0x37))
  if lim < s.length || twice then s else []

/-- A list of slots as a mask. -/
def slotMask (l : List Nat) : BitVec 8 := l.foldl (fun m i => m ||| (1#8 <<< i)) 0

/-- The detail bit of an oversubscribed class (R23). -/
def clsBit : Cls → Nat
  | .c => 6 | .s => 7 | .v => 8 | .m => 9 | .x => 10 | .e => 11 | .t => 12

def allCls : List Cls := [.c, .s, .e, .t, .v, .m, .x]

/-- The slot mask and the detail of a refused bundle (R22, R23); detail 0 when no check fails. `term` says that a slot
of it ends the bundle. -/
def refusal (ws : List SlotWord) (term : Bool) : BitVec 8 × Word :=
  let l := ws.mapIdx fun i w => (i, Fields.ofWord w)
  let bad := fun (e : DecodeError) => ((ws.mapIdx fun i w => (i, w)).filter fun p =>
    match decodeWord p.2 with
    | .ok _ => false
    | .error x => x == e).map Prod.fst
  let ro := bad .reservedOpcode
  let rf' := bad .reservedField
  let dd := duplicates l
  let excess := allCls.map fun c => (c, oversubscribed l c)
  let sh := decide (ws.length < 4) || (!term && decide (ws.length < 8))
  let lg := !term && decide (ws.length = 8)
  let bit := fun (b : Bool) (n : Nat) => if b then (1#64 <<< n) else 0
  let detail := bit sh 0 ||| bit lg 1 ||| bit (excess.any fun p => !p.2.isEmpty) 2 ||| bit (!dd.isEmpty) 3 |||
    bit (!ro.isEmpty) 4 ||| bit (!rf'.isEmpty) 5 |||
    excess.foldl (fun acc p => acc ||| bit (!p.2.isEmpty) (clsBit p.1)) 0
  let mask := slotMask (ro ++ rf' ++ dd ++ excess.flatMap Prod.snd) |||
    (if lg then 0xFF else if sh then slotMask (List.range ws.length) else 0)
  (mask, detail)

/-! ## What a bundle enters into the gating buffer (R48) -/

/-- The kind of the entry that an executing slot enters. -/
def entryKind (i : Instr) : Option GKind :=
  match i with
  | .stB _ _ _ _ | .stH _ _ _ _ | .stW _ _ _ _ | .stD _ _ _ _ => some .scalar
  | .amoAdd _ _ o _ _ _ | .amoMin _ _ o _ _ _ | .amoMax _ _ o _ _ _ | .amoAnd _ _ o _ _ _ | .amoOr _ _ o _ _ _
  | .amoXor _ _ o _ _ _ | .amoSwap _ _ o _ _ _ | .acas _ _ o _ _ _ | .ald _ _ _ _ o | .ast _ _ _ _ o =>
    if o = .rel then some .scalar else none
  | .vst _ _ _ _ | .vstg _ _ _ _ _ | .vscat _ _ _ _ _ => some .vector
  | .brgPush _ _ | .brgPop _ _ => some .command
  | _ =>
    match fieldsOf i with
    | none => none
    | some f => if clsOf f.op == some .e then some .command else none

/-- The occupancy of a context's buffer by kind at an issue (R49): the entries that drain in this cycle have left. -/
def Core.occupancy (k : Core) (cx : CtxId) (cyc : Nat) (g : GKind) : Nat :=
  let leaving := ((k.drain.filter fun d => decide (d.since ≤ cyc)).take 2).map fun d => d.entry.id
  let waiting := (k.drain.filter fun d => d.cx == cx && !leaving.contains d.entry.id).map DrainItem.entry
  ((waiting ++ (k.ctx cx).gate).filter fun e => e.kind == g).length

/-- A gate overflow (R50): the slot mask and the detail. -/
def State.gateOverflow (s : State) (is : List (Nat × Instr)) : Option (BitVec 8 × Word) :=
  let k := s.pre.core s.iss.cl s.iss.co
  let x := s.preCtx
  let kinds : List (Nat × GKind × Nat) :=
    [(0, .scalar, x.gateMax.1), (1, .vector, x.gateMax.2.1), (2, .command, x.gateMax.2.2)]
  let excess := kinds.filterMap fun g =>
    let slots := (is.filter fun p => entryKind p.2 == some g.2.1 && !s.nullified p.2).map Prod.fst
    if slots ≠ [] ∧ g.2.2 < k.occupancy s.iss.cx s.now g.2.1 + slots.length then some (g.1, slots) else none
  match excess with
  | [] => none
  | (n, slots) :: _ =>
    some (slotMask slots, BitVec.ofNat 64 (excess.foldl (fun acc p => acc + 4 * 2 ^ p.1) n))

/-! ## Beginning -/

/-- The address of the first word of a bundle that lies in a line with an uncorrectable error (R208). DESIGN CHOICE: a bundle
that runs from the loop buffer (R43) finds the error of its line in the store all the same (log entry 37). -/
def Core.fetchError (k : Core) (a n : Nat) : Option Nat :=
  ((List.range n).map fun i => a + 4 * i).find? fun x => k.bad .instr (x / 256)

/-- BUDGET_OVERRUN (R167): the issuing bundle's running count is above the budget; the bundle raises the trap as a
whole. -/
def execBudgetOverrun (cl : ClusterId) (co : CoreId) (cx : CtxId) (s : State) : Host.Outcome State Fault Refusal :=
  .next (if s.iss.before.isSome && s.ref == ⟨cl, co, cx⟩ && decide (s.preCtx.budget < s.preCtx.count) then
    s.raiseMask 0 0x0F (BitVec.ofNat 64 (s.preCtx.budget % 2 ^ 32))
  else s)

/-- The instructions of a bundle, each with its slot. -/
def decoded (ws : List SlotWord) : List (Nat × Instr) :=
  (ws.mapIdx fun i w => (i, w)).filterMap fun p =>
    match decodeWord p.2 with
    | .ok i => some (p.1, i)
    | .error _ => none

/-- The frame of the bundle at the pc of the context that is to issue, from which its slots read. -/
def State.frameOf (s : State) (cl : ClusterId) (co : CoreId) (cx : CtxId) (after : PC) : State :=
  let m := s.mach.modCore cl co fun k =>
    { k with issued := true }.modCtx cx fun x =>
      { x with counting := true, steppedBody := false,
               shadow := x.shadow.map fun (h : Shadow) =>
                 if h.release && (h.base == 0 || h.base == s.mach.cyc cl) then h.settle (s.mach.cyc cl) else h }
  { mach := m,
    iss := { Issue.idle with cl := cl, co := co, cx := cx, baddr := (m.ctx ⟨cl, co, cx⟩).pc, after := after,
                             before := some m } }

/-- The context that issues in this cycle, if any (R165). -/
def Mach.issuing (m : Mach) (cl : ClusterId) (co : CoreId) : Option CtxId :=
  match (m.core cl co).running with
  | none => none
  | some cx =>
    let x := m.ctx ⟨cl, co, cx⟩
    if x.nextIssue ≤ m.cyc cl ∧ x.badTarget = none then some cx else none

/-- The context moves past the bundle before its slots execute. -/
def State.advance (s : State) (ws : List SlotWord) : State :=
  let classC := ws.any fun w => clsOf (Fields.ofWord w).op == some .c
  (s.modCore fun k => { k with issuedC := classC }).modCtx fun x =>
    { x with pc := s.iss.after, nextIssue := s.now + 1, first := false }

/-- The checks that the bundle fails as a whole. -/
def State.wholeChecks (s : State) (is : List (Nat × Instr)) : State :=
  let s := match s.gateOverflow is with
    | none => s
    | some (mask, detail) => s.raiseMask mask 0x07 detail
  let x := s.preCtx
  let sum := ((windowOf s.now x.charges).map Prod.snd).sum + s.bundleCharge (is.map Prod.snd)
  if (s.pre.dom (domOf s.iss.cl)).allowance x.capo < sum then s.raiseMask 0 0x0C 0 else s

/-- The issue of a core begins (R165): the frame, the checks that the bundle fails as a whole, and the instructions
that follow, each with its slot; `none` when the core issues nothing in this cycle. -/
def State.begin (s : State) (cl : ClusterId) (co : CoreId) : Option (State × List (Nat × Instr)) :=
  match s.mach.issuing cl co with
  | none => none
  | some cx =>
    let x := s.mach.ctx ⟨cl, co, cx⟩
    let k := s.mach.core cl co
    let fr := k.bundleAt x.pc.toNat
    let after : PC := BitVec.ofNat 19 (x.pc.toNat + 4 * fr.1.length)
    let s := s.frameOf cl co cx after
    let budget : List (Nat × Instr) := if x.budget < x.count then [(0, .budgetOverrun cl co cx)] else []
    match k.fetchError x.pc.toNat fr.1.length with
    | some a => some (s.raiseMask 0 0x0B (errorDetail ⟨.instr, (k.badAt .instr (a / 256)).getD 1, a⟩), budget)
    | none =>
      let (mask, detail) := refusal fr.1 fr.2
      if detail ≠ 0 then some (s.raiseMask mask 0x01 detail, budget)
      else
        let is := decoded fr.1
        some ((s.advance fr.1).wholeChecks is, budget ++ is)

/-! ## Finishing -/

/-- The release atomics enter the drain, the last entries of the commit (R158). -/
def State.commitRels (s : State) : State :=
  s.iss.rels.foldl (fun s e => { s with mach := s.mach.commitEntry s.ref s.iss.fences e }) s

/-- The charge of the bundle (R170, R171). -/
def State.account (s : State) (is : List (Nat × Instr)) : State :=
  let charge := s.bundleCharge (is.map Prod.snd)
  s.modCtx fun x =>
    { x with energy := x.energy + BitVec.ofNat 64 charge,
             charges := windowOf s.now x.charges ++ (if charge = 0 then [] else [(s.now, charge)]) }

/-- The bundle stands at the body end of its innermost level and transferred no control (R41). -/
def State.stepsLevel (s : State) : Bool :=
  !s.iss.transferred && !s.iss.exits && s.regs.loops.head?.any fun l => l.stop == s.iss.baddr

/-- The issue of a bundle ends: nothing more of a suppressed one (R24); else its release atomics commit, its charge is
made, and its loop levels are to step. With an exit (R65) the results in flight are discarded, and with them the samples
and tag checks that were still to come (log entry 37). `is` are its slots. -/
def State.finish (s : State) (is : List (Nat × Instr)) : State :=
  if !s.iss.raises.isEmpty then { s with iss := Issue.idle }
  else
    let s := (s.commitRels).account (is.filter fun p => (fieldsOf p.2).isSome)
    let s := if s.iss.exits then s.modCtx fun x => { x with inflight := [], loads := [] } else s
    let s := if s.stepsLevel then
        { (s.modCtx fun x => { x with stepAt := some s.iss.baddr }) with
          mach.todo := .event (.loopLevelStep s.iss.cl s.iss.co s.iss.cx) :: s.mach.todo }
      else s
    { s with iss := Issue.idle }

end Sys2Proof.Machine
end

