-- ==== Sys2Proof/Machine/CoreEvents.lean ====
section
/-!
DEFINITION. What the cores and clusters do in a core cycle beside issuing: landings, samples, loop steps, releases,
selections, pre-emption, marks, errors, and the supervisor's registers.
-/

namespace Sys2Proof.Machine

/-! ## Landings (R44, R47) -/

/-- The register file and number of a landing-collision record (R174); none for a register without such a record. -/
def collisionReg : RegDest → Option (BitVec 32)
  | .s r => if r = 0 then none else some (r.setWidth 32)
  | .v r => some (0x100 + r.setWidth 32)
  | .p k => some (0x200 + k.setWidth 32)
  | .q k => some (0x300 + k.setWidth 32)
  | .fm _ | .vrm | .vflags | .agBase _ | .agStride _ _ => none

/-- The event of a result that another bundle's result meets in its register (R47): it is the earlier-issued one. A
vector or mask result with no enabled element counts as a landing, and where more than two results meet there is one
event for each earlier-issued one (log entry 37). -/
def collisionOf (cx : CtxId) (fret : BitVec 40) (due : List InFlight) (r : InFlight) : List EventNew :=
  match collisionReg r.dest with
  | none => []
  | some detail =>
    if due.any fun x => x.dest == r.dest && decide (r.id < x.id) && x.issued != r.issued then
      [⟨rankCollision, 0x01, cx, r.slot, r.baddr, fret, detail, false⟩]
    else []

/-- RESULT_LANDS (R44, R47): the context's results due in this cycle, each as issued. So of two slots of one bundle
whose guards are complementary masks and which write the same elements (vsel), or one scalar register (vred, vmsk, vext),
the higher-numbered slot's result stands, and no event is queued (log entry 37). -/
def execResultLands (cl : ClusterId) (co : CoreId) (cx : CtxId) (s : State) : Host.Outcome State Fault Refusal :=
  let cyc := s.mach.cyc cl
  let fret := s.mach.fret40
  .next (s.modMach fun m => m.modCore cl co fun k =>
    let x := k.ctx cx
    let due := sortBy (fun a b => decide (a.id < b.id)) (x.inflight.filter fun r => decide (r.due ≤ cyc) && r.ready)
    let k := { k with evNew := k.evNew ++ due.flatMap (collisionOf cx fret due) }
    k.setCtx cx { x with
      regs := (landingOrder due).foldl Regs.landResult x.regs,
      inflight := x.inflight.filter fun r => decide (cyc < r.due) })

/-! ## Samples (R44, R125, R204, R208) -/

/-- The tag of a line of LM. -/
def Core.tag (k : Core) (line : Nat) : BitVec 16 := (k.lmTags.find line).getD 0

/-- The lines that a load touches, lowest first. -/
def Load.lines (l : Load) : List Nat := (sortBy (fun a b => decide (a < b)) (l.lanes.map fun p => p.2 / 256)).dedup

/-- The first mismatching line of a tag-checked load (R125). -/
def Core.mismatch (k : Core) (l : Load) : Option Nat :=
  match l.tag with
  | none => none
  | some t => l.lines.find? fun n => k.tag n != t

/-- One tag check (R125): a mismatch raises cause 0x04 with the line and the tag found; the bundle of the cycle issues all
the same, and the trap is taken with the cycle's marks (R52). Of two loads of one bundle each makes its own record, and the
second none when the first has rolled the context back (log entry 37). -/
def Mach.checkTag (m : Mach) (r : CtxRef) (l : Load) : Mach :=
  let k := m.core r.cl r.co
  let m := m.modCtx r fun x =>
    { x with loads := x.loads.map fun y => if y.id = l.id then { y with tagDone := true } else y }
  match k.mismatch l with
  | none => m
  | some line =>
    let x := m.ctx r
    m.deferTrap { ctx := r, cause := 0x04, mask := 1#8 <<< l.slot.toNat, baddr := l.baddr,
                  detail := BitVec.ofNat 64 ((k.tag line).toNat * 2 ^ 32 + line * 256), pos := .sample,
                  issued := l.issued, img := x.img, part := x.part }

/-- TAG_CHECK_SAMPLE (R125). The check comes before the sample of the data, and so a mismatch before an uncorrectable
error of the same line (log entry 37). -/
def execTagCheckSample (cl : ClusterId) (co : CoreId) (cx : CtxId) (s : State) : Host.Outcome State Fault Refusal :=
  let cyc := s.mach.cyc cl
  .next (s.modMach fun m =>
    ((m.ctx ⟨cl, co, cx⟩).loads.filter fun l => l.tag.isSome && !l.tagDone && decide (l.memAt ≤ cyc)).foldl
      (fun m l => m.checkTag ⟨cl, co, cx⟩ l) m)

/-- The value of a load from its bytes. -/
def LoadExt.apply (e : LoadExt) (v : Vec) : Vec :=
  match e with
  | .raw => v
  | .sext bits => ((BitVec.ofInt 64 (BitVec.ofNat bits v.toNat).toInt).setWidth 2048)

/-- A load's own gated stores, forwarded (R50): those of bundles before its own. -/
def Core.forward (k : Core) (cx : CtxId) (l : Load) : Load :=
  let own := k.ownStores cx l.issued l.space
  { l with fwdDone := true,
           fwd := l.lanes.filterMap fun p => (lastStore own p.2).map fun b => (p.1, b) }

/-- The byte of a memory that a load samples. -/
def Mach.sampleByte (m : Mach) (cl : ClusterId) (co : CoreId) (space : Space) (a : Nat) : Byte :=
  match space with
  | .lm => (((m.core cl co).lm).byte (some 0) a).getD 0
  | .sp => ((m.cluster cl).scratch.byte (some 0) a).getD 0

/-- The class of the uncorrectable error that a scratchpad line holds (R208). -/
def Cluster.badAt (c : Cluster) (line : Nat) : Option Nat := (c.badLines.find? fun b => b.1 == line).map Prod.snd

/-- The store of a space. -/
def Space.store : Space → SramStore
  | .lm => .lm
  | .sp => .scratchpad

/-- The error at the lowest byte of an access that lies in a line with an uncorrectable error (R208). DESIGN CHOICE: the
access finds it also where every byte in that line is forwarded from the context's own stores (R50; log entry 37). -/
def Mach.badByte (m : Mach) (cl : ClusterId) (co : CoreId) (space : Space) (addrs : List Nat) : Option ErrorAt :=
  let cls := fun (a : Nat) => match space with
    | .lm => (m.core cl co).badAt .lm (a / 256)
    | .sp => (m.cluster cl).badAt (a / 256)
  match (addrs.filter fun a => (cls a).isSome).min? with
  | none => none
  | some a => some ⟨space.store, (cls a).getD 1, space.addr a⟩

/-- One load in this cycle: forwarded, sampled, or untouched. -/
def Mach.sampleLoad (m : Mach) (r : CtxRef) (l : Load) : Mach :=
  let cyc := m.cyc r.cl
  match (m.ctx r).loads.find? fun y => y.id == l.id with
  | none => m
  | some l =>
    let l := if !l.fwdDone && decide (l.fwdAt ≤ cyc) then (m.core r.cl r.co).forward r.cx l else l
    if cyc < l.memAt then
      m.modCtx r fun x => { x with loads := x.loads.map fun y => if y.id = l.id then l else y }
    else
      let m := m.modCtx r fun x => { x with loads := x.loads.filter fun y => y.id != l.id }
      match m.badByte r.cl r.co l.space (l.lanes.map Prod.snd) with
      | some e => m.errorTrap Mach.deferTrap r.cl r.co ⟨r.cx, l.baddr, l.slot, l.issued⟩ e
      | none =>
        let bytes := l.lanes.map fun p =>
          (p.1, match (l.fwd.find? fun f => f.1 == p.1).or (l.keep.find? fun f => f.1 == p.2) with
            | some f => f.2
            | none => m.sampleByte r.cl r.co l.space p.2)
        m.modCtx r fun x => x.fill l.id (l.ext.apply (vecSetBytes 0 bytes)) 0

/-- The samples of a core's scalar and vector loads (R152, R153, R204). -/
def State.sampleLoads (s : State) (cl : ClusterId) (co : CoreId) : State :=
  s.modMach fun m => ctxIds.foldl (fun m cx =>
    (m.ctx ⟨cl, co, cx⟩).loads.foldl (fun m l => m.sampleLoad ⟨cl, co, cx⟩ l) m) m

/-! ## A misaligned target (R25) -/

/-- The trap of a transfer to an invalid target, in the cycle in which the target would issue; a gang member's is
contained once the marks of the cycle are known (R211). The transferring bundle is the faulting one (R53). -/
def State.targetTrap (s : State) (cl : ClusterId) (co : CoreId) (cx : CtxId) : State :=
  s.modMach fun m =>
    let r : CtxRef := ⟨cl, co, cx⟩
    let x := m.ctx r
    match x.badTarget with
    | none => m
    | some t =>
      if (m.core cl co).running = some cx ∧ x.nextIssue ≤ m.cyc cl then
        let trap : Trap :=
          { ctx := r, cause := 0x02, mask := 1#8 <<< t.slot.toNat, baddr := t.baddr, detail := t.target.setWidth 64,
            pos := .target, issued := t.issued, img := x.img, part := x.part }
        if x.gang.isSome then m.deferTrap trap else (m.modCtx r fun x => { x with badTarget := none }).trap trap
      else m

/-! ## Loop levels (R41) -/

/-- LOOP_LEVEL_STEP (R41): the levels that end at the bundle that has issued step, from the innermost outward. -/
def execLoopLevelStep (cl : ClusterId) (co : CoreId) (cx : CtxId) (s : State) : Host.Outcome State Fault Refusal :=
  .next (s.modMach fun m => m.modCore cl co fun k =>
    let x := k.ctx cx
    match x.stepAt with
    | none => k
    | some e =>
      let r := stepLevels e 6 x.regs.loops
      k.setCtx cx { x with
        regs := { x.regs with loops := r.1 }, stepAt := none, pc := r.2.getD (BitVec.ofNat 19 (k.bundleEnd e.toNat)),
        steppedBody := r.2.isSome && r.1.length == x.regs.loops.length })

/-! ## Marks (R51, R211) -/

/-- The shadow set taken at a mark in cycle `m` (R51). -/
def Context.capture (x : Context) (base : Nat) (release : Bool) : Context :=
  { x with shadow := some ⟨x.regs, x.pc, base, x.inflight, x.loads, release, x.badTarget⟩, unrestartable := false }

/-- The members of a gang that still count (R211). -/
def Gang.live (g : Gang) : List (CoreId × CtxId) := g.members.filter fun x => !g.killed.contains x

/-- The arrivals of timed transfers that a common mark captures (R213). -/
def Cluster.captured (c : Cluster) (g : Gang) (cyc : Nat) : List Arrival :=
  c.arrivals.filter fun a => g.live.contains (a.sender, a.cx) && decide (cyc < a.due)

/-- The mark of a context that issued a commit point; of one that has ended with it only the cycle is kept, by which
the effects that it committed are known to lie before a mark (R53). -/
def Context.markNow (x : Context) (cyc : Nat) : Context :=
  if x.bound then { (x.capture (cyc + 1) false) with markAt := some cyc } else { x with markAt := some cyc }

/-- A context outside a gang that issued a commit point takes its mark. -/
def Context.takeMark (x : Context) (cyc : Nat) : Context :=
  if x.gang.isNone then { (if x.marking then x.markNow cyc else x) with marking := false } else x

/-- A gang's marks of this cycle (R211): a common mark when every member that counts issued a commit point, a lone
commit point otherwise. -/
def Mach.gangMarks (m : Mach) (cl : ClusterId) (g : Nat) : Mach :=
  match (m.cluster cl).gangs.find g with
  | none => m
  | some gg =>
    let cyc := m.cyc cl
    let issued := gg.live.filter fun x => (m.ctx ⟨cl, x.1, x.2⟩).marking
    let clear := fun (m : Mach) => gg.members.foldl (fun m x =>
      m.modCtx ⟨cl, x.1, x.2⟩ fun y => { y with marking := false }) m
    if issued = [] then m
    else if issued = gg.live then
      let m := gg.live.foldl (fun m x => m.modCtx ⟨cl, x.1, x.2⟩ fun y => y.markNow cyc) m
      clear (m.modCluster cl fun c =>
        { c with gangs := c.gangs.put g { gg with lone := false, base := cyc + 1, captured := c.captured gg cyc } })
    else clear (m.modCluster cl fun c => { c with gangs := c.gangs.put g { gg with lone := true } })

/-- The commit points of a cluster's cycle taken as marks. -/
def State.takeMarks (s : State) (cl : ClusterId) : State :=
  s.modMach fun m =>
    let cyc := m.cyc cl
    let m := coreIds.foldl (fun m co => m.modCore cl co fun k =>
      { k with ctxs := k.ctxs.map fun p => (p.1, p.2.takeMark cyc) }) m
    ((m.cluster cl).gangs.keys).foldl (fun m g => m.gangMarks cl g) m

/-- One trap that waited for the marks of the cycle. -/
def Mach.takePending (m : Mach) (t : Trap) : Mach :=
  match t.pos with
  | .target => (m.modCtx t.ctx fun x => { x with badTarget := none }).trap t
  | .issue _ | .sample | .effect => m.trap t

/-- The first `n` traps of a cluster that wait, each taken in turn: a rollback drops those of the bundles that it discards. -/
def Mach.takeAll (m : Mach) (cl : ClusterId) : Nat → Mach
  | 0 => m
  | n + 1 =>
    match (m.cluster cl).pend with
    | [] => m
    | t :: rest => ((m.modCluster cl fun c => { c with pend := rest }).takePending t).takeAll cl n

/-- The traps of a cluster that waited for the marks of the cycle (R52, R208, R211, R224). -/
def State.takeTraps (s : State) (cl : ClusterId) : State :=
  s.modMach fun m => m.takeAll cl (m.cluster cl).pend.length

/-! ## Releases (R163, R164, R174) -/

/-- The tick at which a context's condition fell due, once it holds with the Fret counter at `count`. -/
def Context.dueAt (x : Context) (count : Nat) : Option Nat :=
  match x.wait with
  | .never => none
  | .now => some x.relTime
  | .at t => if t ≤ count then some x.relTime else none
  | .q _ d => d
  | .sc _ d => d

/-- The level that the task's first bundle asks for (R163, R69): a capo.acq whose guard reads true now. -/
def Core.capoNeed (k : Core) (x : Context) : BitVec 4 :=
  (decoded (k.bundleAt x.pc.toNat).1).foldl (fun lvl p => match p.2 with
    | .capoAcq h level => if x.regs.pred h.guard && decide (lvl < level) then level else lvl
    | _ => lvl) 0

/-- The release time of a context released now (R164). -/
def Context.releaseTime (x : Context) (fret : Nat) : Nat :=
  match x.capoGrantAt with
  | some t => t
  | none =>
    match x.wait with
    | .now | .at _ | .never => x.relTime
    | .q _ _ | .sc _ _ => fret

/-- A context released in cycle `cyc` (R163, R51, R178): its retry count is reloaded, its running count restarts, and
the release is its mark. -/
def Context.released (x : Context) (cyc time base : Nat) : Context :=
  { ({ x with stepAt := none, badTarget := none }.capture base true) with
    run := .released, relTime := time, relCycle := cyc, retry := x.retryInit, first := true, count := 1,
    counting := false, capoGrantAt := none, steppedBody := false, markAt := some cyc, wait := .never }

/-- The late-release event of a condition that fell due during a halt (R163, R174). -/
def Mach.lateEvent (m : Mach) (r : CtxRef) (due : Nat) : Mach :=
  match (m.dom (domOf r.cl)).lastHalt with
  | none => m
  | some (a, b) =>
    let t := m.pk.fret
    if a ≤ due ∧ due < b ∧ b ≤ t then
      m.modCore r.cl r.co fun k =>
        k.event ⟨rankLate, 0x02, r.cx, 0, (k.ctx r.cx).pc, m.fret40, BitVec.ofNat 32 (min (t - due) (2 ^ 32 - 1)), false⟩
    else m

/-- A request for a level joins the domain's list (R169). -/
def Mach.requestCapo (m : Mach) (r : CtxRef) (level : BitVec 4) : Mach :=
  let x := m.ctx r
  let m := m.modCtx r fun x => { x with capoReq := some (level, m.pk.fret) }
  m.modDom (domOf r.cl) fun d => { d with capo := CapoReq.insert ⟨x.prio, m.pk.fret, r, level⟩ d.capo }

/-- CONTEXT_RELEASE (R163): a waiting context whose condition holds is released, or asks for the level that its first
bundle needs. A gang member stays at the gang's disposal (R210). -/
def execContextRelease (cl : ClusterId) (co : CoreId) (cx : CtxId) (s : State) : Host.Outcome State Fault Refusal :=
  .next (s.modMach fun m =>
    let r : CtxRef := ⟨cl, co, cx⟩
    let x := m.ctx r
    match x.run with
    | .unbound | .released | .running | .ended => m
    | .waiting =>
      match x.dueAt m.pk.count with
      | none => m
      | some due =>
        let need := (m.core cl co).capoNeed x
        if x.capoReq.isSome then m
        else if x.capoGrantAt.isNone ∧ x.capo < need then m.requestCapo r need
        else
          let m := m.lateEvent r (x.capoGrantAt.getD due)
          m.modCtx r fun x => x.released (m.cyc cl) (x.releaseTime m.pk.fret) 0)

/-! ## Selection (R165, R166, R210) -/

/-- The order of selection (R165). -/
def selectBefore (a b : CtxId × Context) : Bool :=
  if a.2.prio ≠ b.2.prio then decide (b.2.prio < a.2.prio)
  else if a.2.relTime ≠ b.2.relTime then decide (a.2.relTime < b.2.relTime)
  else decide (a.1 < b.1)

/-- The first of a list in the order of selection. -/
def firstSelected : List (CtxId × Context) → Option (CtxId × Context)
  | [] => none
  | a :: rest =>
    match firstSelected rest with
    | none => some a
    | some b => if selectBefore a b then some a else some b

/-- The contexts that a core may select (R165, R166, R210). -/
def Core.candidates (k : Core) (cyc : Nat) : List (CtxId × Context) :=
  let all := ctxIds.map fun c => (c, k.ctx c)
  let gangs := all.filter fun p => p.2.run == .released && p.2.gang.isSome
  let ready := all.filter fun p =>
    p.2.run == .released && p.2.gang.isNone && decide (p.2.relCycle < cyc) &&
      (gangs.all fun g => decide (g.2.prio < p.2.prio))
  match k.selUrgent with
  | none => ready
  | some q =>
    let first := ready.filter fun p => p.2.urgent && decide (q < p.2.prio)
    if first.isEmpty then ready else first

/-- A context that begins or resumes at `r` (R55): its snapshot is replayed. -/
def Context.start (x : Context) (r : Nat) : Context :=
  { x with
    run := .running, nextIssue := r,
    inflight := match x.snap with
      | none => x.inflight
      | some h => x.inflight ++ InFlight.rebase h.base r h.inflight,
    snap := none }

/-- CONTEXT_SELECTION (R165): the selected context issues two cycles later (log entry 38). -/
def execContextSelection (cl : ClusterId) (co : CoreId) (s : State) : Host.Outcome State Fault Refusal :=
  let cyc := s.mach.cyc cl
  .next (s.modMach fun m => m.modCore cl co fun k =>
    if k.running.isSome || decide (cyc < k.selFrom) then k
    else match firstSelected (k.candidates cyc) with
      | none => k
      | some (cx, _) =>
        { k with running := some cx, selUrgent := none }.modCtx cx fun x => x.start (max (cyc + 2) x.nextIssue))

/-- A gang is ready (R210). -/
def Mach.gangReady (m : Mach) (cl : ClusterId) (g : Gang) : Bool :=
  !g.members.isEmpty && g.members.all fun x =>
    (m.ctx ⟨cl, x.1, x.2⟩).run == .released && (m.core cl x.1).running.isNone

/-- GANG_RELEASE (R210, R211): every member is selected in the next cycle and issues at g+3; the release is a common
mark. -/
def execGangRelease (cl : ClusterId) (g : BitVec 6) (s : State) : Host.Outcome State Fault Refusal :=
  .next (s.modMach fun m =>
    match (m.cluster cl).gangs.find g.toNat with
    | none => m
    | some gg =>
      if m.gangReady cl gg then
        let cyc := m.cyc cl
        let m := gg.members.foldl (fun m x => m.modCore cl x.1 fun k =>
          { k with running := some x.2, selUrgent := none }.modCtx x.2 fun y =>
            (y.released cyc m.pk.fret (cyc + 3)).start (cyc + 3)) m
        m.modCluster cl fun c =>
          let gg := { gg with killed := [], retry := gg.retryInit, lone := false, base := cyc + 3 }
          { c with gangs := c.gangs.put g.toNat { gg with captured := c.captured gg cyc } }
      else m)

/-- An urgent context that pre-empts a task of priority `p` after a bundle of cycle `cyc` (R166). DESIGN CHOICE: one that a
waiting gang member keeps from selection (R210) pre-empts too, and the core idles until the gang runs (log entry 37). -/
def Core.preempter (k : Core) (p : BitVec 3) (cyc : Nat) : Bool :=
  ctxIds.any fun c =>
    let y := k.ctx c
    y.run == .released && y.urgent && y.gang.isNone && decide (p < y.prio) && decide (y.relCycle ≤ cyc)

/-- PREEMPTION (R166): after a body-end bundle that stepped its innermost level without popping it. -/
def execPreemption (cl : ClusterId) (co : CoreId) (s : State) : Host.Outcome State Fault Refusal :=
  let cyc := s.mach.cyc cl
  .next (s.modMach fun m => m.modCore cl co fun k =>
    match k.running with
    | none => k
    | some cx =>
      let x := k.ctx cx
      if k.issued && x.steppedBody && x.gang.isNone && k.preempter x.prio cyc then
        { k.freeDivider cx with running := none, selFrom := cyc + 1, selUrgent := some x.prio }.modCtx cx fun x =>
          { x with run := .released, snap := some ⟨cyc + 1, x.inflight⟩, inflight := [], steppedBody := false }
      else k)

/-! ## Event queue (R174, R175) -/

/-- The context that a record names (R174). -/
def EvRecord.cx (e : EvRecord) : CtxId := e.bits.extractLsb' 32 3

/-- The area to which a record goes (R175): that of its context, unless the context has been bound to another image
since the event (R177). -/
def Core.areaOf (k : Core) (e : EvRecord) : Option (Nat × Nat) :=
  let x := k.ctx e.cx
  if x.bindId = e.bind then x.evtArea else none

/-- Records with no area to go to are discarded when they reach the head of the queue (R175). -/
def Core.dropHeads (k : Core) : Core := { k with evq := k.evq.dropWhile fun e => (k.areaOf e).isNone }

/-- A record enters the queue; one that finds it full is dropped and counted (R175). One that is posted by an image to which
the context is bound no longer belongs to no binding (R177). -/
def Core.enterEvent (k : Core) (e : EventNew) : Core :=
  if k.evq.length < 64 then
    ({ k with evq := k.evq ++ [⟨eventRecord e k.evLost, if e.stale then 0 else (k.ctx e.ctx).bindId⟩], evLost := 0 } : Core).dropHeads
  else { k with evLost := min (k.evLost + 1) 65535 }

/-- The cycle's records of the ranks before `r` enter the queue in the order of R174. -/
def Core.enterEvents (k : Core) (r : Nat) : Core :=
  (sortBy (fun a b => decide (a.rank < b.rank)) (k.evNew.filter fun e => decide (e.rank < r))).foldl Core.enterEvent
    { k with evNew := k.evNew.filter fun e => decide (r ≤ e.rank) }

/-! ## Timed transfers (R213) -/

/-- TIMED_TRANSFER_ARRIVAL (R213): the latches hold the arrivals of this cycle, and of no other. -/
def execTimedTransferArrival (cl : ClusterId) (co : CoreId) (s : State) : Host.Outcome State Fault Refusal :=
  .next (s.modMach fun m => m.modCluster cl fun c =>
    let now := c.arrivals.filter fun a => a.dst == co && decide (a.due ≤ c.cyc)
    let k := c.core co
    { c with arrivals := c.arrivals.filter fun a => !(a.dst == co && decide (a.due ≤ c.cyc)) }.setCore co
      { k with latches := now.foldl (fun l (a : Arrival) => FMap.put l a.sender.toNat (a.vec, a.val)) [] })

/-! ## Memory errors (R207, R208) -/

/-- Ticks that one freeze adds to the owed delay (R207). -/
def freezeTicks (fcode : BitVec 6) : Nat :=
  let f := 600 + 50 * fcode.toNat
  (6 * 1800 + f - 1) / f

/-- CORRECTABLE_ERROR_FREEZE (R207): errors of one core cycle cause one freeze. -/
def execCorrectableErrorFreeze (cl : ClusterId) (st : SramStore) (co : CoreId) (line : BitVec 18) (s : State) :
    Host.Outcome State Fault Refusal :=
  .next (s.modMach fun m =>
    let f := (m.dom (domOf cl)).fcur
    m.modCluster cl fun c =>
      let c := { c with ceCount := min (c.ceCount + 1) (2 ^ 32 - 1), ceStore := BitVec.ofNat 4 (storeCode st),
                        ceCore := if st = .scratchpad then 0 else co, ceLine := line.setWidth 17 }
      if c.freezeReq then c
      else { c with freezeReq := true, engHeld := true, frozen := c.frozen + 6, frzowed := c.frzowed + BitVec.ofNat 32 (freezeTicks f) })

/-- FREEZE_END (R207): frozen clock periods pass, and after the sixth the core cycles go on. -/
def execFreezeEnd (cl : ClusterId) (s : State) : Host.Outcome State Fault Refusal :=
  .next (s.modMach fun m => m.modCluster cl fun c =>
    let n := min c.frozen c.credit
    { c with frozen := c.frozen - n, credit := c.credit - n })

/-- The class of an uncorrectable error (R208): which bits of the line it struck is free, as is which of the two plane
memories a plane error struck (log entry 2). -/
def errorClass (st : SramStore) (n : Nat) : Nat :=
  match st with
  | .lm | .scratchpad => 1 + n % 2
  | .accumulator => 1 + 2 * (n % 2)
  | .plane | .instr => 1

/-- UNCORRECTABLE_ERROR (R208): the line delivers no data until it is written whole. -/
def execUncorrectableError (cl : ClusterId) (st : SramStore) (co : CoreId) (line : BitVec 18) (s : State) :
    Host.Outcome State Fault Refusal :=
  .next (s.modMach fun m =>
    let (n, m) := m.choice
    match st with
    | .scratchpad => m.modCluster cl fun c =>
      { c with badLines := (c.badLines.filter fun l => l.1 != line.toNat) ++ [(line.toNat, 1 + n % 2)] }
    | .lm | .accumulator | .plane | .instr => m.modCore cl co fun k =>
      let key := if st = .plane then planeKey (n % 2 == 1) line.toNat else line.toNat
      { k with badLines := (k.badLines.filter fun b => !(b.st == st && b.line == key)) ++ [⟨st, key, errorClass st n⟩] })

/-! ## Local atomics and bank accesses (R158, R204, R205) -/

/-- The lines that some bytes cover whole. -/
def wholeLines (bytes : List (Nat × Byte)) : List Nat :=
  ((bytes.map fun p => p.1 / 256).dedup).filter fun line =>
    (List.range 256).all fun i => bytes.any fun p => p.1 == line * 256 + i

/-- What a load still to sample keeps of bytes that are written (R18): a store or atomic of the load's own bundle is not
seen, so the bytes are kept as they stand, and any other write is seen. -/
def Load.written (l : Load) (own : Bool) (mem : Memory) (bytes : List (Nat × Byte)) : Load :=
  if own then
    { l with keep := l.keep ++ (bytes.filter fun p => !l.keep.any fun q => q.1 == p.1).map fun p =>
        (p.1, (mem.byte (some 0) p.1).getD 0) }
  else if l.keep.isEmpty then l
  else { l with keep := l.keep.filter fun q => !bytes.any fun p => p.1 == q.1 }

/-- The loads of a core when some bytes are written, by the bundle of a context that `own` names or by another agent. -/
def Core.noteWrite (k : Core) (space : Space) (own : Option (CtxId × Nat)) (mem : Memory) (bytes : List (Nat × Byte)) :
    Core :=
  { k with ctxs := k.ctxs.map fun p => (p.1, if p.2.loads.isEmpty then p.2 else
      { p.2 with loads := p.2.loads.map fun l =>
          if l.space = space then l.written (own == some (BitVec.ofNat 3 p.1, l.issued)) mem bytes else l }) }

/-- Bytes written to LM; a line that they cover whole is whole again (R208). -/
def Core.writeLM (k : Core) (own : Option (CtxId × Nat)) (bytes : List (Nat × Byte)) : Core :=
  let k := k.noteWrite .lm own k.lm bytes
  { (if k.badLines.isEmpty then k else k.mend .lm (wholeLines bytes)) with lm := Memory.putAll (some 0) k.lm bytes }

/-- Bytes written to the scratchpad, by core `co` where `own` names a bundle. -/
def Cluster.writeSP (c : Cluster) (co : CoreId) (own : Option (CtxId × Nat)) (bytes : List (Nat × Byte)) : Cluster :=
  { c with
    cores := c.cores.map fun p =>
      (p.1, p.2.noteWrite .sp (if p.1 = co.toNat then own else none) c.scratch bytes),
    scratch := Memory.putAll (some 0) c.scratch bytes,
    badLines := if c.badLines.isEmpty then [] else
      let whole := wholeLines bytes
      c.badLines.filter fun l => !whole.contains l.1 }

/-- EVENT_WRITE_OUT (R175): the oldest record goes to its context's area. -/
def execEventWriteOut (cl : ClusterId) (co : CoreId) (s : State) : Host.Outcome State Fault Refusal :=
  .next (s.modMach fun m => m.modCore cl co fun k =>
    match k.evq with
    | [] => k
    | e :: rest =>
      if k.issuedC || decide (k.drained ≠ 0) then k
      else match k.areaOf e with
        | none => k.dropHeads
        | some (b, n) =>
          let k := k.writeLM none (cellsAt (b + 16 * ((k.ctx e.cx).evtK % n)) (bytesOfNat 16 e.bits.toNat))
          (({ k with evq := rest, evOut := true } : Core).modCtx e.cx fun x => { x with evtK := x.evtK + 1 }).dropHeads)

/-- A local atomic performs (R158 to R161). -/
def Mach.performAtomic (m : Mach) (cl : ClusterId) (co : CoreId) (issued : Nat) (a : Atomic) : Mach :=
  let m := match a.eff with
    | none => m
    | some id => m.performed id
  match m.badByte cl co a.space (span a.addr a.n) with
  | some e => m.errorTrap Mach.trap cl co ⟨a.cx, a.baddr, a.slot, issued⟩ e
  | none =>
    let old := natOfBytes ((span a.addr a.n).map fun x => m.sampleByte cl co a.space x)
    let w := 8 * a.n
    let v := a.val.toNat % 2 ^ w
    let new : Option Nat := match a.kind with
      | .rmw op => some (applyOp op a.n old v (a.exp.toNat % 2 ^ w))
      | .load => none
      | .store => some v
    let m := match new with
      | none => m
      | some x =>
        let bytes := cellsAt a.addr (bytesOfNat a.n x)
        match a.space with
        | .lm => m.modCore cl co fun k => k.writeLM (some (a.cx, issued)) bytes
        | .sp => m.modCluster cl fun c => c.writeSP co (some (a.cx, issued)) bytes
    match a.res with
    | none => m
    | some id => m.modCtx ⟨cl, co, a.cx⟩ fun x =>
      x.fill id ((BitVec.ofInt 64 (BitVec.ofNat w old).toInt).setWidth 2048) 0

/-- The local atomics of a core that perform in LM in this cycle, after every other access (R158). -/
def State.performAtomics (s : State) (cl : ClusterId) (co : CoreId) : State :=
  s.modMach fun m =>
    let cyc := m.cyc cl
    let due := (m.core cl co).atomics.filter fun a => decide (a.due ≤ cyc)
    let m := m.modCore cl co fun k => { k with atomics := k.atomics.filter fun a => decide (cyc < a.due) }
    due.foldl (fun m a => m.performAtomic cl co a.issued a.a) m

/-- One write at its bank: a store's bytes, or an atomic. -/
def Mach.bankWrite (m : Mach) (cl : ClusterId) (b : BankWrite) : Mach :=
  match b.atomic with
  | some a => m.performAtomic cl b.core b.issued a
  | none =>
    let m := m.modCluster cl fun c => c.writeSP b.core (some (b.cx, b.issued)) b.bytes
    match b.eff with
    | none => m
    | some id => m.performed id

/-- Of the writes that have reached their banks, those that perform next (R205): the stores by core and in drain order,
and when none is left the atomics by core. Between the two the copy engines write. DESIGN CHOICE: of one core's atomics at
one byte a direct one, which came to the bank's list at its issue, performs before a release atomic (log entry 37). -/
def Cluster.bankDue (c : Cluster) : List BankWrite :=
  let due := sortBy (fun a b => decide (a.core < b.core)) (c.bank.filter fun b => decide (b.due ≤ c.cyc))
  let stores := due.filter fun b => b.atomic.isNone
  if stores.isEmpty then due else stores

/-- SCRATCHPAD_BANK_ACCESS (R204, R205). -/
def execScratchpadBankAccess (cl : ClusterId) (s : State) : Host.Outcome State Fault Refusal :=
  .next (s.modMach fun m =>
    let now := (m.cluster cl).bankDue
    let stores := now.any fun b => b.atomic.isNone
    let m := m.modCluster cl fun c =>
      { c with bank := c.bank.filter fun b => !(decide (b.due ≤ c.cyc) && b.atomic.isNone == stores) }
    now.foldl (fun m b => m.bankWrite cl b) m)

/-! ## The supervisor's registers (R215, R216) -/

/-- An identity on its way may be set pending (R177): the sender's core cycle named has begun, or would have. -/
def Mach.irqArrived (m : Mach) (q : IrqWay) : Bool :=
  match q.gone with
  | some t => decide (t ≤ m.pk.fret)
  | none => decide (q.since < m.cyc (BitVec.ofNat 5 q.src))

/-- INTERRUPT_PENDING (R216): the identities that reach a cluster's interrupt file. -/
def execInterruptPending (cl : ClusterId) (s : State) : Host.Outcome State Fault Refusal :=
  .next (s.modMach fun m =>
    let (now, later) := (m.cluster cl).irqs.partition fun q => m.irqArrived q
    let m := m.modCluster cl fun c => now.foldl (fun c q => c.setPending q.ident.toNat) { c with irqs := later }
    now.foldl (fun m q => match q.eff with
      | none => m
      | some id => m.performed id) m)

/-- IFPEND_CLEAR (R215): ones written to word `k` clear its identities. -/
def execIfpendClear (cl : ClusterId) (k : BitVec 4) (v : BitVec 64) (s : State) : Host.Outcome State Fault Refusal :=
  .next (s.modMach fun m => m.modCluster cl fun c =>
    { c with ifpend := c.ifpend &&& ~~~(v.setWidth 1024 <<< (64 * k.toNat)) })

/-- The lowest pending and enabled identity (R215). -/
def Cluster.claimable (c : Cluster) : Option Nat := (List.range 1024).find? fun n => (c.ifpend &&& c.ifen).getLsbD n

/-- The hart's machine external interrupt (R216): some identity is both pending and enabled. -/
def Cluster.externalInterrupt (c : Cluster) : Bool := c.ifpend &&& c.ifen != 0

/-- IFCLAIM (R215): the lowest pending and enabled identity is no longer pending. -/
def execIfclaim (cl : ClusterId) (s : State) : Host.Outcome State Fault Refusal :=
  .next (s.modMach fun m => m.modCluster cl fun c =>
    match c.claimable with
    | none => c
    | some n => { c with ifpend := c.ifpend &&& ~~~(1#1024 <<< n) })

/-- IFSET (R215): a value from 1 to 1,023 sets that identity pending. -/
def execIfset (cl : ClusterId) (v : BitVec 64) (s : State) : Host.Outcome State Fault Refusal :=
  .next (s.modMach fun m => m.modCluster cl fun c => c.setPending v.toNat)

/-- TQPOP (R215): the head record is freed. -/
def execTqpop (cl : ClusterId) (_v : BitVec 64) (s : State) : Host.Outcome State Fault Refusal :=
  .next (s.modMach fun m => m.modCluster cl fun c =>
    if 0 < c.tqCount then { c with tqHead := c.tqHead + 1, tqCount := c.tqCount - 1 } else c)

/-! ## The end of a core cycle -/

/-- A context at the end of a core cycle: the running count (R167), and a level that takes effect from the next cycle
(R69). -/
def Context.endCycle (x : Context) (running : Bool) : Context :=
  { x with
    count := if x.counting then x.count + 1 else x.count, counting := x.counting && running,
    capo := x.capoNext.getD x.capo, capoNext := none }

/-- A core at the end of a core cycle: the records of its last accesses enter the queue, and then its software events
(R174). -/
def Core.endCycle (k : Core) : Core :=
  let k := k.enterEvents (rankSoftware + 1)
  { k with ctxs := k.ctxs.map fun p => (p.1, p.2.endCycle (k.running == some (BitVec.ofNat 3 p.1))),
           issued := false, issuedC := false, drained := 0, evOut := false, latches := [] }

/-- A cluster at the end of a core cycle. -/
def Cluster.endCycle (c : Cluster) : Cluster :=
  { c with cores := c.cores.map fun p => (p.1, p.2.endCycle), cyc := c.cyc + 1, credit := c.credit - 1,
           freezeReq := false, ports := [] }

end Sys2Proof.Machine
end

