-- ==== Sys2Proof/Machine/Registers.lean ====
section
/-!
DEFINITION. The register blocks of the physical map (R232, R215, R222, R239, R283, R300, R318, R323, R329): reading a
register, and writing one. A write that has a behaviour of its own is followed by that event.
-/

namespace Sys2Proof.Machine

/-! ## Tables with reset values -/

/-- An admission block at reset (R283). -/
def AdmBlock.reset : AdmBlock := { ast := 0, place := 0, img := 0, reason := 0, state := 0, check := none }

def Package.admBlock (p : Package) (k : BitVec 3) : AdmBlock := (p.adm.find k.toNat).getD AdmBlock.reset
def Package.modAdm (p : Package) (k : BitVec 3) (f : AdmBlock → AdmBlock) : Package :=
  { p with adm := p.adm.put k.toNat (f (p.admBlock k)) }

/-- A binding slot at reset (R300). -/
def TextSlot.reset : TextSlot :=
  { no := 0, valid := false, state := 0, reason := 0, ast := 0, img := 0, vocab := 0, vlen := 0, ep := 0, service := 0, area := 0,
    size := 0, queue := 0, rel := 0, err := 0, cnt := 0, used := 0, wp := 0, seen := 0, ready := 0, inbound := [], stall := none,
    stallIn := false, kept := [], errs := [] }

/-- A text engine at reset (R300). -/
def TextEngine.reset : TextEngine :=
  { epart := 0, assigned := false, slots := [], states := [], cmds := [], tpsel := 0, tpfa := 0 }

/-- The partition to which a text engine is assigned, if any (R300). -/
def TextEngine.part (t : TextEngine) : Option (BitVec 3) := if t.assigned then some t.epart else none

def TextEngine.slot (t : TextEngine) (n : Nat) : TextSlot :=
  (t.slots.find n).getD { TextSlot.reset with no := BitVec.ofNat 4 n }
def TextEngine.modSlot (t : TextEngine) (n : Nat) (f : TextSlot → TextSlot) : TextEngine :=
  { t with slots := t.slots.put n (f (t.slot n)) }

def Package.textEngine (p : Package) (e : BitVec 4) : TextEngine := (p.text.find e.toNat).getD TextEngine.reset
def Package.modText (p : Package) (e : BitVec 4) (f : TextEngine → TextEngine) : Package :=
  { p with text := p.text.put e.toNat (f (p.textEngine e)) }

def Package.modSio (p : Package) (k : Nat) (f : PortChan → PortChan) : Package :=
  { p with sio := p.sio.put k (f (p.sioChan k)) }
def Package.modNet (p : Package) (k : Nat) (f : PortChan → PortChan) : Package :=
  { p with net := p.net.put k (f (p.netChan k)) }
def Package.modChan (p : Package) (cl : ClusterId) (ch : BitVec 4) (f : Channel → Channel) : Package :=
  { p with chans := p.chans.put (chanKey cl ch) (f (p.chan cl ch)) }

/-! ## Where an address lies -/

/-- The register blocks. -/
inductive Block where
  | cluster (n : ClusterId)
  | domain (d : Dom)
  | transl (q : Quad)
  | admission (p : BitVec 3)
  | text (e : BitVec 4)
  | sio (k : BitVec 5)
  | net (k : BitVec 5)
  deriving DecidableEq, Repr

/-- What a physical address names (R232). -/
inductive PhysPlace where
  | vault (v : Nat)
  | block (b : Block) (off : Nat)
  | host (h : Nat)
  | nothing
  deriving DecidableEq, Repr

/-- The decode of a physical address (R232). -/
def physPlace (a : Nat) : PhysPlace :=
  if a < 2 ^ 40 then (if a % 2 ^ 35 < 20 * 2 ^ 30 then .vault (a / 2 ^ 35) else .nothing)
  else if 2 ^ 41 ≤ a ∧ a < 3 * 2 ^ 40 then .host (a - 2 ^ 41)
  else
    let o := a - 2 ^ 40
    if o < 0x200000 then .block (.cluster (BitVec.ofNat 5 (o / 0x10000))) (o % 0x10000)
    else if o < 0x208000 then
      let n := (o - 0x200000) / 0x1000
      .block (.domain (.tier (decide (n % 2 = 1)) (BitVec.ofNat 2 (n / 2)))) (o % 0x1000)
    else if o < 0x20C000 then .block (.domain (.base (BitVec.ofNat 2 ((o - 0x208000) / 0x1000)))) (o % 0x1000)
    else if 0x300000 ≤ o ∧ o < 0x340000 then .block (.transl (BitVec.ofNat 2 ((o - 0x300000) / 0x10000))) (o % 0x10000)
    else if 0x400000 ≤ o ∧ o < 0x408000 then .block (.admission (BitVec.ofNat 3 ((o - 0x400000) / 0x1000))) (o % 0x1000)
    else if 0x500000 ≤ o ∧ o < 0x600000 then .block (.text (BitVec.ofNat 4 ((o - 0x500000) / 0x10000))) (o % 0x10000)
    else if 0x600000 ≤ o ∧ o < 0x620000 then .block (.sio (BitVec.ofNat 5 ((o - 0x600000) / 0x1000))) (o % 0x1000)
    else if 0x700000 ≤ o ∧ o < 0x720000 then .block (.net (BitVec.ofNat 5 ((o - 0x700000) / 0x1000))) (o % 0x1000)
    else .nothing

/-- A partition holds at least one cluster of a tier. -/
def Package.tierIn (p : Package) (part : BitVec 3) (d : Dom) : Bool := (clustersOf d).any fun c => p.clusterIn part c
/-- A partition holds all four clusters of a tier (R222). -/
def Package.tierWhole (p : Package) (part : BitVec 3) (d : Dom) : Bool :=
  !domIsBase d && (clustersOf d).all fun c => p.clusterIn part c

/-- A register block belongs to a partition (R329). -/
def Package.blockIn (p : Package) (part : BitVec 3) (b : Block) : Bool :=
  match b with
  | .cluster n => p.clusterIn part n
  | .domain d => !domIsBase d && p.tierIn part d
  | .transl _ => true
  | .admission k => k == part
  | .text e => (p.textEngine e).part == some part
  | .sio k => k.toNat / 4 == part.toNat
  | .net k => k.toNat / 4 == part.toNat

/-! ## Peers (R323) -/

/-- The endpoint that a block with a peer table has bound, if any: no other table is reached through it (R323). -/
def Package.peerEp (p : Package) (b : PeerBlock) : Option (BitVec 16) :=
  match b with
  | .tok e =>
    let t := p.textEngine e
    let x := t.slot (t.tpsel.extractLsb' 16 4).toNat
    if x.state = 2 then some x.ep else none
  | .net q ch =>
    let c := p.netChan (portKey q ch)
    if c.state = 2 then some (c.r08.setWidth 16) else none

/-- The selected index. -/
def Package.peerSel (p : Package) (b : PeerBlock) : BitVec 12 :=
  match b with
  | .tok e => (p.textEngine e).tpsel.setWidth 12
  | .net q ch => (p.netChan (portKey q ch)).npsel

/-- The peer at an index of an endpoint. -/
def Package.peerAt (p : Package) (ep : BitVec 16) (i : BitVec 12) : Option Peer :=
  p.peers.find? fun x => x.ep == ep && x.index == i

/-- The selected peer of a block. -/
def Package.peerSeen (p : Package) (b : PeerBlock) : Option Peer := (p.peerEp b).bind fun ep => p.peerAt ep (p.peerSel b)

/-- The fabric address that the address registers read: that of the selected peer, or what was last written. -/
def Package.peerFa (p : Package) (b : PeerBlock) : BitVec 128 :=
  match p.peerSeen b with
  | some x => x.fa
  | none => match b with
    | .tok e => (p.textEngine e).tpfa
    | .net q ch => (p.netChan (portKey q ch)).npfa

/-- npctl and tpctl. -/
def Package.peerCtl (p : Package) (b : PeerBlock) : Word :=
  match p.peerSeen b with
  | none => 0
  | some x => x.rep.setWidth 64 ||| 0x10000 ||| (if x.learned then 0x20000 else 0)

/-- An endpoint is bound: by a text binding or by a network channel (R323). -/
def Package.epBound (p : Package) (ep : BitVec 16) : Bool :=
  (p.text.any fun t => t.2.slots.any fun x => x.2.state == 2 && x.2.ep == ep) ||
    p.net.any fun c => c.2.state == 2 && c.2.r08.setWidth 16 == ep

/-- The peers of an endpoint that is no longer bound lose their indices (R323). -/
def Package.dropPeers (p : Package) (ep : BitVec 16) : Package :=
  if p.epBound ep then p else { p with peers := p.peers.filter fun x => x.ep != ep }

/-- A peer is entered (R323): nothing for an index in use, for a pair that has an index, and through a block that has no
endpoint bound. -/
def Package.enterPeer (p : Package) (b : PeerBlock) (v : Word) : Package :=
  match p.peerEp b with
  | none => p
  | some ep =>
    let fa := p.peerFa b
    let rep : BitVec 16 := v.setWidth 16
    let used := p.peers.any fun x => x.ep == ep && (x.index == p.peerSel b || (x.fa == fa && x.rep == rep))
    if used then p else { p with peers := p.peers ++ [⟨ep, p.peerSel b, fa, rep, false⟩] }

/-- The selected index is freed (R323). -/
def Package.freePeer (p : Package) (b : PeerBlock) : Package :=
  match p.peerEp b with
  | none => p
  | some ep => { p with peers := p.peers.filter fun x => !(x.ep == ep && x.index == p.peerSel b) }

/-- PEER_ENTER (R323). -/
def execPeerEnter (b : PeerBlock) (v : BitVec 64) (s : State) : Host.Outcome State Fault Refusal :=
  .next (s.modMach fun m => m.modPk fun p => p.enterPeer b v)
/-- PEER_FREE (R323). -/
def execPeerFree (b : PeerBlock) (s : State) : Host.Outcome State Fault Refusal :=
  .next (s.modMach fun m => m.modPk fun p => p.freePeer b)

/-! ## Bindings (R300, R318) -/

/-- The checks of a binding slot start (R300). -/
def Mach.bindSlot (m : Mach) (e n : BitVec 4) (v : Word) : Mach :=
  let (d, m) := m.delay
  m.modPk fun p => p.modText e fun t => t.modSlot n.toNat fun x =>
    { x with valid := true, state := 1, reason := 0, ast := v.extractLsb' 16 16, img := v.extractLsb' 32 12,
             ready := m.pk.fret + d }

/-- The first key of an engine's table past its slots that holds no binding. -/
def TextEngine.freshKey (t : TextEngine) : Nat := t.slots.foldl (fun n x => max n (x.1 + 1)) 16

/-- A binding is unbound (R300): its request states and their held bytes are discarded. Work in process goes on with the
registers that the binding had, under a key of its own. -/
def TextEngine.unbind (t : TextEngine) (n key : Nat) : TextEngine :=
  let x := t.slot n
  let t := { t with states := t.states.filter fun r => r.slot != n }
  let t := if x.inbound.isEmpty && x.errs.isEmpty && !t.cmds.any fun c => c.slot == n then t
    else { t with
           slots := t.slots.put key { x with valid := false, state := 0, reason := 0 },
           cmds := t.cmds.map fun c => if c.slot = n then { c with slot := key } else c }
  t.modSlot n fun y =>
    { y with valid := false, state := 0, reason := 0, inbound := [], stall := none, stallIn := false, kept := [], errs := [] }

/-- A binding slot is unbound (R300); a write of bctl stores its AST and image number too. -/
def Mach.unbindSlot (m : Mach) (e n : BitVec 4) (v : Option Word) : Mach :=
  m.modPk fun p =>
    let t := p.textEngine e
    let ep := (t.slot n.toNat).ep
    let key := t.freshKey
    let p := p.modText e fun t => (t.unbind n.toNat key).modSlot n.toNat fun x => match v with
      | none => x
      | some w => { x with ast := w.extractLsb' 16 16, img := w.extractLsb' 32 12 }
    let moved := p.faults.map fun (f : FaultHeld) =>
      if f.stream = .text e n.toNat then { f with stream := .text e key } else f
    ({ p with faults := moved } : Package).dropPeers ep

/-- BCTL_BIND (R300). -/
def execBctlBind (e s' : BitVec 4) (v : BitVec 64) (s : State) : Host.Outcome State Fault Refusal :=
  .next (s.modMach fun m => m.bindSlot e s' v)
/-- BCTL_UNBIND (R300). -/
def execBctlUnbind (e s' : BitVec 4) (s : State) : Host.Outcome State Fault Refusal :=
  .next (s.modMach fun m => m.unbindSlot e s' none)

/-- A channel of either unit changed. -/
def Package.modPort (p : Package) (u : ChanUnit) (k : Nat) (f : PortChan → PortChan) : Package :=
  match u with
  | .sio => p.modSio k f
  | .net => p.modNet k f

/-- The checks of a channel start (R318). -/
def Mach.bindPort (m : Mach) (u : ChanUnit) (k : BitVec 5) (v : Word) : Mach :=
  let (d, m) := m.delay
  m.modPk fun p => p.modPort u k.toNat fun c =>
    { c with valid := true, state := 1, reason := 0, ast := v.extractLsb' 16 16, checkAt := m.pk.fret + d }

/-- A channel is unbound (R318); a write of ctl stores its AST too. -/
def Mach.unbindPort (m : Mach) (u : ChanUnit) (k : BitVec 5) (v : Option Word) : Mach :=
  m.modPk fun p =>
    let q := p.modPort u k.toNat fun c =>
      { c with valid := false, state := 0, reason := 0, ast := match v with
                 | none => c.ast
                 | some w => w.extractLsb' 16 16 }
    match u with
    | .sio => q
    | .net => q.dropPeers ((p.netChan k.toNat).r08.setWidth 16)

/-- CHANNEL_BIND (R318). -/
def execChannelBind (u : ChanUnit) (c : BitVec 5) (v : BitVec 64) (s : State) : Host.Outcome State Fault Refusal :=
  .next (s.modMach fun m => m.bindPort u c v)
/-- CHANNEL_UNBIND (R318). -/
def execChannelUnbind (u : ChanUnit) (c : BitVec 5) (s : State) : Host.Outcome State Fault Refusal :=
  .next (s.modMach fun m => m.unbindPort u c none)

/-! ## Reading -/

/-- A field put at a bit. -/
def bitsAt (n : Nat) (v : Nat) : Nat := v * 2 ^ n

def boolNat (b : Bool) : Nat := if b then 1 else 0

/-- dstat (R222). -/
def Domain.stat (d : Domain) : Nat :=
  bitsAt 26 d.fcur.toNat + bitsAt 22 d.vcur.toNat + bitsAt 14 (boolNat d.tripped) + bitsAt 13 (boolNat d.waking) +
    bitsAt 12 (boolNat d.gated) + bitsAt 11 (boolNat d.gatePend) + bitsAt 10 (boolNat d.throttled) +
    bitsAt 9 (boolNat d.halted) + d.temp.toNat

/-- A register of a cluster block (R215). -/
def Cluster.reg (c : Cluster) (off : Nat) : Nat :=
  if off < 0x80 then (c.ifpend.toNat >>> (8 * off)) % 2 ^ 64
  else if off < 0x100 then (c.ifen.toNat >>> (8 * (off - 0x80))) % 2 ^ 64
  else if off = 0x100 then c.claimable.getD 0
  else if off = 0x200 then bitsAt 32 c.tqOvf + bitsAt 8 c.tqCount + c.tqHead.toNat
  else if off = 0x300 then bitsAt 32 c.ceCount + bitsAt 28 c.ceStore.toNat + bitsAt 25 c.ceCore.toNat + c.ceLine.toNat
  else if off = 0x308 then c.frzowed.toNat
  else if 0x1000 ≤ off ∧ off < 0x1400 then
    (((c.tqrec.find ((off - 0x1000) / 32)).getD 0).toNat >>> (8 * (off % 32))) % 2 ^ 64
  else 0

/-- A register of a domain block (R222). -/
def Domain.reg (d : Domain) (base : Bool) (off : Nat) : Nat :=
  if off = 0x00 then bitsAt 8 d.vstep.toNat + d.fcode.toNat
  else if off = 0x08 then d.wlnext.toNat
  else if off = 0x10 then bitsAt 16 d.lb.toNat + d.budget.toNat
  else if off = 0x18 then d.wl.toNat
  else if off = 0x20 then bitsAt 8 d.tfcode.toNat + d.thr.toNat
  else if off = 0x30 then d.stat
  else if 0x800 ≤ off ∧ off < 0x1000 then (if base then 0 else ((d.detab.find ((off - 0x800) / 2)).getD 0).toNat)
  else 0

/-- A register of a translation block (R239). -/
def Package.translReg (p : Package) (q : Quad) (off : Nat) : Nat :=
  if off = 0x08 then (p.invseq.find q.toNat).getD 0 % 2 ^ 32
  else if off = 0x10 then (p.invdone.find q.toNat).getD 0 % 2 ^ 32
  else if off = 0x18 then (p.invref.find q.toNat).getD 0
  else if 0x100 ≤ off ∧ off < 0x140 then ((p.fltbase.find (q.toNat * 8 + (off - 0x100) / 8)).getD 0).toNat
  else if 0x1000 ≤ off ∧ off < 0x3000 then ((p.asttab.find ((off - 0x1000) / 8)).getD 0).toNat
  else 0

/-- A register of an admission block (R283). -/
def AdmBlock.reg (a : AdmBlock) (off : Nat) : Nat :=
  if off = 0x08 then a.ast.toNat
  else if off = 0x10 then bitsAt 52 a.img.toNat + bitsAt 8 a.reason.toNat + a.state.toNat
  else if off = 0x20 then a.place.toNat
  else 0

/-- A register of a binding slot (R300). -/
def TextSlot.reg (t : TextSlot) (off : Nat) : Nat :=
  if off = 0x00 then
    bitsAt 32 t.img.toNat + bitsAt 16 t.ast.toNat + bitsAt 8 t.reason.toNat + bitsAt 1 t.state.toNat + boolNat t.valid
  else if off = 0x08 then t.vocab.toNat
  else if off = 0x10 then bitsAt 16 t.service.toNat + t.ep.toNat
  else if off = 0x18 then t.area.toNat
  else if off = 0x20 then bitsAt 32 t.queue.toNat + t.size.toNat
  else if off = 0x28 then t.rel.toNat
  else if off = 0x30 then t.err.toNat
  else if off = 0x38 then t.cnt.toNat
  else 0

/-- A register of a text engine (R300). -/
def Package.textReg (p : Package) (e : BitVec 4) (off : Nat) : Nat :=
  let t := p.textEngine e
  if off = 0 then bitsAt 8 (boolNat t.assigned) + t.epart.toNat
  else if 0x100 ≤ off ∧ off < 0x500 then (t.slot ((off - 0x100) / 0x40)).reg (off % 0x40)
  else if off = 0x500 then t.tpsel.toNat
  else if off = 0x508 then (p.peerFa (.tok e)).toNat % 2 ^ 64
  else if off = 0x510 then (p.peerFa (.tok e)).toNat / 2 ^ 64
  else if off = 0x518 then (p.peerCtl (.tok e)).toNat
  else 0

/-- The ctl register of a channel (R318). -/
def PortChan.ctl (c : PortChan) : Nat :=
  bitsAt 16 c.ast.toNat + bitsAt 8 c.reason.toNat + bitsAt 1 c.state.toNat + boolNat c.valid

/-- The namespace that a storage channel targets. -/
def Package.driveOf (p : Package) (c : PortChan) : Option Drive :=
  p.drives.find? fun d => d.ns.ctrl == c.r08.setWidth 2 && d.ns.nsid == c.r08.extractLsb' 32 32

/-- A register of a storage channel (R318). -/
def Package.sioReg (p : Package) (k : Nat) (off : Nat) : Nat :=
  let c := p.sioChan k
  if off = 0 then c.ctl
  else if off = 8 then c.r08.toNat
  else if off = 0x10 then (match p.driveOf c with
    | none => 0
    | some d => bitsAt 16 d.ns.blocks + bitsAt 1 (boolNat d.ns.cache) + boolNat d.ns.big)
  else 0

/-- A register of a network channel (R318). -/
def Package.netReg (p : Package) (k : Nat) (off : Nat) : Nat :=
  let c := p.netChan k
  let b : PeerBlock := .net (BitVec.ofNat 3 (k / 4)) (BitVec.ofNat 2 k)
  if off = 0 then c.ctl
  else if off = 8 then c.r08.toNat
  else if off = 0x10 then c.r10.toNat
  else if off = 0x18 then c.r18.toNat
  else if off = 0x20 then c.r20.toNat
  else if off = 0x28 then c.npsel.toNat
  else if off = 0x30 then (p.peerFa b).toNat % 2 ^ 64
  else if off = 0x38 then (p.peerFa b).toNat / 2 ^ 64
  else if off = 0x40 then (p.peerCtl b).toNat
  else 0

/-- The value of the register that starts at an offset. -/
def Mach.regValue (m : Mach) (b : Block) (off : Nat) : Nat :=
  match b with
  | .cluster n => (m.cluster n).reg off
  | .domain d => (m.dom d).reg (domIsBase d) off
  | .transl q => m.pk.translReg q off
  | .admission p => (m.pk.admBlock p).reg off
  | .text e => m.pk.textReg e off
  | .sio k => m.pk.sioReg k.toNat off
  | .net k => m.pk.netReg k.toNat off

/-- The bytes before an offset in a register of `w` bytes, where each register of a run starts at a multiple of `w`. -/
def inRun (w off : Nat) : Option (Nat × Nat) := some (off % w, w)

/-- The register in which an offset of a block lies: how far in, and its width in bytes; none for a reserved offset. -/
def Block.regAt (b : Block) (off : Nat) : Option (Nat × Nat) :=
  match b with
  | .cluster _ =>
    if off < 0x110 ∨ (0x200 ≤ off ∧ off < 0x210) ∨ (0x300 ≤ off ∧ off < 0x308) ∨ (0x1000 ≤ off ∧ off < 0x1400) then inRun 8 off
    else if 0x308 ≤ off ∧ off < 0x30C then inRun 4 off
    else none
  | .domain _ =>
    if off < 0x38 then inRun 8 off else if 0x800 ≤ off ∧ off < 0x1000 then inRun 2 off else none
  | .transl _ =>
    if off < 0x8 ∨ (0x28 ≤ off ∧ off < 0x30) ∨ (0x100 ≤ off ∧ off < 0x140) ∨ (0x1000 ≤ off ∧ off < 0x3000) then inRun 8 off
    else if off < 0x20 ∧ off % 8 < 4 then inRun 4 off
    else none
  | .admission _ =>
    if off < 0x8 ∨ (0x10 ≤ off ∧ off < 0x28) then inRun 8 off
    else if 0x8 ≤ off ∧ off < 0xA then inRun 2 off
    else none
  | .text _ => if off < 0x8 ∨ (0x100 ≤ off ∧ off < 0x520) then inRun 8 off else none
  | .sio _ => if off < 0x18 then inRun 8 off else none
  | .net _ => if off < 0x48 then inRun 8 off else none

/-- A register: its width in bytes, 0 at a reserved offset, and its value. -/
def Mach.reg (m : Mach) (b : Block) (off : Nat) : Nat × Nat :=
  match b.regAt off with
  | none => (0, 0)
  | some (_, w) => (w, m.regValue b off)

/-- One byte of a register block. -/
def Mach.regByte (m : Mach) (b : Block) (off : Nat) : Byte :=
  match b.regAt off with
  | none => 0
  | some (k, _) => BitVec.ofNat 8 (m.regValue b (off - k) / 256 ^ k)

/-- An access of `n` bytes at an offset meets no register (R215: it reads as zeros and writes nothing), or is exactly one
register. -/
def Block.exact (b : Block) (off n : Nat) : Bool :=
  b.regAt off == some (0, n) || (List.range n).all fun i => (b.regAt (off + i)).isNone

/-- What a read of a register does beside answering (R215): ifclaim clears the identity. -/
def Mach.regReadEffect (m : Mach) (b : Block) (off : Nat) : Mach :=
  match b with
  | .cluster n => if off = 0x100 then { m with todo := .event (.ifclaim n) :: m.todo } else m
  | .domain _ | .transl _ | .admission _ | .text _ | .sio _ | .net _ => m

/-! ## Writing -/

/-- An event that a write starts, next to be taken. -/
def Mach.then (m : Mach) (i : Instr) : Mach := { m with todo := .event i :: m.todo }

/-- A word of a wide register replaced. -/
def setWord (n : Nat) (x : BitVec 1024) (k : Nat) (v : Word) : BitVec 1024 :=
  if n ≤ k then x else (x &&& ~~~((BitVec.allOnes 64).setWidth 1024 <<< (64 * k))) ||| (v.setWidth 1024 <<< (64 * k))

/-- A write in a cluster block (R215). -/
def Mach.writeCluster (m : Mach) (n : ClusterId) (off : Nat) (v : Word) : Mach :=
  if off < 0x80 then m.then (.ifpendClear n (BitVec.ofNat 4 (off / 8)) v)
  else if off < 0x100 then m.modCluster n fun c => { c with ifen := setWord 16 c.ifen ((off - 0x80) / 8) v }
  else if off = 0x108 then m.then (.ifset n v)
  else if off = 0x208 then m.then (.tqpop n v)
  else m

/-- A context of a quadrant is bound. -/
def Mach.quadBound (m : Mach) (q : Quad) : Bool :=
  (tierCtxs (.tier false q) ++ tierCtxs (.tier true q)).any m.boundAt

/-- A write in a domain block (R222); `root` says that root firmware makes it. -/
def Mach.writeDomain (m : Mach) (root : Bool) (d : Dom) (off : Nat) (v : Word) : Mach :=
  if off = 0x00 then m.then (.dfreqWrite d v)
  else if off = 0x08 then m.modDom d fun x => { x with wlnext := v.setWidth 32 }
  else if off = 0x10 then m.modDom d fun x => { x with lb := v.extractLsb' 16 4, budget := v.setWidth 9 }
  else if off = 0x20 then
    if !root then m
    else
      let thr : BitVec 8 := v.setWidth 8
      let tf : BitVec 8 := v.extractLsb' 8 8
      let ok := match d with
        | .tier _ _ => true
        | .base q => !m.quadBound q
      if !ok then m
      else m.modDom d fun x =>
        { x with thr := if 60 ≤ thr.toNat ∧ thr.toNat ≤ 110 then thr else x.thr,
                 tfcode := if domIsBase d || decide (60 < tf.toNat) then x.tfcode else tf }
  else if off = 0x28 then
    match (v.setWidth 2 : BitVec 2).toNat with
    | 1 => m.then (.gateRequest d)
    | 2 => if root || !(m.dom d).tripped then m.then (.wake d) else m
    | 3 => m.then (.cancelGateRequest d)
    | _ => m
  else if 0x800 ≤ off ∧ off < 0x1000 then
    let i := (off - 0x800) / 2
    if domIsBase d || decide (896 ≤ i) then m
    else m.modDom d fun x => { x with detab := x.detab.put i (v.setWidth 16) }
  else m

/-- The cluster of a fault-area entry: local index l of quadrant q (R239). -/
def fltCluster (q : Quad) (l : Nat) : ClusterId :=
  BitVec.ofNat 5 (16 * (l / 4) + 4 * (2 * (q.toNat / 2) + l / 2 % 2) + 2 * (q.toNat % 2) + l % 2)

/-- Who writes a register, where root firmware does not: the partition for which the write is made, and the cluster whose
kernel makes it, if one does. -/
structure Writer where
  part   : BitVec 3
  kernel : Option ClusterId
  deriving DecidableEq, Repr

/-- A write in a translation block (R239); `w` is none for root firmware. A cluster's entry of fltbase is written by that
cluster's kernel and by root firmware alone. -/
def Mach.writeTransl (m : Mach) (w : Option Writer) (q : Quad) (off : Nat) (v : Word) : Mach :=
  let by' := w.map Writer.part
  if off = 0x00 then m.then (.invreq q by' v)
  else if off = 0x28 then
    m.then (if v.getLsbD 9 then .fltreplyAbort (q, by') v else .fltreplyReplay (q, by') v)
  else if 0x100 ≤ off ∧ off < 0x140 then
    let l := (off - 0x100) / 8
    let own := w.all fun x => x.kernel == some (fltCluster q l) && m.pk.clusterIn x.part (fltCluster q l)
    if own then m.modPk fun p => { p with fltbase := p.fltbase.put (q.toNat * 8 + l) (v &&& 0x3FFFFF00001) } else m
  else if 0x1000 ≤ off ∧ off < 0x3000 then
    m.then (.asttabWrite (BitVec.ofNat 10 ((off - 0x1000) / 8), by') v)
  else m

/-- A write in an admission block (R283). The low bits of admplace, a multiple of 512, count as reserved (log entry 30). -/
def Mach.writeAdmission (m : Mach) (p : BitVec 3) (off : Nat) (v : Word) : Mach :=
  if off = 0x00 then m.then (.admpub p v)
  else if off = 0x08 then m.modPk fun k => k.modAdm p fun a => { a with ast := v.setWidth 16 }
  else if off = 0x18 then
    let im : BitVec 12 := v.extractLsb' 52 12
    match (v.setWidth 2 : BitVec 2).toNat with
    | 1 => m.then (.admcmdStart p im)
    | 2 => m.then (.admcmdStop p im)
    | 3 => m.then (.admcmdRetire p im)
    | _ => m
  else if off = 0x20 then m.modPk fun k => k.modAdm p fun a => { a with place := (v &&& ~~~0x1FF).setWidth 48 }
  else m

/-- A slot register other than bctl, written while the slot is unbound (R300). The low bits of the addresses that are
multiples of 4,096 or of 8 count as reserved (log entry 28). -/
def TextSlot.write (t : TextSlot) (tok : Bool) (off : Nat) (v : Word) : TextSlot :=
  if t.state ≠ 0 then t
  else if off = 0x08 then { t with vocab := v.setWidth 48 }
  else if off = 0x10 then { t with ep := v.setWidth 16, service := v.extractLsb' 16 5 }
  else if off = 0x18 then (if tok then { t with area := (v &&& ~~~0xFFF).setWidth 48 } else t)
  else if off = 0x20 then (if tok then { t with size := v.setWidth 32, queue := v.extractLsb' 32 12 } else t)
  else if off = 0x28 then (if tok then { t with rel := (v &&& ~~~0x7).setWidth 48 } else t)
  else if off = 0x30 then { t with err := (v &&& ~~~0xFFF).setWidth 48 }
  else t

/-- A write of a peer control register (R323). -/
def Mach.writePeer (m : Mach) (b : PeerBlock) (v : Word) : Mach :=
  m.modPk fun p => if v.getLsbD 16 then p.enterPeer b v else p.freePeer b

/-- A fabric address with one half replaced. -/
def halfOf (fa : BitVec 128) (high : Bool) (v : Word) : BitVec 128 :=
  if high then v ++ fa.setWidth 64 else fa.extractLsb' 64 64 ++ v

/-- A write in a text engine's block (R300). -/
def Mach.writeText (m : Mach) (root : Bool) (e : BitVec 4) (off : Nat) (v : Word) : Mach :=
  let set := fun (f : TextEngine → TextEngine) => m.modPk fun p => p.modText e f
  if off = 0 then (if root then set fun t => { t with epart := v.setWidth 3, assigned := v.getLsbD 8 } else m)
  else if 0x100 ≤ off ∧ off < 0x500 then
    let n : BitVec 4 := BitVec.ofNat 4 ((off - 0x100) / 0x40)
    if off % 0x40 = 0 then (if v.getLsbD 0 then m.bindSlot e n v else m.unbindSlot e n (some v))
    else set fun t => t.modSlot n.toNat fun x => x.write (decide (e.toNat < 8)) (off % 0x40) v
  else if off = 0x500 then set fun t => { t with tpsel := v.setWidth 20 &&& 0xF0FFF }
  else if off = 0x508 then set fun t => { t with tpfa := halfOf t.tpfa false v }
  else if off = 0x510 then set fun t => { t with tpfa := halfOf t.tpfa true v }
  else if off = 0x518 then m.writePeer (.tok e) v
  else m

/-- A write in a storage channel's block (R318). -/
def Mach.writeSio (m : Mach) (k : BitVec 5) (off : Nat) (v : Word) : Mach :=
  if off = 0 then (if v.getLsbD 0 then m.bindPort .sio k v else m.unbindPort .sio k (some v))
  else if off = 8 then m.modPk fun p => p.modSio k.toNat fun c =>
    if c.state = 0 then { c with r08 := v &&& 0xFFFFFFFF00000003 } else c
  else m

/-- A write in a network channel's block (R318). The low bits of nring, a multiple of 4,096, count as reserved (log
entry 29). -/
def Mach.writeNet (m : Mach) (k : BitVec 5) (off : Nat) (v : Word) : Mach :=
  let set := fun (f : PortChan → PortChan) => m.modPk fun p => p.modNet k.toNat f
  let unbound := fun (f : PortChan → PortChan) => set fun c => if c.state = 0 then f c else c
  if off = 0 then (if v.getLsbD 0 then m.bindPort .net k v else m.unbindPort .net k (some v))
  else if off = 8 then unbound fun c => { c with r08 := v &&& 0x3FFFFF }
  else if off = 0x10 then unbound fun c => { c with r10 := v &&& 0xFFFFFFFFF000 }
  else if off = 0x18 then unbound fun c => { c with r18 := v &&& 0xFFFFFFFFFFF }
  else if off = 0x20 then unbound fun c => { c with r20 := v &&& 0xFFFFFFFFFFFF }
  else if off = 0x28 then set fun c => { c with npsel := v.setWidth 12 }
  else if off = 0x30 then set fun c => { c with npfa := halfOf c.npfa false v }
  else if off = 0x38 then set fun c => { c with npfa := halfOf c.npfa true v }
  else if off = 0x40 then m.writePeer (.net (k.extractLsb' 2 3) (k.setWidth 2)) v
  else m

/-- A write of a register (R4): `w` is none for root firmware. -/
def Mach.writeReg (m : Mach) (w : Option Writer) (b : Block) (off : Nat) (v : Word) : Mach :=
  match b with
  | .cluster n => m.writeCluster n off v
  | .domain d =>
    if w.all fun x => m.pk.tierWhole x.part d then m.writeDomain w.isNone d off v else m
  | .transl q => m.writeTransl w q off v
  | .admission p => m.writeAdmission p off v
  | .text e => m.writeText w.isNone e off v
  | .sio k => m.writeSio k off v
  | .net k => m.writeNet k off v

/-- REGISTER_WRITE (R4, R232, R329): root firmware's, over the drone ring and without translation; an address at which
no register block stands faults. A cluster kernel's writes are accesses of its supervisor hart (Mach.hartAccess). -/
def execRegisterWrite (addr : BitVec 42) (v : BitVec 64) (s : State) : Host.Outcome State Fault Refusal :=
  match physPlace addr.toNat with
  | .block b off => .next (s.modMach fun m => m.byRoot fun m => m.writeReg none b off v)
  | .vault _ | .host _ | .nothing => .fault (.addressesNothing addr.toNat)

/-- ASTTAB_WRITE (R239): performs on all four base dies. `w` is the entry and the writing kernel's partition,
none for root firmware: a kernel writes the entries of its own partition only, and not their partition field. -/
def execAsttabWrite (w : BitVec 10 × Option (BitVec 3)) (v : BitVec 64) (s : State) :
    Host.Outcome State Fault Refusal :=
  .next (s.modMach fun m => m.byRoot fun m => m.modPk fun p =>
    let i := w.1
    let new := v &&& 0xFFFFF3FFFFFFF000
    let put := fun (x : Word) => { p with asttab := p.asttab.put i.toNat x }
    match w.2 with
    | none => put new
    | some q =>
      if i.toNat / 128 = q.toNat then
        put ((new &&& ~~~0xE00000000000) ||| ((p.asttab.find i.toNat).getD 0 &&& 0xE00000000000))
      else p)

/-! ## Partitions and keys (R292, R326, R328) -/

/-- The namespaces that a definition brings in for the first time. -/
def newSpaces (drives : List Drive) (l : List NsDef) : List Drive :=
  (l.filter fun n => !drives.any fun d => d.ns.ctrl == n.ctrl && d.ns.nsid == n.nsid).map fun n => ⟨n, [], [], [], 0⟩

/-- Two definitions give one whole resource twice (R292). -/
def partClash (a b : PartDef) : Bool :=
  a.ports &&& b.ports != 0 || a.eps.any b.eps.contains || a.spaces.any fun n => b.spaces.any fun k => n.ctrl == k.ctrl && n.nsid == k.nsid

/-- The shares of some definitions fit what each quadrant has (R6, R236, R258, R287): 16,384 entries of the shared TLB,
1,024 of the walk cache, 256 queue places and 1,024 directory entries. -/
def sharesFit (l : List PartDef) : Bool :=
  let sum := fun (f : PartDef → Nat) => (l.map f).sum
  decide (sum PartDef.tlb ≤ 16384) && decide (sum PartDef.walks ≤ 1024) &&
    (List.range 4).all fun q => decide (sum (fun d => (d.places[q]?).getD 0) ≤ 256) &&
      decide (sum (fun d => (d.dirs[q]?).getD 0) ≤ 1024)

/-- The translations that a partition holds in the shared TLBs, the walk caches and the agents' own TLBs are replaced: its
shares are given anew (R236, R292; log entry 33). -/
def Package.dropTlbs (p : Package) (part : BitVec 3) : Package :=
  let rest := fun (e : Nat × List TlbEntry) => (e.1, e.2.filter fun t => t.part != part)
  { p with tlbs := p.tlbs.map rest, shared := p.shared.map rest,
           walks := p.walks.map fun e => (e.1, e.2.filter fun t => t.part != part) }

/-- Identities on their way to the interrupt files of some clusters dropped: no interrupt of one partition reaches another's
supervisor cores (R177). -/
def Mach.dropIrqs (m : Mach) (cls : List ClusterId) : Mach :=
  let held := cls.filter fun c => !(m.cluster c).irqs.isEmpty
  let m := (held.flatMap fun c => (m.cluster c).irqs.filterMap IrqWay.eff).foldl Mach.performed m
  held.foldl (fun m c => m.modCluster c fun x => { x with irqs := [] }) m

/-- PARTITION_DEFINITION (R292, R328): refused while TDISP holds a lock, for a resource that another partition holds, and
for shares that do not fit (log entry 33). -/
def execPartitionDefinition (p : BitVec 3) (pd : PartDef) (s : State) : Host.Outcome State Fault Refusal :=
  .next (s.modMach fun m => m.byRoot fun m =>
    let k := m.pk
    let locked := (k.parts.find p.toNat).any Partition.tdisp
    let here := fun (cl : ClusterId) =>
      decide (pd.x0.toNat ≤ cl.toNat % 4) && decide (cl.toNat % 4 ≤ pd.x1.toNat) &&
        decide (pd.y0.toNat ≤ cl.toNat % 16 / 4) && decide (cl.toNat % 16 / 4 ≤ pd.y1.toNat) &&
        pd.tiers.getLsbD (if cl.getLsbD 4 then 1 else 0)
    let others := k.parts.filter fun q => q.1 != p.toNat && !q.2.retired
    let clash := others.any fun q =>
      partClash pd q.2.defn || clusterIds.any fun cl => here cl && k.clusterIn (BitVec.ofNat 3 q.1) cl
    if locked || clash || !sharesFit (pd :: others.map fun q => q.2.defn) then m
    else (m.dropIrqs (clusterIds.filter fun cl => here cl != k.clusterIn p cl)).modPk fun k =>
      { k.dropTlbs p with
        parts := k.parts.put p.toNat ⟨pd, false, false⟩, drives := k.drives ++ newSpaces k.drives pd.spaces })

/-- TDISP_LOCK (R328). -/
def execTdispLock (p : BitVec 3) (s : State) : Host.Outcome State Fault Refusal :=
  .next (s.modMach fun m => m.byRoot fun m => m.modPk fun k =>
    match k.parts.find p.toNat with
    | none => k
    | some x => { k with parts := k.parts.put p.toNat { x with tdisp := true } })

/-- A key slot that holds no key. -/
def KeySlot.reset : KeySlot := ⟨none, false, false, 0, 0⟩

def Package.keySlot (p : Package) (k : BitVec 6) : KeySlot := (p.keys.find k.toNat).getD KeySlot.reset
def Package.modKey (p : Package) (k : BitVec 6) (f : KeySlot → KeySlot) : Package :=
  { p with keys := p.keys.put k.toNat (f (p.keySlot k)) }

/-- KEY_SLOT_ASSIGNMENT (R326, R242): a fresh key, whatever its matter. -/
def execKeySlotAssignment (k : BitVec 6) (p : BitVec 3) (_matter : KeyMatter) (s : State) :
    Host.Outcome State Fault Refusal :=
  .next (s.modMach fun m => m.byRoot fun m => m.modPk fun x => x.modKey k fun y =>
    { y with part := some p, revoking := false, revoked := false, gen := y.gen + 1, ready := 0 })

end Sys2Proof.Machine
end

