-- ==== Sys2Proof/Machine/Translate.lean ====
section
/-!
DEFINITION. Translation and vaults (chapter 18): the page tables, the TLBs and the walk, the checks of R237, stalls and
fault records, invalidations, keys, and the accesses that engines make of physical memory.
-/

namespace Sys2Proof.Machine

/-! ## Vault memory (R232, R233, R242) -/

/-- The key and generation under which the 16-byte block of an address stands (R233); none for one that nothing wrote under a
key, and for one that the hardware wrote. -/
def Package.byteKey (p : Package) (a : Nat) : Option (BitVec 6 × Nat) := p.vaultKey.find (a / 16)

/-- What stands under a key and generation reads back under a key (R233, R242). -/
def Package.opens (p : Package) (key : BitVec 6) (under : Option (BitVec 6 × Nat)) : Bool :=
  match under with
  | none => true
  | some (k, g) => k == key && g == (p.keySlot key).gen

/-- The block of an address reads back under a key (R233, R242): it was last written under that key, or never. -/
def Package.blockOpen (p : Package) (a : Nat) (key : BitVec 6) : Bool := p.opens key (p.byteKey a)

/-- The 64 bytes of a key of a slot: the data key, and the tweak key (R233; log entry 7). -/
def xtsKey (k : BitVec 6) (gen : Nat) : List Byte := bytesOfNat 64 (Config.vaultSecret k gen).toNat

/-- The block of address `a` as a read under a key finds it, written as `b` under `under`: deciphered with the key that
enciphered it, or with another (R233). -/
def Package.unseal (p : Package) (key : BitVec 6) (under : Option (BitVec 6 × Nat)) (a : Nat) (b : List Byte) : List Byte :=
  if p.opens key under then b
  else match under with
    | none => b
    | some (k, g) =>
      let line := a / 256
      let j := a / 16 % 16
      xtsOpen (xtsKey key (p.keySlot key).gen) line j (xtsSeal (xtsKey k g) line j b)

/-- The bytes of the 16-byte block of an address, as they were written. -/
def Package.blockAt (p : Package) (a : Nat) : List Byte := p.vault.bytes 0 (a / 16 * 16) 16

/-- One byte of vault memory under a key. -/
def Package.vaultByte (p : Package) (a : Nat) (key : BitVec 6) : Byte :=
  if p.blockOpen a key then (p.vault.byte (some 0) a).getD 0
  else (p.unseal key (p.byteKey a) a (p.blockAt a)).getD (a % 16) 0

/-- Bytes of vault memory under a key. -/
def Package.vaultRead (p : Package) (a : Nat) (key : BitVec 6) (n : Nat) : List Byte :=
  (List.range n).map fun i => p.vaultByte (a + i) key

/-- One byte written to vault memory, the byte before it kept for the speculative loads of R257; a hart's reservation on it is
lost (log entry 40). -/
def Package.vaultPut (p : Package) (a : Nat) (b : Byte) : Package :=
  let old := (p.vault.byte (some 0) a).getD 0
  { p with vault := Memory.put (some 0) p.vault a b,
           vaultLog := (p.vaultLog.filter fun x => decide (p.fret ≤ x.tick + 4096)) ++ [⟨p.fret, a, old, p.byteKey a⟩],
           resv := p.resv.filter fun x => decide (a < x.2.1) || decide (x.2.1 + x.2.2 ≤ a) }

/-- The block of an address about to be written under a key: it is deciphered with that key, whatever key enciphered it, and
stands under it from now on. The other blocks of the line keep their keys. -/
def Package.rekey (p : Package) (key : BitVec 6) (a : Nat) : Package :=
  let k := (key, (p.keySlot key).gen)
  if p.byteKey a = some k then p
  else
    let b := p.unseal key (p.byteKey a) a (p.blockAt a)
    let p := (cellsAt (a / 16 * 16) b).foldl (fun p c => p.vaultPut c.1 c.2) p
    { p with vaultKey := p.vaultKey.put (a / 16) k }

/-- Bytes written to vault memory under a key. -/
def Package.vaultWrite (p : Package) (a : Nat) (key : BitVec 6) (l : List Byte) : Package :=
  (cellsAt a l).foldl (fun p c => (p.rekey key c.1).vaultPut c.1 c.2) p

/-- Whole blocks written to vault memory by the hardware itself: they are readable under every key (log entry 5). -/
def Mach.vaultPoke (m : Mach) (a : Nat) (l : List Byte) : Mach :=
  m.modPk fun p => (cellsAt a l).foldl (fun p c =>
    let p := p.vaultPut c.1 c.2
    { p with vaultKey := p.vaultKey.del (c.1 / 16) }) p

/-! ## Agents and streams (R236, R238) -/

/-- An access's agent: its stream, the partition and the AST under which it translates, the context that committed the
command (R268), and whether the access is speculative (R243). -/
structure Agent where
  stream : StreamId
  part   : BitVec 3
  ast    : BitVec 16
  ctx    : Option CtxRef
  spec   : Bool
  deriving DecidableEq, Repr

/-- An agent as the writer of a register: a supervisor hart's access is its cluster kernel's (R239). -/
def Agent.writer (a : Agent) : Writer :=
  ⟨a.part, match a.stream with
    | .hart cl => some cl
    | .copy _ _ | .far _ | .queue _ _ | .text _ _ | .sio _ _ | .net _ _ | .host _ => none⟩

/-- The agent number of a stream: the copy engines, the queue engines, the text engines, the ports and the supervisor
harts. -/
def StreamId.agent : StreamId → Nat
  | .copy cl _ => cl.toNat
  | .far c => c.cl.toNat
  | .queue _ q => 36 + q.toNat
  | .text e _ => 40 + e.toNat
  | .sio _ _ => 56
  | .net _ _ => 57
  | .host _ => 58
  | .hart cl => 64 + cl.toNat

/-- The base die whose shared TLB and walker a stream uses. -/
def StreamId.quad : StreamId → Quad
  | .copy cl _ => quadOf cl
  | .far c => quadOf c.cl
  | .queue _ q => q
  | .text e _ => e.setWidth 2
  | .sio _ _ | .net _ _ | .host _ => 0
  | .hart cl => quadOf cl

/-- Engine code, instance, stream number and fctx of a stream (R238). A hart writes no fault record. -/
def Package.codes (p : Package) : StreamId → Nat × Nat × Nat × Nat
  | .copy _ ch => (0, 0, ch.toNat, 0)
  | .far c => (0, 0, 16 + c.co.toNat, c.cx.toNat)
  | .queue _ q => (2, q.toNat, 0, 0)
  | .text e n => (if e.toNat < 8 then 3 else 4, e.toNat % 8, ((p.textEngine e).slot n).no.toNat, 0)
  | .sio _ ch => (5, 0, ch.toNat, 0)
  | .net _ ch => (6, 0, ch.toNat, 0)
  | .host f => (7, 0, f.toNat, 0)
  | .hart _ => (15, 0, 0, 0)

/-- The partition of a host function (R317): the physical function shows partition 0. -/
def hostPart (f : HostFn) : BitVec 3 := if f = 8 then 0 else f.setWidth 3

/-- The lowest-numbered cluster of a partition (R238, R317). -/
def Package.lowestCluster (p : Package) (part : BitVec 3) : ClusterId :=
  (clusterIds.find? fun c => p.clusterIn part c).getD 0

/-- The home cluster of an image: that of its first declared context (R284). -/
def Image.homeCluster (i : Image) : ClusterId :=
  match i.decl.acts with
  | [] => 0
  | a :: _ => ((i.place.find? fun p => p.1 == a.icore).map fun p => p.2.1).getD 0

/-- The service cluster of a stream (R238). -/
def Mach.service (m : Mach) (st : StreamId) : ClusterId :=
  match st with
  | .copy cl _ => cl
  | .far c => c.cl
  | .queue c _ => ((m.imageOf c).map Image.homeCluster).getD c.cl
  | .text e n => ((m.pk.textEngine e).slot n).service
  | .sio p ch => ((m.pk.sioChan (portKey p ch)).owner.map CtxRef.cl).getD (m.pk.lowestCluster p)
  | .net p ch => ((m.pk.netChan (portKey p ch)).owner.map CtxRef.cl).getD (m.pk.lowestCluster p)
  | .host f => m.pk.lowestCluster (hostPart f)
  | .hart cl => cl

/-! ## Page tables (R234, R235) -/

/-- The level-0 table of an AST (R239): exactly one valid entry of the partition's range matches. -/
def Package.astRoot (p : Package) (part : BitVec 3) (ast : BitVec 16) : Option Nat :=
  match (p.asttab.filter fun e => e.1 / 128 == part.toNat && e.2.getLsbD 44 && e.2.extractLsb' 48 16 == ast) with
  | [e] => some (e.2 &&& 0x3FFFFFFF000).toNat
  | _ => none

/-- A physical address lies in vault memory of a partition. -/
def Package.inVaults (p : Package) (part : BitVec 3) (a : Nat) : Bool :=
  match physPlace a with
  | .vault v => p.clusterIn part (BitVec.ofNat 5 v)
  | .block _ _ | .host _ | .nothing => false

/-- The number of consecutive ones of an entry from bit 12 (R235). -/
def frameOnes (e : Word) : Nat → Nat → Nat
  | 0, t => t
  | fuel + 1, t => if e.getLsbD (12 + t) then frameOnes e fuel (t + 1) else t

/-- log2 of a leaf's page size (R235), if it may stand at a level. -/
def leafLog2 (e : Word) (level : Nat) : Option Nat :=
  if !e.getLsbD 10 then (if level = 3 then some 12 else none)
  else
    let t := frameOnes e 30 0
    let l := 13 + t
    let ok := decide (t ≤ 19) && match level with
      | 3 => decide (l ≤ 20)
      | 2 => decide (21 ≤ l) && decide (l ≤ 29)
      | 1 => decide (30 ≤ l) && decide (l ≤ 32)
      | _ => false
    if ok then some l else none

/-- The reserved bits of every entry (R234). -/
def pteReserved (e : Word) : Bool := e &&& 0xFC0FFC0000000804 != 0

/-- The page that a leaf maps (R234, R235), or nothing for a malformed leaf. -/
def leafEntry (a : Agent) (va : Nat) (e : Word) (level : Nat) : Option TlbEntry :=
  if pteReserved e then none
  else match leafLog2 e level with
    | none => none
    | some l =>
      some { ast := a.ast, part := a.part, vbase := va / 2 ^ l * 2 ^ l, log2 := l,
             pbase := (e &&& 0x3FFFFFFF000).toNat / 2 ^ l * 2 ^ l, key := e.extractLsb' 52 6, io := e.getLsbD 9,
             re := e.getLsbD 8, ps := e.getLsbD 7, pin := e.getLsbD 6, x := e.getLsbD 5, w := e.getLsbD 4,
             r := e.getLsbD 3 }

/-- The end of a walk: a leaf, or the kind and the level at which it stopped (R237, R238). -/
inductive Walk where
  | leaf (e : TlbEntry)
  | bad (kind level : Nat)
  deriving DecidableEq, Repr

/-- An element added to a list of which those that meet a test may number `cap`: one of these, named by a choice,
gives way (log entry 2). -/
def addBounded {α : Type} [BEq α] (cap : Nat) (own : α → Bool) (m : Mach) (l : List α) (x : α) : List α × Mach :=
  let mine := l.filter own
  if mine.length < cap then (l ++ [x], m)
  else
    let (c, m) := m.choice
    match mine[c % mine.length]? with
    | none => (l, m)
    | some y => (l.erase y ++ [x], m)

/-- The share of a partition in a base die's shared TLB and in its walk cache (R292). -/
def Package.shares (p : Package) (part : BitVec 3) : Nat × Nat :=
  match p.parts.find part.toNat with
  | none => (0, 0)
  | some d => (min d.defn.tlb 16384, min d.defn.walks 1024)

/-- A table pointer enters the walk cache of a base die (R236). -/
def Mach.cacheWalk (m : Mach) (q : Quad) (w : WalkEntry) : Mach :=
  let (l, m) := addBounded (m.pk.shares w.part).2 (fun x => x.part == w.part) m ((m.pk.walks.find q.toNat).getD []) w
  m.modPk fun p => { p with walks := p.walks.put q.toNat l }

/-- The walk from a table at a level (R234 to R237): tables are read under key slot 0 (R233). -/
def Mach.walk (m : Mach) (a : Agent) (va : Nat) : Nat → Nat → Nat → Walk × Mach
  | 0, level, _ => (.bad 2 level, m)
  | fuel + 1, level, table =>
    let bytes := m.pk.vaultRead (table + 8 * (va / 2 ^ (39 - 9 * level) % 512)) 0 8
    let e : Word := BitVec.ofNat 64 (natOfBytes bytes)
    if !e.getLsbD 0 then (.bad 1 level, m)
    else if e.getLsbD 1 then
      match leafEntry a va e level with
      | none => (.bad 2 level, m)
      | some t => (.leaf t, m)
    else
      let next := (e &&& 0x3FFFFFFF000).toNat
      if e &&& 0xFFFFFC0000000FFE != 0 || level == 3 || !m.pk.inVaults a.part next then (.bad 2 level, m)
      else
        let s := 2 ^ (39 - 9 * level)
        let m := m.cacheWalk a.stream.quad ⟨a.ast, a.part, level + 1, va / s * s, next⟩
        m.walk a va fuel (level + 1) next

/-- Where the walk cache lets a walk start (R236): the deepest table pointer that covers the address. -/
def Package.walkStart (p : Package) (a : Agent) (va : Nat) : Option (Nat × Nat) :=
  let l := ((p.walks.find a.stream.quad.toNat).getD []).filter fun w =>
    w.ast == a.ast && w.part == a.part && w.vbase == va / 2 ^ (48 - 9 * w.level) * 2 ^ (48 - 9 * w.level)
  l.foldl (fun best w => match best with
    | none => some (w.level, w.table)
    | some b => if b.1 < w.level then some (w.level, w.table) else some b) none

/-- A page covers an address of an agent. -/
def TlbEntry.covers (t : TlbEntry) (a : Agent) (va : Nat) : Bool :=
  t.ast == a.ast && t.part == a.part && decide (t.vbase ≤ va) && decide (va < t.vbase + 2 ^ t.log2)

/-- The key of an agent's own TLB. Partitions share no cache (R13): an agent that serves several holds one for each (log
entry 33). -/
def Agent.tlbKey (a : Agent) : Nat := 8 * a.stream.agent + a.part.toNat

/-- A page enters an agent's own TLB of 64 entries (R236). -/
def Mach.fillOwn (m : Mach) (a : Agent) (t : TlbEntry) : Mach :=
  let (l, m) := addBounded 64 (fun _ => true) m ((m.pk.tlbs.find a.tlbKey).getD []) t
  m.modPk fun p => { p with tlbs := p.tlbs.put a.tlbKey l }

/-- A page enters the shared TLB of a base die (R236). -/
def Mach.fillShared (m : Mach) (a : Agent) (t : TlbEntry) : Mach :=
  let (l, m) := addBounded (m.pk.shares a.part).1 (fun x => x.part == a.part) m
    ((m.pk.shared.find a.stream.quad.toNat).getD []) t
  m.modPk fun p => { p with shared := p.shared.put a.stream.quad.toNat l }

/-- The lookup of R236: the agent's own TLB, the shared TLB, the walk cache and the walker. A const page that the launch
sequencer has mapped is found at once, until an invalidation removes it (R285, R240; log entry 13). -/
def Mach.lookup (m : Mach) (a : Agent) (va : Nat) : Walk × Mach :=
  match m.pk.constMaps.find? fun e => e.2.covers a va with
  | some e => (.leaf e.2, m)
  | none =>
  match ((m.pk.tlbs.find a.tlbKey).getD []).find? fun t => t.covers a va with
  | some t => (.leaf t, m)
  | none =>
    match ((m.pk.shared.find a.stream.quad.toNat).getD []).find? fun t => t.covers a va with
    | some t => (.leaf t, m.fillOwn a t)
    | none =>
      let (r, m) := match m.pk.walkStart a va with
        | some (level, table) => m.walk a va (4 - level) level table
        | none =>
          match m.pk.astRoot a.part a.ast with
          | none => (.bad 1 0, m)
          | some root => if m.pk.inVaults a.part root then m.walk a va 4 0 root else (.bad 2 0, m)
      match r with
      | .bad k l => (.bad k l, m)
      | .leaf t => (.leaf t, (m.fillShared a t).fillOwn a t)

/-! ## The checks of an access (R237) -/

/-- The outcome of an access's translation and checks (R237): a physical address with its page, a translation fault
with its kind and level, or an access fault with its kind. -/
inductive Trans where
  | ok (pa : Nat) (t : TlbEntry)
  | stall (kind level : Nat)
  | fault (kind : Nat)
  deriving DecidableEq, Repr

/-- A key slot counts as a partition's (R242): slot 0 is reserved to each partition's tables (R233). -/
def Package.keyOf (p : Package) (k : BitVec 6) (part : BitVec 3) : Bool :=
  k == 0 || (p.keySlot k).part == some part

/-- The pool whose slot memory holds a physical address, with the offset in it (R268). -/
def Package.poolAt (p : Package) (pa : Nat) : Option (Pool × Nat) :=
  p.pools.findSome? fun o => (o.mem.find? fun x => decide (x.2.1 ≤ pa) && decide (pa < x.2.1 + x.2.2)).map fun x =>
    (o, x.1 + (pa - x.2.1))

/-- A write to a PS page is permitted (R268). -/
def Package.slotWriteOk (p : Package) (ctx : Option CtxRef) (pa : Nat) : Bool :=
  match p.poolAt pa with
  | none => true
  | some (o, off) => ctx == some o.writer && decide (off / o.size = o.held.toNat)

/-- A physical address that an agent of a partition may reach (kind 6 of R237, R257, R329). -/
def Mach.mayReach (m : Mach) (a : Agent) (pa : Nat) : Bool :=
  match physPlace pa with
  | .vault _ => m.pk.inVaults a.part pa
  | .block b _ => (match a.stream with
    | .far _ => false
    | _ => m.pk.blockIn a.part b)
  | .host _ => (match a.stream with
    | .far _ => false
    | _ => true)
  | .nothing => false

/-- An access of `n` bytes is exactly one register (R243), where it must be if it meets any: a load of any register, and a
store too of a register of a cluster block (R215). A fetch takes no register's effect. -/
def widthOk (acc : Acc) (pa n : Nat) : Bool :=
  match physPlace pa with
  | .block (.cluster c) off => decide (acc = .fetch) || (Block.cluster c).exact off n
  | .block b off => decide (acc ≠ .read) || b.exact off n
  | .vault _ | .host _ | .nothing => true

/-- The checks of R237 on a page, kinds 3 and 6, 5, 4, 8, 7 in that order. -/
def Mach.checkLeaf (m : Mach) (a : Agent) (acc : Acc) (t : TlbEntry) (va n : Nat) : Trans :=
  let pa := t.pbase + (va - t.vbase)
  let may := match acc with
    | .read => t.r
    | .write => t.w
    | .fetch => t.x
  if !may then .stall 3 ((47 - t.log2) / 9)
  else if !m.mayReach a pa then .fault 6
  else if !m.pk.keyOf t.key a.part then .fault 5
  else if (m.pk.keySlot t.key).revoked then .fault 4
  else if (t.io || t.re) && (a.spec || !widthOk acc pa n) then .fault 8
  else if decide (acc = .write) && t.ps && !m.pk.slotWriteOk a.ctx pa then .fault 7
  else .ok pa t

/-- An access of `n` bytes translated and checked (R236, R237). -/
def Mach.translate (m : Mach) (a : Agent) (acc : Acc) (va n : Nat) : Trans × Mach :=
  let (w, m) := m.lookup a va
  match w with
  | .bad k l => (.stall k l, m)
  | .leaf t => (m.checkLeaf a acc t va n, m)

/-! ## Physical accesses -/

/-- Where an access performs, for the scopes of R271. -/
def physEff (pa : Nat) : EffPlace :=
  match physPlace pa with
  | .vault v => .vault v
  | .host _ => .host
  | .block _ _ | .nothing => .package

/-- An access translated, or as it was translated before (R240, R242). -/
def Mach.translateAhead (m : Mach) (x : Option Ahead) (a : Agent) (acc : Acc) (va n : Nat) : Trans × Mach :=
  match x with
  | some x => (.ok x.pa x.page, m)
  | none => m.translate a acc va n

/-- Bytes read at a physical address; nothing when an uncorrectable error is found (R254). -/
def Mach.physRead (m : Mach) (t : TlbEntry) (pa n : Nat) : Option (List Byte) × Mach :=
  match physPlace pa with
  | .vault _ =>
    if m.pk.vaultBad.any fun l => decide (pa / 256 ≤ l) && decide (l ≤ (pa + n - 1) / 256) then (none, m)
    else (some (m.pk.vaultRead pa t.key n), m)
  | .block b off => (some (bytesOfNat n (m.reg b off).2), m.regReadEffect b off)
  | .host _ | .nothing =>
    let (b, m) := m.freeBytes n
    (some b, m)

/-- Bytes written at a physical address by a partition's command or kernel. A store narrower than its register leaves the rest
of the value free (log entry 5). -/
def Mach.physWrite (m : Mach) (w : Writer) (t : TlbEntry) (pa : Nat) (l : List Byte) : Mach :=
  match physPlace pa with
  | .vault _ => m.modPk fun p => p.vaultWrite pa t.key l
  | .block b off =>
    match b.regAt off with
    | none => m
    | some (k, n) =>
      let (first, m) := m.freeBytes k
      let (rest, m) := m.freeBytes (n - k - l.length)
      m.writeReg (some w) b (off - k) (BitVec.ofNat 64 (natOfBytes (first ++ l ++ rest)))
  | .host h => m.modPk fun p => { p with out := p.out ++ [.hostPost w.part h l] }
  | .nothing => m

/-- Bytes fetched at a physical address (R243): a fetch takes no register's effect. -/
def Mach.physFetch (m : Mach) (t : TlbEntry) (pa n : Nat) : Option (List Byte) × Mach :=
  match physPlace pa with
  | .block b off => (some ((List.range n).map fun i => m.regByte b (off + i)), m)
  | .vault _ | .host _ | .nothing => m.physRead t pa n

/-- An address names a register block: the engine goes no further in the same move. -/
def isBlock (pa : Nat) : Bool :=
  match physPlace pa with
  | .block _ _ => true
  | .vault _ | .host _ | .nothing => false

/-- An access of a page may be translated before it performs: not one of an IO, RE or PS page or of a register block, which
are taken as they are translated (log entry 2). -/
def translatesAhead (pa : Nat) (t : TlbEntry) : Bool := !(t.io || t.re || t.ps || isBlock pa)

/-! ## Bytes in virtual memory, for the engines that move whole strings -/

/-- The outcome of a run of accesses: done, a translation fault, an access fault, or an uncorrectable error at an
offset. -/
inductive Run (α : Type) where
  | done (x : α)
  | stall (kind level : Nat) (acc : Acc) (va : Nat)
  | fault (kind : Nat) (va : Nat)
  | error (off : Nat)
  deriving DecidableEq, Repr

/-- Bytes read one by one from `va`; `off` is the offset reached. -/
def Mach.readVirt (m : Mach) (a : Agent) (va off : Nat) : Nat → Run (List Byte) × Mach
  | 0 => (.done [], m)
  | n + 1 =>
    let (t, m) := m.translate a .read (va + off) 1
    match t with
    | .stall k l => (.stall k l .read (va + off), m)
    | .fault k => (.fault k (va + off), m)
    | .ok pa e =>
      let (b, m) := m.physRead e pa 1
      match b with
      | none => (.error off, m)
      | some b =>
        let (r, m) := m.readVirt a va (off + 1) n
        match r with
        | .done rest => (.done (b ++ rest), m)
        | .stall k l c v => (.stall k l c v, m)
        | .fault k v => (.fault k v, m)
        | .error o => (.error o, m)

/-- The bytes that a run of reads from `va` took before it stalled at `v`: only the access at `v` and those after it wait
(R238). -/
def Mach.readBefore (m : Mach) (a : Agent) (va v : Nat) : List Byte :=
  match (m.readVirt a va 0 (v - va)).1 with
  | .done b => b
  | .stall _ _ _ _ | .fault _ _ | .error _ => []

/-- Bytes read one by one from `va`, but for those that the same work has read before its stream stalled (R238): they are
kept under `tag` and their address, and so are those read now. -/
def Mach.readKept (m : Mach) (a : Agent) (tag va : Nat) (kept : List (Nat × Byte)) :
    Nat → (Run (List Byte) × List (Nat × Byte)) × Mach
  | 0 => ((.done [], kept), m)
  | n + 1 =>
    let key := tag * 2 ^ 48 + va
    let put := fun (b : Byte) (r : (Run (List Byte) × List (Nat × Byte)) × Mach) =>
      match r.1.1 with
      | .done rest => ((.done (b :: rest), r.1.2), r.2)
      | .stall _ _ _ _ | .fault _ _ | .error _ => r
    match kept.find? fun x => x.1 == key with
    | some x => put x.2 (m.readKept a tag (va + 1) kept n)
    | none =>
      let (t, m) := m.translate a .read va 1
      match t with
      | .stall k l => ((.stall k l .read va, kept), m)
      | .fault k => ((.fault k va, kept), m)
      | .ok pa e =>
        let (b, m) := m.physRead e pa 1
        match b with
        | some [b] => put b (m.readKept a tag (va + 1) ((key, b) :: kept) n)
        | some _ | none => ((.error 0, kept), m)

/-- Bytes written one by one from `va`; those before a fault stay written (R237). -/
def Mach.writeVirt (m : Mach) (a : Agent) (va : Nat) : List Byte → Run Unit × Mach
  | [] => (.done (), m)
  | b :: rest =>
    let (t, m) := m.translate a .write va 1
    match t with
    | .stall k l => (.stall k l .write va, m)
    | .fault k => (.fault k va, m)
    | .ok pa e => (m.physWrite a.writer e pa [b]).writeVirt a (va + 1) rest

/-- Bytes of virtual memory that would be written: the first fault, if any, found before anything is written. -/
def Mach.probeWrite (m : Mach) (a : Agent) (va : Nat) : Nat → Run Unit × Mach
  | 0 => (.done (), m)
  | n + 1 =>
    let (t, m) := m.translate a .write va 1
    match t with
    | .stall k l => (.stall k l .write va, m)
    | .fault k => (.fault k va, m)
    | .ok _ _ => m.probeWrite a (va + 1) n

/-- Every page of a range is pinned (R240, R300, R318): the leaf, or nothing where the walk finds none. -/
def Mach.pinnedRange (m : Mach) (a : Agent) (va : Nat) : Nat → Bool × Mach
  | 0 => (true, m)
  | n + 1 =>
    let (w, m) := m.lookup a va
    match w with
    | .bad _ _ => (false, m)
    | .leaf t => if t.pin then m.pinnedRange a (va + 4096) n else (false, m)

/-! ## Stalls and fault records (R238) -/

/-- The key of an engine instance's fault slots: a copy engine's own, or the shared instance. -/
def faultKey (engine inst : Nat) (service : ClusterId) : Nat :=
  if engine = 0 then service.toNat else 32 + 8 * engine + inst

/-- The key of a cluster's fault-area entry (R239). -/
def fltKey (cl : ClusterId) : Nat :=
  (quadOf cl).toNat * 8 + 4 * (cl.toNat / 16) + 2 * (cl.toNat % 16 / 4 % 2) + cl.toNat % 2

/-- The fault record (R238). -/
def faultRecord (seq : BitVec 8) (fret : Word) (ast : BitVec 16) (va : BitVec 48) (slot level acc kind stream engine
    inst fctx : Nat) : BitVec 256 :=
  0#56 ++ seq ++ fret ++ ast ++ va ++ BitVec.ofNat 9 slot ++ BitVec.ofNat 3 level ++ BitVec.ofNat 2 acc ++
    BitVec.ofNat 4 kind ++ BitVec.ofNat 5 stream ++ BitVec.ofNat 4 engine ++ 0#2 ++ BitVec.ofNat 3 inst ++
    BitVec.ofNat 3 fctx ++ 0#29

/-- The code of an access (R238). -/
def Acc.code : Acc → Nat
  | .read => 0 | .write => 1 | .fetch => 2

/-- A translation fault of a stream, detected at `since` (R238): aborted at once without a fault area, waiting while no slot is free, or
recorded with its identity set pending. -/
def Mach.recordFault (m : Mach) (st : StreamId) (kind level : Nat) (acc : Acc) (va : BitVec 48) (ast : BitVec 16)
    (since : Word) : Stall × Mach :=
  let sv := m.service st
  let (engine, inst, stream, fctx) := m.pk.codes st
  let area := (m.pk.fltbase.find (fltKey sv)).getD 0
  if !area.getLsbD 0 then (.aborted kind va, m)
  else
    let held := m.pk.faults.filter fun f => faultKey f.engine f.inst f.service == faultKey engine inst sv
    let free := (List.range 512).filter fun n => held.all fun f => f.slot != n
    match free with
    | [] => (.waitSlot kind level acc va ast since, m)
    | n0 :: _ =>
      let (c, m) := m.choice
      let n := free.getD (c % free.length) n0
      let key := faultKey engine inst sv
      let seq := (m.pk.fltseq.find key).getD 0
      let rec' := faultRecord seq since ast va n level acc.code kind stream engine inst fctx
      let place := (area &&& 0x3FFFFF00000).toNat + 131072 * engine + 16384 * inst + 32 * n
      let m := match physPlace place with
        | .vault _ => m.vaultPoke place (bytesOfNat 32 rec'.toNat)
        | .block _ _ | .host _ | .nothing => m
      let m := m.modPk fun p =>
        { p with fltseq := p.fltseq.put key (seq + 1),
                 faults := p.faults ++ [⟨engine, inst, n, sv, st, va⟩] }
      (.waitReply kind va, m.modCluster sv fun c => c.setPending (16 + engine))

/-- The stall of a stream changed. -/
def Mach.setStall (m : Mach) (st : StreamId) (x : Option Stall) : Mach :=
  match st with
  | .copy cl ch => m.modPk fun p => p.modChan cl ch fun c => { c with stall := x }
  | .far c => m.modPk fun p =>
    { p with fars := p.fars.map fun f => if f.org.ctx = c ∧ f.stall.isSome then { f with stall := x } else f }
  | .queue c _ => m.modPk fun p =>
    { p with path := p.path.map fun g => if g.org.ctx = c ∧ g.stall.isSome then { g with stall := x } else g }
  | .text e n => m.modPk fun p => p.modText e fun t => t.modSlot n fun y => { y with stall := x }
  | .sio p ch => m.modPk fun k => k.modSio (portKey p ch) fun c => { c with stall := x }
  | .net p ch => m.modPk fun k => k.modNet (portKey p ch) fun c => { c with stall := x }
  | .host p => m.modPk fun k => { k with hostStall := match x with
      | none => k.hostStall.del p.toNat
      | some y => k.hostStall.put p.toNat y }
  | .hart _ => m

/-- The stall of a stream. -/
def Package.stallOf (p : Package) (st : StreamId) : Option Stall :=
  match st with
  | .copy cl ch => (p.chan cl ch).stall
  | .far c => (p.fars.find? fun f => f.org.ctx == c && f.stall.isSome).bind FarAtomic.stall
  | .queue c _ => (p.path.find? fun g => g.org.ctx == c && g.stall.isSome).bind PathMsg.stall
  | .text e n => ((p.textEngine e).slot n).stall
  | .sio q ch => (p.sioChan (portKey q ch)).stall
  | .net q ch => (p.netChan (portKey q ch)).stall
  | .host q => p.hostStall.find q.toNat
  | .hart _ => none

/-- A stream stalls at a translation fault (R238); not for the far atomics and the queue messages, whose stall stands
with the command. -/
def Mach.stallStream (m : Mach) (a : Agent) (kind level : Nat) (acc : Acc) (va : Nat) : Mach :=
  let (x, m) := m.recordFault a.stream kind level acc (BitVec.ofNat 48 va) a.ast m.fret
  m.setStall a.stream (some x)

/-- A fault that waited for a slot is recorded once one is free (R238). -/
def State.faultSlot (s : State) (st : StreamId) : State :=
  s.modMach fun m =>
    match m.pk.stallOf st with
    | some (.waitSlot kind level acc va ast since) =>
      let (x, m) := m.recordFault st kind level acc va ast since
      m.setStall st (some x)
    | some (.waitReply _ _) | some (.aborted _ _) | none => m

/-- The fault that a write to fltreply names (R239). -/
def Package.faultNamed (p : Package) (v : Word) : Option FaultHeld :=
  let cl : ClusterId := v.extractLsb' 19 5
  let inst := (v.extractLsb' 16 3).toNat
  let engine := (v.extractLsb' 12 4).toNat
  let slot := (v.extractLsb' 0 9).toNat
  if 8 ≤ engine then none
  else p.faults.find? fun f => f.engine == engine && f.inst == inst && f.slot == slot && f.service == cl

/-- A reply to a fault (R238): the slot frees, and the stream re-translates or drops its command. A kernel's reply to a
fault whose service cluster is not its partition's is ignored (R239); `by'` is none for root firmware. -/
def Mach.reply (m : Mach) (by' : Option (BitVec 3)) (v : Word) (drop : Bool) : Mach :=
  match (m.pk.faultNamed v).filter fun f => by'.all fun p => m.pk.clusterIn p f.service with
  | none => m
  | some f =>
    let m := m.modPk fun p => { p with faults := p.faults.filter fun g => g != f }
    let x := match m.pk.stallOf f.stream with
      | some (.waitReply kind va) => if drop then some (Stall.aborted kind va) else none
      | some (.waitSlot k l a va t w) => some (.waitSlot k l a va t w)
      | some (.aborted k va) => some (.aborted k va)
      | none => none
    m.setStall f.stream x

/-- FLTREPLY_REPLAY (R238, R239). -/
def execFltreplyReplay (w : Quad × Option (BitVec 3)) (v : BitVec 64) (s : State) :
    Host.Outcome State Fault Refusal :=
  .next (s.modMach fun m => m.reply w.2 v false)
/-- FLTREPLY_ABORT (R238, R239). -/
def execFltreplyAbort (w : Quad × Option (BitVec 3)) (v : BitVec 64) (s : State) :
    Host.Outcome State Fault Refusal :=
  .next (s.modMach fun m => m.reply w.2 v true)

/-- The detail of an access fault or an abort (R237). -/
def faultDetail (kind : Nat) (va : BitVec 48) : Word := BitVec.ofNat 64 (kind * 2 ^ 60 + va.toNat)

/-! ## Invalidation (R240) -/

/-- A page's range meets a range of virtual addresses. -/
def TlbEntry.meets (t : TlbEntry) (p : Option (BitVec 3)) (ast : BitVec 16) (lo hi : Nat) : Bool :=
  t.ast == ast && (match p with
    | none => true
    | some q => q == t.part) && decide (t.vbase < hi) && decide (lo < t.vbase + 2 ^ t.log2)

/-- A table pointer's range meets a range of virtual addresses. -/
def WalkEntry.meets (t : WalkEntry) (p : Option (BitVec 3)) (ast : BitVec 16) (lo hi : Nat) : Bool :=
  t.ast == ast && (match p with
    | none => true
    | some q => q == t.part) && decide (t.vbase < hi) && decide (lo < t.vbase + 2 ^ (48 - 9 * t.level))

/-- An endpoint binding or a pool declaration names a page (R240). -/
def Package.pageNamed (p : Package) (t : TlbEntry) : Bool :=
  let hit := fun (lo n : Nat) => decide (t.vbase < lo + n) && decide (lo < t.vbase + 2 ^ t.log2)
  (p.text.any fun e => e.2.part == some t.part && e.2.slots.any fun x =>
    let b := x.2
    b.state == 2 && b.ast == t.ast &&
      (hit b.vocab.toNat b.vlen || hit b.err.toNat 4096 ||
        (decide (e.1 < 8) && (hit b.area.toNat (b.size.toNat * 4096) || hit b.rel.toNat 8)))) ||
  (p.net.any fun c => c.1 / 4 == t.part.toNat && c.2.state == 2 && c.2.ast == t.ast &&
    (hit c.2.r10.toNat ((c.2.r18.setWidth 32 : BitVec 32).toNat * 4096) || hit c.2.r20.toNat 256)) ||
  p.pools.any fun o => o.part == t.part &&
    (p.image o.part o.img).any (fun i => i.ast == t.ast) && hit o.va (o.n * o.size)

/-- The pages that any TLB of the package holds, and the const pages, which are found as if one held them. -/
def Package.allTlbs (p : Package) : List TlbEntry :=
  p.tlbs.flatMap Prod.snd ++ p.shared.flatMap Prod.snd ++ p.constMaps.map Prod.snd

/-- The accesses that have been translated and have not performed: of copies and of far atomics. -/
def Package.aheads (p : Package) : List Ahead :=
  (p.chans.flatMap fun c => c.2.cmds.flatMap fun k => k.srcT.drop k.got.length ++ k.dstT) ++ p.fars.filterMap FarAtomic.loc

/-- INVREQ (R240): `p` is the writer's partition, none for root firmware. -/
def execInvreq (q : Quad) (p : Option (BitVec 3)) (v : BitVec 64) (s : State) : Host.Outcome State Fault Refusal :=
  let ast : BitVec 16 := v.extractLsb' 48 16
  let whole := v.getLsbD 6
  let force := v.getLsbD 7
  let lo := if whole then 0 else (v &&& 0xFFFFFFFFF000).toNat
  let hi := if whole then 2 ^ 48 else lo + 2 ^ (max 12 (v.extractLsb' 0 6).toNat)
  .next (s.modMach fun m =>
    let num := (m.pk.invseq.find q.toNat).getD 0
    let pins := m.pk.allTlbs.filter fun t => t.pin && t.meets p ast lo hi
    let refused := !pins.isEmpty && !(force && pins.all fun t => !m.pk.pageNamed t)
    let (d, m) := if refused then (0, m) else m.delay
    m.modPk fun k =>
      let k := { k with invseq := k.invseq.put q.toNat (num + 1) }
      if refused then { k with invref := k.invref.put q.toNat (min (2 ^ 32 - 1) ((k.invref.find q.toNat).getD 0 + 1)),
                               invals := k.invals ++ [⟨q, num, k.fret, []⟩] }
      else
        { k with
          tlbs := k.tlbs.map fun e => (e.1, e.2.filter fun t => !t.meets p ast lo hi),
          shared := k.shared.map fun e => (e.1, e.2.filter fun t => !t.meets p ast lo hi),
          walks := k.walks.map fun e => (e.1, e.2.filter fun t => !t.meets p ast lo hi),
          constMaps := k.constMaps.filter fun e => !e.2.meets p ast lo hi,
          invals := k.invals ++ [⟨q, num, k.fret + d, (k.aheads.filter fun x => x.page.meets p ast lo hi).map Ahead.id⟩] })

/-- An invalidation is over (R240): its time has come, and every access translated before it has performed. -/
def Package.invalOver (p : Package) (i : Inval) : Bool :=
  decide (i.ready ≤ p.fret) && !p.aheads.any fun x => i.waits.contains x.id

/-- INVALIDATION_COMPLETE (R239, R240): invdone passes every request below the lowest that is still in progress. -/
def execInvalidationComplete (q : Quad) (s : State) : Host.Outcome State Fault Refusal :=
  .next (s.modMach fun m => m.modPk fun k =>
    let k := { k with invals := k.invals.filter fun i => !(i.quad == q && k.invalOver i) }
    let low := (k.invals.filter fun i => i.quad == q).foldl (fun n i => min n i.num) ((k.invseq.find q.toNat).getD 0)
    { k with invdone := k.invdone.put q.toNat low })

/-! ## The supervisor harts' own accesses (R214, R237, R243) -/

/-- What a hart's access asks of its leaf. -/
def hartAcc : HartOp → Acc
  | .load | .loadSpec => .read
  | .store => .write
  | .fetch => .fetch

/-- An access's parts, one for each page that it meets: the address and the length of each. -/
def pageParts (va n : Nat) : List (Nat × Nat) :=
  (List.range ((va % 4096 + n + 4095) / 4096)).map fun i =>
    let page := va / 4096 + i
    let lo := max va (4096 * page)
    (lo, min (va + n) (4096 * page + 4096) - lo)

/-- The parts of an access translated and checked in turn (R237), before any of them acts: the parts with their places, or
the first failure. -/
def Mach.translateParts (m : Mach) (a : Agent) (acc : Acc) :
    List (Nat × Nat) → Run (List (Nat × TlbEntry × Nat)) × Mach
  | [] => (.done [], m)
  | (va, n) :: rest =>
    let (t, m) := m.translate a acc va n
    match t with
    | .stall k l => (.stall k l acc va, m)
    | .fault k => (.fault k va, m)
    | .ok pa e =>
      let (r, m) := m.translateParts a acc rest
      match r with
      | .done l => (.done ((pa, e, n) :: l), m)
      | .stall k l c v => (.stall k l c v, m)
      | .fault k v => (.fault k v, m)
      | .error o => (.error o, m)

/-- The parts of an access read in turn; nothing when an uncorrectable error is found. -/
def Mach.readParts (m : Mach) (fetch : Bool) : List (Nat × TlbEntry × Nat) → Option (List Byte) × Mach
  | [] => (some [], m)
  | (pa, e, n) :: rest =>
    let (b, m) := if fetch then m.physFetch e pa n else m.physRead e pa n
    let (l, m) := m.readParts fetch rest
    (b.bind fun b => l.map fun l => b ++ l, m)

/-- The parts of an access written in turn. -/
def Mach.writeParts (m : Mach) (w : Writer) : List (Nat × TlbEntry × Nat) → List Byte → Mach
  | [], _ => m
  | (pa, e, n) :: rest, l => (m.physWrite w e pa (l.take n)).writeParts w rest (l.drop n)

/-- A hart's access translated: its parts, or its exception, a page fault or an access fault, with the address at which it
failed (R237). -/
inductive HartTrans where
  | parts (l : List (Nat × TlbEntry × Nat))
  | fault (page : Bool) (va : Nat)
  deriving DecidableEq, Repr

/-- The partition that holds a cluster. -/
def Package.clusterPart (p : Package) (cl : ClusterId) : Option (BitVec 3) :=
  ((List.range 8).find? fun n => p.clusterIn (BitVec.ofNat 3 n) cl).map (BitVec.ofNat 3)

/-- An access of a supervisor hart translated under its partition and checked like any other; where it meets two pages, both
are checked before it acts. A cluster that no partition holds has no tables to translate with, and every access of its hart is
a page fault. -/
def Mach.hartTranslate (m : Mach) (cl : ClusterId) (ast : BitVec 16) (op : HartOp) (va n : Nat) : HartTrans × Mach :=
  match m.pk.clusterPart cl with
  | none => (.fault true va, m)
  | some p =>
    let (t, m) := m.translateParts ⟨.hart cl, p, ast, none, decide (op = .loadSpec)⟩ (hartAcc op) (pageParts va n)
    match t with
    | .done l => (.parts l, m)
    | .stall _ _ _ va => (.fault true va, m)
    | .fault _ va => (.fault false va, m)
    | .error _ => (.fault false va, m)

/-- What a hart's kernel writes as (R239, R329). -/
def Package.kernelWriter (p : Package) (cl : ClusterId) : Writer := ⟨(p.clusterPart cl).getD 0, some cl⟩

/-- An access of a supervisor hart, answered by its data or by an exception. -/
def Mach.hartAccess (m : Mach) (x : HartAccess) : Mach :=
  let say := fun (o : Output) (m : Mach) => m.modPk fun p => { p with out := p.out ++ [o] }
  let (t, m) := m.hartTranslate x.cl x.ast x.op x.va.toNat x.len
  match t with
  | .fault page va => say (.hartFault x.cl page (BitVec.ofNat 48 va)) m
  | .parts l =>
    match x.op with
    | .store => m.writeParts (m.pk.kernelWriter x.cl) l (bytesOfNat x.len x.v.toNat)
    | .load | .loadSpec | .fetch =>
      let (b, m) := m.readParts (decide (x.op = .fetch)) l
      match b with
      | none => say (.hartFault x.cl false x.va) m
      | some b => say (.hartData x.cl b) m

def State.hart (s : State) (x : HartAccess) : State := s.modMach fun m => m.hartAccess x

/-! ## Keys (R242) -/

/-- A key slot is revoked from now on. -/
def Mach.revokeKey (m : Mach) (k : BitVec 6) : Mach :=
  let (d, m) := m.delay
  m.modPk fun p => p.modKey k fun y => { y with revoking := true, revoked := true, ready := p.fret + d }

/-- KEY_REVOCATION (R242, R326). -/
def execKeyRevocation (k : BitVec 6) (s : State) : Host.Outcome State Fault Refusal :=
  .next (s.modMach fun m => m.byRoot fun m => m.revokeKey k)

/-- KEY_REVOCATION_COMPLETE (R242): every access translated under the key has performed, and the key is destroyed. -/
def execKeyRevocationComplete (k : BitVec 6) (s : State) : Host.Outcome State Fault Refusal :=
  .next (s.modMach fun m => m.modPk fun p => p.modKey k fun y =>
    if y.revoking && decide (y.ready ≤ p.fret) && !p.aheads.any fun x => x.page.key == k then { y with revoking := false, gen := y.gen + 1 } else y)

end Sys2Proof.Machine
end

