-- ==== Sys2Proof/Machine/Copy.lean ====
section
/-!
DEFINITION. Copy engines and far atomics (chapter 19).
-/

namespace Sys2Proof.Machine

/-! ## Watermarks (R253) -/

/-- `done` moved past every ID that has ended (R253). -/
def advanceDone (done : BitVec 48) (ended : List (BitVec 48)) : Nat → BitVec 48 × List (BitVec 48)
  | 0 => (done, ended)
  | n + 1 => if ended.contains (done + 1) then advanceDone (done + 1) (ended.filter fun i => i != done + 1) n
      else (done, ended)

/-- A transfer ID has ended: completed, refused, dropped or aborted (R253, R254). -/
def Channel.finish (c : Channel) (id : BitVec 48) : Channel :=
  let r := advanceDone c.done (c.ended ++ [id]) (c.ended.length + 1)
  { c with done := r.1, ended := r.2 }

/-- A command has ended: its ID counts, unless the channel has since been given to another image, whose admission reset the
IDs (R245). -/
def Channel.close (c : Channel) (k : CopyCmd) : Channel :=
  { (if k.org.img = c.img then c.finish k.id else c) with cmds := c.cmds.filter fun x => x.eff != k.eff }

/-! ## The hand-over (R246, R251) -/

/-- The detail of an engine command refused at hand-over (R251). -/
def refuseDetail (reason ch id : Nat) : Word := BitVec.ofNat 64 (reason * 2 ^ 52 + ch * 2 ^ 48 + id % 2 ^ 48)

/-- A command refused at hand-over (R251): its effect counts as performed (R272). -/
def Mach.refuse (m : Mach) (o : CmdOrigin) (eff reason ch id : Nat) : Mach :=
  (m.performed eff).trapCommand o 0x14 (refuseDetail reason ch id)

/-- A local byte that a copy may touch (R251, reason 6). -/
def Mach.copyByteOk (m : Mach) (r : CtxRef) (l : Layout) (write : Bool) (a : Nat) : Bool :=
  let x := m.ctx r
  match region a with
  | .sp => x.spWin.any fun w => w.has ((a - 0x40000000) / 256) && (w.w || !write)
  | .lm =>
    if l.space = 2 then
      ctxIds.any fun cx =>
        let y := m.ctx ⟨r.cl, l.core, cx⟩
        y.img.isSome && y.img == x.img && y.part == x.part && y.lmWin.any fun w => w.w && w.has (a / 256)
    else x.lmWin.any fun w => w.has (a / 256) && (w.w || !write)
  | .irq | .nothing => false

/-- Every element lies in its space and, in local space, in permitted windows (R251, reason 6). -/
def Mach.copyAddrsOk (m : Mach) (r : CtxRef) (l : Layout) (write : Bool) : Bool :=
  let (lo, hi) := l.extent
  if l.space = 0 then decide (0 ≤ lo) && decide (hi < 2 ^ 48)
  else decide (0 ≤ lo) && decide (hi < 2 ^ 32) &&
    allBelow (fun e => (span (l.addr e).toNat l.esize).all fun a => m.copyByteOk r l write a) l.count

/-- A record whose reserved bit or base breaks R251, reason 3. -/
def Layout.badBase (l : Layout) : Bool :=
  l.rsvd || decide ((if l.space = 0 then 2 ^ 48 else 2 ^ 32) ≤ l.base.toNat) || decide (l.base.toNat % l.esize ≠ 0)

/-- The first of the reasons 1 to 6 that a copy fails (R251). -/
def Mach.copyReason (m : Mach) (r : CtxRef) (src dst : Layout) : Option Nat :=
  if 10 ≤ src.nd ∨ 10 ≤ dst.nd then some 1
  else if src.space = 3 ∨ dst.space = 3 then some 2
  else if src.badBase || dst.badBase then some 3
  else if src.count ≠ dst.count then some 4
  else if src.esize ≠ dst.esize then some 5
  else if !(m.copyAddrsOk r src false && m.copyAddrsOk r dst true) then some 6
  else none

/-- The held slot of a pool of the context covers a virtual address (R268). -/
def Pool.holds (o : Pool) (r : CtxRef) (img : Option (BitVec 12)) (part : BitVec 3) (va : Nat) : Bool :=
  o.writer == r && some o.img == img && o.part == part && decide (o.held ≠ 0x7F) &&
    decide (o.va + o.held.toNat * o.size ≤ va) && decide (va < o.va + (o.held.toNat + 1) * o.size)

/-- The held slot that covers one of some virtual addresses is spoiled (R268). -/
def Mach.spoil (m : Mach) (o : CmdOrigin) (vas : List Nat) : Mach :=
  let hit := fun (q : Pool) => vas.any fun va => q.holds o.ctx o.img o.part va
  m.modPk fun p => { p with pools := p.pools.map fun q => if hit q then { q with spoil := true } else q }

/-- A cpy handed over in the core cycle in progress (R246). -/
def Mach.handCopy (m : Mach) (o : CmdOrigin) (eff : Nat) (holds : List Nat) (t : Word) (dst src : List Word)
    (ch : BitVec 4) (frz : BitVec 32) : Mach :=
  let cl := o.ctx.cl
  let c := m.pk.chan cl ch
  let s := layoutOf src
  let d := layoutOf dst
  if c.owner ≠ some o.ctx ∨ c.img ≠ o.img then
    (if d.space = 0 then m.spoil o [d.base.toNat] else m).refuse o eff 8 ch.toNat 0
  else
    let id := c.next
    let reason := match m.copyReason o.ctx s d with
      | some n => some n
      | none => if 16 ≤ c.cmds.length then some 7 else none
    let m := m.modPk fun p => p.modChan cl ch fun c => { c with next := id + 1 }
    match reason with
    | some n =>
      let m := m.modPk fun p => p.modChan cl ch fun c => c.finish id
      let m := if d.space = 0 then m.spoil o [d.base.toNat] else m
      m.refuse o eff n ch.toNat id.toNat
    | none =>
      let cmd : CopyCmd := { org := o, id := id, src := s, dst := d, t := t, frz := frz, handed := m.pk.fret,
                             cyc := m.cyc cl, holds := holds, eff := eff, launched := false, pos := 0, ready := 0, got := [],
                             wrote := [], srcT := [], dstT := [] }
      (m.modPk fun p => p.modChan cl ch fun c => { c with cmds := c.cmds ++ [cmd] }).placed eff (copyPlaces o.ctx d)

/-! ## Launch (R247) -/

/-- A command's launch conditions hold (R245, R247, R273). -/
def Mach.mayLaunch (m : Mach) (cl : ClusterId) (k : CopyCmd) : Bool :=
  let grown := ((m.cluster cl).frzowed - k.frz).toNat
  m.free? k.holds && (k.t == 0 || decide (k.t.toNat + grown ≤ m.pk.count))

/-- The agent of a copy's accesses. -/
def CopyCmd.agent (k : CopyCmd) (ch : BitVec 4) : Agent :=
  ⟨.copy k.org.ctx.cl ch, k.org.part, k.org.ast, some k.org.ctx, false⟩

/-- Where a launched copy performs, until it completes (R272): while an access to a virtual address is left to translate, or
its stream is stalled, within every scope (log entry 26); then where its accesses fall. -/
def Mach.placeCopy (m : Mach) (ch : BitVec 4) (k : CopyCmd) : Mach :=
  if k.dst.space ≠ 0 then m
  else m.placed k.eff (if (m.pk.chan k.org.ctx.cl ch).stall.isSome ∨ k.pos + k.dstT.length < k.dst.count then [.anywhere]
    else (k.wrote ++ k.dstT.map fun x => physEff x.pa).dedup)

/-- Translations of the accesses of a copy's elements from `e` on, at most `n`, made before the accesses are (R240, R272): up
to the first that fails or that is taken as it is translated, for which it raises nothing yet. -/
def Mach.aheadRun (m : Mach) (a : Agent) (acc : Acc) (l : Layout) (e : Nat) : Nat → List Ahead × Mach
  | 0 => ([], m)
  | n + 1 =>
    if l.space ≠ 0 ∨ l.count ≤ e then ([], m)
    else
      let (t, m) := m.translate a acc (l.addr e).toNat l.esize
      match t with
      | .stall _ _ | .fault _ => ([], m)
      | .ok pa page =>
        if !translatesAhead pa page then ([], m)
        else
          let (id, m) := m.fresh
          let (r, m) := m.aheadRun a acc l (e + 1) n
          (⟨id, pa, page⟩ :: r, m)

/-- A launched copy whose stream no fault has stalled translates some of its accesses ahead (R240, R272). -/
def State.copyAhead (s : State) (cl : ClusterId) (ch : BitVec 4) : State :=
  s.modMach fun m =>
    let c := m.pk.chan cl ch
    match c.cmds with
    | [] => m
    | k :: rest =>
      if !k.launched || c.stall.isSome || (m.dom (domOf cl)).tripped then m
      else
        let (i, m) := m.delay
        let (j, m) := m.delay
        let (x, m) := m.aheadRun (k.agent ch) .read k.src (k.pos + k.srcT.length) i
        let (y, m) := m.aheadRun (k.agent ch) .write k.dst (k.pos + k.dstT.length) j
        let k' := { k with srcT := k.srcT ++ x, dstT := k.dstT ++ y }
        (m.modPk fun p => p.modChan cl ch fun c => { c with cmds := k' :: rest }).placeCopy ch k'

/-- COPY_LAUNCH (R247): the channel's first command launches once its conditions hold. -/
def execCopyLaunch (cl : ClusterId) (ch : BitVec 4) (s : State) : Host.Outcome State Fault Refusal :=
  .next (s.modMach fun m =>
    match (m.pk.chan cl ch).cmds with
    | [] => m
    | k :: rest =>
      if k.launched || !m.mayLaunch cl k then m
      else
        let (d, m) := m.delay
        let k' := { k with launched := true, ready := m.pk.fret + d }
        (m.modPk fun p => p.modChan cl ch fun c => { c with cmds := k' :: rest }).placeCopy ch k')

/-! ## The accesses of a transfer (R250, R252, R254, R255) -/

/-- A tag written (R124). -/
def Core.setTag (k : Core) (line : Nat) (tag : BitVec 16) : Core :=
  { k with lmTags := if tag = 0 then k.lmTags.del line else k.lmTags.put line tag }
def Cluster.setTag (c : Cluster) (line : Nat) (tag : BitVec 16) : Cluster :=
  { c with spTags := if tag = 0 then c.spTags.del line else c.spTags.put line tag }

/-- The core whose local space a record names (R248). -/
def CopyCmd.coreOf (k : CopyCmd) (l : Layout) : CoreId := if l.space = 2 then l.core else k.org.ctx.co

/-- An effect performed, where there is one. -/
def Mach.performedOpt (m : Mach) (e : Option Nat) : Mach :=
  match e with
  | none => m
  | some id => m.performed id

/-- A line written into LM with its tag (R124); bytes not given are unchanged. -/
def Mach.writeLine (m : Mach) (w : LineWait) : Mach :=
  (m.modCore w.ctx.cl w.ctx.co fun k => (k.writeLM none (cellsAt w.addr w.bytes)).setTag (w.addr / 256) w.tag).performedOpt w.eff

/-- A result line on its way (R120): it waits for a core cycle of its cluster, which a freeze or a halt puts off (R207,
R224); for a tripped tier it is dropped (R225). -/
def Mach.deliver (m : Mach) (w : LineWait) : Mach :=
  if (m.dom (domOf w.ctx.cl)).tripped then m.performedOpt w.eff
  else m.modPk fun p => { p with lines := p.lines ++ [w] }

/-- The engine-and-drain port of a core's LM is free in the cycle in progress (R120): the drain and the event queue have
written nothing. -/
def Core.portFree (k : Core) : Bool := k.drained == 0 && !k.evOut

/-- The lines of a cluster that reach LM in this cycle (R120, R121); that those of an image retired meanwhile are written
like any other is a DESIGN CHOICE (log entry 39). -/
def State.linesIn (s : State) (cl : ClusterId) : State :=
  s.modMach fun m =>
    let here := fun (w : LineWait) => w.ctx.cl == cl && (m.core cl w.ctx.co).portFree
    let now := m.pk.lines.filter here
    now.foldl Mach.writeLine (m.modPk fun p => { p with lines := p.lines.filter fun w => !here w })

/-- The channel of a copy's agent. -/
def Agent.channel (a : Agent) : BitVec 4 :=
  match a.stream with
  | .copy _ ch => ch
  | .far _ | .queue _ _ | .text _ _ | .sio _ _ | .net _ _ | .host _ | .hart _ => 0

/-- The copy engine port of a scratchpad line's bank is free in the cycle in progress (R203): it has taken no access, or
only this one, elements of one line being one access. -/
def Cluster.bankFree (c : Cluster) (u : PortUse) : Bool := c.ports.all fun p => p.line % 128 != u.line % 128 || p == u

/-- An access at a copy engine port noted. -/
def Cluster.usePort (c : Cluster) (u : PortUse) : Cluster := if c.ports.contains u then c else { c with ports := u :: c.ports }

/-- The access to a scratchpad address as its bank's port sees it. -/
def portUse (g : Agent) (write : Bool) (a : Nat) : PortUse := ⟨(a - 0x40000000) / 256, write, g.channel⟩

/-- The engine does not touch a local address in this cycle: too few cycles have passed (R255), or the port of the bank
(R203) or of LM (R120) is not free. -/
def Mach.tooEarly (m : Mach) (k : CopyCmd) (l : Layout) (g : Agent) (write : Bool) (a : Nat) : Bool :=
  let cl := k.org.ctx.cl
  if region a = .sp then decide (m.cyc cl < k.cyc + 6) || !(m.cluster cl).bankFree (portUse g write a)
  else decide (m.cyc cl < k.cyc + 1) || !(m.core cl (k.coreOf l)).portFree

/-- The outcome of one element of a copy. -/
inductive ElemEnd where
  /-- Copied; the engine goes on only if no register block was touched. -/
  | copied (go : Bool)
  | early
  | stalled
  | fault (kind : Nat) (va : Nat)
  /-- An uncorrectable error: 0 vault, 1 LM, 2 scratchpad (R254). -/
  | error (place : Nat)
  deriving DecidableEq, Repr

/-- The transfer touches LM or a scratchpad: its accesses fall in core cycles of its cluster (R205, R252). -/
def CopyCmd.touchesLocal (k : CopyCmd) : Bool := k.src.space != 0 || k.dst.space != 0

/-- The bytes that the elements before `e` and from `k.pos` on write locally meet the source element `e`: it is read in a
later cycle than they are written (R250). -/
def CopyCmd.readsWritten (k : CopyCmd) (e : Nat) : Bool :=
  let a := (k.src.addr e).toNat
  k.src.space != 0 && k.dst.space != 0 && (region a == .sp || k.coreOf k.src == k.coreOf k.dst) &&
    !allBelow (fun i =>
      let b := (k.dst.addr (k.pos + i)).toNat
      decide (b + k.dst.esize ≤ a) || decide (a + k.src.esize ≤ b)) (e - k.pos)

/-- The elements of a record up to `e` cover a whole line (R208). -/
def Layout.coversLine (l : Layout) (line e : Nat) : Bool :=
  allBelow (fun b => !allBelow (fun i =>
    let a := (l.addr i).toNat
    decide (line * 256 + b < a) || decide (a + l.esize ≤ line * 256 + b)) (e + 1)) 256

/-- A later element of a record touches a line. -/
def Layout.touchesLater (l : Layout) (line e : Nat) : Bool :=
  !allBelow (fun i => (l.addr (e + 1 + i)).toNat / 256 != line) (l.count - (e + 1))

/-- The bytes of the source element `e`; an access to a tripped tier is an access fault of kind 6 (R225). -/
def Mach.readElem (m : Mach) (k : CopyCmd) (a : Agent) (e : Nat) : (ElemEnd × List Byte) × Mach :=
  let l := k.src
  let adr := (l.addr e).toNat
  if l.space = 0 then
    let (t, m) := m.translateAhead k.srcT[e - k.pos]? a .read adr l.esize
    match t with
    | .stall kd lv => ((.stalled, []), m.stallStream a kd lv .read adr)
    | .fault kd => ((.fault kd adr, []), m)
    | .ok pa p =>
      let (b, m) := m.physRead p pa l.esize
      match b with
      | none => ((.error 0, []), m)
      | some b => ((.copied (!isBlock pa), b), m)
  else if (m.dom (domOf k.org.ctx.cl)).tripped then ((.fault 6 adr, []), m)
  else if m.tooEarly k l a false adr then ((.early, []), m)
  else
    let (space, off) := spaceOf adr
    let co := k.coreOf l
    let m := match space with
      | .lm => m
      | .sp => m.modCluster k.org.ctx.cl fun c => c.usePort (portUse a false adr)
    match m.badByte k.org.ctx.cl co space (span off l.esize) with
    | some _ => ((.error (match space with
        | .lm => 1
        | .sp => 2), []), m)
    | none => ((.copied true, (span off l.esize).map fun x => m.sampleByte k.org.ctx.cl co space x), m)

/-- The destination element `e` written, its line tagged at the copy's last write to it (R252). -/
def Mach.writeElem (m : Mach) (k : CopyCmd) (a : Agent) (e : Nat) (b : List Byte) : ElemEnd × Mach :=
  let l := k.dst
  let adr := (l.addr e).toNat
  if l.space = 0 then
    let (t, m) := m.translateAhead k.dstT[e - k.pos]? a .write adr l.esize
    match t with
    | .stall kd lv => (.stalled, m.stallStream a kd lv .write adr)
    | .fault kd => (.fault kd adr, m)
    | .ok pa p => (.copied (!isBlock pa), m.physWrite a.writer p pa b)
  else if (m.dom (domOf k.org.ctx.cl)).tripped then (.fault 6 adr, m)
  else if m.tooEarly k l a true adr then (.early, m)
  else
    let cl := k.org.ctx.cl
    let (space, off) := spaceOf adr
    let last := !l.touchesLater (adr / 256) e
    match space with
    | .lm => (.copied true, m.modCore cl (k.coreOf l) fun c =>
        let c := c.writeLM none (cellsAt off b)
        let c := if last && (c.badAt .lm (off / 256)).isSome && l.coversLine (adr / 256) e then c.mend .lm [off / 256] else c
        if last then c.setTag (off / 256) l.tag else c)
    | .sp => (.copied true, m.modCluster cl fun c =>
        let c := (c.usePort (portUse a true adr)).writeSP 0 none (cellsAt off b)
        let c := if last && (c.badAt (off / 256)).isSome && l.coversLine (adr / 256) e then
            { c with badLines := c.badLines.filter fun x => x.1 != off / 256 }
          else c
        if last then c.setTag (off / 256) l.tag else c)

/-- The bytes of the source element `e` that have been read already, if any: it is not read again (R238). -/
def CopyCmd.gotten (k : CopyCmd) (e : Nat) : Option (List Byte) := k.got[e - k.pos]?

/-- The source element `e`: as it was read already, at the latest earlier in its cycle when it lies in the scratchpad
(R205). -/
def Mach.takeElem (m : Mach) (k : CopyCmd) (a : Agent) (e : Nat) : (ElemEnd × List Byte) × Mach :=
  match k.gotten e with
  | some b => ((.copied true, b), m)
  | none =>
    if k.src.space = 0 ∨ region (k.src.addr e).toNat ≠ .sp then m.readElem k a e
    else if (m.dom (domOf k.org.ctx.cl)).tripped then ((.fault 6 (k.src.addr e).toNat, []), m)
    else ((.early, []), m)

/-- One element read and then written (R250): how it ended, and the bytes read where they have not been written. -/
def Mach.copyElem (m : Mach) (k : CopyCmd) (a : Agent) (e : Nat) : (ElemEnd × Option (List Byte)) × Mach :=
  let (r, m) := if k.readsWritten e then ((.early, []), m) else m.takeElem k a e
  match r.1 with
  | .copied go =>
    let (w, m) := m.writeElem k a e r.2
    match w with
    | .copied go' => ((.copied (go && go'), none), m)
    | .early | .stalled | .fault _ _ | .error _ => ((w, some r.2), m)
  | .early | .stalled | .fault _ _ | .error _ => ((r.1, none), m)

/-- How a run of elements ended: the end of its last element, the position reached, and the bytes of the element there
where they have been read. -/
structure RunEnd where
  how : ElemEnd
  pos : Nat
  got : Option (List Byte)
  deriving DecidableEq, Repr

/-- At most `n` elements from position `e`. -/
def Mach.copyRun (m : Mach) (k : CopyCmd) (a : Agent) (e : Nat) : Nat → RunEnd × Mach
  | 0 => (⟨.copied true, e, none⟩, m)
  | n + 1 =>
    if k.dst.count ≤ e then (⟨.copied true, e, none⟩, m)
    else
      let (r, m) := m.copyElem k a e
      match r.1 with
      | .copied true => m.copyRun k a (e + 1) n
      | .copied false => (⟨.copied false, e + 1, none⟩, m)
      | .early | .stalled | .fault _ _ | .error _ => (⟨r.1, e, r.2⟩, m)

/-- A transfer that has come to a position, with the bytes of its next elements that have been read. -/
def CopyCmd.at (k : CopyCmd) (r : RunEnd) (ready : Nat) (put : List EffPlace) : CopyCmd :=
  let left := k.got.drop (r.pos - k.pos)
  { k with pos := r.pos, ready := ready, wrote := (k.wrote ++ put).dedup, srcT := k.srcT.drop (r.pos - k.pos),
           dstT := k.dstT.drop (r.pos - k.pos),
           got := match r.got with
             | none => left
             | some b => b :: left.drop 1 }

/-- The places at which the next `n` elements of a copy to virtual addresses have performed. -/
def Mach.placesOf (m : Mach) (a : Agent) (k : CopyCmd) (n : Nat) : List EffPlace :=
  (List.range n).filterMap fun i =>
    match (m.translateAhead k.dstT[i]? a .write (k.dst.addr (k.pos + i)).toNat k.dst.esize).1 with
    | .ok pa _ => some (physEff pa)
    | .stall _ _ | .fault _ => none

/-- A transfer has ended early (R254): it counts for done, and a held slot that it was writing is spoiled unless the
fault is of kind 7 (R268). -/
def Mach.dropCopy (m : Mach) (ch : BitVec 4) (k : CopyCmd) (pos : Nat) (kind7 : Bool) : Mach :=
  let m := m.modPk fun p => p.modChan k.org.ctx.cl ch fun c => { c.close k with stall := none }
  let m := m.performed k.eff
  if k.dst.space ≠ 0 ∨ kind7 then m
  else m.spoil k.org ((List.range (k.dst.count - pos)).map fun i => (k.dst.addr (pos + i)).toNat)

/-- The event of a transfer, or a port command, that ended without success (R254, R320); that of an image to which the
context is bound no longer reaches no area (R177). -/
def Mach.engineEvent (m : Mach) (o : CmdOrigin) (code : BitVec 8) (detail : Nat) : Mach :=
  let x := m.ctx o.ctx
  let stale := x.img != o.img || x.part != o.part
  m.modCore o.ctx.cl o.ctx.co fun k =>
    k.event ⟨rankEngine, code, o.ctx.cx, o.slot, o.baddr, m.fret40, BitVec.ofNat 32 detail, stale⟩

/-- A copy channel's first command, launched and free to go on (R245, R252). -/
def Mach.copyGoes (m : Mach) (cl : ClusterId) (ch : BitVec 4) : Option CopyCmd :=
  let c := m.pk.chan cl ch
  match c.cmds with
  | [] => none
  | k :: _ => if k.launched && decide (k.ready ≤ m.pk.fret) && c.stall.isNone then some k else none

/-- A part of a copy (R250, R252, R254): some elements, in flat order. An access to a tripped tier drops the transfer
without a trap record (R225). -/
def Mach.copySome (m : Mach) (cl : ClusterId) (ch : BitVec 4) (k : CopyCmd) : Mach :=
  let (n, m) := m.delay
  let (r, m) := m.copyRun k (k.agent ch) k.pos (n + 1)
  match r.how with
  | .copied _ | .early | .stalled =>
    let (d, m) := m.delay
    let put := if k.dst.space = 0 then m.placesOf (k.agent ch) k (r.pos - k.pos) else []
    let k' := k.at r (m.pk.fret + d) put
    (m.modPk fun p => p.modChan cl ch fun c => { c with cmds := k' :: c.cmds.drop 1 }).placeCopy ch k'
  | .fault kd va =>
    let m := m.dropCopy ch k r.pos (kd == 7)
    if (m.dom (domOf cl)).tripped then m else m.trapCommand k.org 0x11 (faultDetail kd (BitVec.ofNat 48 va))
  | .error pl =>
    (m.dropCopy ch k r.pos false).engineEvent k.org 0x40 (k.id.toNat % 65536 * 65536 + ch.toNat * 4096 + pl * 256)

/-- A copy outside the core cycles of its cluster: an abort takes effect, and a transfer between virtual addresses, or one
of a tripped tier, goes on. -/
def State.copyPart (s : State) (cl : ClusterId) (ch : BitVec 4) : State :=
  s.modMach fun m =>
    match (m.pk.chan cl ch).stall, (m.pk.chan cl ch).cmds with
    | some (.aborted kind va), k :: _ => (m.dropCopy ch k k.pos false).trapCommand k.org 0x10 (faultDetail kind va)
    | _, _ =>
      match m.copyGoes cl ch with
      | none => m
      | some k => if k.touchesLocal && !(m.dom (domOf cl)).tripped then m else m.copySome cl ch k

/-- Scratchpad elements sampled from element `e` on, at most `n`: those that no element before them has still to write. -/
def Mach.sampleElems (m : Mach) (k : CopyCmd) (a : Agent) (e : Nat) : Nat → (ElemEnd × List (List Byte)) × Mach
  | 0 => ((.copied true, []), m)
  | n + 1 =>
    if k.src.count ≤ e ∨ region (k.src.addr e).toNat ≠ .sp ∨ k.readsWritten e then ((.copied true, []), m)
    else
      let (r, m) := m.readElem k a e
      match r.1 with
      | .copied _ =>
        let (r', m) := m.sampleElems k a (e + 1) n
        ((r'.1, r.2 :: r'.2), m)
      | .early | .stalled | .fault _ _ | .error _ => ((r.1, []), m)

/-- A copy's samples of the scratchpad (R205): with the other samples of the cycle, before its writes. -/
def State.copyRead (s : State) (cl : ClusterId) (ch : BitVec 4) : State :=
  s.modMach fun m =>
    match m.copyGoes cl ch with
    | none => m
    | some k =>
      if k.src.space = 0 ∨ k.got ≠ [] then m
      else
        let (n, m) := m.delay
        let (r, m) := m.sampleElems k (k.agent ch) k.pos (n + 1)
        match r.1, r.2 with
        | .error pl, [] =>
          (m.dropCopy ch k k.pos false).engineEvent k.org 0x40 (k.id.toNat % 65536 * 65536 + ch.toNat * 4096 + pl * 256)
        | _, l => m.modPk fun p => p.modChan cl ch fun c => { c with cmds := { k with got := l } :: c.cmds.drop 1 }

/-- A part of a copy that touches local space, in a core cycle of its cluster (R120, R205): after the samples and the
drained stores, and before the local atomics. A transfer that is over completes in that cycle, and the channel's next one
may launch (R245, R252). -/
def State.copyLocal (s : State) (cl : ClusterId) (ch : BitVec 4) : State :=
  s.modMach fun m =>
    match m.copyGoes cl ch with
    | none => m
    | some k =>
      if !k.touchesLocal then m
      else
        let m := m.copySome cl ch k
        { m with todo := .event (.copyComplete cl ch) :: .event (.copyLaunch cl ch) :: m.todo }

/-- COPY_COMPLETE (R252, R253): every write has performed. -/
def execCopyComplete (cl : ClusterId) (ch : BitVec 4) (s : State) : Host.Outcome State Fault Refusal :=
  .next (s.modMach fun m =>
    match (m.pk.chan cl ch).cmds with
    | [] => m
    | k :: _ =>
      if k.launched && decide (k.dst.count ≤ k.pos) then
        (m.modPk fun p => p.modChan cl ch fun c => c.close k).performed k.eff
      else m)

/-! ## Far atomics (R256, R257) -/

/-- The result line of a far atomic may be used (R256, reason 10). -/
def resultOk (x : Context) (align n a : Nat) : Bool :=
  decide (a % align = 0) && decide (a + n ≤ 0x200000) &&
    (span a n).all fun b => x.lmWin.any fun w => w.w && w.has (b / 256)

/-- A famo handed over (R256). -/
def Mach.handFar (m : Mach) (o : CmdOrigin) (eff : Nat) (holds : List Nat) (op : AOp) (ord : Ord) (n : Nat)
    (addr val cmp : Word) (res : Option Word) : Mach :=
  let va : BitVec 48 := addr.setWidth 48
  let dest := res.map fun w => ((w.setWidth 32 : BitVec 32).toNat, w.extractLsb' 32 16)
  if va.toNat % n ≠ 0 then m.refuse o eff 9 0 va.toNat
  else if dest.any fun d => !resultOk (m.ctx o.ctx) 8 8 d.1 then m.refuse o eff 10 0 va.toNat
  else m.modPk fun p =>
    { p with fars := p.fars ++ [{ id := eff, org := o, op := op, ord := ord, n := n, addr := va, val := val, cmp := cmp,
                                  res := dest, holds := holds, handed := p.fret, ready := 0, armed := false,
                                  stall := none, loc := none }] }

/-- Where a far atomic's location lies now, as its access would translate. -/
def Mach.farPa (m : Mach) (f : FarAtomic) : Option Nat :=
  match (m.translateAhead f.loc ⟨.far f.org.ctx, f.org.part, f.org.ast, some f.org.ctx, false⟩ .read f.addr.toNat f.n).1 with
  | .ok pa _ => some pa
  | .stall _ _ | .fault _ => none

/-- A far atomic and an earlier one of its context name one location, by one virtual address or by two (R257, R277); while
the earlier one's address does not translate, they may. -/
def Mach.farsMeet (m : Mach) (f g : FarAtomic) : Bool :=
  let meet := fun (a b : Nat) => decide (a < b + g.n) && decide (b < a + f.n)
  f.org.ctx == g.org.ctx && (meet f.addr.toNat g.addr.toNat ||
    match m.farPa f, m.farPa g with
    | some a, some b => meet a b
    | some _, none => true
    | none, _ => false)

/-- The far atomics of a list that stand before one. -/
def farsBefore (l : List FarAtomic) (f : FarAtomic) : List FarAtomic := l.takeWhile fun g => g.id != f.id

/-- The far atomics of a list that stand before one, newest first, and for which it waits: those that it meets, and those
that they meet in turn. -/
def Mach.farsAhead (m : Mach) (f : FarAtomic) (l : List FarAtomic) : List FarAtomic :=
  (farsBefore l f).reverse.foldl (fun acc g => if (f :: acc).any fun x => m.farsMeet x g then acc ++ [g] else acc) []

/-- The ticks by which a far atomic performs: for itself, where it is a quantum add, and for each quantum add that waits for
it, before 4,096 ticks have passed since that one's hand-over (R257, R275). -/
def Mach.qntBounds (m : Mach) (f : FarAtomic) : List Nat :=
  (m.pk.fars.filter fun g => g.ord == .qnt && (g.id == f.id || (m.farsAhead g m.pk.fars).any fun x => x.id == f.id)).map
    fun g => max m.pk.fret (g.handed + 4095)

/-- The far atomics that no fence holds travel on (R256, R273). A quantum add performs before 4,096 ticks have passed since
its hand-over (R275), and so do those for which it waits, whether they travel already or only now. -/
def Mach.travelAll (m : Mach) : List Nat → Mach
  | [] => m
  | id :: rest =>
    match m.pk.fars.find? fun f => f.id == id with
    | none => m.travelAll rest
    | some f =>
      if f.armed || !m.free? f.holds then m.travelAll rest
      else
        let (d, m) := m.delay
        let t := m.pk.fret + d
        let t := (m.qntBounds f).foldl min t
        let sooner := if f.ord = .qnt then (m.farsAhead f m.pk.fars).map FarAtomic.id else []
        let arm := fun (g : FarAtomic) =>
          if g.id = id then { g with armed := true, ready := t }
          else if (sooner.contains g.id : Bool) then { g with ready := min g.ready t }
          else g
        (m.modPk fun p => { p with fars := p.fars.map arm }).travelAll rest

/-- A far atomic waits: for an earlier one of its context at the same location (R257), and for any that has stalled the
context's stream (R238). -/
def Mach.farWaits (m : Mach) (f : FarAtomic) : Bool :=
  (m.pk.fars.any fun g => g.id != f.id && g.org.ctx == f.org.ctx && g.stall.isSome) ||
    (farsBefore m.pk.fars f).any fun g => m.farsMeet f g

/-- The agent of a far atomic's access. -/
def FarAtomic.agent (f : FarAtomic) : Agent :=
  ⟨.far f.org.ctx, f.org.part, f.org.ast, some f.org.ctx, decide (f.ord = .spec)⟩

/-- A far atomic's translation and checks (R257): a .spec reads; any other is checked for writing and for reading (log entry
12). A failure is given with the access that failed. -/
def Mach.farTrans (m : Mach) (f : FarAtomic) : (Trans × Acc) × Mach :=
  let va := f.addr.toNat
  if f.ord = .spec then
    let (t, m) := m.translateAhead f.loc f.agent .read va f.n
    ((t, .read), m)
  else
    let (t, m) := m.translateAhead f.loc f.agent .write va f.n
    match t with
    | .stall _ _ | .fault _ => ((t, .write), m)
    | .ok _ _ =>
      let (t, m) := m.translateAhead f.loc f.agent .read va f.n
      ((t, .read), m)

/-- The place of a far atomic's result line. -/
def FarAtomic.line (f : FarAtomic) : List EffPlace :=
  match f.res with
  | none => []
  | some (a, _) => [.lm f.org.ctx.cl f.org.ctx.co a (a + 7)]

/-- Where the far atomics perform, as far as it is known (R272): within every scope until their accesses are translated, and
while a fault has stalled their stream. -/
def Mach.placeFars (m : Mach) : Mach :=
  m.pk.fars.foldl (fun m f => m.placed f.id (match f.loc with
    | none => [.anywhere]
    | some x => if m.pk.fars.any fun g => g.org.ctx == f.org.ctx && g.stall.isSome then [.anywhere]
      else physEff x.pa :: f.line)) m

/-- Far atomics on their way that wait for no other may translate before they perform (R240, R272). -/
def Mach.farAhead (m : Mach) : List Nat → Mach
  | [] => m
  | id :: rest =>
    match m.pk.fars.find? fun f => f.id == id with
    | none => m.farAhead rest
    | some f =>
      if !f.armed || f.loc.isSome || f.stall.isSome || m.farWaits f then m.farAhead rest
      else
        let (c, m) := m.choice
        if c % 2 = 0 then m.farAhead rest
        else
          let (t, m) := m.farTrans f
          match t.1 with
          | .stall _ _ | .fault _ => m.farAhead rest
          | .ok pa page =>
            if !translatesAhead pa page then m.farAhead rest
            else
              let (n, m) := m.fresh
              let set := fun (g : FarAtomic) => if g.id = id then { g with loc := some ⟨n, pa, page⟩ } else g
              (m.modPk fun p => { p with fars := p.fars.map set }).farAhead rest

def State.travel (s : State) : State :=
  s.modMach fun m =>
    let m := m.travelAll (m.pk.fars.map FarAtomic.id)
    (m.farAhead (m.pk.fars.map FarAtomic.id)).placeFars

/-- A byte of vault memory as it stood at the end of an earlier tick, and the key under which it then stood. -/
def Package.byteThen (p : Package) (a t : Nat) : Byte × Option (BitVec 6 × Nat) :=
  match p.vaultLog.find? fun x => x.addr == a && decide (t < x.tick) with
  | none => ((p.vault.byte (some 0) a).getD 0, p.byteKey a)
  | some x => (x.byte, x.key)

/-- Bytes as they stood at the end of an earlier tick, read under a key (R257, .spec; R233). -/
def Package.readThen (p : Package) (key : BitVec 6) (a t n : Nat) : List Byte :=
  (List.range n).map fun i =>
    let b := (List.range 16).map fun j => (p.byteThen ((a + i) / 16 * 16 + j) t).1
    (p.unseal key (p.byteThen (a + i) t).2 (a + i) b).getD ((a + i) % 16) 0

/-- The far atomic is no longer under way. -/
def Mach.endFar (m : Mach) (f : FarAtomic) : Mach :=
  (m.modPk fun p => { p with fars := p.fars.filter fun g => g.id != f.id }).performed f.id

/-- A far atomic dropped by an access fault or an abort: it writes nothing, and spoils a held slot that it was to
write (R257, R268). -/
def Mach.dropFar (m : Mach) (f : FarAtomic) (cause : BitVec 8) (kind : Nat) (va : BitVec 48) : Mach :=
  let m := m.endFar f
  let m := if (kind = 7 ∧ cause = 0x11) ∨ f.ord = .spec then m else m.spoil f.org [f.addr.toNat]
  m.trapCommand f.org cause (faultDetail kind va)

/-- A far atomic at its controller (R257). -/
def Mach.farPerform (m : Mach) (f : FarAtomic) (pa : Nat) (t : TlbEntry) : Mach :=
  let (back, m) := if f.ord = .spec then m.choice else (0, m)
  let (now, m) := m.physRead t pa f.n
  let (now, m) := match now with
    | some b => (b, m)
    | none => m.freeBytes f.n
  let bytes := if f.ord = .spec then m.pk.readThen t.key pa (m.pk.fret - back % 4097) f.n else now
  let old := natOfBytes bytes
  let w := 8 * f.n
  let m := if f.ord = .spec then m
    else m.physWrite f.agent.writer t pa
      (bytesOfNat f.n (applyOp f.op f.n old (f.val.toNat % 2 ^ w) (f.cmp.toNat % 2 ^ w)))
  match f.res with
  | none => m.endFar f
  | some (a, tag) =>
    ((m.modPk fun p => { p with fars := p.fars.filter fun g => g.id != f.id }).placed f.id
      f.line).deliver ⟨f.org.ctx, a, bytesOfNat 8 (BitVec.ofInt 64 (BitVec.ofNat w old).toInt).toNat, tag, some f.id⟩

/-- FAR_ATOMIC_PERFORM (R257): a .spec reads; any other writes and reads, and is checked for both (log entry 12). -/
def execFarAtomicPerform (id : Nat) (s : State) : Host.Outcome State Fault Refusal :=
  .next (s.modMach fun m =>
    match m.pk.fars.find? fun f => f.id == id with
    | none => m
    | some f =>
      match f.stall with
      | some (.aborted kind va) => m.dropFar f 0x10 kind va
      | some (.waitReply _ _) | some (.waitSlot _ _ _ _ _ _) => m
      | none =>
        if !f.armed || decide (m.pk.fret < f.ready) || m.farWaits f then m
        else
          let (t, m) := m.farTrans f
          match t.1 with
          | .stall k l =>
            let (x, m) := m.recordFault (.far f.org.ctx) k l t.2 f.addr f.org.ast m.fret
            (m.modPk fun p =>
              { p with fars := p.fars.map fun g => if g.id = id then { g with stall := some x } else g }).placeFars
          | .fault k => m.dropFar f 0x11 k f.addr
          | .ok pa e => m.farPerform f pa e)

end Sys2Proof.Machine
end

