-- ==== Sys2Proof/Machine/Pools.lean ====
section
/-!
DEFINITION. Slot pools: the messages on their paths, and the directory tick (chapter 20).
-/

namespace Sys2Proof.Machine

/-! ## Paths (R260, R278) -/

/-- A pool message. -/
def Msg.isPool : Msg → Bool
  | .pool _ _ _ _ => true
  | .qpush _ _ | .qpop _ _ | .qcount _ _ | .scope _ _ | .taskEnd _ | .waitQ _ | .waitSc _ => false

/-- Two messages travel in one lane: one context to one directory, or to one queue engine. -/
def PathMsg.sameLane (a b : PathMsg) : Bool :=
  a.org.ctx == b.org.ctx && a.msg.isPool == b.msg.isPool && a.quad == b.quad

/-- A context's pool commands wait behind a held one, whatever their directories (R273). -/
def PathMsg.blocks (m : Mach) (a b : PathMsg) : Bool :=
  a.sameLane b || (a.org.ctx == b.org.ctx && a.msg.isPool && b.msg.isPool && !m.free? a.holds)

/-- The messages of a context that are first in their lanes and free to travel take their paths (R260): each arrives in
a later tick, and at most one of a lane in a tick. -/
def Mach.armAll (m : Mach) (r : CtxRef) : List PathMsg → List PathMsg → List PathMsg × Mach
  | before, [] => (before, m)
  | before, g :: rest =>
    if g.org.ctx == r && !g.armed && m.free? g.holds && !(before.any fun b => b.blocks m g) then
      let (d, m) := m.delay
      m.armAll r (before ++ [{ g with armed := true, ready := m.pk.fret + 1 + d }]) rest
    else m.armAll r (before ++ [g]) rest

/-- A message of a context takes its path. -/
def State.send (s : State) (cl : ClusterId) (co : CoreId) (cx : CtxId) : State :=
  s.modMach fun m =>
    let (l, m) := m.armAll ⟨cl, co, cx⟩ [] m.pk.path
    m.modPk fun p => { p with path := l }

/-- A message put on its context's path. -/
def Mach.post (m : Mach) (o : CmdOrigin) (q : Quad) (g : Msg) (eff : Option Nat) (holds : List Nat) : Mach :=
  m.modPk fun p => { p with path := p.path ++ [⟨o, q, g, eff, holds, false, 0, none, false⟩] }

/-! ## The directory (R258 to R267) -/

/-- A pool changed. -/
def Package.modPool (p : Package) (o : Pool) (f : Pool → Pool) : Package :=
  { p with pools := p.pools.map fun x => if x.part = o.part ∧ x.img = o.img ∧ x.handle = o.handle then f x else x }

/-- A pool command handed over (R260): it travels to the directory that holds its pool. -/
def Mach.handPool (m : Mach) (o : CmdOrigin) (eff : Nat) (holds : List Nat) (op : PoolOp) (a d : Word) (hasD : Bool) :
    Mach :=
  let q := m.pk.poolQuad o.ctx o.part o.img op a
  (m.post o q (.pool op a d hasD) (some eff) holds).placed eff [.quad q]

/-- Records that pin a slot (R259). -/
def Pool.pincnt (o : Pool) (s : Nat) : Nat := (o.pins.filter fun x => x.2 == s).length

/-- The result address of a pool command (R262). -/
def resAddr (d : Word) : Nat := (d.setWidth 32 : BitVec 32).toNat

/-- The first check that a pool message fails before it acts (R263). -/
def Mach.poolKind (m : Mach) (o : CmdOrigin) (op : PoolOp) (a d : Word) (hasD : Bool) : Option Nat :=
  match m.pk.poolOf o.part o.img (poolHandle op a) with
  | none => some 1
  | some p =>
    let writes := match op with
      | .acqw | .pub | .pubAfter => true
      | .pin | .unpin | .gen => false
    let publishes := match op with
      | .pub | .pubAfter => true
      | .acqw | .pin | .unpin | .gen => false
    if writes && p.writer != o.ctx then some 2
    else if hasD && !resultOk (m.ctx o.ctx) 16 16 (resAddr d) then some 3
    else if publishes && p.held == 0x7F then some 4
    else if publishes && p.pend then some 5
    else if op == .pubAfter && (m.pk.chan o.ctx.cl (a.extractLsb' 60 4)).owner != some p.writer then some 6
    else if op == .pin && !(p.pins.any fun x => x.1 == o.ctx) && p.latest != 0x7F && decide (p.k ≤ p.pins.length) then
      some 7
    else if op == .pub && p.spoil then some 8
    else none

/-- A pool message dropped (R263). -/
def Mach.poolDrop (m : Mach) (o : CmdOrigin) (eff : Option Nat) (kind : Nat) (h : BitVec 12) : Mach :=
  (m.performedOpt eff).trapCommand o 0x12 (BitVec.ofNat 64 (kind * 2 ^ 60 + h.toNat * 2 ^ 48))

/-- A result line of 16 bytes (R262). -/
def Mach.poolResult (m : Mach) (r : CtxRef) (d : Word) (lo hi : Nat) : Mach :=
  m.deliver ⟨r, resAddr d, bytesOfNat 8 lo ++ bytesOfNat 8 hi, d.extractLsb' 32 16, none⟩

/-- A publish takes effect (R265). -/
def Mach.publish (m : Mach) (p : Pool) (r : CtxRef) (res : Option Word) : Mach :=
  let m := m.modPk fun k => k.modPool p fun x =>
    { x with latest := x.held, held := 0x7F, gen := x.gen + 1, pubtime := m.fret, pend := false,
             pseen := none }
  match res with
  | none => m
  | some d => m.poolResult r d (p.held.toNat * 2 ^ 58) (p.gen + 1).toNat

/-- A slot that an acquire may take (R264). -/
def Pool.lowestFree (p : Pool) : Nat :=
  ((List.range p.n).find? fun s => p.pincnt s == 0 && s != p.latest.toNat).getD 0

/-- A pool message takes effect (R264 to R267), its checks passed. -/
def Mach.poolAct (m : Mach) (o : CmdOrigin) (eff : Option Nat) (op : PoolOp) (a d : Word) (hasD : Bool) (p : Pool) :
    Mach :=
  let res := if hasD then some d else none
  match op with
  | .unpin => (m.modPk fun k => k.modPool p fun x => { x with pins := x.pins.filter fun y => y.1 != o.ctx }).performedOpt eff
  | .pub => (m.publish p o.ctx res).performedOpt eff
  | .pubAfter =>
    m.modPk fun k => k.modPool p fun x =>
      { x with pend := true, pch := a.extractLsb' 60 4, pid := a.setWidth 48, pres := res, porg := some o,
               peff := eff.getD 0, pseen := none }
  | .pin =>
    let m := m.performedOpt eff
    if p.latest = 0x7F then
      (match res with
        | none => m
        | some d => m.poolResult o.ctx d (0x3F * 2 ^ 58 + (2 ^ 58 - 1)) 0)
    else
      let m := m.modPk fun k => k.modPool p fun x =>
        { x with pins := (x.pins.filter fun y => y.1 != o.ctx) ++ [(o.ctx, p.latest.toNat)] }
      let age := min (m.fret - p.pubtime).toNat (2 ^ 58 - 2)
      match res with
      | none => m
      | some d => m.poolResult o.ctx d (p.latest.toNat * 2 ^ 58 + age) p.gen.toNat
  | .acqw =>
    let s := if p.held ≠ 0x7F then p.held.toNat else p.lowestFree
    let m := m.modPk fun k => k.modPool p fun x =>
      { x with held := BitVec.ofNat 7 s, spoil := if p.held ≠ 0x7F then false else x.spoil }
    let m := m.performedOpt eff
    match res with
    | none => m
    | some d => m.poolResult o.ctx d (s * 2 ^ 58) p.gen.toNat
  | .gen =>
    let m := m.performedOpt eff
    match res with
    | none => m
    | some d => m.poolResult o.ctx d p.gen.toNat p.pubtime.toNat

/-- A pool message processed: dropped by the first check that it fails, or performed (R263). -/
def Mach.poolMsg (m : Mach) (g : PathMsg) : Mach :=
  match g.msg with
  | .pool op a d hasD =>
    match m.poolKind g.org op a d hasD with
    | some k => m.poolDrop g.org g.eff k (poolHandle op a)
    | none =>
      match m.pk.poolOf g.org.part g.org.img (poolHandle op a) with
      | none => m
      | some p => m.poolAct g.org g.eff op a d hasD p
  | .qpush _ _ | .qpop _ _ | .qcount _ _ | .scope _ _ | .taskEnd _ | .waitQ _ | .waitSc _ => m

/-- The step of R261 in which a message is processed. -/
def Msg.poolStep : Msg → Nat
  | .pool op _ _ _ => (match op with
    | .unpin => 1
    | .pub | .pubAfter => 2
    | .pin | .gen => 3
    | .acqw => 4)
  | .qpush _ _ | .qpop _ _ | .qcount _ _ | .scope _ _ | .taskEnd _ | .waitQ _ | .waitSc _ => 0

/-- A pool lies in a directory (R258). -/
def Pool.inQuad (o : Pool) (q : Quad) : Bool := quadOf o.writer.cl == q

/-- The releases of R270: pins and held slots of contexts that have ended. DESIGN CHOICE: the spoil bit outlives a held
slot so released, and the rebinding of its writer, until an acquire that returns the slot already held clears it
(R264, R268; log entry 39). -/
def Pool.releaseEnded (o : Pool) : Pool :=
  let ended := o.releases.map Prod.fst
  { o with pins := o.pins.filter fun x => !ended.contains x.1,
           held := if ended.contains o.writer && !o.pend then 0x7F else o.held }

/-- The condition of a deferred publish (R265): done has reached its transfer. -/
def Package.pubReady (p : Package) (o : Pool) : Bool :=
  o.pend && decide (((p.chan o.writer.cl o.pch).done - o.pid).toNat < 2 ^ 47)

/-- A deferred publish in this tick (R265): first seen, then in force; dropped when its slot is spoiled. -/
def Mach.deferred (m : Mach) (o : Pool) : Mach :=
  match m.pk.poolOf o.part (some o.img) o.handle with
  | none => m
  | some p =>
    if !m.pk.pubReady p then m
    else
      let (at', m) := match p.pseen with
        | some t => (t, m)
        | none => let (d, m) := m.delay; (m.pk.fret + d, m)
      if m.pk.fret < at' then m.modPk fun k => k.modPool p fun x => { x with pseen := some at' }
      else if p.spoil then
        let m := m.modPk fun k => k.modPool p fun x => { x with pend := false, pseen := none }
        match p.porg with
        | none => m.performed p.peff
        | some org => m.poolDrop org (some p.peff) 8 p.handle
      else (m.publish p p.writer p.pres).performed p.peff

/-- DIRECTORY_TICK (R261): the messages and releases of one tick, in four steps. -/
def execDirectoryTick (q : Quad) (s : State) : Host.Outcome State Fault Refusal :=
  .next (s.modMach fun m =>
    let here := fun (g : PathMsg) => g.msg.isPool && g.quad == q && g.armed && decide (g.ready ≤ m.pk.fret)
    let now := m.pk.path.filter here
    let step := fun (n : Nat) (m : Mach) => (now.filter fun g => g.msg.poolStep == n).foldl Mach.poolMsg m
    let m := m.modPk fun p =>
      { p with path := p.path.filter fun g => !here g,
               pools := p.pools.map fun o => if o.inQuad q then o.releaseEnded else o }
    let m := step 2 (step 1 m)
    let m := (m.pk.pools.filter fun o => o.inQuad q).foldl Mach.deferred m
    step 4 (step 3 m))

end Sys2Proof.Machine
end

