-- ==== Sys2Proof/Machine/Queues.lean ====
section
/-!
DEFINITION. Task queues and finish scopes: the hand-over of their commands, the task-end and wait messages, and the
queue engine's tick (R286 to R291).
-/

namespace Sys2Proof.Machine

/-! ## The tables -/

/-- The queue of a handle of an image. -/
def Package.queueOf (p : Package) (part : BitVec 3) (img : Option (BitVec 12)) (h : BitVec 12) : Option Queue :=
  p.queues.find? fun o => o.handle == h && o.part == part && some o.img == img

/-- A queue changed. -/
def Package.modQueue (p : Package) (o : Queue) (f : Queue → Queue) : Package :=
  { p with queues := p.queues.map fun x => if x.part = o.part ∧ x.img = o.img ∧ x.handle = o.handle then f x else x }

/-- The scope of a number of an image. -/
def Package.scopeOf (p : Package) (part : BitVec 3) (img : Option (BitVec 12)) (k : BitVec 8) : Option Scope :=
  p.scopes.find? fun o => o.k == k && o.part == part && some o.img == img

/-- A scope of an image changed. -/
def Package.modScope (p : Package) (part : BitVec 3) (img : Option (BitVec 12)) (k : BitVec 8) (f : Scope → Scope) :
    Package :=
  { p with scopes := p.scopes.map fun x => if x.part = part ∧ some x.img = img ∧ x.k = k then f x else x }

/-- The quadrant whose queue engine holds the objects of a command's image (R282). -/
def Mach.homeQuad (m : Mach) (o : CmdOrigin) : Quad :=
  match o.img with
  | none => quadOf o.ctx.cl
  | some n => ((m.pk.image o.part n).map Image.home).getD (quadOf o.ctx.cl)

/-! ## Hand-over (R251, R289, R291) -/

/-- qop.push handed over: reasons 11 and 12. -/
def Mach.handPush (m : Mach) (o : CmdOrigin) (eff : Nat) (holds : List Nat) (hd : Word) (bytes : List Byte) : Mach :=
  if (m.pk.queueOf o.part o.img (hd.setWidth 12)).isNone then m.refuse o eff 11 0 0
  else if hd.getLsbD 20 && (m.pk.scopeOf o.part o.img (hd.extractLsb' 12 8)).isNone then m.refuse o eff 12 0 0
  else m.post o (m.homeQuad o) (.qpush hd bytes) (some eff) holds

/-- qop.pop handed over: reasons 11 and 13. -/
def Mach.handPop (m : Mach) (o : CmdOrigin) (eff : Nat) (holds : List Nat) (hd res : Word) : Mach :=
  if (m.pk.queueOf o.part o.img (hd.setWidth 12)).isNone then m.refuse o eff 11 0 0
  else if !resultOk (m.ctx o.ctx) 256 72 (resAddr res) then m.refuse o eff 13 0 0
  else m.post o (m.homeQuad o) (.qpop hd res) (some eff) holds

/-- qop.count handed over: reasons 11 and 13. -/
def Mach.handCount (m : Mach) (o : CmdOrigin) (eff : Nat) (holds : List Nat) (hd res : Word) : Mach :=
  if (m.pk.queueOf o.part o.img (hd.setWidth 12)).isNone then m.refuse o eff 11 0 0
  else if !resultOk (m.ctx o.ctx) 8 8 (resAddr res) then m.refuse o eff 13 0 0
  else m.post o (m.homeQuad o) (.qcount hd res) (some eff) holds

/-- scope.open and scope.close handed over: reason 12. -/
def Mach.handScope (m : Mach) (o : CmdOrigin) (eff : Nat) (holds : List Nat) (openIt : Bool) (a : Word) : Mach :=
  let k : BitVec 8 := a.setWidth 8
  if (m.pk.scopeOf o.part o.img k).isNone then m.refuse o eff 12 0 0
  else m.post o (m.homeQuad o) (.scope openIt k) (some eff) holds

/-! ## Messages outside the drain (R288) -/

/-- The origin of a message that no slot sends. -/
def Mach.selfOrigin (m : Mach) (r : CtxRef) : CmdOrigin :=
  let x := m.ctx r
  ⟨r, x.pc, 0, x.img, x.part, x.ast⟩

/-- No committed entry of a context waits for the drain. -/
def Core.drainedOut (k : Core) (cx : CtxId) : Bool := !k.drain.any fun d => d.cx == cx

/-- No entry that a context committed by the end of a task waits for the drain (R288). -/
def Core.taskDrained (k : Core) (cx : CtxId) (t : TaskEnd) : Bool :=
  !k.drain.any fun d => d.cx == cx && decide (d.entry.issued ≤ t.cyc)

/-- TASK_END_MESSAGE (R288, R290): behind the last entry that the task committed, and behind no entry of a later commit. -/
def execTaskEndMessage (cl : ClusterId) (co : CoreId) (cx : CtxId) (s : State) : Host.Outcome State Fault Refusal :=
  .next (s.modMach fun m =>
    let r : CtxRef := ⟨cl, co, cx⟩
    match (m.ctx r).taskEnds with
    | [] => m
    | t :: rest =>
      if (m.core cl co).taskDrained cx t then
        let o := m.selfOrigin r
        (m.modCtx r fun x => { x with taskEnds := rest }).post o (m.homeQuad o) (.taskEnd t.scope) none []
      else m)

/-- The wait message of a context (R288). -/
def Mach.postWait (m : Mach) (r : CtxRef) : Mach :=
  let o := m.selfOrigin r
  match (m.ctx r).wait with
  | .q h _ => m.post o (m.homeQuad o) (.waitQ h) none []
  | .sc k _ => m.post o (m.homeQuad o) (.waitSc k) none []
  | .never | .now | .at _ => m

/-- WAIT_MESSAGE (R288): behind the task's last committed entry, and behind its task end. -/
def execWaitMessage (cl : ClusterId) (co : CoreId) (cx : CtxId) (s : State) : Host.Outcome State Fault Refusal :=
  .next (s.modMach fun m =>
    let r : CtxRef := ⟨cl, co, cx⟩
    let x := m.ctx r
    if !x.waitMsg || !x.taskEnds.isEmpty || !(m.core cl co).drainedOut cx then m
    else (m.modCtx r fun x => { x with waitMsg := false }).postWait r)

/-! ## The queue engine (R288 to R290) -/

/-- The line of a delivered or popped entry (R288): bytes 0 to 71; byte 70 of an entry under no scope is free (log
entry 2). -/
def Mach.entryLine (m : Mach) (e : QEntry) : List Byte × Mach :=
  match e.scope with
  | some k => (e.bytes ++ bytesOfNat 6 e.num.toNat ++ [k, 1], m)
  | none =>
    let (b, m) := m.freeBytes 1
    (e.bytes ++ bytesOfNat 6 e.num.toNat ++ b ++ [0], m)

/-- A scope's count changed by one task or entry. -/
def Package.scopeMinus (p : Package) (part : BitVec 3) (img : Option (BitVec 12)) (k : Option (BitVec 8)) : Package :=
  match k with
  | none => p
  | some k => p.modScope part img k fun x => { x with count := x.count - 1 }

/-- A memory-backed queue's block is missing (R287): kind 9, with the backing address. -/
def Mach.queueMiss (m : Mach) (g : PathMsg) (h : BitVec 12) : Bool × Mach :=
  match m.pk.queueOf g.org.part g.org.img h with
  | none => (false, m)
  | some q =>
    if q.resident || g.swapped then (false, m)
    else
      let (c, m) := m.choice
      (decide (c % 2 = 1), m)

/-- The handle that a queue command names. -/
def Msg.handle : Msg → Option (BitVec 12)
  | .qpush hd _ | .qpop hd _ | .qcount hd _ => some (hd.setWidth 12)
  | .pool _ _ _ _ | .scope _ _ | .taskEnd _ | .waitQ _ | .waitSc _ => none

/-- A message of one tick is kept back by a missing block, dropped by an abort, or let through (R287): the messages let
through, and those that stay. -/
def Mach.admitQueue (m : Mach) : List PathMsg → (List PathMsg × List PathMsg) × Mach
  | [] => (([], []), m)
  | g :: rest =>
    match g.stall with
    | some (.aborted kind va) =>
      let m := (m.performedOpt g.eff).trapCommand g.org 0x10 (faultDetail kind va)
      m.admitQueue rest
    | some x =>
      let (r, m) := m.admitQueue rest
      ((r.1, { g with stall := some x } :: r.2), m)
    | none =>
      let (miss, m) := match g.msg.handle with
        | none => (false, m)
        | some h => m.queueMiss g h
      if miss then
        let (va, m) := m.choice
        let (x, m) := m.recordFault (.queue g.org.ctx g.quad) 9 0 .read (BitVec.ofNat 48 va) g.org.ast m.fret
        let (r, m) := m.admitQueue rest
        ((r.1, { g with stall := some x, swapped := true } :: r.2), m)
      else
        let (r, m) := m.admitQueue rest
        ((g :: r.1, r.2), m)

/-- A push (R289). -/
def Mach.queuePush (m : Mach) (g : PathMsg) (hd : Word) (bytes : List Byte) : Mach :=
  let m := m.performedOpt g.eff
  match m.pk.queueOf g.org.part g.org.img (hd.setWidth 12) with
  | none => m
  | some q =>
    if q.occ ≤ q.entries.length then
      m.trapCommand g.org 0x13 (BitVec.ofNat 64 (q.handle.toNat * 2 ^ 48 + q.entries.length % 2 ^ 17))
    else
      let sc := if hd.getLsbD 20 then some (hd.extractLsb' 12 8) else none
      m.modPk fun p =>
        let p := p.modQueue q fun x => { x with entries := x.entries ++ [⟨bytes, x.next, sc⟩], next := x.next + 1 }
        match sc with
        | none => p
        | some k => p.modScope g.org.part g.org.img k fun x => { x with count := x.count + 1 }

/-- A pop (R289). -/
def Mach.queuePop (m : Mach) (g : PathMsg) (hd res : Word) : Mach :=
  let m := m.performedOpt g.eff
  let tag : BitVec 16 := res.extractLsb' 32 16
  match m.pk.queueOf g.org.part g.org.img (hd.setWidth 12) with
  | none => m
  | some q =>
    match q.entries with
    | [] => m.deliver ⟨g.org.ctx, resAddr res + 64, List.replicate 8 0, tag, none⟩
    | e :: rest =>
      let m := m.modPk fun p =>
        (p.modQueue q fun x => { x with entries := rest }).scopeMinus g.org.part g.org.img e.scope
      let (l, m) := m.entryLine e
      m.deliver ⟨g.org.ctx, resAddr res, l, tag, none⟩

/-- A count (R289): the occupancy after the reservations. -/
def Mach.queueCount (m : Mach) (g : PathMsg) (hd res : Word) : Mach :=
  let m := m.performedOpt g.eff
  match m.pk.queueOf g.org.part g.org.img (hd.setWidth 12) with
  | none => m
  | some q => m.deliver ⟨g.org.ctx, resAddr res, bytesOfNat 8 q.entries.length, res.extractLsb' 32 16, none⟩

/-- A message processed in its step of R288. -/
def Mach.queueMsg (m : Mach) (g : PathMsg) : Mach :=
  match g.msg with
  | .pool _ _ _ _ => m
  | .taskEnd k => m.modPk fun p => p.scopeMinus g.org.part g.org.img (some k)
  | .scope o k => (m.modPk fun p => p.modScope g.org.part g.org.img k fun x => { x with openBit := o }).performedOpt g.eff
  | .qpush hd bytes => m.queuePush g hd bytes
  | .qpop hd res => m.queuePop g hd res
  | .qcount hd res => m.queueCount g hd res
  | .waitQ h => m.modPk fun p =>
    match p.queueOf g.org.part g.org.img h with
    | none => p
    | some q => p.modQueue q fun x => { x with waits := x.waits ++ [⟨g.org.ctx, p.fret⟩] }
  | .waitSc k => m.modPk fun p => p.modScope g.org.part g.org.img k fun x => { x with waits := x.waits ++ [g.org.ctx] }

/-- The step of R288 in which a message is processed; a wait is known before the reservations. -/
def Msg.queueStep : Msg → Nat
  | .taskEnd _ | .scope _ _ => 1
  | .qpush _ _ => 2
  | .qpop _ _ => 3
  | .waitQ _ | .waitSc _ => 4
  | .qcount _ _ => 5
  | .pool _ _ _ _ => 0

/-- The order of waiting contexts (R288). -/
def QWait.before (a b : QWait) : Bool :=
  if a.since ≠ b.since then decide (a.since < b.since) else decide (a.ctx.key < b.ctx.key)

/-- The first of the waiting contexts. -/
def firstWait : List QWait → Option QWait
  | [] => none
  | a :: rest =>
    match firstWait rest with
    | none => some a
    | some b => if b.before a then some b else some a

/-- Reservations of one queue (R288): each entry from the head goes to the earliest wait. -/
def Mach.reserve (m : Mach) (q : Queue) : Nat → Mach
  | 0 => m
  | n + 1 =>
    match m.pk.queueOf q.part (some q.img) q.handle with
    | none => m
    | some x =>
      match x.entries, firstWait x.waits with
      | e :: rest, some w =>
        let (d, m) := m.delay
        (m.modPk fun p => p.modQueue x fun y =>
          { y with entries := rest, waits := y.waits.filter fun z => z.ctx != w.ctx,
                   delivers := y.delivers ++ [⟨w.ctx, e, p.fret + d⟩] }).reserve q n
      | _, _ => m

/-- A reserved entry is delivered, and its context's condition holds (R163, R288). -/
def Mach.deliverEntry (m : Mach) (q : Queue) (d : QDeliver) : Mach :=
  let (l, m) := m.entryLine d.entry
  let m := m.writeLine ⟨d.ctx, q.area + 256 * d.ctx.cx.toNat, l, d.entry.num.setWidth 16, none⟩
  m.modCtx d.ctx fun x =>
    { x with wait := .q q.handle (some m.pk.fret), entryScope := d.entry.scope.map fun k => (k, d.entry.num.toNat) }

/-- A delivery reaches a cluster's LM in the cycle in progress (R120): its time has come, its context still waits, and the
port is free. -/
def Mach.delivers (m : Mach) (cl : ClusterId) (d : QDeliver) : Bool :=
  d.ctx.cl == cl && decide (d.ready ≤ m.pk.fret) && (m.ctx d.ctx).bound && (m.core cl d.ctx.co).portFree

/-- The deliveries of one queue that reach a cluster's LM in this cycle. -/
def Mach.deliverAll (m : Mach) (cl : ClusterId) (x : Queue) : Mach :=
  let now := x.delivers.filter (m.delivers cl)
  now.foldl (fun m d => m.deliverEntry x d)
    (m.modPk fun p => p.modQueue x fun y => { y with delivers := y.delivers.filter fun d => !now.contains d })

/-- The deliveries of every queue to a cluster (R288): each in a core cycle, after its samples (R121), and so after any
freeze or halt (R207, R224). -/
def State.queueLines (s : State) (cl : ClusterId) : State :=
  s.modMach fun m => m.pk.queues.foldl (fun m x => m.deliverAll cl x) m

/-- A scope is finished (R290): closed, its count zero, every child scope finished. -/
def Package.finished (p : Package) (s : Scope) : Nat → Bool
  | 0 => true
  | n + 1 =>
    !s.openBit && s.count == 0 &&
      (p.scopes.filter fun c => c.part == s.part && c.img == s.img && c.parent == some s.k).all fun c => p.finished c n

/-- Finished scopes are signalled to the contexts that wait for them (R290). -/
def Mach.signalScope (m : Mach) (s : Scope) : Mach :=
  if s.waits.isEmpty || !m.pk.finished s 256 then m
  else
    let m := s.waits.foldl (fun m r => m.modCtx r fun x => { x with wait := .sc s.k (some m.pk.fret) }) m
    m.modPk fun p => p.modScope s.part (some s.img) s.k fun x => { x with waits := [] }

/-- QUEUE_ENGINE_TICK (R288): the messages of one tick in their order, reservations, counts and finishes. -/
def execQueueEngineTick (q : Quad) (s : State) : Host.Outcome State Fault Refusal :=
  .next (s.modMach fun m =>
    let here := fun (g : PathMsg) => !g.msg.isPool && g.quad == q && g.armed && decide (g.ready ≤ m.pk.fret)
    let due := m.pk.path.filter here
    let ((now, stay), m) := m.admitQueue due
    let m := m.modPk fun p => { p with path := stay ++ p.path.filter fun g => !here g }
    let step := fun (n : Nat) (m : Mach) => (now.filter fun g => g.msg.queueStep == n).foldl Mach.queueMsg m
    let m := step 4 (step 3 (step 2 (step 1 m)))
    let qs := m.pk.queues.filter fun x => x.quad == q
    let m := qs.foldl (fun m x => m.reserve x (x.entries.length + 1)) m
    let m := step 5 m
    (m.pk.scopes.filter fun x => x.quad == q).foldl Mach.signalScope m)

end Sys2Proof.Machine
end

