-- ==== Sys2Proof/Machine/Admission.lean ====
section
/-!
DEFINITION. Admission and the package command stream (R186, R187, R282 to R285): publication, the checks, placement,
and Clear, Load, Open, Bind, Start, Stop and Retire.
-/

namespace Sys2Proof.Machine

/-! ## Publication (R283) -/

/-- The agent of the admission unit and of the launch sequencer, which read a partition's memory under an AST. -/
def loaderAgent (p : BitVec 3) (ast : BitVec 16) : Agent := ⟨.host (p.setWidth 4 + 1), p, ast, none, false⟩

/-- Bytes read by the admission unit; none where an address does not translate. -/
def Mach.loaderRead (m : Mach) (p : BitVec 3) (ast : BitVec 16) (va n : Nat) : Option (List Byte) × Mach :=
  let (r, m) := m.readVirt (loaderAgent p ast) va 0 n
  (match r with
    | .done l => some l
    | .stall _ _ _ _ | .fault _ _ | .error _ => none, m)

/-- A field of an image's header. -/
def headerField (h : List Byte) (a n : Nat) : Nat := natOfBytes ((h.drop a).take n)

/-- The header of an image is well formed (R282): magic, the zero fields, and the section directory within length. The
version field may hold any value (R186). -/
def headerOk (h : List Byte) : Bool :=
  let num := headerField h
  num 0 4 == 0x49534D55 && num 6 1 == 0 && decide (num 7 1 < 16) && decide (24 ≤ num 8 8) && decide (num 16 8 ≤ num 8 8) &&
    decide (num 8 8 < 2 ^ 48)

/-- An image read: its header alone where that is not well formed, else all of it with its signature. -/
def Mach.readImage (m : Mach) (p : BitVec 3) (ast : BitVec 16) (va : Nat) : Option (List Byte) × Mach :=
  let (h, m) := m.loaderRead p ast va 120
  match h with
  | none => (none, m)
  | some h => if headerOk h then m.loaderRead p ast va (headerField h 8 8 + 96) else (some h, m)

/-- ADMPUB (R283): a write while the block checks an image is ignored. -/
def execAdmpub (p : BitVec 3) (v : BitVec 64) (s : State) : Host.Outcome State Fault Refusal :=
  .next (s.modMach fun m =>
    let a := m.pk.admBlock p
    if a.state = 1 then m
    else
      let (b, m) := m.readImage p a.ast (v.setWidth 48 : BitVec 48).toNat
      let (d, m) := m.delay
      m.modPk fun k => k.modAdm p fun a =>
        { a with state := 1, reason := 0, check := some ⟨b, v.setWidth 48, a.ast, a.place, k.fret + d⟩ })

/-! ## Placement (R284) -/

/-- The halfwords of the placement table. -/
def halfwords : List Byte → List (BitVec 16)
  | a :: b :: rest => (b ++ a) :: halfwords rest
  | _ => []

/-- The used entries of a placement table: image core, cluster and core. -/
def placedCores (hs : List (BitVec 16)) : List (Nat × ClusterId × CoreId) :=
  (hs.mapIdx fun k h => (k, h)).filterMap fun p =>
    if p.2.getLsbD 15 then some (p.1, p.2.extractLsb' 8 5, p.2.setWidth 3) else none

/-- The image cores that an image names. -/
def ImageDecl.cores (d : ImageDecl) : List Nat :=
  d.acts.map ActDecl.icore ++ d.code.map Prod.fst ++ d.data.map Prod.fst

/-- A placement table is well formed for an image (R284). -/
def tableOk (d : ImageDecl) (hs : List (BitVec 16)) : Bool :=
  let used := placedCores hs
  decide (hs.length = 256) && (hs.all fun h => h &&& 0x60F8 == 0) &&
    (d.cores.all fun k => used.any fun u => u.1 == k) && (used.all fun u => d.cores.contains u.1) &&
    decide ((used.map fun u => u.2).Nodup)

/-- The physical core of an image core. -/
def placeOf (place : List (Nat × ClusterId × CoreId)) (k : Nat) : ClusterId × CoreId :=
  ((place.find? fun p => p.1 == k).map fun p => p.2).getD (0, 0)

/-- The physical context of a declared context. -/
def actRef (place : List (Nat × ClusterId × CoreId)) (a : ActDecl) : CtxRef :=
  let p := placeOf place a.icore
  ⟨p.1, p.2, a.cx⟩

/-- The context of an index of an image. -/
def Image.ref (i : Image) (n : Nat) : Option CtxRef := (i.decl.acts[n]?).map (actRef i.place)

/-- The contexts of an image. -/
def Image.refs (i : Image) : List CtxRef := i.decl.acts.map (actRef i.place)

/-- Images that hold their places: admitted and not retired. -/
def Package.live (p : Package) : List Image := p.images.filter fun i => !i.retired

/-! ## The checks (R283) -/

/-- A list with no two equal elements by a key. -/
def distinctBy {α : Type} (f : α → Nat) (l : List α) : Bool := decide ((l.map f).Nodup)

/-- The gangs of an image are well formed (R186, R209, R210): no member is urgent. -/
def gangsOk (d : ImageDecl) (place : List (Nat × ClusterId × CoreId)) : Bool :=
  let mem := d.gangs.flatMap GangDecl.members
  decide mem.Nodup && d.gangs.all fun g =>
    let refs := (g.members.filterMap fun n => d.acts[n]?).map (actRef place)
    decide (2 ≤ g.members.length) && decide (g.members.length ≤ 8) && decide (refs.length = g.members.length) &&
      !((g.members.filterMap fun n => d.acts[n]?).any ActDecl.urgent) &&
      (refs.all fun r => refs.head?.any fun q => q.cl == r.cl) && decide ((refs.map CtxRef.co).Nodup)

/-- The code ranges of an image by physical core: first byte and the byte after the last. -/
def codeRanges (d : ImageDecl) (place : List (Nat × ClusterId × CoreId)) : List ((ClusterId × CoreId) × Nat × Nat) :=
  d.code.map fun c => (placeOf place c.1, c.2.1, c.2.1 + 4 * c.2.2.length)

/-- Two code ranges of one core neither overlap nor touch. -/
def rangesApart (a b : (ClusterId × CoreId) × Nat × Nat) : Bool :=
  a.1 != b.1 || decide (a.2.2 < b.2.1) || decide (b.2.2 < a.2.1)

/-- Reason 3 (R283, R284). -/
def Package.check3 (p : Package) (part : BitVec 3) (d : ImageDecl) (place : List (Nat × ClusterId × CoreId)) : Bool :=
  let refs := d.acts.map (actRef place)
  (place.all fun u => p.clusterIn part u.2.1) &&
    decide (refs.Nodup) && (refs.all fun r => !(p.live.any fun i => i.refs.contains r)) && gangsOk d place &&
    (codeRanges d place).all fun c => p.live.all fun i => (codeRanges i.decl i.place).all fun e => rangesApart c e

/-- Claims of an image's contexts with the place to which they are confined. -/
def lmClaims (d : ImageDecl) (place : List (Nat × ClusterId × CoreId)) : List ((Nat × Nat) × Window) :=
  d.acts.flatMap fun a =>
    let r := actRef place a
    (a.lm.filter Window.w).map fun w => ((r.cl.toNat, r.co.toNat), w)
def spClaims (d : ImageDecl) (place : List (Nat × ClusterId × CoreId)) : List ((Nat × Nat) × Window) :=
  d.acts.flatMap fun a =>
    let r := actRef place a
    (a.sp.filter Window.w).map fun w => ((r.cl.toNat, 8), w)

/-- Two windows meet in one place. -/
def claimsMeet (a b : (Nat × Nat) × Window) : Bool :=
  a.1 == b.1 && decide (a.2.base ≤ b.2.limit) && decide (b.2.base ≤ a.2.limit)

/-- No two claims of a list meet; two grants may (log entry 39). -/
def claimsApart : List ((Nat × Nat) × Window) → Bool
  | [] => true
  | a :: rest => (rest.all fun b => !claimsMeet a b) && claimsApart rest

/-- A window lies in a memory of `n` lines, and a grant wholly inside one claim. -/
def windowOk (n : Nat) (place : Nat × Nat) (claims : List ((Nat × Nat) × Window)) (w : Window) : Bool :=
  decide (w.base ≤ w.limit) && decide (w.limit < n) &&
    (w.w || claims.any fun c => c.1 == place && decide (c.2.base ≤ w.base) && decide (w.limit ≤ c.2.limit))

/-- Tiles of a core: no tile of two contexts. -/
def tilesOf (d : ImageDecl) (place : List (Nat × ClusterId × CoreId)) : List ((Nat × Nat) × Nat) :=
  d.acts.flatMap fun a =>
    let r := actRef place a
    ((a.tiles.flatMap fun t => (List.range t.2).map fun i => t.1 + i).dedup).map fun t => ((r.cl.toNat, r.co.toNat), t)

/-- An event area (R175): N a power of two from 16 to 1,024, wholly inside an LM claim of the context. -/
def eventsOk (a : ActDecl) : Bool :=
  match a.events with
  | none => true
  | some (base, n) =>
    [16, 32, 64, 128, 256, 512, 1024].contains n &&
      a.lm.any fun w => w.w && w.has (base / 256) && w.has ((base + 16 * n - 1) / 256)

/-- Reason 4 (R117, R122, R175, R186). DESIGN CHOICE: two grants of one cluster may overlap, inside one claim (log entry 39);
and a data byte outside every claim, which dolas refuses (R185) and no row names, is no ground to refuse an image here (log
entry 30). -/
def Package.check4 (p : Package) (d : ImageDecl) (place : List (Nat × ClusterId × CoreId)) : Bool :=
  let lm := lmClaims d place
  let sp := spClaims d place
  let tl := tilesOf d place
  claimsApart lm && claimsApart sp && decide tl.Nodup && (d.acts.all eventsOk) &&
    (p.live.all fun i =>
      (lm.all fun a => (lmClaims i.decl i.place).all fun b => !claimsMeet a b) &&
        (sp.all fun a => (spClaims i.decl i.place).all fun b => !claimsMeet a b) &&
        tl.all fun t => !(tilesOf i.decl i.place).contains t) &&
    d.acts.all fun a =>
      let r := actRef place a
      decide (a.lm.length ≤ 4) && decide (a.sp.length ≤ 4) &&
        (a.lm.all (windowOk 8192 (r.cl.toNat, r.co.toNat) lm)) && (a.sp.all (windowOk 131072 (r.cl.toNat, 8) sp)) &&
        a.tiles.all fun t => decide (1 ≤ t.2) && decide (t.1 + t.2 ≤ 32)

/-- The pages of a pool's slot memory from an offset: each must be mapped as R258 asks; the pieces of memory, or nothing. -/
def Mach.poolPages (m : Mach) (a : Agent) (va size off : Nat) : Nat → Option (List (Nat × Nat × Nat)) × Mach
  | 0 => (some [], m)
  | n + 1 =>
    let (w, m) := m.lookup a (va + off)
    match w with
    | .bad _ _ => (none, m)
    | .leaf t =>
      let pa := t.pbase + (va + off - t.vbase)
      let covered := m.pk.pools.any fun (o : Pool) => o.mem.any fun x => decide (x.2.1 < pa + 4096) && decide (pa < x.2.1 + x.2.2)
      if t.ps && t.pin && t.r && t.w && m.pk.inVaults a.part pa && !covered then
        let (rest, m) := m.poolPages a va size (off + 4096) n
        (rest.map fun l => (off, pa, 4096) :: l, m)
      else (none, m)

/-- Every pool of an image is mapped as R258 asks, and no two of them share memory: the memory of each. -/
def Mach.poolMems (m : Mach) (a : Agent) : List PoolDecl → Option (List (List (Nat × Nat × Nat))) × Mach
  | [] => (some [], m)
  | o :: rest =>
    let (x, m) := m.poolPages a o.va o.size 0 (o.n * o.size / 4096)
    match x with
    | none => (none, m)
    | some l =>
      let (r, m) := m.poolMems a rest
      (r.bind fun ls => if l.any fun p => ls.any fun q => q.any fun y => y.2.1 == p.2.1 then none else some (l :: ls), m)

/-- The pool entries of a partition in a quadrant's directory (R292). -/
def Package.dirsOf (p : Package) (part : BitVec 3) (q : Quad) : Nat :=
  match p.parts.find part.toNat with
  | none => 0
  | some x => (x.defn.dirs[q.toNat]?).getD 0

/-- Reason 5, all but the mapping (R258, R187): the pools of every admitted image count, open or not, against the
partition's share of a directory (R292). -/
def Package.check5 (p : Package) (part : BitVec 3) (d : ImageDecl) (place : List (Nat × ClusterId × CoreId)) : Bool :=
  distinctBy (fun o => o.handle.toNat) d.pools &&
    (d.pools.all fun o =>
      decide (2 ≤ o.n) && decide (o.n ≤ 64) && decide (1 ≤ o.k) && decide (o.k ≤ 62) && decide (o.k + 2 ≤ o.n) &&
        decide (0 < o.size) && decide (o.size % 4096 = 0) && decide (o.va % o.size = 0) &&
        decide (o.va + o.n * o.size ≤ 2 ^ 48) && decide (o.writer < d.acts.length)) &&
    ((List.range 4).map (BitVec.ofNat 2)).all fun q =>
      let mine := d.pools.filter fun o => (d.acts[o.writer]?).any fun a => quadOf (actRef place a).cl == q
      decide ((p.pools.filter fun o => o.part == part && quadOf o.writer.cl == q).length + mine.length ≤ p.dirsOf part q)

/-! ## Code -/

/-- The first bundle of some words: its words, whether one of them ends it, and the words after it (R17). -/
def cutBundle : Nat → List SlotWord → List SlotWord × Bool × List SlotWord
  | 0, ws => ([], false, ws)
  | _ + 1, [] => ([], false, [])
  | n + 1, w :: ws =>
    if w.getLsbD 31 then ([w], true, ws)
    else
      let r := cutBundle n ws
      (w :: r.1, r.2)

/-- The bundles of some words. -/
def bundlesOf : Nat → List SlotWord → List (List SlotWord × Bool)
  | 0, _ => []
  | _ + 1, [] => []
  | n + 1, w :: ws =>
    let r := cutBundle 8 (w :: ws)
    (r.1, r.2.1) :: bundlesOf n r.2.2

/-- The instructions of an image core's code. -/
def coreCode (d : ImageDecl) (k : Nat) : List Instr :=
  (d.code.filter fun c => c.1 == k).flatMap fun c => (decoded c.2.2).map Prod.snd

/-- The number of bundles that a loop's body holds. -/
def bodyOf (i : Instr) : Nat :=
  match i with
  | .loop _ _ b => b.toNat + 1
  | .loopi _ b _ => b.toNat + 1
  | _ => 0

/-- A code section frames, decodes and holds its loop bodies (R23, R40). -/
def sectionOk (org : Nat) (ws : List SlotWord) : Bool :=
  let bs := bundlesOf ws.length ws
  decide (org % 4 = 0) && decide (org + 4 * ws.length ≤ 0x40000) && (ws.getLast?.any fun w => w.getLsbD 31) &&
    (bs.all fun b => (refusal b.1 b.2).2 == 0) &&
    (bs.mapIdx fun i b => (decoded b.1).all fun p => decide (i + bodyOf p.2 < bs.length)).all id

/-- The addresses of the bundles of some words from an origin on. -/
def bundleStarts : Nat → List (List SlotWord × Bool) → List Nat
  | _, [] => []
  | a, b :: rest => a :: bundleStarts (a + 4 * b.1.length) rest

/-- An entry is the address of a bundle in the code of its core (R186). -/
def entryOk (d : ImageDecl) (a : ActDecl) : Bool :=
  (d.code.filter fun c => c.1 == a.icore).any fun c =>
    (bundleStarts c.2.1 (bundlesOf c.2.2.length c.2.2)).contains a.entry.toNat

/-- The queue that an instruction waits on. -/
def waitsOn (h : BitVec 12) (i : Instr) : Bool :=
  match i with
  | .yieldQ _ q => q == h
  | _ => false

/-- A context can wait on a queue (R283, reason 6). -/
def canWait (d : ImageDecl) (a : ActDecl) (h : BitVec 12) : Bool :=
  a.first == .q h || (coreCode d a.icore).any (waitsOn h)

/-- A scope's chain of parents ends within `fuel` steps, at declared scopes. -/
def scopeRooted (l : List ScopeDecl) (k : BitVec 8) : Nat → Bool
  | 0 => false
  | n + 1 =>
    match l.find? fun s => s.k == k with
    | none => false
    | some s => (match s.parent with
      | none => true
      | some q => scopeRooted l q n)

/-- Reason 6 (R187, R287). -/
def check6 (d : ImageDecl) : Bool :=
  distinctBy (fun q => q.handle.toNat) d.queues && distinctBy (fun s => s.k.toNat) d.scopes &&
    (d.scopes.all fun s => scopeRooted d.scopes s.k 257) &&
    (d.queues.all fun q => decide (1 ≤ q.occ) && decide (q.occ ≤ 65536) && decide (q.area % 256 = 0) && decide (q.area < 0x200000)) &&
    d.acts.all fun a =>
      let lineOf := fun (q : QueueDecl) => q.area / 256 + a.cx.toNat
      d.queues.all fun q => !canWait d a q.handle || a.lm.any fun w => w.w && w.has (lineOf q)

/-- The copy channels that an image binds, by cluster. -/
def copyChans (d : ImageDecl) (place : List (Nat × ClusterId × CoreId)) : List (ClusterId × BitVec 4) :=
  d.chans.filterMap fun c =>
    if c.kind = .cp then (d.acts[c.act]?).map fun a => ((actRef place a).cl, c.ch) else none

/-- The storage and network channels that an image binds. -/
def portChans (d : ImageDecl) : List (ChanKind × BitVec 4) :=
  (d.chans.filter fun c => c.kind != .cp).map fun c => (c.kind, c.ch)

/-- Reason 7 (R186, R245): an image binds each channel once, and the copy channels that it and the admitted images bind on
one engine number at most 16. -/
def Package.check7 (p : Package) (d : ImageDecl) (place : List (Nat × ClusterId × CoreId)) : Bool :=
  let mine := copyChans d place
  let others := p.live.flatMap fun i => copyChans i.decl i.place
  decide mine.Nodup && decide (portChans d).Nodup &&
    (d.chans.all fun c => decide (c.act < d.acts.length) && (c.kind == .cp || decide (c.ch.toNat < 4))) &&
    mine.all fun c => decide (((mine ++ others).filter fun x => x.1 == c.1).length ≤ 16)

/-- The level of a capo.acq. -/
def acqLevel (i : Instr) : Nat :=
  match i with
  | .capoAcq _ l => l.toNat
  | _ => 0

/-- Reason 8 (R169). DESIGN CHOICE: it is also that of a capo.acq above the lowest .capo of its image core's contexts (R69,
R186; log entry 30). -/
def Package.check8 (p : Package) (d : ImageDecl) (place : List (Nat × ClusterId × CoreId)) : Bool :=
  d.acts.all fun a =>
    let x := p.dom (domOf (actRef place a).cl)
    let level := (a.capo.getD 0).toNat
    decide ((level : Int) ≤ (x.budget.toNat : Int) - 32 * x.lb.toNat) &&
      (coreCode d a.icore).all fun i => decide (acqLevel i ≤ level)

/-- The gating maxima of a context, where none are declared 64, 32 and 16 (R186). -/
def ActDecl.gates (a : ActDecl) : Nat × Nat × Nat := a.gate.getD (64, 32, 16)

/-- Reason 9 (R186, R167). -/
def check9 (d : ImageDecl) : Bool :=
  d.acts.all fun a =>
    let g := a.gates
    decide (1 ≤ g.1) && decide (g.1 ≤ 64) && decide (1 ≤ g.2.1) && decide (g.2.1 ≤ 32) &&
      decide (1 ≤ g.2.2) && decide (g.2.2 ≤ 16) && decide (1 ≤ a.budget) && decide (a.budget < 2 ^ 32)

/-- The objects that an instruction or a first release names are declared (R64). -/
def declares (d : ImageDecl) (i : Instr) : Bool :=
  match i with
  | .yieldQ _ q => d.queues.any fun x => x.handle == q
  | .yieldSc _ k => d.scopes.any fun x => x.k == k
  | _ => true

/-- Reason 10 (R23, R40, R64). DESIGN CHOICE: it is also that of an entry that is no bundle, and of a first release on a queue
that is not declared (R186; log entry 30). -/
def check10 (d : ImageDecl) : Bool :=
  (d.acts.all (entryOk d)) && (d.code.all fun c => sectionOk c.2.1 c.2.2) && (d.code.all fun c => (decoded c.2.2).all fun i => declares d i.2) &&
    d.acts.all fun a => match a.first with
      | .q h => d.queues.any fun x => x.handle == h
      | .now | .at _ => true

/-- The checks 3 to 10 with a placement table: the first reason that fails. -/
def Mach.checkImage (m : Mach) (part : BitVec 3) (ast : BitVec 16) (d : ImageDecl) (hs : List (BitVec 16)) :
    Option Nat × Mach :=
  let place := placedCores hs
  let p := m.pk
  if !(tableOk d hs && p.check3 part d place) then (some 3, m)
  else if !p.check4 d place then (some 4, m)
  else if !p.check5 part d place then (some 5, m)
  else
    let (mems, m) := m.poolMems (loaderAgent part ast) d.pools
    if mems.isNone then (some 5, m)
    else if !check6 d then (some 6, m)
    else if !p.check7 d place then (some 7, m)
    else if !p.check8 d place then (some 8, m)
    else if !check9 d then (some 9, m)
    else if !check10 d then (some 10, m)
    else (none, m)

/-- The bytes of an image that its signature covers (R282). -/
def signedBytes (b : List Byte) : List Byte := b.take 24 ++ b.drop 120

/-- The signature of an image verifies under a public key (R282): r then s, of 48 bytes each. -/
def signatureOk (key : Nat × Nat) (b : List Byte) : Bool :=
  ecdsaVerify key (signedBytes b) (headerField b 24 48) (headerField b 72 48)

/-- What an image declares, its header, lengths and sections being well formed (R283, reason 1). DESIGN CHOICE: a const
section off a page, or a data section outside LM, which are dolas errors (R185), are malformed too (log entry 30). -/
def imageDecl (b : List Byte) : Option ImageDecl :=
  if headerOk b then
    (Config.imageBody b).filter fun d =>
      (d.consts.all fun c => decide (c.1 % 4096 = 0) && decide (c.1 + c.2.length ≤ 2 ^ 48)) &&
        d.data.all fun s => decide (s.2.1 + s.2.2.length ≤ 0x200000)
  else none

/-- A pool entry at its reset values (R259), not yet opened. -/
def Pool.start (i : Image) (d : PoolDecl) (w : CtxRef) (mem : List (Nat × Nat × Nat)) : Pool :=
  { handle := d.handle, img := i.num, part := i.part, n := d.n, k := d.k, size := d.size, va := d.va, writer := w,
    opened := false, latest := 0x7F, gen := 0, pubtime := 0, held := 0x7F, pend := false, pch := 0, pid := 0, pres := none,
    porg := none, peff := 0, pseen := none, spoil := false, mem := mem, pins := [], releases := [] }

/-- The pool entries that an image takes at its admission (R258): their slot memory is protected from then on (R268). -/
def Image.poolEntries (i : Image) (mems : List (List (Nat × Nat × Nat))) : List Pool :=
  (i.decl.pools.mapIdx fun n d => (n, d)).filterMap fun x =>
    (i.ref x.2.writer).map fun w => Pool.start i x.2 w ((mems[x.1]?).getD [])

/-- The lowest free image number of a partition (R283); a retired image holds its number. -/
def Package.freeNumber (p : Package) (part : BitVec 3) : Option Nat :=
  ((List.range 4095).map fun n => n + 1).find? fun n => !(p.images.any fun i => i.part == part && i.num.toNat == n)

/-- An image admitted (R283): its number is taken, and its commands join the package command stream in order (R285). -/
def Mach.admitImage (m : Mach) (part : BitVec 3) (ast : BitVec 16) (bytes : List Byte) (d : ImageDecl) (hs : List (BitVec 16)) :
    Mach :=
  match m.pk.freeNumber part with
  | none => m.modPk fun k => k.modAdm part fun a => { a with state := 3, reason := 3, img := 0, check := none }
  | some n =>
    let num : BitVec 12 := BitVec.ofNat 12 n
    let place := placedCores hs
    let pol := (bytes.drop 7).headD 0
    let home := (d.acts.head?.map fun a => quadOf (actRef place a).cl).getD 0
    let im : Image := { num := num, part := part, ast := ast, clPol := pol.setWidth 2, imPol := pol.extractLsb' 2 2,
                        version := BitVec.ofNat 16 (headerField bytes 4 2), home := home, decl := d, place := place,
                        digest := sha384 (signedBytes bytes), started := false, stopped := false, retired := false }
    let (mems, m) := m.poolMems (loaderAgent part ast) d.pools
    let (d1, m) := m.delay
    let (d2, m) := m.delay
    let (d3, m) := m.delay
    let (d4, m) := m.delay
    let t := m.pk.fret + 1 + d1
    let cmds : List SeqCmd :=
      [⟨.clear, part, num, false, t, false, none⟩, ⟨.load, part, num, false, t + d2, false, none⟩,
       ⟨.openIt, part, num, false, t + d2 + d3, false, none⟩, ⟨.bind, part, num, false, t + d2 + d3 + d4, false, none⟩]
    m.modPk fun k =>
      { k.modAdm part (fun a => { a with state := 2, reason := 0, img := num, check := none }) with
        images := k.images ++ [im], seq := k.seq ++ cmds, pools := k.pools ++ im.poolEntries (mems.getD []) }

/-- An attempt refused with a reason (R283). -/
def Mach.refuseImage (m : Mach) (part : BitVec 3) (reason : Nat) : Mach :=
  m.modPk fun k => k.modAdm part fun a => { a with state := 3, reason := BitVec.ofNat 8 reason, img := 0, check := none }

/-- The checks of a publication, in order (R283). An image that has been changed since it was published is refused with
reason 2, or admitted as it was signed (R317). -/
def Mach.checkPublication (m : Mach) (part : BitVec 3) (c : Publication) : Mach :=
  let (b, m) := m.readImage part c.ast c.va.toNat
  match b, b.bind imageDecl with
  | some bytes, some d =>
    if !signatureOk (Config.imageKey part) bytes then m.refuseImage part 2
    else
      let (t, m) := m.loaderRead part c.ast c.place.toNat 512
      match t with
      | none => m.refuseImage part 3
      | some t =>
        let hs := halfwords t
        let (r, m) := m.checkImage part c.ast d hs
        match r with
        | some n => m.refuseImage part n
        | none => m.admitImage part c.ast bytes d hs
  | _, _ => m.refuseImage part (if b = c.image then 1 else 2)

/-- ADMISSION_RESULT (R283). -/
def execAdmissionResult (p : BitVec 3) (s : State) : Host.Outcome State Fault Refusal :=
  .next (s.modMach fun m =>
    match (m.pk.admBlock p).check with
    | none => m
    | some c => if m.pk.fret < c.ready then m else m.checkPublication p c)

/-! ## The package command stream (R285) -/

/-- The image of a command, while it stands. -/
def Package.seqImage (p : Package) (c : SeqCmd) : Option Image := p.image c.part c.img

/-- An image changed. -/
def Package.modImage (p : Package) (part : BitVec 3) (n : BitVec 12) (f : Image → Image) : Package :=
  { p with images := p.images.map fun i => if i.part = part ∧ i.num = n then f i else i }

/-- The head command of the stream, if it is of a kind and its time has come. -/
def Package.seqHead (p : Package) (k : SeqKind) : Option (SeqCmd × Image) :=
  match p.seq with
  | [] => none
  | c :: _ =>
    if c.kind = k ∧ c.ready ≤ p.fret then (p.seqImage c).map fun i => (c, i) else none

/-- The head command is done. -/
def Package.seqDone (p : Package) : Package := { p with seq := p.seq.drop 1 }

/-- The physical cores of an image. -/
def Image.coresAt (i : Image) : List (ClusterId × CoreId) := i.place.map fun p => p.2

/-- The tier domains of an image. -/
def Image.doms (i : Image) : List Dom := (i.coresAt.map fun c => domOf c.1).dedup

/-- A binding cancels a pending gate request, and wakes a gated tier (R226). -/
def Mach.wakeFor (m : Mach) (i : Image) : Mach :=
  i.doms.foldl (fun m d => m.modDom d fun x =>
    let x := { x with gatePend := false, gateSoon := false }
    if x.gated && !x.tripped then x.startWake m.pk.fret else x) m

/-- The last cycle of the matrix and accumulator instructions that a core has issued (R123, R135 to R137, R138): of their
samples, commits, writes and landings. -/
def Core.matrixUntil (k : Core) : Nat :=
  let mmas := k.mmas.map fun x => x.org.issued + 24 + x.g * (x.m - 1)
  let load := match k.load with
    | none => []
    | some l => [l.org.issued + 2 + l.p]
  (mmas ++ (k.accW.map AccWrite.due) ++ load).foldl max k.accLand

/-- No launched copy of a retired image is under way at a cluster (R245). -/
def Package.copiesOver (p : Package) (cl : ClusterId) : Bool :=
  ((List.range 16).map (BitVec.ofNat 4)).all fun ch =>
    ((p.chan cl ch).cmds.all fun k => !(k.launched && k.org.img.any fun n =>
      (p.image k.org.part n).any Image.retired))

/-- The matrix work for which a Clear that begins to wait now waits (R123): what its image's cores have issued by now. -/
def Mach.matrixWork (m : Mach) (i : Image) : List (ClusterId × CoreId × Nat) :=
  i.coresAt.map fun c => (c.1, c.2, (m.core c.1 c.2).matrixUntil)

/-- Clear may be performed (R123, R226, R245), the matrix work of `idle` being over; a core that has lost its power since has
none left. DESIGN CHOICE: it waits for no store that an ended image has committed and that still drains (log entry 39). -/
def Mach.mayClear (m : Mach) (i : Image) (idle : List (ClusterId × CoreId × Nat)) : Bool :=
  (idle.all fun c =>
    let u := (m.core c.1 c.2.1).matrixUntil
    decide (c.2.2 < m.cyc c.1) || u == 0 || decide (u < m.cyc c.1)) &&
    i.coresAt.all fun c => m.pk.copiesOver c.1

/-- The tags of some lines cleared. -/
def clearTags (t : FMap (BitVec 16)) (w : Window) : FMap (BitVec 16) := t.filter fun p => !w.has p.1

/-- LM windows of claims at zero data and tag 0 (R123). -/
def Core.clearClaim (k : Core) (w : Window) : Core :=
  { k with lm := k.lm.clear (256 * w.base) (256 * w.limit + 255), lmTags := clearTags k.lmTags w,
           badLines := k.badLines.filter fun b => !(b.st == .lm && w.has b.line) }

/-- Scratchpad windows of claims at zero data and tag 0 (R123). -/
def Cluster.clearClaim (c : Cluster) (w : Window) : Cluster :=
  { c with scratch := c.scratch.clear (256 * w.base) (256 * w.limit + 255), spTags := clearTags c.spTags w,
           badLines := c.badLines.filter fun b => !w.has b.1 }

/-- A tile of an accumulator store. -/
def ActDecl.hasTile (a : ActDecl) (t : Nat) : Bool := a.tiles.any fun x => decide (x.1 ≤ t) && decide (t < x.1 + x.2)

/-- The tiles of an activity cleared (R123). -/
def Core.clearTiles (k : Core) (a : ActDecl) : Core :=
  { k with acc := k.acc.filter fun r => !a.hasTile (r.1 / 128),
           badLines := k.badLines.filter fun b => !(b.st == .accumulator && a.hasTile (b.line / 128)) }

/-- What one activity receives, cleared. -/
def Mach.clearAct (m : Mach) (i : Image) (a : ActDecl) : Mach :=
  let r := actRef i.place a
  let m := m.modCore r.cl r.co fun k =>
    let k := (a.lm.filter Window.w).foldl Core.clearClaim k
    let k := k.clearTiles a
    if k.lastImg = some i.num ∨ k.lastImg = none then k
    else
      { k with plane := Plane.reset k.plane.buf, shadowPlane := Plane.reset k.shadowPlane.buf,
               badLines := k.badLines.filter fun b => b.st != .plane }
  m.modCluster r.cl fun c => (a.sp.filter Window.w).foldl Cluster.clearClaim c

/-- CLEAR_COMMAND (R285, R123). -/
def execClearCommand (s : State) : Host.Outcome State Fault Refusal :=
  .next (s.modMach fun m =>
    match m.pk.seqHead .clear with
    | none => m
    | some (c, i) =>
      let m := m.wakeFor i
      if i.doms.any fun d => (m.dom d).away then m
      else
        let idle := c.idle.getD (m.matrixWork i)
        if m.mayClear i idle then (i.decl.acts.foldl (fun m a => m.clearAct i a) m).modPk Package.seqDone
        else m.modPk fun p => { p with seq := { c with idle := some idle } :: p.seq.drop 1 })

/-- The bytes of code at their origin. -/
def codeCells (org : Nat) (ws : List SlotWord) : List (Nat × Byte) :=
  cellsAt org (ws.flatMap fun w => bytesOfNat 4 w.toNat)

/-- A page of vault memory of a partition that no other const page has, and one of its key slots that is not revoked; the
specification does not name them (log entry 13). -/
def Mach.freePage (m : Mach) (part : BitVec 3) : (Nat × BitVec 6) × Mach :=
  let (c, m) := m.choice
  let (d, m) := m.choice
  let mine := clusterIds.filter fun cl => m.pk.clusterIn part cl
  let v := (mine[c % max 1 mine.length]?).getD 0
  let used := m.pk.constMaps.map fun e => e.2.pbase
  let page := fun (n : Nat) => v.toNat * 2 ^ 35 + 4096 * ((c / 32 + n) % 5242880)
  let n := ((List.range (used.length + 1)).find? fun n => !used.contains (page n)).getD 0
  let keys := (m.pk.keys.filter fun k => k.2.part == some part && !k.2.revoked).map Prod.fst
  ((page n, BitVec.ofNat 6 ((keys[d % max 1 keys.length]?).getD 0)), m)

/-- A const page mapped with R set and W and X clear (R185, R285): at the place to which the image's AST already maps its
address, or else at a free one. DESIGN CHOICE: the page is pinned where the AST's own leaf is, and PS, IO and RE are clear
(log entry 13). -/
def Mach.mapConst (m : Mach) (i : Image) (va : Nat) : Mach :=
  let a := loaderAgent i.part i.ast
  let (w, m) := m.lookup a va
  let (p, m) := match w with
    | .leaf t => ((t.pbase + (va - t.vbase), t.key, t.pin), m)
    | .bad _ _ => let (f, m) := m.freePage i.part; ((f.1, f.2, false), m)
  let page : TlbEntry :=
    { ast := i.ast, part := i.part, vbase := va, log2 := 12, pbase := p.1, key := p.2.1, io := false, re := false,
      ps := false, pin := p.2.2, x := false, w := false, r := true }
  m.modPk fun k => { k with constMaps := (i.num, page) :: k.constMaps }

/-- The bytes of a const section written to its pages, once they are mapped. DESIGN CHOICE: a byte whose mapping fails a
check of R237 is dropped, and the Load goes on (log entry 39). -/
def Mach.writeConst (m : Mach) (a : Agent) (va : Nat) (b : Byte) : Mach :=
  let (t, m) := m.translate a .read va 1
  match t with
  | .ok pa e => m.physWrite a.writer e pa [b]
  | .stall _ _ | .fault _ => m

/-- The code of an image written into the instruction stores; a line that it covers whole is whole again (R208). -/
def Mach.loadCode (m : Mach) (i : Image) : Mach :=
  i.decl.code.foldl (fun m c =>
    let p := placeOf i.place c.1
    m.modCore p.1 p.2 fun k =>
      let cells := codeCells c.2.1 c.2.2
      { k.mend .instr (wholeLines cells) with istore := Memory.putAll (some 0xFF) k.istore cells }) m

/-- The data sections of an image written, and its const pages mapped. -/
def Mach.loadData (m : Mach) (i : Image) : Mach :=
  let m := i.decl.data.foldl (fun m c =>
    let p := placeOf i.place c.1
    m.modCore p.1 p.2 fun k => k.writeLM none (cellsAt c.2.1 c.2.2)) m
  let m := i.decl.consts.foldl (fun m c =>
    (List.range ((c.2.length + 4095) / 4096)).foldl (fun m n => m.mapConst i (c.1 + 4096 * n)) m) m
  i.decl.consts.foldl (fun m c => (cellsAt c.1 c.2).foldl
    (fun m x => m.writeConst (loaderAgent i.part i.ast) x.1 x.2) m) m

/-- LOAD_COMMAND (R285): the Load of a restart writes the code alone. It waits while a cluster holds engine accesses (R207,
R224), and, as a Bind does, for the tiers that it has to wake, whose wake clears what they hold (R226; log entry 30). -/
def execLoadCommand (s : State) : Host.Outcome State Fault Refusal :=
  .next (s.modMach fun m =>
    match m.pk.seqHead .load with
    | none => m
    | some (c, i) =>
      let m := m.wakeFor i
      if (i.doms.any fun d => (m.dom d).away) || i.coresAt.any fun p => m.sramHeld p.1 then m
      else
      let m := m.loadCode i
      (if c.again then m else m.loadData i).modPk Package.seqDone)

/-- Resident queues of a partition in a quadrant. -/
def Package.residents (p : Package) (part : BitVec 3) (q : Quad) : Nat :=
  (p.queues.filter fun x => x.part == part && x.quad == q && x.resident).length

/-- The queue places of a partition in a quadrant (R287). -/
def Package.placesOf (p : Package) (part : BitVec 3) (q : Quad) : Nat :=
  match p.parts.find part.toNat with
  | none => 0
  | some x => (x.defn.places[q.toNat]?).getD 0

/-- A queue created (R285, R287): resident when it fits and a place of the partition is free. -/
def Package.openQueue (p : Package) (i : Image) (d : QueueDecl) : Package :=
  let res := decide (d.occ ≤ 256) && decide (p.residents i.part i.home < p.placesOf i.part i.home)
  { p with queues := p.queues ++ [{ handle := d.handle, img := i.num, part := i.part, ast := i.ast, quad := i.home,
                                    occ := d.occ, area := d.area, resident := res, entries := [], next := 1, waits := [],
                                    delivers := [] }] }

/-- OPEN_COMMAND (R285): the pool entries that the admission took are open, the queues empty and the scopes closed. -/
def execOpenCommand (s : State) : Host.Outcome State Fault Refusal :=
  .next (s.modMach fun m =>
    match m.pk.seqHead .openIt with
    | none => m
    | some (_, i) =>
      m.modPk fun p =>
        let p := i.decl.queues.foldl (fun p d => p.openQueue i d) p
        let open' := fun (o : Pool) => if o.part = i.part ∧ o.img = i.num then { o with opened := true } else o
        { p with pools := p.pools.map open',
                 scopes := p.scopes ++ i.decl.scopes.map fun (d : ScopeDecl) =>
                   (⟨d.k, i.num, i.part, i.home, d.parent, false, 0, []⟩ : Scope) }.seqDone)

/-- The tiles of an activity as a mask. -/
def ActDecl.tileMask (a : ActDecl) : BitVec 32 :=
  (List.range 32).foldl (fun m t => if a.hasTile t then m ||| (1#32 <<< t) else m) 0

/-- A context at binding (R38, R285). -/
def Context.bind (i : Image) (n : Nat) (a : ActDecl) (gang : Option (BitVec 6)) : Context :=
  { Context.reset with
    run := .waiting, img := some i.num, part := i.part, ast := i.ast, act := n, prio := a.prio, urgent := a.urgent,
    gang := gang, pc := a.entry, lmWin := a.lm, spWin := a.sp, tiles := a.tileMask, policy := a.policy.getD 1,
    retry := (a.retry.getD 15).toNat, retryInit := (a.retry.getD 15).toNat, budget := a.budget, gateMax := a.gates,
    evtArea := a.events }

/-- The gangs of an image in a cluster removed. -/
def Cluster.dropGangs (c : Cluster) (n : BitVec 12) : Cluster := { c with gangs := c.gangs.filter fun g => g.2.img != some n }

/-- The gangs of an image formed. -/
def Mach.formGangs (m : Mach) (i : Image) : Mach :=
  i.decl.gangs.foldl (fun m g =>
    match g.members with
    | [] => m
    | n :: _ =>
      match i.ref n with
      | none => m
      | some r =>
        let c := m.cluster r.cl
        let id := (List.range 64).find? fun k => (c.gangs.find k).isNone
        match id with
        | none => m
        | some id =>
          let refs := g.members.filterMap fun x => i.ref x
          let m := m.modCluster r.cl fun c =>
            { c with gangs := c.gangs.put id ⟨refs.map fun x => (x.co, x.cx), g.policy.getD 1, (g.retry.getD 15).toNat,
                                              (g.retry.getD 15).toNat, false, 0, [], [], [], some i.num⟩ }
          refs.foldl (fun m x => m.modCtx x fun y => { y with gang := some (BitVec.ofNat 6 id) }) m) m

/-- A pool as a context is bound (R270): what an earlier activity of the context still held is released, and a writer
starts with no held slot. A deferred publish of the writer that still waits is cancelled (log entry 16). -/
def Pool.rebind (o : Pool) (r : CtxRef) : Pool :=
  let o := { o with releases := o.releases.filter fun q => q.1 != r, pins := o.pins.filter fun x => x.1 != r }
  if o.writer = r then { o with held := 0x7F, pend := false, pseen := none } else o

/-- One context bound: its activity's registers and declarations, and nothing left of an earlier activity. A restart keeps
the binding by which event records find the image's area (R177). -/
def Mach.bindCtx (m : Mach) (i : Image) (n : Nat) (a : ActDecl) (again : Bool) : Mach :=
  let r := actRef i.place a
  let old := (m.ctx r).bindId
  let (id, m) := m.fresh
  let x : Context := { Context.bind i n a none with bindId := if again then old else id + 1 }
  let m := m.modCore r.cl r.co fun k => { k.setCtx r.cx x with lastImg := some i.num }
  let pubs := (m.pk.pools.filter fun o => o.pend && o.writer == r).map Pool.peff
  pubs.foldl (fun m e => m.performed e) (m.modPk fun p => { p with pools := p.pools.map fun o => o.rebind r })

/-- An earlier activity of a context has committed what still drains, has a task end to send, or has pool commands on their
path: a Bind waits for them (R288, R290, R270). -/
def Mach.trailing (m : Mach) (r : CtxRef) : Bool :=
  !(m.core r.cl r.co).drainedOut r.cx || !(m.ctx r).taskEnds.isEmpty || m.pk.path.any fun g => g.org.ctx == r && g.msg.isPool

/-- The channels of an image given to their contexts (R245, R253, R318), with their IDs at the reset values of an admission.
DESIGN CHOICE: two images of a partition may bind one channel, and the later Bind takes it over, the earlier one's commands
staying in it (R186 checks within an image, R283 counts; log entry 39). -/
def Mach.bindChans (m : Mach) (i : Image) (again : Bool) : Mach :=
  i.decl.chans.foldl (fun m c =>
    match i.ref c.act with
    | none => m
    | some r =>
      m.modPk fun p =>
        let set := fun (x : PortChan) =>
          let x := { x with owner := some r, img := some i.num }
          if again then x
          else { x with next := 1, done := 0, ended := [], cmds := x.cmds.map fun k => { k with id := 0 } }
        match c.kind with
        | .cp => p.modChan r.cl c.ch fun x =>
          let x := { x with owner := some r, img := some i.num }
          if again then x else { x with next := 1, done := 0, ended := [] }
        | .sio => p.modSio (portKey i.part (c.ch.setWidth 2)) set
        | .net => p.modNet (portKey i.part (c.ch.setWidth 2)) set) m

/-! ## Start, Stop and Retire (R285) -/

/-- The place of an image among the admissions: the images stand in their order. -/
def Package.admIndex (p : Package) (part : BitVec 3) (n : BitVec 12) : Nat :=
  p.images.findIdx fun j => j.part == part && j.num == n

/-- A command's image was admitted after another. -/
def Package.admittedAfter (p : Package) (i : Image) (part : BitVec 3) (n : BitVec 12) : Bool :=
  decide (p.admIndex i.part i.num < p.admIndex part n)

/-- Commands of an image, or of one admitted before it, still stand in the stream. -/
def Package.seqPending (p : Package) (i : Image) : Bool := p.seq.any fun c => !p.admittedAfter i c.part c.img

/-- The first release of one context set (R285, R164). -/
def Mach.firstRelease (m : Mach) (i : Image) (a : ActDecl) : Mach :=
  let r := actRef i.place a
  m.modCtx r fun x =>
    match a.first with
    | .now => { x with wait := .now, relTime := m.pk.fret }
    | .at t =>
      { x with wait := .at t.toNat, relTime := if t.toNat ≤ m.pk.count then m.pk.fret else m.pk.tickOf t }
    | .q h => { x with wait := .q h none, relTime := m.pk.fret }

/-- The contexts that first wait on a queue, in the order of R288. -/
def Image.queueStarts (i : Image) : List (CtxRef × BitVec 12) :=
  sortBy (fun a b => decide (a.1.key < b.1.key)) (i.decl.acts.filterMap fun a => match a.first with
    | .q h => some (actRef i.place a, h)
    | .now | .at _ => none)

/-- The wait messages of a Start: they arrive in one tick (R288). -/
def Mach.startWaits (m : Mach) (i : Image) : Mach :=
  let (d, m) := m.delay
  let t := m.pk.fret + 1 + d
  i.queueStarts.foldl (fun m w =>
    m.modPk fun p => { p with path := p.path ++ [⟨m.selfOrigin w.1, i.home, .waitQ w.2, none, [], true, t, none, false⟩] }) m

/-- Messages of an image to its queue engine are on their way. -/
def Package.queueTraffic (p : Package) (part : BitVec 3) (n : BitVec 12) : Bool :=
  p.path.any fun g => g.org.part == part && g.org.img == some n && !g.msg.isPool

/-- A Start performs (R285). -/
def Mach.startImage (m : Mach) (i : Image) : Mach :=
  let m := i.decl.acts.foldl (fun m a => m.firstRelease i a) m
  let m := m.startWaits i
  m.modPk fun p => p.modImage i.part i.num fun x => { x with started := true }

/-- The commands of a restart join the stream, before those of images that were admitted later (R285). -/
def Mach.restart (m : Mach) (i : Image) : Mach :=
  let (d1, m) := m.delay
  let (d2, m) := m.delay
  let t := m.pk.fret + 1 + d1
  let late := m.pk.admittedAfter i
  let again := [⟨.load, i.part, i.num, true, t, false, none⟩, ⟨.bind, i.part, i.num, true, t + d2, true, none⟩]
  let early := m.pk.seq.takeWhile fun c => !late c.part c.img
  m.modPk fun p => { p with seq := early ++ again ++ m.pk.seq.drop early.length }

/-- Every context of an image is killed (R285). -/
def Mach.stopImage (m : Mach) (i : Image) : Mach :=
  (m.killAll i.refs).modPk fun p => p.modImage i.part i.num fun x => { x with stopped := true }

/-- The copies of an image that have not launched are discarded (R245): they count as performed. -/
def Mach.discardCopies (m : Mach) (i : Image) : Mach :=
  let mine := fun (k : CopyCmd) => k.org.part == i.part && k.org.img == some i.num && !k.launched
  let gone := m.pk.chans.flatMap fun c => (c.2.cmds.filter mine).map CopyCmd.eff
  let m := m.modPk fun p =>
    { p with chans := p.chans.map fun c => (c.1, { c.2 with cmds := c.2.cmds.filter fun k => !mine k }) }
  gone.foldl (fun m e => m.performed e) m

/-- The deferred publishes of an image are cancelled (R270): they count as performed. -/
def Mach.cancelPublishes (m : Mach) (i : Image) : Mach :=
  ((m.pk.pools.filter fun o => o.part == i.part && o.img == i.num && o.pend).map Pool.peff).foldl
    (fun m e => m.performed e) m

/-- The code of an image overwritten with 0xFFFF_FFFF (R285). -/
def Mach.wipeCode (m : Mach) (i : Image) : Mach :=
  i.decl.code.foldl (fun m c =>
    let p := placeOf i.place c.1
    m.modCore p.1 p.2 fun k =>
      { k.mend .instr (wholeLines (codeCells c.2.1 c.2.2)) with
        istore := k.istore.clear c.2.1 (c.2.1 + 4 * c.2.2.length - 1) }) m

/-- A context of a retired image is no longer bound to it. -/
def Mach.unbindCtx (m : Mach) (r : CtxRef) : Mach :=
  let m := m.modCtx r fun _ => Context.reset
  m.modCore r.cl r.co fun k => { k with lastImg := some 0 }

/-- An image that has contexts on a core. -/
def Package.holdsCore (p : Package) (cl : ClusterId) (co : CoreId) : Bool :=
  p.live.any fun i => i.refs.any fun r => r.cl == cl && r.co == co

/-- The bridge FIFOs on whose ends no image holds contexts any longer (R221). -/
def Mach.clearBridges (m : Mach) (i : Image) : Mach :=
  i.coresAt.foldl (fun m c =>
    if m.pk.holdsCore c.1 c.2 || m.pk.holdsCore (otherEnd c.1) c.2 then m else m.clearBridge c.1 c.2) m

/-- The text bindings of an image end with it (R300). -/
def Mach.dropBindings (m : Mach) (i : Image) : Mach :=
  ((List.range 16).map (BitVec.ofNat 4)).foldl (fun m e =>
    ((List.range 16).map (BitVec.ofNat 4)).foldl (fun m n =>
      let t := m.pk.textEngine e
      let x := t.slot n.toNat
      if t.part = some i.part ∧ x.valid ∧ x.img = i.num then m.unbindSlot e n none else m) m) m

/-- The channels of an image are bound to no context. -/
def Package.dropOwners (p : Package) (i : Image) : Package :=
  let port := fun (c : Nat × PortChan) =>
    if c.1 / 4 = i.part.toNat ∧ c.2.img = some i.num then (c.1, { c.2 with owner := none, img := none }) else c
  { p with
    chans := p.chans.map fun c =>
      if c.2.img = some i.num ∧ (c.2.owner.any fun r => i.refs.contains r) then (c.1, { c.2 with owner := none }) else c,
    sio := p.sio.map port, net := p.net.map port }

/-- A Retire performs (R285, R270, R245, R221). -/
def Mach.retireImage (m : Mach) (i : Image) : Mach :=
  let m := if i.stopped then m else m.stopImage i
  let m := ((m.discardCopies i).cancelPublishes i).dropBindings i
  let m := m.modPk fun p =>
    ({ p with pools := p.pools.filter fun o => !(o.part == i.part && o.img == i.num),
              queues := p.queues.filter fun o => !(o.part == i.part && o.img == i.num),
              scopes := p.scopes.filter fun o => !(o.part == i.part && o.img == i.num),
              constMaps := p.constMaps.filter fun e => !(e.2.part == i.part && e.1 == i.num) }.dropOwners i).modImage
      i.part i.num fun x => { x with retired := true }
  let m := m.wipeCode i
  let m := i.coresAt.foldl (fun m p => m.modCluster p.1 fun x => x.dropGangs i.num) m
  (i.refs.foldl Mach.unbindCtx m).clearBridges i

/-- Commands wait before one more of an image (R285): those of the launch sequencer for it or for an image admitted before it,
and for a Start of contexts that
first wait on a queue the image's earlier messages to its queue engine (R288). -/
def Package.admHeld (p : Package) (op : AdmOp) (i : Image) : Bool :=
  p.seqPending i ||
    (op == .start && !i.started && !i.stopped && !i.queueStarts.isEmpty && p.queueTraffic i.part i.num)

/-- A command of admcmd performs (R285). -/
def Mach.admPerform (m : Mach) (op : AdmOp) (i : Image) : Mach :=
  if i.retired then m
  else match op with
  | .start => if i.stopped then m.restart i else if i.started then m else m.startImage i
  | .stop => m.stopImage i
  | .retire => m.retireImage i

/-- A command of admcmd for an image that the partition holds; of any other number it is ignored. It performs after every
earlier command of its image, and after the commands that wait for an image admitted before it (R285). -/
def Mach.admCommand (m : Mach) (op : AdmOp) (p : BitVec 3) (im : BitVec 12) : Mach :=
  match m.pk.image p im with
  | none => m
  | some i =>
    if m.pk.admHeld op i || m.pk.admWait.any fun w => !m.pk.admittedAfter i w.2.1 w.2.2 then
      m.modPk fun k => { k with admWait := k.admWait ++ [(op, p, im)] }
    else m.admPerform op i

/-- The commands that have waited, in the order of the admissions of their images and then their own: each is tried again,
behind those that still wait. -/
def State.admNext (s : State) : State :=
  s.modMach fun m =>
    let at' := fun (w : AdmOp × BitVec 3 × BitVec 12) => m.pk.admIndex w.2.1 w.2.2
    (sortBy (fun a b => decide (at' a < at' b)) m.pk.admWait).foldl (fun m w => m.admCommand w.1 w.2.1 w.2.2)
      (m.modPk fun p => { p with admWait := [] })

/-- ADMCMD_START (R285). -/
def execAdmcmdStart (p : BitVec 3) (im : BitVec 12) (s : State) : Host.Outcome State Fault Refusal :=
  .next (s.modMach fun m => m.admCommand .start p im)
/-- ADMCMD_STOP (R285). -/
def execAdmcmdStop (p : BitVec 3) (im : BitVec 12) (s : State) : Host.Outcome State Fault Refusal :=
  .next (s.modMach fun m => m.admCommand .stop p im)
/-- ADMCMD_RETIRE (R285, R293). -/
def execAdmcmdRetire (p : BitVec 3) (im : BitVec 12) (s : State) : Host.Outcome State Fault Refusal :=
  .next (s.modMach fun m => m.admCommand .retire p im)

/-- The Start that follows the Bind of a restart: before the commands that wait. -/
def Mach.startAfter (m : Mach) (c : SeqCmd) : Mach :=
  match m.pk.image c.part c.img with
  | none => m
  | some i =>
    if !c.start then m
    else if m.pk.admHeld .start i then m.modPk fun p => { p with admWait := (.start, c.part, c.img) :: p.admWait }
    else m.admPerform .start i

/-- BIND_COMMAND (R285). -/
def execBindCommand (s : State) : Host.Outcome State Fault Refusal :=
  .next (s.modMach fun m =>
    match m.pk.seqHead .bind with
    | none => m
    | some (c, i) =>
      let m := m.wakeFor i
      if (i.doms.any fun d => (m.dom d).away) || i.refs.any m.trailing then m
      else
        let m := i.coresAt.foldl (fun m p => (m.endings p.1 m.pk.fret).modCluster p.1 fun x => x.dropGangs i.num) m
        let m := (i.decl.acts.mapIdx fun n a => (n, a)).foldl (fun m x => m.bindCtx i x.1 x.2 c.again) m
        let m := (m.formGangs i).bindChans i c.again
        let m := m.modPk fun p =>
          (p.modImage i.part i.num fun x => { x with stopped := false, started := false }).seqDone
        m.startAfter c)

/-- A launched copy of an image is under way. -/
def Package.copiesLeft (p : Package) (i : Image) : Bool :=
  p.chans.any fun c => c.2.cmds.any fun k => k.launched && k.org.part == i.part && k.org.img == some i.num

/-- A command of an image whose number is freed: it belongs to no image from now on (log entry 16). -/
def CmdOrigin.orphan (o : CmdOrigin) (i : Image) : CmdOrigin :=
  if o.part = i.part ∧ o.img = some i.num then { o with img := none } else o

/-- What a retired image has committed and what still travels is of no image once its number is free. -/
def Mach.orphans (m : Mach) (i : Image) : Mach :=
  let drains := fun (d : DrainItem) => if d.part = i.part ∧ d.img = some i.num then { d with img := none } else d
  let core := fun (k : Core) => { k with drain := k.drain.map drains, heldEvts := k.heldEvts.map drains }
  let cluster := fun (c : Cluster) => { c with cores := c.cores.map fun (k : Nat × Core) => (k.1, core k.2) }
  let m := { m with clusters := m.clusters.map fun (c : Nat × Cluster) => (c.1, cluster c.2) }
  let chan := fun (c : Nat × PortChan) =>
    (c.1, { c.2 with cmds := c.2.cmds.map fun (x : PortCmd) => { x with org := x.org.orphan i } })
  let text := fun (t : Nat × TextEngine) =>
    (t.1, { t.2 with cmds := t.2.cmds.map fun (x : TextCmd) => { x with org := x.org.orphan i } })
  m.modPk fun p => { p with path := p.path.map (fun (g : PathMsg) => { g with org := g.org.orphan i }),
                            fars := p.fars.map (fun (f : FarAtomic) => { f with org := f.org.orphan i }),
                            sio := p.sio.map chan, net := p.net.map chan, text := p.text.map text }

/-- IMAGE_NUMBER_FREE (R285): of every retired image of that number whose launched copies have completed. -/
def execImageNumberFree (im : BitVec 12) (s : State) : Host.Outcome State Fault Refusal :=
  .next (s.modMach fun m =>
    let free := m.pk.images.filter fun i => i.num == im && i.retired && !m.pk.copiesLeft i
    (free.foldl Mach.orphans m).modPk fun p => { p with images := p.images.filter fun i => !free.contains i })

end Sys2Proof.Machine
end

