-- ==== Sys2Proof/Machine/Text.lean ====
section
/-!
DEFINITION. Text engines (chapter 23): vocabulary images, tokenisation, inbound requests, detokenisation, bindings, and
the commands txt.out and txt.tok.
-/

namespace Sys2Proof.Machine

/-! ## Runs of accesses -/

/-- A run of accesses, and what follows it. -/
def runThen {α β : Type} (r : Run α × Mach) (f : α → Mach → Run β × Mach) : Run β × Mach :=
  match r with
  | (.done x, m) => f x m
  | (.stall k l c v, m) => (.stall k l c v, m)
  | (.fault k v, m) => (.fault k v, m)
  | (.error o, m) => (.error o, m)

/-! ## Vocabulary images (R294, R295) -/

/-- A number in a byte string. -/
def numAt (b : List Byte) (a n : Nat) : Nat := natOfBytes ((b.drop a).take n)

/-- A Nyhar vocabulary image (R294). -/
structure Vocab where
  bytes : List Byte
  deriving DecidableEq, Repr

def Vocab.tokens (v : Vocab) : Nat := numAt v.bytes 4 4
def Vocab.buckets (v : Vocab) : Nat := numAt v.bytes 8 4
def Vocab.specials (v : Vocab) : Nat := numAt v.bytes 12 2
def Vocab.chunk (v : Vocab) : Nat := numAt v.bytes 14 2
def Vocab.off (v : Vocab) (n : Nat) : Nat := numAt v.bytes (16 + 8 * n) 8
def Vocab.length (v : Vocab) : Nat := numAt v.bytes 96 8

/-- The initial token of a byte. -/
def Vocab.byteToken (v : Vocab) (b : Byte) : Nat := numAt v.bytes (v.off 0 + 4 * b.toNat) 4
/-- Offset and length of a token's string. -/
def Vocab.tokenOff (v : Vocab) (i : Nat) : Nat := numAt v.bytes (v.off 1 + 8 * i) 4
def Vocab.tokenLen (v : Vocab) (i : Nat) : Nat := numAt v.bytes (v.off 1 + 8 * i + 4) 1
/-- The string of a token. -/
def Vocab.string (v : Vocab) (i : Nat) : List Byte := (v.bytes.drop (v.off 2 + v.tokenOff i)).take (v.tokenLen i)

/-- A bucket of the merge table. -/
structure Bucket where
  left   : Nat
  right  : Nat
  rank   : Nat
  merged : Nat
  deriving DecidableEq, Repr

def Vocab.bucket (v : Vocab) (b : Nat) : Bucket :=
  let a := v.off 3 + 16 * b
  ⟨numAt v.bytes a 4, numAt v.bytes (a + 4) 4, numAt v.bytes (a + 8) 4, numAt v.bytes (a + 12) 4⟩
def Bucket.empty (b : Bucket) : Bool := b.left == 0xFFFFFFFF

/-- A special string: its ID and its bytes. -/
def Vocab.special (v : Vocab) (n : Nat) : Nat × List Byte :=
  let a := v.off 4 + 72 * n
  (numAt v.bytes a 4, (v.bytes.drop (a + 8)).take (numAt v.bytes (a + 4) 1))
def Vocab.specialList (v : Vocab) : List (Nat × List Byte) := (List.range v.specials).map v.special

/-- The class of a byte. -/
def Vocab.cls (v : Vocab) (b : Byte) : Nat :=
  let x := numAt v.bytes (v.off 5 + b.toNat / 2) 1
  if b.toNat % 2 = 0 then x % 16 else x / 16
/-- A split falls between two bytes. -/
def Vocab.splits (v : Vocab) (a b : Byte) : Bool := (numAt v.bytes (64 + 2 * v.cls a) 2).testBit (v.cls b)

/-- The merge entry of a pair (R295): rank and merged ID. -/
def Vocab.probe (v : Vocab) (l r : Nat) : Nat → Nat → Option (Nat × Nat)
  | 0, _ => none
  | fuel + 1, b =>
    let x := v.bucket b
    if x.empty then none
    else if x.left = l ∧ x.right = r then some (x.rank, x.merged)
    else v.probe l r fuel ((b + 1) % v.buckets)
def Vocab.merge (v : Vocab) (l r : Nat) : Option (Nat × Nat) :=
  v.probe l r v.buckets ((l * 0x9E3779B1 + r * 0x85EBCA77) % 2 ^ 32 % v.buckets)

/-- The header fields lie in their ranges (R294). -/
def Vocab.headerOk (v : Vocab) : Bool :=
  numAt v.bytes 0 4 == 0x5248594E && decide (1 ≤ v.tokens) && decide (v.tokens ≤ 262144) &&
    decide (16 ≤ v.buckets) && decide (v.buckets ≤ 4194304) && v.buckets == 2 ^ v.buckets.log2 &&
    decide (v.specials ≤ 256) && decide (1 ≤ v.chunk) && decide (v.chunk ≤ 512) &&
    decide (128 ≤ v.length) && numAt v.bytes 104 24 == 0

/-- No section runs past the image's length (R295). -/
def Vocab.sectionsOk (v : Vocab) : Bool :=
  decide (v.off 0 + 1024 ≤ v.length) && decide (v.off 1 + 8 * v.tokens ≤ v.length) &&
    decide (v.off 3 + 16 * v.buckets ≤ v.length) && decide (v.off 4 + 72 * v.specials ≤ v.length) &&
    decide (v.off 5 + 128 ≤ v.length) &&
    (List.range v.tokens).all fun i =>
      decide (1 ≤ v.tokenLen i) && decide (v.tokenLen i ≤ 128) && numAt v.bytes (v.off 1 + 8 * i + 5) 3 == 0 &&
        decide (v.off 2 + v.tokenOff i + v.tokenLen i ≤ v.length)

/-- Every ID lies below T, and the merge table and the specials are as R295 asks. -/
def Vocab.entriesOk (v : Vocab) : Bool :=
  let full := ((List.range v.buckets).map v.bucket).filter fun b => !b.empty
  ((List.range 256).all fun b => decide (v.byteToken (BitVec.ofNat 8 b) < v.tokens)) &&
    (full.all fun b => decide (b.left < v.tokens) && decide (b.right < v.tokens) && decide (b.merged < v.tokens)) &&
    decide (full.length < v.buckets) && decide ((full.map fun b => (b.left, b.right)).Nodup) &&
    ((List.range v.specials).all fun n =>
      let a := v.off 4 + 72 * n
      decide ((v.special n).1 < v.tokens) && decide (1 ≤ numAt v.bytes (a + 4) 1) &&
        decide (numAt v.bytes (a + 4) 1 ≤ 64) && numAt v.bytes (a + 5) 3 == 0) &&
    decide ((v.specialList.map Prod.snd).Nodup)

/-- A vocabulary image is accepted (R295). -/
def Vocab.ok (v : Vocab) : Bool := v.headerOk && v.sectionsOk && v.entriesOk

/-! ## Tokenisation (R296) -/

/-- The longest special string that a text begins with: its ID and its length. -/
def Vocab.specialAt (v : Vocab) (b : List Byte) : Option (Nat × Nat) :=
  v.specialList.foldl (fun best x =>
    if x.2.isPrefixOf b then
      (match best with
        | none => some (x.1, x.2.length)
        | some y => if y.2 < x.2.length then some (x.1, x.2.length) else some y)
    else best) none

/-- A span split at its splits. -/
def Vocab.pieces (v : Vocab) : List Byte → List (List Byte)
  | [] => []
  | [a] => [[a]]
  | a :: b :: rest =>
    let ps := v.pieces (b :: rest)
    if v.splits a b then [a] :: ps
    else match ps with
      | [] => [[a]]
      | p :: q => (a :: p) :: q

/-- A piece cut into pieces of at most `c` bytes from its start. -/
def cutPiece (c : Nat) : Nat → List Byte → List (List Byte)
  | 0, _ => []
  | _ + 1, [] => []
  | fuel + 1, b :: l => (b :: l).take c :: cutPiece c fuel ((b :: l).drop c)

/-- The adjacent pair of lowest rank, the leftmost on a tie: rank, position and merged ID. -/
def Vocab.bestPair (v : Vocab) : Nat → List Nat → Option (Nat × Nat × Nat)
  | _, [] => none
  | _, [_] => none
  | i, l :: r :: rest =>
    let later := v.bestPair (i + 1) (r :: rest)
    match v.merge l r with
    | none => later
    | some (rank, id) =>
      match later with
      | none => some (rank, i, id)
      | some y => if y.1 < rank then some y else some (rank, i, id)

/-- Merges until no adjacent pair has a rank. -/
def Vocab.mergeAll (v : Vocab) : Nat → List Nat → List Nat
  | 0, t => t
  | fuel + 1, t =>
    match v.bestPair 0 t with
    | none => t
    | some (_, i, id) => v.mergeAll fuel (t.take i ++ id :: t.drop (i + 2))

/-- The IDs of a span, each with its covered length. -/
def Vocab.spanIds (v : Vocab) (s : List Byte) : List (Nat × Nat) :=
  ((v.pieces s).flatMap fun p => cutPiece v.chunk p.length p).flatMap fun p =>
    (v.mergeAll p.length (p.map v.byteToken)).map fun i => (i, v.tokenLen i)

/-- The IDs of a text, each with its covered length (R296). -/
def Vocab.tokenise (v : Vocab) : Nat → List Byte → List Byte → List (Nat × Nat)
  | 0, span, _ => v.spanIds span
  | _ + 1, span, [] => v.spanIds span
  | fuel + 1, span, b :: rest =>
    match v.specialAt (b :: rest) with
    | some (id, n) => v.spanIds span ++ (id, n) :: v.tokenise fuel [] ((b :: rest).drop n)
    | none => v.tokenise fuel (span ++ [b]) rest

def Vocab.ids (v : Vocab) (b : List Byte) : List (Nat × Nat) := v.tokenise b.length [] b

/-! ## Slots and agents -/

/-- The slot of a text engine. -/
def Package.textSlot (p : Package) (e : BitVec 4) (n : Nat) : TextSlot := (p.textEngine e).slot n
/-- A slot changed. -/
def Mach.modTextSlot (m : Mach) (e : BitVec 4) (n : Nat) (f : TextSlot → TextSlot) : Mach :=
  m.modPk fun p => p.modText e fun t => t.modSlot n f

/-- The agent of a binding's own accesses: vocabulary, area, release word and error ring. -/
def Package.textAgent (p : Package) (e : BitVec 4) (n : Nat) : Agent :=
  ⟨.text e n, (p.textEngine e).part.getD 0, (p.textSlot e n).ast, none, false⟩

/-- The binding handle of a slot (R300). -/
def bindingHandle (e n : BitVec 4) : Nat := e.toNat % 8 * 16 + n.toNat
/-- The handle of a binding, whatever its key in the engine's table. -/
def Package.handleOf (p : Package) (e : BitVec 4) (n : Nat) : Nat := bindingHandle e (p.textSlot e n).no

/-- Bytes that a binding's work reads with the binding's own accesses. -/
def Mach.readSlot (m : Mach) (e : BitVec 4) (n tag va len : Nat) : Run (List Byte) × Mach :=
  let r := m.readKept (m.pk.textAgent e n) tag va (m.pk.textSlot e n).kept len
  (r.1.1, r.2.modTextSlot e n fun y => { y with kept := r.1.2 })

/-- A binding's work is over: the bytes that it has read are read anew by the next. -/
def TextSlot.forget (x : TextSlot) : TextSlot := { x with kept := [] }

/-- The vocabulary of a binding, read whole. -/
def Mach.readVocab (m : Mach) (e : BitVec 4) (n : Nat) : Run Vocab × Mach :=
  let va := (m.pk.textSlot e n).vocab.toNat
  runThen (m.readSlot e n 0 va 128) fun h m =>
    runThen (m.readSlot e n 0 va (min (numAt h 96 8) (2 ^ 48))) fun b m => (.done ⟨b⟩, m)

/-- An error record written at its place in the ring (R306): the count is the slot's, and a record that its ring does not
take, by an access fault or an abort, is lost and not counted (log entry 28). -/
def Mach.putRecord (m : Mach) (e : BitVec 4) (n : Nat) (r : BitVec 128) : Run Unit × Mach :=
  let x := m.pk.textSlot e n
  let k := (m.pk.textSlot e x.no.toNat).cnt.toNat
  let (w, m) := m.writeVirt (m.pk.textAgent e n) (x.err.toNat + 16 * (k % 256)) (bytesOfNat 16 r.toNat)
  match w with
  | .done _ =>
    let m := m.modTextSlot e x.no.toNat fun y => { y with cnt := y.cnt + 1 }
    (w, m.modCluster x.service fun c => c.setPending (if e.toNat < 8 then 19 else 20))
  | .stall _ _ _ _ | .fault _ _ | .error _ => (w, m)

/-- Error records written in order, until one stalls: it and those after it wait in the binding's stream (R238). -/
def Mach.putRecords (m : Mach) (e : BitVec 4) (n : Nat) : List (BitVec 128) → Mach
  | [] => m.modTextSlot e n fun y => { y with errs := [] }
  | r :: rest =>
    let (w, m) := m.putRecord e n r
    match w with
    | .stall k l ac va =>
      let (x, m) := m.recordFault (.text e n) k l ac (BitVec.ofNat 48 va) (m.pk.textSlot e n).ast m.fret
      match x with
      | .aborted _ _ => m.putRecords e n rest
      | .waitSlot _ _ _ _ _ _ | .waitReply _ _ => m.modTextSlot e n fun y => { y with errs := r :: rest, stall := some x }
    | .done _ | .fault _ _ | .error _ => m.putRecords e n rest

/-- An error record (R306), with the Fret count of its detection. -/
def Mach.errorRecord (m : Mach) (e : BitVec 4) (n : Nat) (code req offset : Nat) : Mach :=
  let r : BitVec 128 := BitVec.ofNat 32 req ++ BitVec.ofNat 32 offset ++ m.fret40 ++ BitVec.ofNat 8 (m.pk.handleOf e n) ++
    0#8 ++ BitVec.ofNat 8 code
  match (m.pk.textSlot e n).errs with
  | [] => m.putRecords e n [r]
  | l => m.modTextSlot e n fun y => { y with errs := l ++ [r] }

/-- The error records of a binding taken up again: the first is lost where its fault was aborted. -/
def Mach.retryRecords (m : Mach) (e : BitVec 4) (n : Nat) : Mach :=
  let x := m.pk.textSlot e n
  match x.stall with
  | some (.waitReply _ _) | some (.waitSlot _ _ _ _ _ _) => m
  | some (.aborted _ _) => (m.modTextSlot e n fun y => { y with stall := none }).putRecords e n (x.errs.drop 1)
  | none => m.putRecords e n x.errs

/-- The offset reached by a read that found an uncorrectable error: open (log entry 2). -/
def Mach.reached (m : Mach) (n : Nat) : Nat × Mach :=
  let (c, m) := m.choice
  (c % (n + 1), m)

/-! ## Bindings (R300) -/

/-- Every page of a range of bytes is pinned. -/
def Mach.bytesPinned (m : Mach) (a : Agent) (va n : Nat) : Bool × Mach :=
  m.pinnedRange a (va / 4096 * 4096) ((va % 4096 + n + 4095) / 4096)

/-- Reason 3 of a binding: the vocabulary, and a tokeniser's area and release word, and the error ring are pinned. -/
def Mach.slotPinned (m : Mach) (e : BitVec 4) (n : Nat) (vlen : Nat) : Bool × Mach :=
  let a := m.pk.textAgent e n
  let x := m.pk.textSlot e n
  let (ok1, m) := m.bytesPinned a x.vocab.toNat vlen
  let (ok2, m) := m.bytesPinned a x.err.toNat 4096
  if e.toNat < 8 then
    let (ok3, m) := m.bytesPinned a x.area.toNat (x.size.toNat * 4096)
    let (ok4, m) := m.bytesPinned a x.rel.toNat 8
    (ok1 && ok2 && ok3 && ok4, m)
  else (ok1 && ok2, m)

/-- Another bound slot of a tokeniser names the endpoint (R300, R323). -/
def Package.epTaken (p : Package) (e : BitVec 4) (n : Nat) (ep : BitVec 16) : Bool :=
  p.text.any fun t => decide (t.1 < 8) && t.2.slots.any fun x =>
    (t.1 != e.toNat || x.1 != n) && x.2.state == 2 && x.2.ep == ep

/-- An endpoint is assigned to a partition (R292). -/
def Package.epOf (p : Package) (part : BitVec 3) (ep : BitVec 16) : Bool :=
  (p.parts.find part.toNat).any fun d => d.defn.eps.contains ep

/-- The checks of a binding, in order (R300): the reason for which it is refused, or the length of its vocabulary. -/
def Mach.bindReason (m : Mach) (e : BitVec 4) (n : Nat) : (Nat ⊕ Nat) × Mach :=
  let x := m.pk.textSlot e n
  match (m.pk.textEngine e).part with
  | none => (.inl 1, m)
  | some part =>
    match m.pk.image part x.img with
    | none => (.inl 1, m)
    | some i =>
      if i.retired then (.inl 1, m)
      else
        let (v, m) := m.readVocab e n
        let m := m.modTextSlot e n TextSlot.forget
        match v with
        | .stall _ _ _ _ | .fault _ _ | .error _ => (.inl 2, m)
        | .done v =>
          if !v.ok then (.inl 2, m)
          else
            let (pinned, m) := m.slotPinned e n v.length
            if !pinned then (.inl 3, m)
            else if !m.pk.epOf part x.ep || (decide (e.toNat < 8) && m.pk.epTaken e n x.ep) then (.inl 4, m)
            else if decide (e.toNat < 8) && !(i.decl.queues.any fun q => q.handle == x.queue) then (.inl 5, m)
            else (.inr v.length, m)

/-- BINDING_CHECK_RESULT (R300). -/
def execBindingCheckResult (e s' : BitVec 4) (s : State) : Host.Outcome State Fault Refusal :=
  .next (s.modMach fun m =>
    let x := m.pk.textSlot e s'.toNat
    if x.state ≠ 1 ∨ m.pk.fret < x.ready then m
    else
      let (r, m) := m.bindReason e s'.toNat
      m.modTextSlot e s'.toNat fun y => match r with
        | .inl n => { y with state := 3, reason := BitVec.ofNat 8 n }
        | .inr n => { y with state := 2, reason := 0, vlen := n, used := 0, wp := 0, seen := 0 })

/-! ## Peers of inbound traffic (R323) -/

/-- The sender's index: the pair's own, or the lowest free one, learned; none when all are assigned. -/
def Package.senderIndex (p : Package) (ep : BitVec 16) (fa : BitVec 128) (rep : BitVec 16) : Option (BitVec 12) × Package :=
  match p.peers.find? fun x => x.ep == ep && x.fa == fa && x.rep == rep with
  | some x => (some x.index, p)
  | none =>
    match ((List.range 4096).map (BitVec.ofNat 12)).find? fun i => (p.peerAt ep i).isNone with
    | none => (none, p)
    | some i => (some i, { p with peers := p.peers ++ [⟨ep, i, fa, rep, true⟩] })

/-- Something leaves the package. -/
def Mach.emit (m : Mach) (x : Output) : Mach := m.modPk fun p => { p with out := p.out ++ [x] }

/-- The sender takes its index, where it has one or one is free, and what it sent is accepted; else it is refused, and
nothing is numbered (R323). -/
def Mach.learn (m : Mach) (k : Packet) (f : BitVec 12 → Mach → Run Unit × Mach) : Run Unit × Mach :=
  match m.pk.senderIndex k.ep k.fa k.rep with
  | (none, _) => (.done (), m.emit (.refusal k.fa k.rep))
  | (some i, p) => f i { m with pk := p }

/-! ## Inbound requests (R297, R298) -/

/-- A place in a ring (R297): the offset, and the bytes that count as used. -/
def ringPlace (size wp n : Nat) : Nat × Nat := if wp + n ≤ size then (wp, n) else (0, n + (size - wp))

/-- The bytes that a message or a list of IDs takes of a ring. -/
def ringBytes (n : Nat) : Nat := (n + 255) / 256 * 256

/-- A tokeniser slot that an endpoint names. -/
def Package.tokeniserOf (p : Package) (ep : BitVec 16) : Option (BitVec 4 × BitVec 4) :=
  p.text.findSome? fun t =>
    if 8 ≤ t.1 then none
    else (t.2.slots.find? fun x => x.2.state == 2 && x.2.ep == ep).map fun x => (BitVec.ofNat 4 t.1, BitVec.ofNat 4 x.1)

/-- INBOUND_REQUEST (R297, R323): the message joins its binding's requests; refused where its sender would need an index and
none is free. -/
def execInboundRequest (k : Packet) (s : State) : Host.Outcome State Fault Refusal :=
  .next (s.modMach fun m =>
    match m.pk.tokeniserOf k.ep with
    | none => m
    | some (e, n) =>
      if (m.pk.senderIndex k.ep k.fa k.rep).1.isNone then m.modPk fun p => { p with out := p.out ++ [.refusal k.fa k.rep] }
      else
        let (seq, m) := m.fresh
        m.modTextSlot e n.toNat fun x => { x with inbound := x.inbound ++ [⟨m.pk.fret, seq, k⟩] })

/-- A 64-byte record pushed to a queue of an image, under no scope. -/
def Package.pushRecord (p : Package) (q : Queue) (bytes : List Byte) : Package :=
  p.modQueue q fun x => { x with entries := x.entries ++ [⟨bytes, x.next, none⟩], next := x.next + 1 }

/-- The room that a binding's area holds, read anew when it appears short (R297). -/
def Mach.areaRoom (m : Mach) (e : BitVec 4) (n : Nat) (need : Nat) : Run Nat × Mach :=
  let x := m.pk.textSlot e n
  let size := x.size.toNat * 4096
  if x.used + need ≤ size + x.seen then (.done (size + x.seen - x.used), m)
  else
    runThen (m.readSlot e n 1 x.rel.toNat 8) fun b m =>
      let r := natOfBytes b
      (.done (size + r - x.used), m.modTextSlot e n fun y => { y with seen := r })

/-- The record of a request (R297). -/
def requestRecord (header : List Byte) (va count peer handle arrival : Nat) : List Byte :=
  header ++ bytesOfNat 8 va ++ bytesOfNat 4 count ++ bytesOfNat 2 peer ++ [BitVec.ofNat 8 handle, 0] ++
    bytesOfNat 8 arrival ++ List.replicate 24 0

/-- A request handled (R297): dropped with an error record, or its IDs written and its record pushed. -/
def Mach.handleRequest (m : Mach) (e : BitVec 4) (n : Nat) (q : TextIn) : Run Unit × Mach :=
  let k := q.pkt
  let header := k.bytes.take 16 ++ List.replicate (16 - k.bytes.length) 0
  let text := k.bytes.drop 16
  let req := numAt header 0 4
  let len := numAt header 12 4
  if k.bytes.length < 16 ∨ len ≠ text.length ∨ len = 0 ∨ 1048576 < len then
    (.done (), m.errorRecord e n 0x03 req text.length)
  else
    runThen (m.readVocab e n) fun v m =>
      let ids := v.ids text
      let x := m.pk.textSlot e n
      let size := x.size.toNat * 4096
      let bytes := ringBytes (4 * ids.length)
      let (start, need) := ringPlace size x.wp bytes
      if size < bytes then (.done (), m.errorRecord e n 0x02 req 0)
      else
        runThen (m.areaRoom e n need) fun room m =>
          if room < need then (.done (), m.errorRecord e n 0x02 req 0)
          else
            match m.pk.queueOf ((m.pk.textEngine e).part.getD 0) (some x.img) x.queue with
            | none => (.done (), m)
            | some qu =>
              if qu.occ ≤ qu.entries.length then (.done (), m.errorRecord e n 0x01 req 0)
              else
                let va := x.area.toNat + start
                let a := m.pk.textAgent e n
                runThen (m.probeWrite a va (4 * ids.length)) fun _ m => m.learn k fun peer m =>
                  runThen (m.writeVirt a va (ids.flatMap fun i => bytesOfNat 4 i.1)) fun _ m =>
                    let m := m.modTextSlot e n fun y => { y with used := y.used + need, wp := start + bytes }
                    (.done (), m.modPk fun p => p.pushRecord qu
                      (requestRecord header va ids.length peer.toNat (p.handleOf e n) q.since))

/-- An abort has been taken: the stream goes on. -/
def TextSlot.resume (x : TextSlot) : TextSlot :=
  match x.stall with
  | some (.aborted _ _) => { x with stall := none, stallIn := false }
  | some (.waitReply _ _) | some (.waitSlot _ _ _ _ _ _) | none => x

/-- The first request of a binding is over. -/
def Mach.requestOver (m : Mach) (e : BitVec 4) (n : Nat) : Mach :=
  m.modTextSlot e n fun x => { x.resume.forget with inbound := x.inbound.drop 1, stallIn := false }

/-- A command of a binding has stalled: it comes first when the stream resumes (R238). -/
def TextEngine.resuming (t : TextEngine) (n : Nat) : Bool := t.cmds.any fun k => k.slot == n && k.ready == 0

/-- A request that arrived earlier at the same endpoint is still in process, at whatever binding (R298). -/
def Package.textBefore (p : Package) (q : TextIn) : Bool :=
  p.text.any fun t => t.2.slots.any fun x => x.2.inbound.any fun y => y.pkt.ep == q.pkt.ep && decide (y.seq < q.seq)

/-- The first inbound request of a binding, taken when the engine comes to it (log entry 2). -/
def Mach.textRequest (m : Mach) (e : BitVec 4) (n : Nat) : Mach :=
  let x := m.pk.textSlot e n
  match x.inbound with
  | [] => m
  | q :: _ =>
    if m.pk.textBefore q || (m.pk.textEngine e).resuming n then m
    else
      match x.stall with
      | some (.aborted _ _) => if x.stallIn then m.requestOver e n else m
      | some (.waitReply _ _) | some (.waitSlot _ _ _ _ _ _) => m
      | none =>
        let (c, m) := m.choice
        if c % 2 = 1 then m
        else
          let (r, m) := m.handleRequest e n q
          match r with
          | .done _ => m.requestOver e n
          | .stall kd lv ac va =>
            (m.stallStream (m.pk.textAgent e n) kd lv ac va).modTextSlot e n fun y => { y with stallIn := true }
          | .fault _ _ => m.requestOver e n
          | .error _ =>
            let (o, m) := m.reached q.pkt.bytes.length
            (m.errorRecord e n 0x07 (numAt q.pkt.bytes 0 4) o).requestOver e n

/-- The request states of an unbound binding, and the binding, are given up once nothing of it is in process (R300). -/
def TextEngine.sweep (t : TextEngine) (n : Nat) : TextEngine :=
  let x := t.slot n
  if n < 16 ∨ !x.inbound.isEmpty ∨ !x.errs.isEmpty ∨ t.cmds.any (fun c => c.slot == n) then t
  else { t with slots := t.slots.del n, states := t.states.filter fun r => r.slot != n }

/-- A binding's own work: its error records that wait, then its first inbound request. -/
def State.textIn (s : State) (e : BitVec 4) (n : Nat) : State :=
  s.modMach fun m =>
    let m := if (m.pk.textSlot e n).errs.isEmpty then m.textRequest e n else m.retryRecords e n
    m.modPk fun p => p.modText e fun t => t.sweep n

/-! ## Hand-over of txt.out and txt.tok (R301) -/

/-- A txt command handed over: reasons 14 and 15. -/
def Mach.handText (m : Mach) (o : CmdOrigin) (eff : Nat) (holds : List Nat) (tok : Bool) (d : Option Word)
    (p0 p1 a : Word) : Mach :=
  let e : BitVec 4 := (if tok then 0#1 else 1#1) ++ a.extractLsb' 4 3
  let n : BitVec 4 := a.setWidth 4
  let x := m.pk.textSlot e n.toNat
  let buf := ((if tok then p1 else p0).setWidth 48 : BitVec 48).toNat
  if x.state ≠ 2 ∨ (m.pk.textEngine e).part ≠ some o.part ∨ some x.img ≠ o.img then m.refuse o eff 14 0 0
  else if (d.any fun w => !resultOk (m.ctx o.ctx) 16 16 (resAddr w)) || decide (buf % 4 ≠ 0) then m.refuse o eff 15 0 0
  else
    let (t, m) := m.delay
    m.modPk fun p => p.modText e fun y =>
      { y with cmds := y.cmds ++ [{ org := o, tok := tok, d := d, p0 := p0, p1 := p1, slot := n.toNat,
                                    final := a.getLsbD 8, holds := holds, eff := eff, ready := p.fret + t, ids := none,
                                    put := 0, got := [] }] }

/-! ## Processing -/

/-- What a command reports (R303). -/
structure TextResult where
  w0 : Nat
  w1 : Nat
  w2 : Nat
  status : Nat
  deriving DecidableEq, Repr

/-- A command has ended (R303, R304): its effect has performed, and then its result line is written. -/
def Mach.endText (m : Mach) (e : BitVec 4) (k : TextCmd) (r : TextResult) : Mach :=
  let m := m.modPk fun p => p.modText e fun y => { y with cmds := y.cmds.filter fun c => c.eff != k.eff }
  let m := (m.performed k.eff).modTextSlot e k.slot fun y => if y.stallIn || !y.errs.isEmpty then y else y.resume.forget
  match k.d with
  | none => m
  | some w => m.deliver ⟨k.org.ctx, resAddr w,
      bytesOfNat 4 r.w0 ++ bytesOfNat 4 r.w1 ++ bytesOfNat 4 r.w2 ++ bytesOfNat 4 r.status, w.extractLsb' 32 16, none⟩

/-- The command that an engine processes next: of each context its first, none that a fence holds, none of a stalled
binding. -/
def Mach.textNext (m : Mach) (e : BitVec 4) : Option TextCmd :=
  let rec' := fun (acc : List CtxRef × Option TextCmd) (k : TextCmd) =>
    let x := m.pk.textSlot e k.slot
    let waits := !x.errs.isEmpty || x.stallIn || match x.stall with
      | some (.waitReply _ _) | some (.waitSlot _ _ _ _ _ _) => true
      | some (.aborted _ _) | none => false
    let ok := !acc.1.contains k.org.ctx && m.free? k.holds && decide (k.ready ≤ m.pk.fret) && !waits
    (acc.1 ++ [k.org.ctx], match acc.2 with
      | some y => if ok && decide (k.ready < y.ready) then some k else some y
      | none => if ok then some k else none)
  ((m.pk.textEngine e).cmds.foldl rec' ([], none)).2

/-- The agent of a command's own accesses (R301). -/
def TextCmd.agent (k : TextCmd) (e : BitVec 4) : Agent := ⟨.text e k.slot, k.org.part, k.org.ast, some k.org.ctx, false⟩

/-- A command's stream stalls (R238), as it stands in `k`; it comes first when the stream resumes. -/
def Mach.stallText (m : Mach) (e : BitVec 4) (k : TextCmd) (kd lv : Nat) (ac : Acc) (va : Nat) (ast : BitVec 16) : Mach :=
  let m := (m.stallStream ⟨.text e k.slot, k.org.part, ast, none, false⟩ kd lv ac va).modTextSlot e k.slot fun y =>
    { y with stallIn := false }
  m.modPk fun p => p.modText e fun y => { y with cmds := y.cmds.map fun c => if c.eff = k.eff then { k with ready := 0 } else c }

/-- The 16 low bits of a parameter's top, and its address. -/
def paramTop (w : Word) : Nat := (w.extractLsb' 48 16 : BitVec 16).toNat
def paramVa (w : Word) : Nat := (w.setWidth 48 : BitVec 48).toNat

/-- A command dropped by an access fault or by an abort (R303, R237, R238). -/
def Mach.dropText (m : Mach) (e : BitVec 4) (k : TextCmd) (r : TextResult) (cause : BitVec 8) (kind va : Nat) : Mach :=
  (m.endText e k r).trapCommand k.org cause (faultDetail kind (BitVec.ofNat 48 va))

/-- What the writes of a txt.tok have come to (R303): IDs written whole, and the bytes that they cover. -/
def TextCmd.wrote (k : TextCmd) : Nat × Nat :=
  (k.put / 4, (((k.ids.getD []).take (k.put / 4)).map Prod.snd).sum)

/-- The writes that a txt.tok has still to make, which spoil a held slot of its writer when they are dropped (R268): those
of its IDs, or of as many as its source can give where that has not been read. -/
def Mach.spoilTok (m : Mach) (k : TextCmd) : Mach :=
  let n := match k.ids with
    | some ids => ids.length
    | none => paramTop k.p0
  m.spoil k.org ((List.range (4 * min n (paramTop k.p1) - k.put)).map fun i => paramVa k.p1 + k.put + i)

/-- A txt.tok dropped, with what it has written (R303). -/
def TextCmd.dropped (k : TextCmd) : TextResult := ⟨k.wrote.1, k.wrote.2, 0, 4⟩

/-- The IDs of a txt.tok written from where its last write stalled (R302). -/
def Mach.tokWrite (m : Mach) (e : BitVec 4) (k : TextCmd) (ids : List (Nat × Nat)) : Mach :=
  let dst := paramVa k.p1
  let put := ids.take (paramTop k.p1)
  let at' := fun (n : Nat) => { k with ids := some ids, put := n }
  let (w, m) := m.writeVirt (k.agent e) (dst + k.put) ((put.flatMap fun i => bytesOfNat 4 i.1).drop k.put)
  match w with
  | .stall kd lv ac va =>
    m.stallText e (at' (va - dst)) kd lv ac va k.org.ast
  | .fault kd va => (if kd = 7 then m else m.spoilTok (at' (va - dst))).dropText e k (at' (va - dst)).dropped 0x11 kd va
  | .error o => (m.errorRecord e k.slot 0x07 0 o).endText e k k.dropped
  | .done _ =>
    let used := (put.map Prod.snd).sum
    if put.length < ids.length then
      (m.errorRecord e k.slot 0x05 0 used).endText e k ⟨put.length, used, 0, 2⟩
    else m.endText e k ⟨put.length, used, 0, 0⟩

/-- The source of a command, `n` bytes, read on from where its stream stalled. -/
def Mach.pullText (m : Mach) (e : BitVec 4) (k : TextCmd) (n : Nat) : Run (List Byte) × Mach :=
  m.readVirt (k.agent e) (paramVa k.p0 + k.got.length) 0 (n - k.got.length)

/-- The command with what its source gave before it stalled at `va` (R238). -/
def Mach.pulled (m : Mach) (e : BitVec 4) (k : TextCmd) (va : Nat) : TextCmd :=
  { k with got := k.got ++ m.readBefore (k.agent e) (paramVa k.p0 + k.got.length) va }

/-- txt.tok (R302): its source is read and tokenised whole, and then its IDs are written. -/
def Mach.tokProcess (m : Mach) (e : BitVec 4) (k : TextCmd) : Mach :=
  match k.ids with
  | some ids => m.tokWrite e k ids
  | none =>
    let len := paramTop k.p0
    let (v, m) := m.readVocab e k.slot
    match v with
    | .stall kd lv ac va => m.stallText e k kd lv ac va (m.pk.textSlot e k.slot).ast
    | .fault kd va => (m.spoilTok k).dropText e k k.dropped 0x11 kd va
    | .error _ =>
      let (o, m) := m.reached len
      ((m.spoilTok k).errorRecord e k.slot 0x07 0 o).endText e k k.dropped
    | .done v =>
      let (b, t) := m.pullText e k len
      match b with
      | .stall kd lv ac va => t.stallText e (m.pulled e k va) kd lv ac va k.org.ast
      | .fault kd va => (t.spoilTok k).dropText e k k.dropped 0x11 kd va
      | .error o => ((t.spoilTok k).errorRecord e k.slot 0x07 0 (k.got.length + o)).endText e k k.dropped
      | .done b => t.tokWrite e k (v.ids (k.got ++ b))

/-! ## Detokenisation (R299) -/

/-- The length of the sequence that a lead byte opens; 0 for a byte that opens none. -/
def leadLen (b : Byte) : Nat :=
  let v := b.toNat
  if 0xC2 ≤ v ∧ v ≤ 0xDF then 2
  else if 0xE0 ≤ v ∧ v ≤ 0xEF then 3
  else if 0xF0 ≤ v ∧ v ≤ 0xF4 then 4
  else 0

/-- A second byte that UTF-8 admits after a lead byte. -/
def secondOk (lead b : Byte) : Bool :=
  let v := b.toNat
  let lo : Nat := if lead = 0xE0 then 0xA0 else if lead = 0xF0 then 0x90 else 0x80
  let hi : Nat := if lead = 0xED then 0x9F else if lead = 0xF4 then 0x8F else 0xBF
  decide (lo ≤ v) && decide (v ≤ hi)

/-- Bytes that begin a well-formed sequence: a lead byte and admitted bytes after it, no more than it asks for. -/
def sequenceStart : List Byte → Bool
  | [] => false
  | [a] => decide (2 ≤ leadLen a)
  | a :: b :: rest =>
    decide (rest.length + 2 ≤ leadLen a) && secondOk a b &&
      rest.all fun c => decide (0x80 ≤ c.toNat) && decide (c.toNat ≤ 0xBF)

/-- The bytes held back (R299): the longest suffix of 1 to 3 bytes that is a proper beginning of a sequence. -/
def heldTail (l : List Byte) : List Byte :=
  let suffix := fun (n : Nat) => l.drop (l.length - n)
  let proper := fun (n : Nat) =>
    decide (n ≤ l.length) && sequenceStart (suffix n) && (suffix n).head?.any fun a => decide (n < leadLen a)
  if proper 3 then suffix 3 else if proper 2 then suffix 2 else if proper 1 then suffix 1 else []

/-- A message boundary moved back to the first byte of a sequence that it would cut. -/
def boundary (l : List Byte) (n : Nat) : Nat :=
  let cut := fun (k : Nat) =>
    let q := l.drop (n - k)
    q.head?.any fun a => decide (k < leadLen a) && decide (leadLen a ≤ q.length) && sequenceStart (q.take (leadLen a))
  if l.length ≤ n then l.length else if cut 1 then n - 1 else if cut 2 then n - 2 else if cut 3 then n - 3 else n

/-- The payloads of the messages of some bytes: each at most 8,192 bytes. -/
def payloads : Nat → List Byte → List (List Byte)
  | 0, _ => []
  | _ + 1, [] => []
  | fuel + 1, b :: l =>
    let n := boundary (b :: l) 8192
    (b :: l).take n :: payloads fuel ((b :: l).drop n)

/-- The messages of a command: a final one sends at least one, and its last carries the final flag. -/
def messages (req seq : BitVec 32) (final skipped : Bool) (l : List Byte) : List (List Byte) :=
  let ps := payloads l.length l
  let ps := if final && ps.isEmpty then [[]] else ps
  ps.mapIdx fun i p =>
    let last := decide (i + 1 = ps.length)
    bytesOfNat 4 req.toNat ++ bytesOfNat 4 (seq + BitVec.ofNat 32 i).toNat ++
      bytesOfNat 4 (boolNat (final && last) + 2 * boolNat skipped) ++ bytesOfNat 4 p.length ++ p

/-- The request state of a pair. -/
def TextEngine.state (t : TextEngine) (n : Nat) (req : BitVec 32) : Option ReqState :=
  t.states.find? fun r => r.slot == n && r.req == req

/-- A request state put in its place, or closed. -/
def TextEngine.setState (t : TextEngine) (n : Nat) (req : BitVec 32) (r : Option ReqState) : TextEngine :=
  { t with states := (t.states.filter fun x => !(x.slot == n && x.req == req)) ++ r.toList }

/-- The IDs of a buffer. -/
def wordsOf : Nat → List Byte → List Nat
  | 0, _ => []
  | n + 1, l => natOfBytes (l.take 4) :: wordsOf n (l.drop 4)

/-- txt.out with its IDs read (R299, R302). -/
def Mach.streamOut (m : Mach) (e : BitVec 4) (k : TextCmd) (v : Vocab) (ids : List Nat) (peer : Peer) : Mach :=
  let req : BitVec 32 := k.p1.setWidth 32
  let t := m.pk.textEngine e
  let st := (t.state k.slot req).getD ⟨k.slot, req, [], 0, k.p1.extractLsb' 32 16⟩
  let bad := (ids.mapIdx fun i x => (i, x)).filter fun x => decide (v.tokens ≤ x.2)
  let m := bad.foldl (fun m x => m.errorRecord e k.slot 0x04 req.toNat x.1) m
  let stream := st.held ++ (ids.filter fun x => decide (x < v.tokens)).flatMap v.string
  let held := if k.final then [] else heldTail stream
  let sent := stream.take (stream.length - held.length)
  let ms := messages req st.seq k.final (!bad.isEmpty) sent
  let ep := (m.pk.textSlot e k.slot).ep
  let m := m.modPk fun p =>
    { p.modText e (fun t => t.setState k.slot req (if k.final then none
        else some { st with held := held, seq := st.seq + BitVec.ofNat 32 ms.length })) with
      out := p.out ++ ms.map fun b => .send ep peer.fa peer.rep b }
  m.endText e k ⟨sent.length, held.length, ms.length, if bad.isEmpty then 0 else 1⟩

/-- The bytes that a pair holds. -/
def Package.heldOf (p : Package) (e : BitVec 4) (k : TextCmd) : Nat :=
  (((p.textEngine e).state k.slot (k.p1.setWidth 32)).map fun r => r.held.length).getD 0

/-- txt.out (R299, R302). -/
def Mach.outProcess (m : Mach) (e : BitVec 4) (k : TextCmd) : Mach :=
  let n := paramTop k.p0
  let req : BitVec 32 := k.p1.setWidth 32
  let peer : BitVec 16 := k.p1.extractLsb' 32 16
  let bad : TextResult := ⟨0, m.pk.heldOf e k, 0, 4⟩
  let t := m.pk.textEngine e
  let found := if 4096 ≤ peer.toNat then none else m.pk.peerAt (t.slot k.slot).ep (peer.setWidth 12)
  match found with
  | none => m.endText e k bad
  | some x =>
    if (t.state k.slot req).isNone && decide (1024 ≤ t.states.length) then
      (m.errorRecord e k.slot 0x06 req.toNat 0).endText e k ⟨0, 0, 0, 3⟩
    else
      let (v, m) := m.readVocab e k.slot
      match v with
      | .stall kd lv ac va => m.stallText e k kd lv ac va (m.pk.textSlot e k.slot).ast
      | .fault kd va => m.dropText e k bad 0x11 kd va
      | .error _ =>
        let (o, m) := m.reached n
        (m.errorRecord e k.slot 0x07 req.toNat o).endText e k bad
      | .done v =>
        let (b, t) := m.pullText e k (4 * n)
        match b with
        | .stall kd lv ac va => t.stallText e (m.pulled e k va) kd lv ac va k.org.ast
        | .fault kd va => t.dropText e k bad 0x11 kd va
        | .error o => (t.errorRecord e k.slot 0x07 req.toNat ((k.got.length + o) / 4)).endText e k bad
        | .done b => t.streamOut e k v (wordsOf n (k.got ++ b)) x

/-- An engine's next command: dropped by an abort, or processed. -/
def Mach.textStep (m : Mach) (e : BitVec 4) (f : Mach → TextCmd → Mach) : Mach :=
  match m.textNext e with
  | none => m
  | some k =>
    match (m.pk.textSlot e k.slot).stall with
    | some (.aborted kind va) =>
      let m := if k.tok then m.spoilTok k else m
      m.dropText e k (if k.tok then k.dropped else ⟨0, m.pk.heldOf e k, 0, 4⟩) 0x10 kind va.toNat
    | some (.waitReply _ _) | some (.waitSlot _ _ _ _ _ _) | none => f m k

/-- TXT_OUT_PROCESS (R299, R302 to R305). -/
def execTxtOutProcess (e : BitVec 4) (s : State) : Host.Outcome State Fault Refusal :=
  .next (s.modMach fun m => if e.toNat < 8 then m else m.textStep e fun m k => m.outProcess e k)

/-- TXT_TOK_PROCESS (R302 to R304). -/
def execTxtTokProcess (e : BitVec 4) (s : State) : Host.Outcome State Fault Refusal :=
  .next (s.modMach fun m => if e.toNat < 8 then m.textStep e fun m k => m.tokProcess e k else m)

end Sys2Proof.Machine
end

