-- ==== Sys2Proof/Machine/Ports.lean ====
section
/-!
DEFINITION. The host, storage and network ports, cold reset, attestation and the retirement of partitions (chapter 26).
-/

namespace Sys2Proof.Machine

/-! ## Channels (R318) -/

/-- A channel of either unit. -/
def Package.port (p : Package) (u : ChanUnit) (k : BitVec 5) : PortChan :=
  match u with
  | .sio => p.sioChan k.toNat
  | .net => p.netChan k.toNat

/-- The partition and the number of a channel. -/
def portPart (k : BitVec 5) : BitVec 3 := k.extractLsb' 2 3
def portNum (k : BitVec 5) : BitVec 2 := k.setWidth 2

/-- The stream of a channel (R238). -/
def portStream (u : ChanUnit) (k : BitVec 5) : StreamId :=
  match u with
  | .sio => .sio (portPart k) (portNum k)
  | .net => .net (portPart k) (portNum k)

/-- The agent of a network channel's own accesses: ring and region table. -/
def Package.netAgent (p : Package) (k : BitVec 5) : Agent :=
  ⟨portStream .net k, portPart k, (p.netChan k.toNat).ast, none, false⟩

/-- The size of a receive ring in bytes. -/
def PortChan.ringSize (c : PortChan) : Nat := (c.r18.setWidth 32 : BitVec 32).toNat * 4096

/-- An endpoint is bound by another network channel, or by a text engine (R318, reason 2). -/
def Package.epUsed (p : Package) (k : BitVec 5) (ep : BitVec 16) : Bool :=
  (p.text.any fun t => t.2.slots.any fun x => x.2.state == 2 && x.2.ep == ep) ||
    p.net.any fun c => c.1 != k.toNat && c.2.state == 2 && c.2.r08.setWidth 16 == ep

/-- The secure domain of a network channel. -/
def PortChan.domain (c : PortChan) : BitVec 6 := c.r08.extractLsb' 16 6

/-- The reason for which a channel is refused (R318). -/
def Mach.portReason (m : Mach) (u : ChanUnit) (k : BitVec 5) : Option Nat × Mach :=
  let c := m.pk.port u k
  let part := portPart k
  match u with
  | .sio =>
    let own := (m.pk.parts.find part.toNat).any fun d =>
      d.defn.spaces.any fun n => n.ctrl == c.r08.setWidth 2 && n.nsid == c.r08.extractLsb' 32 32
    (if own then none else some 1, m)
  | .net =>
    let ep : BitVec 16 := c.r08.setWidth 16
    if !m.pk.epOf part ep then (some 1, m)
    else if m.pk.epUsed k ep then (some 2, m)
    else
      let (ok1, m) := m.bytesPinned (m.pk.netAgent k) c.r10.toNat c.ringSize
      let (ok2, m) := m.bytesPinned (m.pk.netAgent k) c.r20.toNat 256
      if !(ok1 && ok2) then (some 3, m)
      else if (m.pk.keySlot c.domain).part ≠ some part then (some 4, m)
      else (none, m)

/-- CHANNEL_CHECK_RESULT (R318). -/
def execChannelCheckResult (u : ChanUnit) (c : BitVec 5) (s : State) : Host.Outcome State Fault Refusal :=
  .next (s.modMach fun m =>
    let x := m.pk.port u c
    if x.state ≠ 1 ∨ m.pk.fret < x.checkAt then m
    else
      let (r, m) := m.portReason u c
      m.modPk fun p => p.modPort u c.toNat fun y => match r with
        | some n => { y with state := 3, reason := BitVec.ofNat 8 n }
        | none => { y with state := 2, reason := 0, used := 0, wp := 0 })

/-! ## Hand-over (R320) -/

/-- The first of the reasons 3, 6 and 7 that a command fails. -/
def Package.portFails (p : Package) (c : PortChan) (sio : Option SioOp) (ps : List Word) : Option Nat :=
  let va := paramVa (ps.headD 0)
  let second := ps.getD 1 0
  let full := if 64 ≤ c.cmds.length then some 7 else none
  match sio with
  | some .flush => full
  | some .rd | some .wr =>
    if va % 512 ≠ 0 then some 3
    else if ((p.driveOf c).map fun d => d.ns.blocks).getD 0 < paramTop second + 1 then some 6
    else full
  | none =>
    let len := (second.setWidth 32 : BitVec 32).toNat
    if va % 4 ≠ 0 then some 3 else if len = 0 ∨ 16777216 < len then some 6 else full

/-- An ID of a channel has ended (R253, R320). -/
def PortChan.finish (c : PortChan) (id : BitVec 48) : PortChan :=
  let r := advanceDone c.done (c.ended ++ [id]) (c.ended.length + 1)
  { c with done := r.1, ended := r.2 }

/-- A storage or network command handed over (R320): it takes the channel's next ID, and is then checked, reason 8 first
(R251). A refused command's ID is consumed; the detail of reason 8 shows 0 (log entry 29). -/
def Mach.handPort (m : Mach) (o : CmdOrigin) (eff : Nat) (holds : List Nat) (sio : Option SioOp) (net : Option NetOp)
    (ps : List Word) (flag : Bool) (ch : BitVec 2) : Mach :=
  let u : ChanUnit := if sio.isSome then .sio else .net
  let k : BitVec 5 := o.part ++ ch
  let c := m.pk.port u k
  let id := c.next
  let m := m.modPk fun p => p.modPort u k.toNat fun c => { c with next := id + 1 }
  let refused := fun (reason shown : Nat) =>
    (m.modPk fun p => p.modPort u k.toNat fun c => c.finish id).refuse o eff reason ch.toNat shown
  if c.state ≠ 2 ∨ c.owner ≠ some o.ctx ∨ c.img ≠ o.img then refused 8 0
  else
    match m.pk.portFails c sio ps with
    | some n => refused n id.toNat
    | none =>
      let (d, m) := m.delay
      m.modPk fun p => p.modPort u k.toNat fun c =>
        { c with cmds := c.cmds ++ [{ org := o, id := id, sio := sio, net := net, p := ps, flag := flag, holds := holds,
                                      eff := eff, ready := p.fret + 1 + d,
                                      mark := if net.isSome && (p.keySlot c.domain).revoked then some 0 else none,
                                      begun := false, data := [] }] }

/-! ## Completion (R320, R321) -/

/-- A command has ended: the watermark counts it, and its effect has performed (R272). -/
def Mach.endPort (m : Mach) (u : ChanUnit) (k : BitVec 5) (x : PortCmd) : Mach :=
  (m.modPk fun p => p.modPort u k.toNat fun c =>
    { (if x.org.img = c.img then c.finish x.id else c) with cmds := c.cmds.filter fun y => y.eff != x.eff, stall := none }).performed x.eff

/-- A command dropped (R320): it counts as complete, and event 0x41 is queued on the issuing core. -/
def Mach.dropPort (m : Mach) (u : ChanUnit) (k : BitVec 5) (x : PortCmd) (status : Nat) : Mach :=
  let place := match u with
    | .sio => 3
    | .net => 4
  (m.endPort u k x).engineEvent x.org 0x41
    (x.id.toNat % 65536 * 65536 + (portNum k).toNat * 4096 + place * 256 + status % 256)

/-- A status that the drive or the transport gives: open (log entry 2). -/
def Mach.anyStatus (m : Mach) : Nat × Mach := m.choice

/-- A command dropped by an access fault, or an abort, of the given cause (R237, R238, R320); `left` bytes from there on
were still to be written, and are dropped with it (R268). -/
def Mach.faultPort (m : Mach) (u : ChanUnit) (k : BitVec 5) (x : PortCmd) (cause : BitVec 8) (kind va left : Nat) : Mach :=
  let m := if kind = 7 ∧ cause = 0x11 then m else m.spoil x.org ((List.range left).map fun i => va + i)
  let (st, m) := m.anyStatus
  (m.dropPort u k x st).trapCommand x.org cause (faultDetail kind (BitVec.ofNat 48 va))

/-- The agent of a command's accesses (R320). -/
def PortCmd.agent (x : PortCmd) (u : ChanUnit) (k : BitVec 5) : Agent :=
  ⟨portStream u k, x.org.part, x.org.ast, some x.org.ctx, false⟩

/-- A channel stalls at a command's access, which comes first when it resumes; `data` is what it has read so far, or what
it has still to write (R238). -/
def Mach.stallPort (m : Mach) (u : ChanUnit) (k : BitVec 5) (x : PortCmd) (data : List Byte) (kd lv : Nat) (ac : Acc)
    (va : Nat) : Mach :=
  let m := m.stallStream (x.agent u k) kd lv ac va
  m.modPk fun p => p.modPort u k.toNat fun c =>
    { c with cmds := c.cmds.map fun y => if y.eff = x.eff then { y with ready := 0, begun := true, data := data } else y }

/-- The bytes of a command read from virtual memory, from where it stalled. -/
def Mach.pullPort (m : Mach) (u : ChanUnit) (k : BitVec 5) (x : PortCmd) (va n : Nat) (done : List Byte → Mach → Mach) : Mach :=
  let a := x.agent u k
  let from' := va + x.data.length
  let (r, t) := m.readVirt a from' 0 (n - x.data.length)
  match r with
  | .done b => done (x.data ++ b) t
  | .stall kd lv ac v => t.stallPort u k x (x.data ++ m.readBefore a from' v) kd lv ac v
  | .fault kd v => t.faultPort u k x 0x11 kd v 0
  | .error _ => let (st, t) := t.anyStatus; t.dropPort u k x st

/-- The bytes of a command written to virtual memory; `l` are the last of `n`. -/
def Mach.pushPort (m : Mach) (u : ChanUnit) (k : BitVec 5) (x : PortCmd) (va n : Nat) (l : List Byte) (done : Mach → Mach) :
    Mach :=
  let (r, m) := m.writeVirt (x.agent u k) (va + (n - l.length)) l
  match r with
  | .done _ | .error _ => done m
  | .stall kd lv ac v => m.stallPort u k x (l.drop (v - (va + (n - l.length)))) kd lv ac v
  | .fault kd v => m.faultPort u k x 0x11 kd v (va + n - v)

/-- A command may proceed: no fence holds it, a flush finds every lower ID counted, and an ordered transfer none before
it (R273, R320). -/
def Mach.portReady (m : Mach) (c : PortChan) (x : PortCmd) : Bool :=
  m.free? x.holds && decide (x.ready ≤ m.pk.fret) &&
    (x.sio != some .flush || !c.cmds.any fun y => decide (y.id.toNat < x.id.toNat)) &&
    (x.net.isNone || !x.flag || !c.cmds.any fun y => y.flag && decide (y.id.toNat < x.id.toNat))

/-- The command that a channel takes next: of those that may proceed the one whose time came first. -/
def Mach.portNext (m : Mach) (c : PortChan) : Option PortCmd :=
  (c.cmds.filter (m.portReady c)).foldl (fun best x => match best with
    | none => some x
    | some y => if x.ready < y.ready then some x else some y) none

/-- The bytes that a stalled command has still to write to virtual memory, whose drop may spoil the slot that it writes
(R268). -/
def PortCmd.left (x : PortCmd) : Nat := if x.sio = some .rd ∨ x.net = some .read then x.data.length else 0

/-- A channel of either unit steps: nothing while it is stalled; a command dropped by an abort; or its next command. -/
def Mach.portStep (m : Mach) (u : ChanUnit) (k : BitVec 5) (f : Mach → PortCmd → Mach) : Mach :=
  let c := m.pk.port u k
  match m.portNext c with
  | none => m
  | some x =>
    match c.stall with
    | some (.aborted kind va) =>
      if c.inbound.isEmpty || x.ready == 0 then m.faultPort u k x 0x10 kind va.toNat x.left else m
    | some (.waitReply _ _) | some (.waitSlot _ _ _ _ _ _) => m
    | none => f m x

/-- A drive changed. -/
def Package.modDrive (p : Package) (ns : NsDef) (f : Drive → Drive) : Package :=
  { p with drives := p.drives.map fun d => if d.ns.ctrl = ns.ctrl ∧ d.ns.nsid = ns.nsid then f d else d }

/-- The bytes of a block. -/
def blockSize (n : NsDef) : Nat := if n.big then 4096 else 512

/-- Bytes of a namespace; a byte that nothing has written is free (log entry 5). -/
def Mach.driveRead (m : Mach) (d : Drive) (a : Nat) : Nat → List Byte × Mach
  | 0 => ([], m)
  | n + 1 =>
    let (b, m) := match d.now.byte none a with
      | some b => (b, m)
      | none => (Config.freeByte m.free, { m with free := m.free + 1 })
    let (l, m) := m.driveRead d (a + 1) n
    (b :: l, m)

/-- A counted write of a drive (R321): durable with FUA, and without a volatile write cache. -/
def Drive.write (d : Drive) (fua : Bool) (a : Nat) (l : List Byte) : Drive :=
  let cells := cellsAt a l
  let now := Memory.putAll none d.now cells
  if fua || !d.ns.cache then
    { d with now := now, durable := Memory.putAll none d.durable cells,
             vol := d.vol.filter fun v => !(decide (a ≤ v.2.1) && decide (v.2.1 < a + l.length)) }
  else { d with now := now, vol := d.vol ++ cells.map fun c => (d.seq, c.1, c.2), seq := d.seq + 1 }

/-- The writes before a number made durable (R321). -/
def Drive.flush (d : Drive) (n : Nat) : Drive :=
  let old := d.vol.filter fun v => decide (v.1 < n)
  { d with durable := Memory.putAll none d.durable (old.map fun v => v.2), vol := d.vol.filter fun v => decide (n ≤ v.1) }

/-- A storage command at its drive (R320): an error status drops it. -/
def Mach.sioProcess (m : Mach) (k : BitVec 5) (x : PortCmd) (op : SioOp) (d : Drive) : Mach :=
  let va := paramVa (x.p.headD 0)
  let second := x.p.getD 1 0
  let lba := paramVa second
  let n := paramTop second + 1
  let bytes := n * blockSize d.ns
  let (c, m) := if x.begun then (0, m) else m.choice
  let bad := decide (c % 2 = 1) || (op != .flush && decide (d.ns.blocks < lba + n))
  if bad then
    let (st, m) := m.anyStatus
    m.dropPort .sio k x st
  else
    match op with
    | .rd =>
      let (b, m) := if x.begun then (x.data, m) else m.driveRead d (lba * blockSize d.ns) bytes
      m.pushPort .sio k x va bytes b fun m => m.endPort .sio k x
    | .wr =>
      m.pullPort .sio k x va bytes fun b m =>
        (m.modPk fun p => p.modDrive d.ns fun y => y.write x.flag (lba * blockSize d.ns) b).endPort .sio k x
    | .flush =>
      match x.mark with
      | none =>
        let (t, m) := m.delay
        m.modPk fun p => p.modSio k.toNat fun c =>
          { c with cmds := c.cmds.map fun y =>
              if y.eff = x.eff then { y with mark := some d.seq, ready := p.fret + t } else y }
      | some q => (m.modPk fun p => p.modDrive d.ns fun y => y.flush q).endPort .sio k x

/-- STORAGE_COMMAND_COMPLETE (R320, R321). -/
def execStorageCommandComplete (c : BitVec 5) (s : State) : Host.Outcome State Fault Refusal :=
  .next (s.modMach fun m => m.portStep .sio c fun m x =>
    match x.sio, m.pk.driveOf (m.pk.sioChan c.toNat) with
    | some op, some d => m.sioProcess c x op d
    | _, _ => let (st, m) := m.anyStatus; m.dropPort .sio c x st)

/-- A network command at its peer (R320, R323, R326): dropped when the peer's index holds no pair, when its domain is
revoked, or when the transport abandons it. -/
def Mach.netProcess (m : Mach) (k : BitVec 5) (x : PortCmd) (op : NetOp) : Mach :=
  let c := m.pk.netChan k.toNat
  let va := paramVa (x.p.headD 0)
  let second := x.p.getD 1 0
  let len := (second.setWidth 32 : BitVec 32).toNat
  let idx := (second.extractLsb' 32 16 : BitVec 16).toNat
  let off := x.p.getD 2 0
  let key : BitVec 16 := (x.p.getD 3 0).setWidth 16
  let ep : BitVec 16 := c.r08.setWidth 16
  let peer := if 4096 ≤ idx then none else m.pk.peerAt ep (BitVec.ofNat 12 idx)
  match peer with
  | none => m.dropPort .net k x 0
  | some q =>
    let (z, m) := if x.begun then (0, m) else m.choice
    if x.mark.isSome || decide (z % 2 = 1) then
      let (st, m) := m.anyStatus
      m.dropPort .net k x st
    else
      let emit := fun (m : Mach) (y : Output) => m.modPk fun p => { p with out := p.out ++ [y] }
      match op with
      | .read =>
        let (b, m) := if x.begun then (x.data, m) else m.freeBytes len
        m.pushPort .net k x va len b fun m => (emit m (.rmaReadReq ep q.fa q.rep key off len)).endPort .net k x
      | .send | .write =>
        m.pullPort .net k x va len fun b m =>
          (emit m (if op = .send then .send ep q.fa q.rep b else .rmaWrite ep q.fa q.rep key off b)).endPort .net k x

/-- NETWORK_COMMAND_COMPLETE (R320). -/
def execNetworkCommandComplete (c : BitVec 5) (s : State) : Host.Outcome State Fault Refusal :=
  .next (s.modMach fun m => m.portStep .net c fun m x =>
    match x.net with
    | some op => m.netProcess c x op
    | none => m)

/-! ## Inbound traffic (R322, R323) -/

/-- The bound network channel of an endpoint. -/
def Package.netOf (p : Package) (ep : BitVec 16) : Option (BitVec 5) :=
  (p.net.find? fun c => c.2.state == 2 && c.2.r08.setWidth 16 == ep).map fun c => BitVec.ofNat 5 c.1

/-- Traffic reaches an endpoint: discarded when its domain is revoked (R326), refused when it would need an index and
none is free (R323), else it joins the channel's traffic. -/
def Mach.inbound (m : Mach) (kind : InKind) (k : Packet) : Mach :=
  match m.pk.netOf k.ep with
  | none => m
  | some c =>
    if (m.pk.keySlot (m.pk.netChan c.toNat).domain).revoked then m
    else if (m.pk.senderIndex k.ep k.fa k.rep).1.isNone then
      m.modPk fun p => { p with out := p.out ++ [.refusal k.fa k.rep] }
    else m.modPk fun p => p.modNet c.toNat fun x => { x with inbound := x.inbound ++ [(kind, p.fret, k)] }

/-- INBOUND_NETWORK_SEND (R322). -/
def execInboundNetworkSend (k : Packet) (s : State) : Host.Outcome State Fault Refusal :=
  .next (s.modMach fun m => m.inbound .send k)
/-- INBOUND_RMA_WRITE (R322). -/
def execInboundRmaWrite (k : Packet) (s : State) : Host.Outcome State Fault Refusal :=
  .next (s.modMach fun m => m.inbound .rmaWrite k)
/-- INBOUND_RMA_READ (R322). -/
def execInboundRmaRead (k : Packet) (s : State) : Host.Outcome State Fault Refusal :=
  .next (s.modMach fun m => m.inbound .rmaRead k)

/-- The first inbound traffic of a channel is over. -/
def Mach.inboundOver (m : Mach) (k : BitVec 5) : Mach :=
  m.modPk fun p => p.modNet k.toNat fun c => { c with inbound := c.inbound.drop 1, kept := [], stall := none }

/-- Bytes that the first inbound traffic of a channel reads. -/
def Mach.readNet (m : Mach) (k : BitVec 5) (tag va n : Nat) : Run (List Byte) × Mach :=
  let r := m.readKept (m.pk.netAgent k) tag va (m.pk.netChan k.toNat).kept n
  (r.1.1, r.2.modPk fun p => p.modNet k.toNat fun c => { c with kept := r.1.2 })

/-- A send written whole into the receive ring, and its record pushed (R322): it is refused, or it stalls, before anything
of it is written. `free` says that consumers have freed the
ring where the specification does not say when they do (log entry 14). -/
def Mach.handleSend (m : Mach) (k : BitVec 5) (arrival : Nat) (x : Packet) (free : Bool) : Run Unit × Mach :=
  let c := m.pk.netChan k.toNat
  let size := c.ringSize
  let bytes := ringBytes x.bytes.length
  let (start, need) := ringPlace size c.wp bytes
  let room := decide (bytes ≤ size) && (decide (c.used + need ≤ size) || free)
  match m.pk.queueOf (portPart k) c.img (c.r18.extractLsb' 32 12) with
  | none => (.done (), m.emit (.refusal x.fa x.rep))
  | some q =>
    if !room || decide (q.occ ≤ q.entries.length) then (.done (), m.emit (.refusal x.fa x.rep))
    else
      let va := c.r10.toNat + start
      let a := m.pk.netAgent k
      runThen (m.probeWrite a va x.bytes.length) fun _ m => m.learn x fun peer m =>
        runThen (m.writeVirt a va x.bytes) fun _ m =>
          let m := m.modPk fun p => p.modNet k.toNat fun y => { y with used := y.used + need, wp := start + bytes }
          (.done (), m.modPk fun p => p.pushRecord q
            (bytesOfNat 8 va ++ bytesOfNat 4 x.bytes.length ++ bytesOfNat 2 peer.toNat ++ [(portNum k).setWidth 8] ++
              List.replicate 17 0 ++ bytesOfNat 8 arrival ++ List.replicate 24 0))

/-- A valid entry of the region table that a key names and that admits an access (R318, R322). -/
def regionHit (b : List Byte) (x : Packet) (write : Bool) (n : Nat) (i : Nat) : Option (Nat × Nat) :=
  let e := numAt b (16 * i) 16
  let base := e % 2 ^ 48
  let size := e / 2 ^ 64 % 2 ^ 32
  let may := if write then e.testBit 97 else e.testBit 96
  if base % 4096 = 0 ∧ size % 4096 = 0 ∧ e / 2 ^ 112 = x.key.toNat ∧ may ∧ x.off.toNat + n ≤ size then some (base, size)
  else none

/-- The first valid region of the table that admits an access: one that lies on pinned pages (R318). -/
def Mach.regionOf (m : Mach) (a : Agent) (b : List Byte) (x : Packet) (write : Bool) (n : Nat) :
    List Nat → Option Nat × Mach
  | [] => (none, m)
  | i :: rest =>
    match regionHit b x write n i with
    | none => m.regionOf a b x write n rest
    | some (base, size) =>
      let (pinned, m) := m.bytesPinned a base size
      if pinned then (some base, m) else m.regionOf a b x write n rest

/-- An RMA operation of a peer (R322): it is refused, or it stalls, before anything of it is written. -/
def Mach.handleRma (m : Mach) (k : BitVec 5) (x : Packet) (write : Bool) : Run Unit × Mach :=
  let a := m.pk.netAgent k
  let n := if write then x.bytes.length else x.len
  runThen (m.readNet k 0 (m.pk.netChan k.toNat).r20.toNat 256) fun b m =>
    let (hit, m) := m.regionOf a b x write n (List.range 16)
    match hit with
    | none => (.done (), m.emit (.refusal x.fa x.rep))
    | some base =>
      let va := base + x.off.toNat
      if write then
        runThen (m.probeWrite a va n) fun _ m => m.learn x fun _ m => m.writeVirt a va x.bytes
      else
        runThen (m.readNet k 1 va n) fun l m => m.learn x fun _ m => (.done (), m.emit (.rmaData x.fa x.rep l))

/-- The first inbound traffic of a channel, taken when the port comes to it (log entry 2). -/
def State.netIn (s : State) (k : BitVec 5) : State :=
  s.modMach fun m =>
    let c := m.pk.netChan k.toNat
    match c.inbound with
    | [] => m
    | (kind, arrival, x) :: _ =>
      match c.stall with
      | some (.aborted _ _) => if c.cmds.any fun y => y.ready == 0 then m else m.inboundOver k
      | some (.waitReply _ _) | some (.waitSlot _ _ _ _ _ _) => m
      | none =>
        let (z, m) := m.choice
        if z % 2 = 1 || c.cmds.any fun y => y.ready == 0 then m
        else
          let (r, m) := match kind with
            | .send => let (f, m) := m.choice; m.handleSend k arrival x (decide (f % 2 = 1))
            | .rmaWrite => m.handleRma k x true
            | .rmaRead => m.handleRma k x false
          match r with
          | .done _ => m.inboundOver k
          | .stall kd lv ac va => m.stallStream (m.pk.netAgent k) kd lv ac va
          | .fault _ _ | .error _ => (m.emit (.refusal x.fa x.rep)).inboundOver k

/-! ## The host port (R317) -/

/-- The stream of a function's host accesses. -/
def Package.hostList (p : Package) (f : HostFn) : List HostWait := (p.hostQ.find f.toNat).getD []

/-- HOST_READ (R317): the access joins its function's stream. -/
def execHostRead (r : HostAccess) (s : State) : Host.Outcome State Fault Refusal :=
  .next (s.modMach fun m => m.modPk fun p =>
    { p with hostQ := p.hostQ.put r.fn.toNat (p.hostList r.fn ++ [⟨r, none⟩]) })
/-- HOST_WRITE (R317). -/
def execHostWrite (r : HostAccess) (v : List Byte) (s : State) : Host.Outcome State Fault Refusal :=
  .next (s.modMach fun m => m.modPk fun p =>
    { p with hostQ := p.hostQ.put r.fn.toNat (p.hostList r.fn ++ [⟨r, some v⟩]) })

/-- The first access of a function's stream is over. -/
def Mach.hostOver (m : Mach) (f : HostFn) : Mach :=
  m.modPk fun p => { p with hostQ := p.hostQ.put f.toNat ((p.hostList f).drop 1), hostStall := p.hostStall.del f.toNat }

/-- A host access that fails a check (R317): a read completes with Unsupported Request; a write is dropped and counted,
and identity 23 is set pending. -/
def Mach.hostFail (m : Mach) (w : HostWait) : Mach :=
  let f := w.acc.fn
  match w.data with
  | none => m.emit (.hostData f none)
  | some _ =>
    (m.modPk fun p => { p with hostDrops := p.hostDrops.put f.toNat ((p.hostDrops.find f.toNat).getD 0 + 1) }).modCluster
      (m.pk.lowestCluster (hostPart f)) fun c => c.setPending 23

/-- A host access of a defined partition (R317, R243): where it meets two pages, both are checked before it acts. -/
def Mach.hostAccess (m : Mach) (a : Agent) (w : HostWait) (va : Nat) : Run Unit × Mach :=
  match w.data with
  | none =>
    runThen (m.translateParts a .read (pageParts va w.acc.len)) fun parts m =>
      let (b, m) := m.readParts false parts
      match b with
      | none => (.error 0, m)
      | some b => (.done (), m.emit (.hostData w.acc.fn (some b)))
  | some l =>
    runThen (m.translateParts a .write (pageParts va l.length)) fun parts m => (.done (), m.writeParts a.writer parts l)

/-- The bytes of a host access. -/
def HostWait.size (w : HostWait) : Nat :=
  match w.data with
  | none => w.acc.len
  | some l => l.length

/-- A host access through BAR0 (R317): one register of the admission block, at its width (log entry 29). -/
def Mach.hostBlock (m : Mach) (w : HostWait) : Mach :=
  let p := hostPart w.acc.fn
  let off := w.acc.off.toNat
  let r := m.reg (.admission p) off
  if 4096 ≤ off ∨ !(Block.admission p).exact off w.size then m.hostFail w
  else
    match w.data with
    | none => m.emit (.hostData w.acc.fn (some (bytesOfNat w.size r.2)))
    | some l => m.writeReg (some ⟨p, none⟩) (.admission p) off (BitVec.ofNat 64 (natOfBytes l))

/-- The aperture of a function: its AST and its base (R317). -/
def apertureOf (d : PartDef) (f : HostFn) : BitVec 16 × BitVec 48 :=
  if f = 8 then (d.pfAst, d.pfBase) else (d.apAst, d.apBase)

/-- The first host access of a function (R317); nothing but the physical function's mailbox answers after a failed boot
(R327). -/
def State.hostIn (s : State) (f : HostFn) : State :=
  s.modMach fun m =>
    match m.pk.hostList f with
    | [] => m
    | w :: _ =>
      if m.pk.dead then m.hostOver f
      else match m.pk.hostStall.find f.toNat with
      | some (.aborted _ _) => (m.hostFail w).hostOver f
      | some (.waitReply _ _) | some (.waitSlot _ _ _ _ _ _) => m
      | none =>
        match m.pk.parts.find (hostPart f).toNat with
        | none => (m.hostFail w).hostOver f
        | some d =>
          if d.retired || decide (8 < f.toNat) || decide (2 ^ 36 < w.acc.off.toNat + w.size) then
            (m.hostFail w).hostOver f
          else if w.acc.bar0 then (m.hostBlock w).hostOver f
          else
            let (ast, base) := apertureOf d.defn f
            let a : Agent := ⟨.host f, hostPart f, ast, none, false⟩
            let (r, m) := m.hostAccess a w (base.toNat + w.acc.off.toNat)
            match r with
            | .done _ => m.hostOver f
            | .stall kd lv ac va => m.stallStream a kd lv ac va
            | .fault _ _ | .error _ => (m.hostFail w).hostOver f

/-! ## Drives (R321) -/

/-- LOSS_OF_POWER_AT_THE_DRIVE (R321): of the writes that are not durable those that `keep` numbers survive. -/
def execLossOfPowerAtTheDrive (dr : Nat) (keep : List Nat) (s : State) : Host.Outcome State Fault Refusal :=
  .next (s.modMach fun m => m.modPk fun p =>
    match p.drives[dr]? with
    | none => p
    | some d =>
      let kept := (d.vol.filter fun v => keep.contains v.1).map fun v => v.2
      let mem := Memory.putAll none d.durable kept
      p.modDrive d.ns fun y => { y with now := mem, durable := mem, vol := [] })

/-- DATASET_MANAGEMENT_DEALLOCATE (R321): the blocks read as zero. -/
def execDatasetManagementDeallocate (dr : Nat) (lba : Nat) (n : Nat) (s : State) : Host.Outcome State Fault Refusal :=
  .next (s.modMach fun m => m.byRoot fun m => m.modPk fun p =>
    match p.drives[dr]? with
    | none => p
    | some d => p.modDrive d.ns fun y => y.write true (lba * blockSize d.ns) (List.replicate (n * blockSize d.ns) 0))

/-! ## Reset, attestation and retirement (R327, R328) -/

/-- The boot ROM's check of root firmware (R327): its signature against the vendor's key. -/
def firmwareOk : Bool := ecdsaVerify Config.vendorKey Config.firmware Config.firmwareSig.1 Config.firmwareSig.2

/-- COLD_RESET (R327): root firmware is measured where its signature verifies; the kernels are measured as their clusters
wake. What lies outside the package stays, the drives' durable bytes among it. -/
def execColdReset (s : State) : Host.Outcome State Fault Refusal :=
  let m := s.mach
  let pk : Package :=
    { Package.reset with
      drives := m.pk.drives.map fun d => { d with now := d.durable, vol := [] }, out := m.pk.out,
      boot := some firmwareOk,
      meas := if firmwareOk then [(0, sha384 Config.firmware)] else [] }
  .next { mach := { Mach.reset with pk := pk, inbox := m.inbox.map fun q => (q.1 - m.pk.fret, q.2), delays := m.delays,
                                    free := m.free, nextId := m.nextId },
          iss := Issue.idle }

/-- The measurements that a function reports (R328). -/
def Package.measurements (p : Package) (part : BitVec 3) : List (BitVec 384) :=
  let reg := fun (n : Nat) => (p.meas.find n).getD 0
  reg 0 :: ((clusterIds.filter fun c => p.clusterIn part c).map fun c => reg (c.toNat + 1)) ++
    (p.live.filter fun i => i.part == part).map Image.digest

/-- SPDM_REQUEST (R327, R328): answered over the function's mailbox; after a failed boot by the physical function only. -/
def execSpdmRequest (f : HostFn) (r : List Byte) (s : State) : Host.Outcome State Fault Refusal :=
  .next (s.modMach fun m =>
    if (m.pk.dead && f != 8) || decide (8 < f.toNat) then m
    else m.emit (.spdm (Config.spdmAnswer r (m.pk.measurements (hostPart f)))))

/-- The vault memory of a cluster, by its number, at zero and readable under fresh keys. -/
def Package.zeroVault (p : Package) (v : Nat) : Package :=
  let first := v * 2 ^ 35
  let last := first + 2 ^ 35 - 1
  { p with vault := p.vault.clear first last,
           vaultKey := p.vaultKey.filter fun x => decide (16 * x.1 < first) || decide (last < 16 * x.1),
           vaultLog := p.vaultLog.filter fun x => decide (x.addr < first) || decide (last < x.addr),
           resv := p.resv.filter fun x => decide (x.2.1 + x.2.2 ≤ first) || decide (last < x.2.1) }

/-- PARTITION_RETIREMENT (R328): its images retire, its key slots are revoked, its vaults are rewritten with zeros. -/
def execPartitionRetirement (p : BitVec 3) (s : State) : Host.Outcome State Fault Refusal :=
  .next (s.modMach fun m => m.byRoot fun m =>
    match m.pk.parts.find p.toNat with
    | none => m
    | some d =>
      let m := m.modPk fun k => { k.modAdm p (fun a => { a with check := none }) with
        seq := k.seq.filter fun c => c.part != p,
        admWait := k.admWait.filter fun c => c.2.1 != p }
      let m := (m.pk.live.filter fun i => i.part == p).foldl Mach.retireImage m
      let slots := ((List.range 64).map (BitVec.ofNat 6)).filter fun k => (m.pk.keySlot k).part == some p
      let m := slots.foldl Mach.revokeKey m
      let mine := clusterIds.filter fun c => m.pk.clusterIn p c
      (m.dropIrqs mine).modPk fun k =>
        let k := (mine.foldl (fun k c => k.zeroVault c.toNat) k).dropTlbs p
        { k with parts := k.parts.put p.toNat { d with tdisp := false, retired := true } })

end Sys2Proof.Machine
end

