-- ==== Sys2Proof/Machine/Drain.lean ====
section
/-!
DEFINITION. The drain: committed entries perform, two in a core cycle (R49, R118, R158, R176, R177, R220), and the
bridge FIFOs at their storage (R219, R220).
-/

namespace Sys2Proof.Machine

/-! ## Bridges (R219, R220) -/

/-- A count update on its way to the other end (R219). -/
def Mach.cross (m : Mach) (cl : ClusterId) (co : CoreId) (up : Bool) : Mach :=
  let (d, m) := m.delay
  m.modBridge cl co fun b => { b with crossings := b.crossings ++ [⟨m.pk.fret + 1 + d, up⟩] }

/-- A push at the FIFO storage (R220): appended, or dropped with cause 0x05, kind 1. -/
def Mach.appendPush (m : Mach) (cl : ClusterId) (co : CoreId) (w : PushWait) : Mach :=
  let b := m.bridge cl co
  let m := m.performed w.eff
  if 16 ≤ b.fifo.length then
    (m.modBridge cl co fun b => { b with prodHeld := b.prodHeld - 1 }).trapLate
      { ctx := ⟨cl, co, w.cx⟩, cause := 0x05, mask := 1#8 <<< w.slot.toNat, baddr := w.baddr, detail := bridgeDetail 1 b.fifo.length,
        pos := .effect, issued := w.issued, img := w.img, part := w.part }
  else (m.modBridge cl co fun b => { b with fifo := b.fifo ++ [w.val] }).cross cl co true

/-- A push in its drain cycle (R220): it counts at the producer at once, and waits behind a fence's hold (R162), which
delays no other context's pushes (log entry 35). -/
def Mach.drainPush (m : Mach) (cl : ClusterId) (co : CoreId) (w : PushWait) : Mach :=
  let m := m.modBridge cl co fun b => { b with prodHeld := b.prodHeld + 1 }
  if m.free? w.holds && !(m.bridge cl co).waiting.any fun x => x.cx == w.cx then m.appendPush cl co w
  else m.modBridge cl co fun b => { b with waiting := b.waiting ++ [w] }

/-- A pop in its drain cycle (R220): it becomes final. -/
def Mach.drainPop (m : Mach) (cl : ClusterId) (co : CoreId) : Mach :=
  (m.modBridge cl co fun b =>
    { b with fifo := b.fifo.drop 1, consHeld := b.consHeld - 1, u := b.u - 1 }).cross cl co false

/-- Pushes in drain order: one reaches the FIFO when no fence holds it, and none of its context before it. -/
def Mach.freePushes (m : Mach) (cl : ClusterId) (co : CoreId) (kept : List PushWait) : List PushWait → Mach
  | [] => m.modBridge cl co fun b => { b with waiting := kept }
  | w :: rest =>
    if m.free? w.holds && !kept.any fun x => x.cx == w.cx then
      (m.appendPush (otherEnd (upperOf cl)) co w).freePushes cl co kept rest
    else m.freePushes cl co (kept ++ [w]) rest

/-- BRIDGE_COUNT_CROSSING (R219): the updates that have crossed; a push that a fence held reaches the FIFO. -/
def execBridgeCountCrossing (cl : ClusterId) (co : CoreId) (s : State) : Host.Outcome State Fault Refusal :=
  .next (s.modMach fun m =>
    let t := m.pk.fret
    let m := m.modBridge cl co fun b =>
      let now := b.crossings.filter fun c => decide (c.ready ≤ t)
      { b with crossings := b.crossings.filter fun c => decide (t < c.ready),
               consHeld := b.consHeld + (now.filter Crossing.up).length,
               prodHeld := b.prodHeld - (now.filter fun c => !c.up).length }
    m.freePushes cl co [] (m.bridge cl co).waiting)

/-! ## The drain (R49) -/

/-- The origin of a drained command. -/
def DrainItem.origin (d : DrainItem) (cl : ClusterId) (co : CoreId) : CmdOrigin :=
  ⟨⟨cl, co, d.cx⟩, d.entry.baddr, d.entry.slot, d.img, d.part, d.ast⟩

/-- An identity sent to a cluster's interrupt file: pending eight core cycles of the sender later, or after (R177, R216);
none to a cluster that has left the partition since the issue (log entry 16). -/
def Mach.sendIrq (m : Mach) (cl dst : ClusterId) (part : BitVec 3) (ident : BitVec 10) (id : Nat) : Mach :=
  if !m.pk.clusterIn part dst then m.performed id
  else
  let (t, m) := m.delay
  m.modCluster dst fun x => { x with irqs := x.irqs ++ [⟨cl.toNat, m.cyc cl + 8 + t, ident, some id, none⟩] }

/-- An evt command takes effect (R176, R177); the record of one that a fence has held carries the Fret count of the hold's end
(DESIGN CHOICE, log entry 26). A record whose target is bound to the image of the command no longer is
discarded at the head of the queue: no event of one image reaches another image's area. -/
def Mach.postEvt (m : Mach) (cl : ClusterId) (co : CoreId) (d : DrainItem) : Mach :=
  match d.entry.eff with
  | .cmd (.evtPost code target detail) =>
    let x := m.ctx ⟨cl, co, target⟩
    let stale := x.img != d.img || x.part != d.part
    (m.modCore cl co fun k =>
      k.event ⟨rankSoftware, 1#1 ++ code, target, d.entry.slot, d.entry.baddr, m.fret40, detail, stale⟩).performed d.entry.id
  | .cmd (.evtIrq dst ident) => m.sendIrq cl dst d.part ident d.entry.id
  | .cmd _ | .store _ _ | .irq _ _ | .atomic _ => m

/-- A command handed to its engine, FIFO or queue in its drain cycle (R49). -/
def Mach.drainCommand (m : Mach) (cl : ClusterId) (co : CoreId) (d : DrainItem) (c : Cmd) : Mach :=
  let o := d.origin cl co
  let id := d.entry.id
  match c with
  | .cpy t dst src ch frz => m.handCopy o id d.holds t dst src ch frz
  | .famo op ord n addr val cmp res => m.handFar o id d.holds op ord n addr val cmp res
  | .pool op a v hasD => m.handPool o id d.holds op a v hasD
  | .qpush hd bytes => m.handPush o id d.holds hd bytes
  | .qpop hd res => m.handPop o id d.holds hd res
  | .qcount hd res => m.handCount o id d.holds hd res
  | .scope openIt a => m.handScope o id d.holds openIt a
  | .txt tok v p0 p1 a => m.handText o id d.holds tok v p0 p1 a
  | .sio op p0 p1 fua ch => m.handPort o id d.holds (some op) none [p0, p1] fua ch
  | .net op ps ord ch => m.handPort o id d.holds none (some op) ps ord ch
  | .evtPost _ _ _ | .evtIrq _ _ =>
    if m.free? d.holds && !(m.core cl co).heldEvts.any fun x => x.cx == d.cx then m.postEvt cl co d
    else m.modCore cl co fun k => { k with heldEvts := k.heldEvts ++ [d] }
  | .brgPush val =>
    m.drainPush cl co ⟨val, id, d.holds, d.cx, d.entry.baddr, d.entry.slot, d.entry.issued, d.img, d.part⟩
  | .brgPop => m.drainPop cl co

/-- Held evt commands in drain order: one takes effect when no fence holds it, and none of its context before it. -/
def Mach.freeEvts (m : Mach) (cl : ClusterId) (co : CoreId) (kept : List DrainItem) : List DrainItem → Mach
  | [] => m.modCore cl co fun k => { k with heldEvts := kept }
  | d :: rest =>
    if m.free? d.holds && !kept.any fun x => x.cx == d.cx then (m.postEvt cl co d).freeEvts cl co kept rest
    else m.freeEvts cl co (kept ++ [d]) rest

/-- The evt commands that no fence holds any longer (R162, R273). -/
def State.evts (s : State) (cl : ClusterId) (co : CoreId) : State :=
  s.modMach fun m => m.freeEvts cl co [] (m.core cl co).heldEvts

/-- A committed entry performs (R49), whatever has become of its context (R180). -/
def Mach.drainItem (m : Mach) (cl : ClusterId) (co : CoreId) (d : DrainItem) : Mach :=
  let id := d.entry.id
  match d.entry.eff with
  | .store .lm bytes => (m.modCore cl co fun k => k.writeLM (some (d.cx, d.entry.issued)) bytes).performed id
  | .store .sp bytes => m.modCluster cl fun c =>
    { c with bank := c.bank ++ [⟨c.cyc + 5, d.entry.issued, co, d.cx, bytes, none, some id⟩] }
  | .irq dst ident => m.sendIrq cl dst d.part ident id
  | .atomic a =>
    let a := { a with eff := some id }
    match a.space with
    | .lm => m.modCore cl co fun k => { k with atomics := k.atomics ++ [⟨m.cyc cl, co, a, d.entry.issued⟩] }
    | .sp => m.modCluster cl fun c => { c with bank := c.bank ++ [⟨c.cyc + 5, d.entry.issued, co, d.cx, [], some a, some id⟩] }
  | .cmd c => m.drainCommand cl co d c

/-- DRAIN_ENTRY (R49): the first committed entry, when its cycle has come and fewer than two have drained in it. -/
def execDrainEntry (cl : ClusterId) (co : CoreId) (s : State) : Host.Outcome State Fault Refusal :=
  .next (s.modMach fun m =>
    let k := m.core cl co
    match k.drain with
    | [] => m
    | d :: rest =>
      if 2 ≤ k.drained ∨ m.cyc cl < d.since then m
      else (m.modCore cl co fun k => { k with drain := rest, drained := k.drained + 1 }).drainItem cl co d)

/-! ## Fence holds (R273) -/

/-- The holds that end in this Fret tick; those that ended in an earlier one hold nothing and are forgotten. -/
def State.endHolds (s : State) : State :=
  s.modMach fun m =>
    let t := m.pk.fret
    let fs := (m.pk.fences.filter fun f => match f.ended with
      | none => true
      | some u => decide (t ≤ u)).map fun f =>
        if f.ended.isNone && m.fenceMet f then { f with ended := some t } else f
    m.modPk fun p => { p with fences := fs }

end Sys2Proof.Machine
end

