-- ==== Sys2Proof/Machine/HartDecode.lean ====
section
/-!
DEFINITION. The instructions of a supervisor hart (R6, R214): RV64GC, which is RV64IMAFDC with Zicsr and Zifencei, and the
reading of its 32-bit and 16-bit encodings. PRESUMED: R214 names RV64GC and the spec gives none of its encodings; they are
those of the RISC-V unprivileged architecture (log entry 40).
-/

namespace Sys2Proof.Machine

/-- The operations of the integer unit: those of RV64I and of the M extension. -/
inductive HartAlu where
  | add | sub | sll | slt | sltu | xor | srl | sra | or | and
  | mul | mulh | mulhsu | mulhu | div | divu | rem | remu
  deriving DecidableEq, Repr

/-- The read-modify-write operations of the A extension. -/
inductive HartAmo where
  | swap | add | xor | and | or | min | max | minu | maxu
  deriving DecidableEq, Repr

/-- The two-operand arithmetic of the F and D extensions. -/
inductive HartFop where
  | add | sub | mul | div
  deriving DecidableEq, Repr

/-- The comparisons of the F and D extensions. -/
inductive HartCmp where
  | le | lt | eq
  deriving DecidableEq, Repr

/-- The instructions of a hart. `w` marks the 32-bit forms of RV64I and M, `d` the double forms of A, F and D, and `rm` is
a rounding field. -/
inductive HartInstr where
  | lui (rd : BitVec 5) (imm : Word)
  | auipc (rd : BitVec 5) (imm : Word)
  | jal (rd : BitVec 5) (off : Word)
  | jalr (rd rs1 : BitVec 5) (off : Word)
  | branch (f3 : BitVec 3) (rs1 rs2 : BitVec 5) (off : Word)
  | load (f3 : BitVec 3) (rd rs1 : BitVec 5) (off : Word)
  | store (size : BitVec 2) (rs1 rs2 : BitVec 5) (off : Word)
  | op (a : HartAlu) (w : Bool) (rd rs1 rs2 : BitVec 5)
  | opImm (a : HartAlu) (w : Bool) (rd rs1 : BitVec 5) (imm : Word)
  | fence | fenceI | ecall | ebreak | mret | wfi
  | csr (f3 : BitVec 3) (rd src : BitVec 5) (num : BitVec 12)
  | lr (d : Bool) (rd rs1 : BitVec 5)
  | sc (d : Bool) (rd rs1 rs2 : BitVec 5)
  | amo (o : HartAmo) (d : Bool) (rd rs1 rs2 : BitVec 5)
  | fload (d : Bool) (rd rs1 : BitVec 5) (off : Word)
  | fstore (d : Bool) (rs1 rs2 : BitVec 5) (off : Word)
  /-- ± (rs1 × rs2) ± rs3. -/
  | fma (negProd negAdd d : Bool) (rd rs1 rs2 rs3 : BitVec 5) (rm : BitVec 3)
  | fop (o : HartFop) (d : Bool) (rd rs1 rs2 : BitVec 5) (rm : BitVec 3)
  | fsqrt (d : Bool) (rd rs1 : BitVec 5) (rm : BitVec 3)
  /-- 0 copies the sign of rs2, 1 its complement, 2 the exclusive or of both signs. -/
  | fsgnj (how : BitVec 3) (d : Bool) (rd rs1 rs2 : BitVec 5)
  | fminmax (max d : Bool) (rd rs1 rs2 : BitVec 5)
  /-- Between the two formats, into `d`. -/
  | fcvtF (d : Bool) (rd rs1 : BitVec 5) (rm : BitVec 3)
  /-- `kind`: w, wu, l, lu. -/
  | fcvtToInt (d : Bool) (kind : BitVec 2) (rd rs1 : BitVec 5) (rm : BitVec 3)
  | fcvtOfInt (d : Bool) (kind : BitVec 2) (rd rs1 : BitVec 5) (rm : BitVec 3)
  | fmvToX (d : Bool) (rd rs1 : BitVec 5)
  | fmvOfX (d : Bool) (rd rs1 : BitVec 5)
  | fclass (d : Bool) (rd rs1 : BitVec 5)
  | fcmp (c : HartCmp) (d : Bool) (rd rs1 rs2 : BitVec 5)
  deriving DecidableEq, Repr

/-! ## Immediates of the 32-bit formats -/

def immI (w : BitVec 32) : Word := (w.extractLsb' 20 12).signExtend 64
def immS (w : BitVec 32) : Word := (w.extractLsb' 25 7 ++ w.extractLsb' 7 5).signExtend 64
def immB (w : BitVec 32) : Word :=
  (w.extractLsb' 31 1 ++ w.extractLsb' 7 1 ++ w.extractLsb' 25 6 ++ w.extractLsb' 8 4 ++ 0#1).signExtend 64
def immU (w : BitVec 32) : Word := (w.extractLsb' 12 20 ++ 0#12).signExtend 64
def immJ (w : BitVec 32) : Word :=
  (w.extractLsb' 31 1 ++ w.extractLsb' 12 8 ++ w.extractLsb' 20 1 ++ w.extractLsb' 21 10 ++ 0#1).signExtend 64

/-! ## The 32-bit encodings -/

/-- The operation of a register form, by funct7 and funct3. -/
def hartAlu (f7 f3 : Nat) : Option HartAlu :=
  match f7, f3 with
  | 0, 0 => some .add
  | 0, 1 => some .sll
  | 0, 2 => some .slt
  | 0, 3 => some .sltu
  | 0, 4 => some .xor
  | 0, 5 => some .srl
  | 0, 6 => some .or
  | 0, 7 => some .and
  | 0x20, 0 => some .sub
  | 0x20, 5 => some .sra
  | 1, 0 => some .mul
  | 1, 1 => some .mulh
  | 1, 2 => some .mulhsu
  | 1, 3 => some .mulhu
  | 1, 4 => some .div
  | 1, 5 => some .divu
  | 1, 6 => some .rem
  | 1, 7 => some .remu
  | _, _ => none

/-- The operation has a 32-bit form in RV64. -/
def HartAlu.narrow : HartAlu → Bool
  | .add | .sub | .sll | .srl | .sra | .mul | .div | .divu | .rem | .remu => true
  | .slt | .sltu | .xor | .or | .and | .mulh | .mulhsu | .mulhu => false

/-- The atomic operation that funct5 names. -/
def hartAmo : Nat → Option HartAmo
  | 0 => some .add
  | 1 => some .swap
  | 4 => some .xor
  | 8 => some .or
  | 0xC => some .and
  | 0x10 => some .min
  | 0x14 => some .max
  | 0x18 => some .minu
  | 0x1C => some .maxu
  | _ => none

/-- An immediate form; a shift has its amount in the low bits and funct6 above them. -/
def decodeOpImm (w : BitVec 32) : Option HartInstr :=
  let rd := w.extractLsb' 7 5
  let rs1 := w.extractLsb' 15 5
  let f6 := (w.extractLsb' 26 6).toNat
  let sh : Word := (w.extractLsb' 20 6).setWidth 64
  match (w.extractLsb' 12 3).toNat with
  | 1 => if f6 = 0 then some (.opImm .sll false rd rs1 sh) else none
  | 5 => if f6 = 0 then some (.opImm .srl false rd rs1 sh)
    else if f6 = 0x10 then some (.opImm .sra false rd rs1 sh) else none
  | f3 => (hartAlu 0 f3).map fun a => .opImm a false rd rs1 (immI w)

/-- A 32-bit immediate form. -/
def decodeOpImmW (w : BitVec 32) : Option HartInstr :=
  let rd := w.extractLsb' 7 5
  let rs1 := w.extractLsb' 15 5
  let f7 := (w.extractLsb' 25 7).toNat
  let sh : Word := (w.extractLsb' 20 5).setWidth 64
  match (w.extractLsb' 12 3).toNat with
  | 0 => some (.opImm .add true rd rs1 (immI w))
  | 1 => if f7 = 0 then some (.opImm .sll true rd rs1 sh) else none
  | 5 => if f7 = 0 then some (.opImm .srl true rd rs1 sh)
    else if f7 = 0x20 then some (.opImm .sra true rd rs1 sh) else none
  | _ => none

/-- The system instructions. -/
def decodeSystem (w : BitVec 32) : Option HartInstr :=
  let f3 : BitVec 3 := w.extractLsb' 12 3
  if f3 = 0 then
    match w.toNat with
    | 0x00000073 => some .ecall
    | 0x00100073 => some .ebreak
    | 0x30200073 => some .mret
    | 0x10500073 => some .wfi
    | _ => none
  else if f3 = 4 then none
  else some (.csr f3 (w.extractLsb' 7 5) (w.extractLsb' 15 5) (w.extractLsb' 20 12))

/-- The A extension. -/
def decodeAmo (w : BitVec 32) : Option HartInstr :=
  let rd := w.extractLsb' 7 5
  let rs1 := w.extractLsb' 15 5
  let rs2 := w.extractLsb' 20 5
  let f3 := (w.extractLsb' 12 3).toNat
  let d := decide (f3 = 3)
  if f3 ≠ 2 ∧ f3 ≠ 3 then none
  else match (w.extractLsb' 27 5).toNat with
    | 2 => if rs2 = 0 then some (.lr d rd rs1) else none
    | 3 => some (.sc d rd rs1 rs2)
    | f5 => (hartAmo f5).map fun o => .amo o d rd rs1 rs2

/-- The computations of the F and D extensions. -/
def decodeFp (w : BitVec 32) : Option HartInstr :=
  let rd := w.extractLsb' 7 5
  let rm : BitVec 3 := w.extractLsb' 12 3
  let rs1 := w.extractLsb' 15 5
  let rs2 := w.extractLsb' 20 5
  let fmt := (w.extractLsb' 25 2).toNat
  let d := decide (fmt = 1)
  let kind : BitVec 2 := rs2.setWidth 2
  if 2 ≤ fmt then none
  else match (w.extractLsb' 27 5).toNat with
    | 0 => some (.fop .add d rd rs1 rs2 rm)
    | 1 => some (.fop .sub d rd rs1 rs2 rm)
    | 2 => some (.fop .mul d rd rs1 rs2 rm)
    | 3 => some (.fop .div d rd rs1 rs2 rm)
    | 0xB => if rs2 = 0 then some (.fsqrt d rd rs1 rm) else none
    | 4 => if rm.toNat ≤ 2 then some (.fsgnj rm d rd rs1 rs2) else none
    | 5 => if rm.toNat ≤ 1 then some (.fminmax (decide (rm = 1)) d rd rs1 rs2) else none
    | 8 => if rs2.toNat + fmt = 1 then some (.fcvtF d rd rs1 rm) else none
    | 0x14 => match rm.toNat with
      | 0 => some (.fcmp .le d rd rs1 rs2)
      | 1 => some (.fcmp .lt d rd rs1 rs2)
      | 2 => some (.fcmp .eq d rd rs1 rs2)
      | _ => none
    | 0x18 => if rs2.toNat < 4 then some (.fcvtToInt d kind rd rs1 rm) else none
    | 0x1A => if rs2.toNat < 4 then some (.fcvtOfInt d kind rd rs1 rm) else none
    | 0x1C => if rs2 ≠ 0 then none
      else if rm = 0 then some (.fmvToX d rd rs1)
      else if rm = 1 then some (.fclass d rd rs1) else none
    | 0x1E => if rs2 = 0 ∧ rm = 0 then some (.fmvOfX d rd rs1) else none
    | _ => none

/-- A 32-bit encoding. -/
def decode32 (w : BitVec 32) : Option HartInstr :=
  let rd := w.extractLsb' 7 5
  let f3 : BitVec 3 := w.extractLsb' 12 3
  let rs1 := w.extractLsb' 15 5
  let rs2 := w.extractLsb' 20 5
  let fmt := (w.extractLsb' 25 2).toNat
  let fma := fun (np na : Bool) =>
    if 2 ≤ fmt then none else some (HartInstr.fma np na (decide (fmt = 1)) rd rs1 rs2 (w.extractLsb' 27 5) f3)
  match (w.extractLsb' 0 7).toNat with
  | 0x37 => some (.lui rd (immU w))
  | 0x17 => some (.auipc rd (immU w))
  | 0x6F => some (.jal rd (immJ w))
  | 0x67 => if f3 = 0 then some (.jalr rd rs1 (immI w)) else none
  | 0x63 => if f3 = 2 ∨ f3 = 3 then none else some (.branch f3 rs1 rs2 (immB w))
  | 0x03 => if f3 = 7 then none else some (.load f3 rd rs1 (immI w))
  | 0x23 => if 4 ≤ f3.toNat then none else some (.store (f3.setWidth 2) rs1 rs2 (immS w))
  | 0x13 => decodeOpImm w
  | 0x1B => decodeOpImmW w
  | 0x33 => (hartAlu (w.extractLsb' 25 7).toNat f3.toNat).map fun a => .op a false rd rs1 rs2
  | 0x3B => match hartAlu (w.extractLsb' 25 7).toNat f3.toNat with
    | some a => if a.narrow then some (.op a true rd rs1 rs2) else none
    | none => none
  | 0x0F => if f3 = 0 then some .fence else if f3 = 1 then some .fenceI else none
  | 0x73 => decodeSystem w
  | 0x2F => decodeAmo w
  | 0x07 => if f3 = 2 ∨ f3 = 3 then some (.fload (decide (f3 = 3)) rd rs1 (immI w)) else none
  | 0x27 => if f3 = 2 ∨ f3 = 3 then some (.fstore (decide (f3 = 3)) rs1 rs2 (immS w)) else none
  | 0x43 => fma false false
  | 0x47 => fma false true
  | 0x4B => fma true false
  | 0x4F => fma true true
  | 0x53 => decodeFp w
  | _ => none

/-! ## The 16-bit encodings -/

/-- A register of the eight that a compressed encoding names in three bits. -/
def shortReg (b : BitVec 3) : BitVec 5 := 0b01#2 ++ b

/-- Bits `i + n - 1` to `i` of a compressed encoding. -/
abbrev cbits (w : BitVec 16) (i n : Nat) : BitVec n := w.extractLsb' i n

/-- The six-bit signed immediate of a compressed encoding, and the offsets of its jump and its branches. -/
def cImm (w : BitVec 16) : Word := (cbits w 12 1 ++ cbits w 2 5).signExtend 64
def cJump (w : BitVec 16) : Word :=
  (cbits w 12 1 ++ cbits w 8 1 ++ cbits w 9 2 ++ cbits w 6 1 ++ cbits w 7 1 ++ cbits w 2 1 ++ cbits w 11 1 ++
    cbits w 3 3 ++ 0#1).signExtend 64
def cBranch (w : BitVec 16) : Word :=
  (cbits w 12 1 ++ cbits w 5 2 ++ cbits w 2 1 ++ cbits w 10 2 ++ cbits w 3 2 ++ 0#1).signExtend 64

/-- Quadrant 0: accesses by a register of eight, and an address in the stack. -/
def decodeC0 (w : BitVec 16) : Option HartInstr :=
  let r := shortReg (cbits w 2 3)
  let base := shortReg (cbits w 7 3)
  let off4 : Word := (cbits w 5 1 ++ cbits w 10 3 ++ cbits w 6 1 ++ 0#2).setWidth 64
  let off8 : Word := (cbits w 5 2 ++ cbits w 10 3 ++ 0#3).setWidth 64
  match (cbits w 13 3).toNat with
  | 0 =>
    let imm : Word := (cbits w 7 4 ++ cbits w 11 2 ++ cbits w 5 1 ++ cbits w 6 1 ++ 0#2).setWidth 64
    if imm = 0 then none else some (.opImm .add false r 2 imm)
  | 1 => some (.fload true r base off8)
  | 2 => some (.load 2 r base off4)
  | 3 => some (.load 3 r base off8)
  | 5 => some (.fstore true base r off8)
  | 6 => some (.store 2 base r off4)
  | 7 => some (.store 3 base r off8)
  | _ => none

/-- The arithmetic of quadrant 1. -/
def decodeC1Alu (w : BitVec 16) : Option HartInstr :=
  let r := shortReg (cbits w 7 3)
  let r2 := shortReg (cbits w 2 3)
  let sh : Word := (cbits w 12 1 ++ cbits w 2 5).setWidth 64
  match (cbits w 10 2).toNat with
  | 0 => some (.opImm .srl false r r sh)
  | 1 => some (.opImm .sra false r r sh)
  | 2 => some (.opImm .and false r r (cImm w))
  | _ => match (cbits w 12 1 ++ cbits w 5 2).toNat with
    | 0 => some (.op .sub false r r r2)
    | 1 => some (.op .xor false r r r2)
    | 2 => some (.op .or false r r r2)
    | 3 => some (.op .and false r r r2)
    | 4 => some (.op .sub true r r r2)
    | 5 => some (.op .add true r r r2)
    | _ => none

/-- Quadrant 1. -/
def decodeC1 (w : BitVec 16) : Option HartInstr :=
  let rd := cbits w 7 5
  match (cbits w 13 3).toNat with
  | 0 => some (.opImm .add false rd rd (cImm w))
  | 1 => if rd = 0 then none else some (.opImm .add true rd rd (cImm w))
  | 2 => some (.opImm .add false rd 0 (cImm w))
  | 3 =>
    if cImm w = 0 then none
    else if rd = 2 then
      some (.opImm .add false 2 2
        ((cbits w 12 1 ++ cbits w 3 2 ++ cbits w 5 1 ++ cbits w 2 1 ++ cbits w 6 1 ++ 0#4).signExtend 64))
    else some (.lui rd ((cbits w 12 1 ++ cbits w 2 5 ++ 0#12).signExtend 64))
  | 4 => decodeC1Alu w
  | 5 => some (.jal 0 (cJump w))
  | 6 => some (.branch 0 (shortReg (cbits w 7 3)) 0 (cBranch w))
  | _ => some (.branch 1 (shortReg (cbits w 7 3)) 0 (cBranch w))

/-- Quadrant 2. -/
def decodeC2 (w : BitVec 16) : Option HartInstr :=
  let rd := cbits w 7 5
  let rs2 := cbits w 2 5
  let off8 : Word := (cbits w 2 3 ++ cbits w 12 1 ++ cbits w 5 2 ++ 0#3).setWidth 64
  let put8 : Word := (cbits w 7 3 ++ cbits w 10 3 ++ 0#3).setWidth 64
  match (cbits w 13 3).toNat with
  | 0 => some (.opImm .sll false rd rd ((cbits w 12 1 ++ cbits w 2 5).setWidth 64))
  | 1 => some (.fload true rd 2 off8)
  | 2 => if rd = 0 then none
    else some (.load 2 rd 2 ((cbits w 2 2 ++ cbits w 12 1 ++ cbits w 4 3 ++ 0#2).setWidth 64))
  | 3 => if rd = 0 then none else some (.load 3 rd 2 off8)
  | 4 =>
    if cbits w 12 1 = 0 then
      if rs2 ≠ 0 then some (.op .add false rd 0 rs2) else if rd = 0 then none else some (.jalr 0 rd 0)
    else if rs2 ≠ 0 then some (.op .add false rd rd rs2)
    else if rd = 0 then some .ebreak else some (.jalr 1 rd 0)
  | 5 => some (.fstore true 2 rs2 put8)
  | 6 => some (.store 2 2 rs2 ((cbits w 7 2 ++ cbits w 9 4 ++ 0#2).setWidth 64))
  | _ => some (.store 3 2 rs2 put8)

/-- A 16-bit encoding, whose low two bits are not both 1. -/
def decode16 (w : BitVec 16) : Option HartInstr :=
  match (cbits w 0 2).toNat with
  | 0 => decodeC0 w
  | 1 => decodeC1 w
  | 2 => decodeC2 w
  | _ => none

end Sys2Proof.Machine
end

