-- ==== Sys2Proof/Machine/HartUnit.lean ====
section
/-!
DEFINITION. What a supervisor hart's instructions compute on their operands (R6, R214): RV64 integer arithmetic, and the
arithmetic of the F and D extensions by the exact numbers of Machine/Number.lean. PRESUMED: the RISC-V unprivileged
architecture (log entry 40).
-/

namespace Sys2Proof.Machine

/-! ## Integers -/

/-- An operation at a width that is a power of two; a shift takes its amount modulo the width. -/
def HartAlu.at {n : Nat} (o : HartAlu) (a b : BitVec n) : BitVec n :=
  match o with
  | .add => a + b
  | .sub => a - b
  | .sll => a <<< (b.toNat % n)
  | .slt => if a.slt b then 1 else 0
  | .sltu => if a.ult b then 1 else 0
  | .xor => a ^^^ b
  | .srl => a >>> (b.toNat % n)
  | .sra => a.sshiftRight (b.toNat % n)
  | .or => a ||| b
  | .and => a &&& b
  | .mul => a * b
  | .mulh => BitVec.ofInt n (a.toInt * b.toInt / 2 ^ n)
  | .mulhsu => BitVec.ofInt n (a.toInt * b.toNat / 2 ^ n)
  | .mulhu => BitVec.ofNat n (a.toNat * b.toNat / 2 ^ n)
  | .div => if b = 0 then -1 else a.sdiv b
  | .divu => if b = 0 then -1 else a.udiv b
  | .rem => if b = 0 then a else a.srem b
  | .remu => if b = 0 then a else a.umod b

/-- An operation, or its 32-bit form, whose result is extended by its sign. -/
def HartAlu.run (o : HartAlu) (w : Bool) (a b : Word) : Word :=
  if w then (o.at (a.setWidth 32 : BitVec 32) (b.setWidth 32)).signExtend 64 else o.at a b

/-- A branch is taken. -/
def branchTaken (f3 : BitVec 3) (a b : Word) : Bool :=
  match f3.toNat with
  | 0 => a == b
  | 1 => a != b
  | 4 => a.slt b
  | 5 => !a.slt b
  | 6 => a.ult b
  | _ => !a.ult b

/-- What a load of the size and sign of `f3` writes. -/
def loadExtend (f3 : BitVec 3) (l : List Byte) : Word :=
  let v : Word := BitVec.ofNat 64 (natOfBytes l)
  match f3.toNat with
  | 0 => (v.setWidth 8 : BitVec 8).signExtend 64
  | 1 => (v.setWidth 16 : BitVec 16).signExtend 64
  | 2 => (v.setWidth 32 : BitVec 32).signExtend 64
  | _ => v

/-- An atomic operation at a width. -/
def HartAmo.at {n : Nat} (o : HartAmo) (old v : BitVec n) : BitVec n :=
  match o with
  | .swap => v
  | .add => old + v
  | .xor => old ^^^ v
  | .and => old &&& v
  | .or => old ||| v
  | .min => if old.slt v then old else v
  | .max => if old.slt v then v else old
  | .minu => if old.ult v then old else v
  | .maxu => if old.ult v then v else old

/-! ## Floats -/

/-- The formats of F and D. -/
def hartFmt (d : Bool) : Fmt := if d then ⟨11, 52, true, 1023, .ieee, true⟩ else ftyFmt .f32

/-- A register read as a code of a format: a float not boxed in ones reads as the canonical NaN. -/
def fcodeOf (d : Bool) (v : Word) : Nat :=
  if d then v.toNat else if v.extractLsb' 32 32 = 0xFFFFFFFF then v.toNat % 2 ^ 32 else 0x7FC00000

/-- A code as a register holds it. -/
def fbox (d : Bool) (c : Nat) : Word := if d then BitVec.ofNat 64 c else 0xFFFFFFFF#32 ++ BitVec.ofNat 32 c

/-- The value of a register read in a format. -/
def fvalOf (d : Bool) (v : Word) : Num := (hartFmt d).unpack (fcodeOf d v)

/-- The rounding modes of a hart: the four of R90, and to the nearest with ties away from zero. -/
inductive HartRm where
  | of (r : RMode)
  | away
  deriving DecidableEq, Repr

/-- The mode that a rounding field names; 7 takes that of frm. -/
def HartRm.of? (rm frm : BitVec 3) : Option HartRm :=
  match (if rm = 7 then frm else rm).toNat with
  | 0 => some (.of .nearest)
  | 1 => some (.of .zero)
  | 2 => some (.of .down)
  | 3 => some (.of .up)
  | 4 => some .away
  | _ => none

/-- The mode with which exact sums and the flags are formed. -/
def HartRm.base : HartRm → RMode
  | .of r => r
  | .away => .nearest

/-- A value a little further from zero, by less than any unit that rounding keeps or drops: it breaks ties away from zero. -/
def Num.nudge : Num → Num
  | .fin neg m e => if m = 0 then .fin neg m e else .fin neg (m * 2 ^ 64 + 1) (e - 64)
  | v => v

/-- A result rounded into a format. -/
def hround (r : HartRm) (d : Bool) (v : Num × Flags) : Word × Flags :=
  let p := (hartFmt d).pack r.base v.1
  let c := match r with
    | .of _ => p.1
    | .away => ((hartFmt d).pack .nearest v.1.nudge).1
  (fbox d c, p.2 ||| v.2)

/-- A quotient: exact, or between two neighbours 64 places below its first bit. -/
def fdiv (a b : Num) : Num × Flags :=
  let sig : Flags := if a.isSnan || b.isSnan then flagNV else 0
  if a.isNan || b.isNan then (.nan false, sig)
  else match a, b with
    | .inf _, .inf _ => (.nan false, flagNV)
    | .inf x, _ => (.inf (x != b.negative), 0)
    | _, .inf y => (.fin (a.negative != y) 0 0, 0)
    | .fin na ma ea, .fin nb mb eb =>
      let neg := na != nb
      if mb = 0 then (if ma = 0 then (.nan false, flagNV) else (.inf neg, flagDZ))
      else
        let k := bitLength mb + 64
        let q := ma * 2 ^ k / mb
        let e := ea - eb - k
        (if ma * 2 ^ k % mb = 0 then .fin neg q e else between neg q e, 0)
    | _, _ => (.nan false, sig)

/-- A square root. -/
def fsqrt (a : Num) : Num × Flags :=
  match a with
  | .nan s => (.nan false, if s then flagNV else 0)
  | .inf neg => if neg then (.nan false, flagNV) else (.inf false, 0)
  | .fin neg m e =>
    if m = 0 then (.fin neg 0 0, 0)
    else if neg then (.nan false, flagNV)
    else
      let m' := if e % 2 = 0 then m else 2 * m
      let e' := if e % 2 = 0 then e else e - 1
      let n := m' * 2 ^ 128
      let q := isqrt n
      (if q * q = n then .fin false q (e' / 2 - 64) else between false q (e' / 2 - 64), 0)

/-- Two-operand arithmetic. -/
def HartFop.run (o : HartFop) (r : HartRm) (a b : Num) : Num × Flags :=
  match o with
  | .add => fadd r.base a b
  | .sub => fadd r.base a b.neg
  | .mul => fmul a b
  | .div => fdiv a b

/-- A conversion to an integer of 32 or 64 bits, as the register holds it: out of range it is the nearest bound, and a NaN
is the upper one. -/
def fToInt (r : HartRm) (kind : BitVec 2) (v : Num) : Word × Flags :=
  let nat := kind.getLsbD 0
  let w := if kind.getLsbD 1 then 64 else 32
  let (lo, hi) := intRange nat w
  let put := fun (x : Int) => if w = 32 then (BitVec.ofInt 32 x).signExtend 64 else BitVec.ofInt 64 x
  match v with
  | .nan _ => (put hi, flagNV)
  | .inf neg => (put (if neg then lo else hi), flagNV)
  | .fin _ _ _ =>
    let x := match r with
      | .of r => roundToInt r v
      | .away => roundToInt .nearest v.nudge
    match x, roundToInt r.base v with
    | some (x, _), some (_, nx) => if x < lo ∨ hi < x then (put (clampInt lo hi x), flagNV) else (put x, if nx then flagNX else 0)
    | _, _ => (put hi, flagNV)

/-- The value of an integer register read as a kind of integer. -/
def numOfInt (kind : BitVec 2) (v : Word) : Num :=
  let x : Int := match kind.toNat with
    | 0 => (v.setWidth 32 : BitVec 32).toInt
    | 1 => (v.setWidth 32 : BitVec 32).toNat
    | 2 => v.toInt
    | _ => v.toNat
  numOf x 0 false

/-- The class of a value: one bit of ten. -/
def fclassOf (d : Bool) (v : Word) : Word :=
  let f := hartFmt d
  let c := fcodeOf d v
  match f.unpack c with
  | .nan s => if s then 0x100 else 0x200
  | .inf neg => if neg then 0x001 else 0x080
  | .fin neg m _ =>
    let sub := decide (c % 2 ^ (f.e + f.m) < 2 ^ f.m)
    if m = 0 then (if neg then 0x008 else 0x010)
    else if sub then (if neg then 0x004 else 0x020)
    else if neg then 0x002 else 0x040

/-- A comparison: le and lt signal on any NaN, eq on a signalling one. -/
def HartCmp.run (o : HartCmp) (a b : Num) : Word × Flags :=
  if a.isNan || b.isNan then
    (0, match o with
      | .le | .lt => flagNV
      | .eq => if a.isSnan || b.isSnan then flagNV else 0)
  else
    let c := fcmp a b
    (if (match o with
      | .le => decide (c ≤ 0)
      | .lt => decide (c < 0)
      | .eq => decide (c = 0)) then 1 else 0, 0)

/-- The sign of one register with the rest of another. -/
def fsignOf (how : BitVec 3) (d : Bool) (a b : Word) : Word :=
  let n := (hartFmt d).bits - 1
  let x := fcodeOf d a
  let s := (fcodeOf d b).testBit n
  let s := match how.toNat with
    | 0 => s
    | 1 => !s
    | _ => s != x.testBit n
  fbox d (x % 2 ^ n + if s then 2 ^ n else 0)

end Sys2Proof.Machine
end

