-- ==== Sys2Proof/Machine/Hart.lean ====
section
/-!
DEFINITION. The supervisor cores running their kernels (R6, R214): fetch, execution, exceptions and the machine external
interrupt. Their accesses are translated and checked as R237, R239, R243 and R329 say. PRESUMED: the registers, the CSRs and
the exceptions are those of the RISC-V machine mode (log entry 40).
-/

namespace Sys2Proof.Machine

/-! ## Registers -/

def Hart.rx (h : Hart) (r : BitVec 5) : Word := if r = 0 then 0 else h.x[r.toNat]'(r.isLt)
def Hart.wx (h : Hart) (r : BitVec 5) (v : Word) : Hart := if r = 0 then h else { h with x := h.x.set r.toNat v r.isLt }
def Hart.rf (h : Hart) (r : BitVec 5) : Word := h.f[r.toNat]'(r.isLt)

/-- Flags raised by a computation of the F and D extensions. -/
def Hart.raise (h : Hart) (fl : Flags) : Hart := { h with fflags := h.fflags ||| fl, fs := 3 }

/-- A float register written. -/
def Hart.wf (h : Hart) (r : BitVec 5) (v : Word × Flags) : Hart :=
  { h.raise v.2 with f := h.f.set r.toNat v.1 r.isLt }

/-- The next instruction. -/
def Hart.step (h : Hart) (len : Nat) : Hart := { h with pc := h.pc + BitVec.ofNat 64 len }

/-! ## Exceptions and interrupts -/

/-- An exception or an interrupt taken: the pc and the enable bit are saved, and the handler of mtvec runs. -/
def Hart.enter (h : Hart) (interrupt : Bool) (code : Nat) (tval : Word) : Hart :=
  let base := h.mtvec &&& ~~~3
  { h with mepc := h.pc, mcause := BitVec.ofNat 64 (code + if interrupt then 2 ^ 63 else 0), mtval := tval, pie := h.ie,
           ie := false, pc := if interrupt && h.mtvec.getLsbD 0 then base + BitVec.ofNat 64 (4 * code) else base }

/-- The return from a handler. -/
def Hart.leave (h : Hart) : Hart := { h with pc := h.mepc, ie := h.pie, pie := true }

/-- A result, or an exception with its code and what mtval shows. -/
inductive HartRes (α : Type) where
  | ok (x : α)
  | trap (code : Nat) (tval : Word)
  deriving DecidableEq, Repr

/-! ## CSRs -/

def mstatusOf (h : Hart) : Word :=
  BitVec.ofNat 64 ((if h.ie then 8 else 0) + (if h.pie then 128 else 0) + 3 * 2 ^ 11 + h.fs.toNat * 2 ^ 13 +
    if h.fs = 3 then 2 ^ 63 else 0)

/-- A CSR's value: none where no such CSR exists, and for the float CSRs while FS is 0. -/
def Mach.csrRead (m : Mach) (cl : ClusterId) (h : Hart) (num : BitVec 12) : Option Word :=
  let n := num.toNat
  let float := fun (w : Word) => if h.fs = 0 then none else some w
  match n with
  | 0x001 => float (h.fflags.setWidth 64)
  | 0x002 => float (h.frm.setWidth 64)
  | 0x003 => float ((h.frm ++ h.fflags).setWidth 64)
  | 0x300 => some (mstatusOf h)
  | 0x301 => some (BitVec.ofNat 64 (2 ^ 63 + 0x112D))
  | 0x304 => some h.mie
  | 0x305 => some h.mtvec
  | 0x340 => some h.mscratch
  | 0x341 => some h.mepc
  | 0x342 => some h.mcause
  | 0x343 => some h.mtval
  | 0x344 => some (if (m.cluster cl).externalInterrupt then 0x800 else 0)
  | 0xB00 | 0xC00 => some h.mcycle
  | 0xB02 | 0xC02 => some h.minstret
  | 0xC01 => some (BitVec.ofNat 64 m.pk.fret)
  | 0xF14 => some (BitVec.ofNat 64 cl.toNat)
  | 0x320 | 0xF11 | 0xF12 | 0xF13 | 0xF15 => some 0
  | _ => if (0xB03 ≤ n ∧ n ≤ 0xB1F) ∨ (0x323 ≤ n ∧ n ≤ 0x33F) ∨ (0xC03 ≤ n ∧ n ≤ 0xC1F) then some 0 else none

/-- A CSR written; what is hard-wired stays. -/
def Hart.csrWrite (h : Hart) (num : BitVec 12) (v : Word) : Hart :=
  match num.toNat with
  | 0x001 => { h with fflags := v.setWidth 5, fs := 3 }
  | 0x002 => { h with frm := v.setWidth 3, fs := 3 }
  | 0x003 => { h with fflags := v.setWidth 5, frm := v.extractLsb' 5 3, fs := 3 }
  | 0x300 => { h with ie := v.getLsbD 3, pie := v.getLsbD 7, fs := v.extractLsb' 13 2 }
  | 0x304 => { h with mie := v &&& 0x888 }
  | 0x305 => { h with mtvec := v &&& ~~~2 }
  | 0x340 => { h with mscratch := v }
  | 0x341 => { h with mepc := v &&& ~~~1 }
  | 0x342 => { h with mcause := v }
  | 0x343 => { h with mtval := v }
  | 0xB00 => { h with mcycle := v }
  | 0xB02 => { h with minstret := v }
  | _ => h

/-- A CSR instruction: none where it is illegal. A set or a clear of register 0, or of 0, writes nothing; a write to a
read-only number is illegal. -/
def Mach.csrExec (m : Mach) (cl : ClusterId) (h : Hart) (f3 : BitVec 3) (rd src : BitVec 5) (num : BitVec 12) : Option Hart :=
  let v := if f3.getLsbD 2 then src.setWidth 64 else h.rx src
  let writes := !f3.getLsbD 1 || src != 0
  match m.csrRead cl h num with
  | none => none
  | some old =>
    if writes && num.extractLsb' 10 2 == 3 then none
    else
      let new := if !f3.getLsbD 1 then v else if f3.getLsbD 0 then old &&& ~~~v else old ||| v
      some ((if writes then h.csrWrite num new else h).wx rd old)

/-! ## Memory -/

/-- The code of an access's exception. -/
def hartCode (op : HartOp) (page : Bool) : Nat :=
  match op with
  | .fetch => if page then 12 else 1
  | .load | .loadSpec => if page then 13 else 5
  | .store => if page then 15 else 7

/-- An access lies in the memory that holds the kernel (log entry 40): it is not translated. -/
def Hart.holds (h : Hart) (va : Word) (n : Nat) : Bool := decide (h.base ≤ va.toNat) && decide (va.toNat + n ≤ h.base + h.size)

/-- Where an access performs: virtual addresses have 48 bits (R234), and none lies above. -/
def Mach.hartPlace (m : Mach) (cl : ClusterId) (h : Hart) (op : HartOp) (va : Word) (n : Nat) :
    HartRes (List (Nat × TlbEntry × Nat)) × Mach :=
  if 2 ^ 48 < va.toNat + n then (.trap (hartCode op true) va, m)
  else
    let (t, m) := m.hartTranslate cl h.ast op va.toNat n
    match t with
    | .parts l => (.ok l, m)
    | .fault page a => (.trap (hartCode op page) (BitVec.ofNat 64 a), m)

/-- Bytes fetched or loaded. -/
def Mach.hartRead (m : Mach) (cl : ClusterId) (h : Hart) (op : HartOp) (va : Word) (n : Nat) : HartRes (List Byte) × Mach :=
  if h.holds va n then (.ok (h.own.bytes 0 va.toNat n), m)
  else
    let (t, m) := m.hartPlace cl h op va n
    match t with
    | .trap c v => (.trap c v, m)
    | .ok l =>
      let (b, m) := m.readParts (decide (op = .fetch)) l
      match b with
      | none => (.trap (hartCode op false) va, m)
      | some b => (.ok b, m)

/-- Bytes stored. -/
def Mach.hartWrite (m : Mach) (cl : ClusterId) (h : Hart) (va : Word) (l : List Byte) : HartRes Hart × Mach :=
  if h.holds va l.length then (.ok { h with own := Memory.putAll (some 0) h.own (cellsAt va.toNat l) }, m)
  else
    let (t, m) := m.hartPlace cl h .store va l.length
    match t with
    | .trap c v => (.trap c v, m)
    | .ok p => (.ok h, m.writeParts (m.pk.kernelWriter cl) p l)

/-- The place of an atomic access, aligned and in vault memory, or none for the hart's own memory. -/
def Mach.hartCell (m : Mach) (cl : ClusterId) (h : Hart) (lr : Bool) (va : Word) (n : Nat) :
    HartRes (Option (Nat × TlbEntry)) × Mach :=
  let op : HartOp := if lr then .load else .store
  if va.toNat % n ≠ 0 then (.trap (if lr then 4 else 6) va, m)
  else if h.holds va n then (.ok none, m)
  else
    let (t, m) := m.hartPlace cl h op va n
    match t with
    | .trap c v => (.trap c v, m)
    | .ok [(pa, e, _)] =>
      match physPlace pa with
      | .vault _ => (.ok (some (pa, e)), m)
      | .block _ _ | .host _ | .nothing => (.trap (hartCode op false) va, m)
    | .ok _ => (.trap (hartCode op false) va, m)

/-- What an atomic access reads. -/
def Mach.cellRead (m : Mach) (h : Hart) (va : Word) (n : Nat) : Option (Nat × TlbEntry) → Option (List Byte) × Mach
  | none => (some (h.own.bytes 0 va.toNat n), m)
  | some (pa, e) => m.physRead e pa n

/-- What an atomic access writes. -/
def Mach.cellWrite (m : Mach) (cl : ClusterId) (h : Hart) (va : Word) (l : List Byte) : Option (Nat × TlbEntry) → Hart × Mach
  | none => ({ h with own := Memory.putAll (some 0) h.own (cellsAt va.toNat l) }, m)
  | some (pa, e) => (h, m.physWrite (m.pk.kernelWriter cl) e pa l)

/-- A load-reserve: the reservation lasts until another write to its bytes (log entry 40). -/
def Mach.hartLr (m : Mach) (cl : ClusterId) (h : Hart) (d : Bool) (rd : BitVec 5) (va : Word) : HartRes Hart × Mach :=
  let n := if d then 8 else 4
  let (t, m) := m.hartCell cl h true va n
  match t with
  | .trap c v => (.trap c v, m)
  | .ok cell =>
    let (b, m) := m.cellRead h va n cell
    match b with
    | none => (.trap 5 va, m)
    | some b =>
      let h := { h.wx rd (loadExtend (if d then 3 else 2) b) with ownRes := match cell with
        | none => some (va.toNat, n)
        | some _ => none }
      (.ok h, m.modPk fun p => { p with resv := match cell with
        | none => p.resv.del cl.toNat
        | some (pa, _) => p.resv.put cl.toNat (pa, n) })

/-- A store-conditional: it writes where the reservation still holds its bytes, and always gives it up. -/
def Mach.hartSc (m : Mach) (cl : ClusterId) (h : Hart) (d : Bool) (rd rs2 : BitVec 5) (va : Word) : HartRes Hart × Mach :=
  let n := if d then 8 else 4
  let (t, m) := m.hartCell cl h false va n
  match t with
  | .trap c v => (.trap c v, m)
  | .ok cell =>
    let held := match cell with
      | none => h.ownRes == some (va.toNat, n)
      | some (pa, _) => m.pk.resv.find cl.toNat == some (pa, n)
    let (h, m) := if held then m.cellWrite cl h va (bytesOfNat n (h.rx rs2).toNat) cell else (h, m)
    (.ok ({ h with ownRes := none }.wx rd (if held then 0 else 1)),
      m.modPk fun p => { p with resv := p.resv.del cl.toNat })

/-- An atomic read-modify-write: the page must permit both. -/
def Mach.hartAmo (m : Mach) (cl : ClusterId) (h : Hart) (o : HartAmo) (d : Bool) (rd rs2 : BitVec 5) (va : Word) :
    HartRes Hart × Mach :=
  let n := if d then 8 else 4
  let (t, m) := m.hartCell cl h false va n
  match t with
  | .trap c v => (.trap c v, m)
  | .ok cell =>
    if cell.any fun c => !c.2.r then (.trap 15 va, m)
    else
      let (b, m) := m.cellRead h va n cell
      match b with
      | none => (.trap 7 va, m)
      | some b =>
        let old := loadExtend (if d then 3 else 2) b
        let v := h.rx rs2
        let new := if d then (o.at old v).toNat else (o.at (old.setWidth 32 : BitVec 32) (v.setWidth 32)).toNat
        let (h, m) := m.cellWrite cl h va (bytesOfNat n new) cell
        (.ok (h.wx rd old), m)

/-! ## Execution -/

/-- The computations of the F and D extensions that round: none where the rounding field names no mode. -/
def Hart.fpRound (h : Hart) (rm : BitVec 3) (f : HartRm → Hart) : Option Hart := (HartRm.of? rm h.frm).map f

/-- The instructions that touch no memory and no CSR, but for the pc's step: none where one is illegal. -/
def Hart.compute (h : Hart) (i : HartInstr) : Option Hart :=
  match i with
  | .lui rd imm => some (h.wx rd imm)
  | .auipc rd imm => some (h.wx rd (h.pc + imm))
  | .op a w rd rs1 rs2 => some (h.wx rd (a.run w (h.rx rs1) (h.rx rs2)))
  | .opImm a w rd rs1 imm => some (h.wx rd (a.run w (h.rx rs1) imm))
  | .fma np na d rd a b c rm => h.fpRound rm fun r =>
    let z := fvalOf d (h.rf c)
    h.wf rd (hround r d (ffma r.base np (fvalOf d (h.rf a)) (fvalOf d (h.rf b)) (if na then z.neg else z)))
  | .fop o d rd a b rm => h.fpRound rm fun r => h.wf rd (hround r d (o.run r (fvalOf d (h.rf a)) (fvalOf d (h.rf b))))
  | .fsqrt d rd a rm => h.fpRound rm fun r => h.wf rd (hround r d (fsqrt (fvalOf d (h.rf a))))
  | .fcvtF d rd a rm => h.fpRound rm fun r => h.wf rd (hround r d (fvalOf (!d) (h.rf a), 0))
  | .fcvtOfInt d kind rd a rm => h.fpRound rm fun r => h.wf rd (hround r d (numOfInt kind (h.rx a), 0))
  | .fcvtToInt d kind rd a rm => h.fpRound rm fun r =>
    let v := fToInt r kind (fvalOf d (h.rf a))
    (h.raise v.2).wx rd v.1
  | .fsgnj how d rd a b => some (h.wf rd (fsignOf how d (h.rf a) (h.rf b), 0))
  | .fminmax mx d rd a b => some (h.wf rd (hround (.of .nearest) d (fminmax mx (fvalOf d (h.rf a)) (fvalOf d (h.rf b)))))
  | .fmvToX d rd a => some (h.wx rd (if d then h.rf a else ((h.rf a).setWidth 32 : BitVec 32).signExtend 64))
  | .fmvOfX d rd a => some (h.wf rd (fbox d (if d then (h.rx a).toNat else (h.rx a).toNat % 2 ^ 32), 0))
  | .fclass d rd a => some (h.wx rd (fclassOf d (h.rf a)))
  | .fcmp c d rd a b =>
    let v := c.run (fvalOf d (h.rf a)) (fvalOf d (h.rf b))
    some ((h.raise v.2).wx rd v.1)
  | .jal _ _ | .jalr _ _ _ | .branch _ _ _ _ | .load _ _ _ _ | .store _ _ _ _ | .fence | .fenceI | .ecall | .ebreak | .mret
  | .wfi | .csr _ _ _ _ | .lr _ _ _ | .sc _ _ _ _ | .amo _ _ _ _ _ | .fload _ _ _ _ | .fstore _ _ _ _ => some h

/-- The instruction belongs to the F and D extensions, which FS = 0 turns off. -/
def HartInstr.float : HartInstr → Bool
  | .fload _ _ _ _ | .fstore _ _ _ _ | .fma _ _ _ _ _ _ _ _ | .fop _ _ _ _ _ _ | .fsqrt _ _ _ _ | .fsgnj _ _ _ _ _
  | .fminmax _ _ _ _ _ | .fcvtF _ _ _ _ | .fcvtToInt _ _ _ _ _ | .fcvtOfInt _ _ _ _ _ | .fmvToX _ _ _ | .fmvOfX _ _ _
  | .fclass _ _ _ | .fcmp _ _ _ _ _ => true
  | .lui _ _ | .auipc _ _ | .jal _ _ | .jalr _ _ _ | .branch _ _ _ _ | .load _ _ _ _ | .store _ _ _ _ | .op _ _ _ _ _
  | .opImm _ _ _ _ _ | .fence | .fenceI | .ecall | .ebreak | .mret | .wfi | .csr _ _ _ _ | .lr _ _ _ | .sc _ _ _ _
  | .amo _ _ _ _ _ => false

/-- The bytes of a load of a size field. -/
def loadBytes (f3 : BitVec 3) : Nat := 2 ^ (f3.toNat % 4)

/-- A hart executes an instruction of `len` bytes whose encoding is `bits`. In order and alone on its memory, it has nothing
for a fence to wait for, and a wfi ends at once. -/
def Mach.hartExec (m : Mach) (cl : ClusterId) (h : Hart) (bits : Word) (len : Nat) (i : HartInstr) : HartRes Hart × Mach :=
  let next := fun (h : Hart) => h.step len
  let after := h.pc + BitVec.ofNat 64 len
  let go := fun (r : HartRes Hart × Mach) => match r.1 with
    | .ok h => (HartRes.ok (next h), r.2)
    | .trap c v => (HartRes.trap c v, r.2)
  if i.float && h.fs == 0 then (.trap 2 bits, m)
  else match i with
  | .jal rd off => (.ok { h.wx rd after with pc := h.pc + off }, m)
  | .jalr rd rs1 off => (.ok { h.wx rd after with pc := (h.rx rs1 + off) &&& ~~~1 }, m)
  | .branch f3 rs1 rs2 off =>
    (.ok (if branchTaken f3 (h.rx rs1) (h.rx rs2) then { h with pc := h.pc + off } else next h), m)
  | .load f3 rd rs1 off =>
    let (b, m) := m.hartRead cl h .load (h.rx rs1 + off) (loadBytes f3)
    match b with
    | .trap c v => (.trap c v, m)
    | .ok b => (.ok (next (h.wx rd (loadExtend f3 b))), m)
  | .store size rs1 rs2 off => go (m.hartWrite cl h (h.rx rs1 + off) (bytesOfNat (2 ^ size.toNat) (h.rx rs2).toNat))
  | .fload d rd rs1 off =>
    let (b, m) := m.hartRead cl h .load (h.rx rs1 + off) (if d then 8 else 4)
    match b with
    | .trap c v => (.trap c v, m)
    | .ok b => (.ok (next (h.wf rd (fbox d (natOfBytes b), 0))), m)
  | .fstore d rs1 rs2 off => go (m.hartWrite cl h (h.rx rs1 + off) (bytesOfNat (if d then 8 else 4) (h.rf rs2).toNat))
  | .lr d rd rs1 => go (m.hartLr cl h d rd (h.rx rs1))
  | .sc d rd rs1 rs2 => go (m.hartSc cl h d rd rs2 (h.rx rs1))
  | .amo o d rd rs1 rs2 => go (m.hartAmo cl h o d rd rs2 (h.rx rs1))
  | .fence | .fenceI | .wfi => (.ok (next h), m)
  | .ecall => (.trap 11 0, m)
  | .ebreak => (.trap 3 h.pc, m)
  | .mret => (.ok h.leave, m)
  | .csr f3 rd src num => match m.csrExec cl h f3 rd src num with
    | some h => (.ok (next h), m)
    | none => (.trap 2 bits, m)
  | .lui _ _ | .auipc _ _ | .op _ _ _ _ _ | .opImm _ _ _ _ _ | .fma _ _ _ _ _ _ _ _ | .fop _ _ _ _ _ _ | .fsqrt _ _ _ _
  | .fcvtF _ _ _ _ | .fcvtOfInt _ _ _ _ _ | .fcvtToInt _ _ _ _ _ | .fsgnj _ _ _ _ _ | .fminmax _ _ _ _ _ | .fmvToX _ _ _
  | .fmvOfX _ _ _ | .fclass _ _ _ | .fcmp _ _ _ _ _ => match h.compute i with
    | some h => (.ok (next h), m)
    | none => (.trap 2 bits, m)

/-- The instruction writes minstret, which then shows what it wrote. -/
def HartInstr.setsInstret : HartInstr → Bool
  | .csr f3 _ src num => num == 0xB02 && (!f3.getLsbD 1 || src != 0)
  | _ => false

/-- A fetch: the encoding, its length in bytes, and what it decodes to. -/
def Mach.hartFetch (m : Mach) (cl : ClusterId) (h : Hart) : HartRes (Nat × Nat × Option HartInstr) × Mach :=
  let (b, m) := m.hartRead cl h .fetch h.pc 2
  match b with
  | .trap c v => (.trap c v, m)
  | .ok b =>
    let lo := natOfBytes b
    if lo % 4 ≠ 3 then (.ok (lo, 2, decode16 (BitVec.ofNat 16 lo)), m)
    else
      let (c, m) := m.hartRead cl h .fetch (h.pc + 2) 2
      match c with
      | .trap c v => (.trap c v, m)
      | .ok c =>
        let w := lo + 65536 * natOfBytes c
        (.ok (w, 4, decode32 (BitVec.ofNat 32 w)), m)

/-- A hart in its new state. -/
def Mach.putHart (m : Mach) (cl : ClusterId) (h : Hart) : Mach := m.modPk fun p => { p with harts := p.harts.put cl.toNat h }

/-- A hart takes its machine external interrupt (R216) where it is enabled, or executes its next instruction. -/
def Mach.hartStep (m : Mach) (cl : ClusterId) : Mach :=
  match m.pk.harts.find cl.toNat with
  | none => m
  | some h =>
    if h.ie && h.mie.getLsbD 11 && (m.cluster cl).externalInterrupt then m.putHart cl (h.enter true 11 0)
    else
      let (f, m) := m.hartFetch cl h
      match f with
      | .trap c v => m.putHart cl (h.enter false c v)
      | .ok (bits, _, none) => m.putHart cl (h.enter false 2 (BitVec.ofNat 64 bits))
      | .ok (bits, len, some i) =>
        let (r, m) := m.hartExec cl h (BitVec.ofNat 64 bits) len i
        match r with
        | .trap c v => m.putHart cl (h.enter false c v)
        | .ok h => m.putHart cl (if i.setsInstret then h else { h with minstret := h.minstret + 1 })

/-- Cycles of a hart; in which of them it completes an instruction is free (log entry 40). -/
def Mach.hartCycles (m : Mach) (cl : ClusterId) : Nat → Mach
  | 0 => m
  | n + 1 =>
    let m := m.modPk fun p => { p with harts := p.harts.map fun e =>
      if e.1 = cl.toNat then (e.1, { e.2 with mcycle := e.2.mcycle + 1 }) else e }
    let (c, m) := m.choice
    (if c % 2 = 0 then m else m.hartStep cl).hartCycles cl n

/-- A hart runs for a Fret tick (R214): at 2.4 GHz, four cycles in three ticks, whatever freeze or halt its cluster is in. -/
def State.runHart (s : State) (cl : ClusterId) : State :=
  s.modMach fun m =>
    match m.pk.harts.find cl.toNat with
    | none => m
    | some h => (m.putHart cl { h with acc := (h.acc + 4) % 3 }).hartCycles cl ((h.acc + 4) / 3)

end Sys2Proof.Machine
end

