-- ==== Sys2Proof/Machine/Cycle.lean ====
section
/-!
DEFINITION. What the machine does next (log entries 1 and 3): the parts of a Fret tick, the parts of a core cycle, and
the jobs of each.
-/

namespace Sys2Proof.Machine

/-! ## Lists -/

def allDoms : List Dom :=
  ((List.range 4).flatMap fun q => [Dom.tier false (BitVec.ofNat 2 q), Dom.tier true (BitVec.ofNat 2 q)]) ++
    (List.range 4).map fun q => Dom.base (BitVec.ofNat 2 q)

def allQuads : List Quad := (List.range 4).map (BitVec.ofNat 2)

/-- The contexts that meet a test. -/
def Mach.ctxsWith (m : Mach) (f : Context → Bool) : List CtxRef :=
  m.clusters.flatMap fun c => c.2.cores.flatMap fun k => (k.2.ctxs.filter fun x => f x.2).map fun x =>
    ⟨BitVec.ofNat 5 c.1, BitVec.ofNat 3 k.1, BitVec.ofNat 3 x.1⟩

/-! ## Inputs -/

/-- What a domain does at the start of a tick (R223, R225, R226). -/
def Domain.starts (x : Domain) (d : Dom) (t : Nat) : List Job :=
  (if x.haltEnd.any fun e => decide (e ≤ t) then [.event (.haltEnd d)] else []) ++
    (if x.target.isSome && !x.halted then [.event (.haltStart d)] else []) ++
    (if x.gatePend || x.gateSoon then [.event (.tierGate d)] else []) ++
    (if x.wakeEnd.any fun e => decide (e ≤ t) then [.event (.wakeComplete d)] else []) ++
    (if x.senseAt ≤ t then [.move (.sense d)] else [])

/-- What an input does (log entry 8): a temperature stands at its sensor, which is read at its own times (R225). -/
def Input.job : Input → Job
  | .event (.sensorReading d temp) => .move (.heat d temp)
  | .event i => .event i
  | .hart a => .move (.hart a)

/-- What an input reaches after a failed boot (R327): the DOE of the physical function, a cold reset, and what lies outside
the package. -/
def Input.reaches (dead : Bool) : Input → Bool
  | .event .coldReset | .event (.spdmRequest _ _) | .event (.lossOfPowerAtTheDrive _ _) => true
  | .event _ | .hart _ => !dead

/-- The jobs at the start of a tick: the domains', which do nothing after a failed boot (R327), then the inputs that have
come due. -/
def Mach.inputJobs (m : Mach) : List Job × Mach :=
  let t := m.pk.fret
  let (now, later) := m.inbox.partition fun q => decide (q.1 ≤ t)
  ((if m.pk.dead then [] else allDoms.flatMap fun d => (m.dom d).starts d t) ++
    (now.filter fun q => q.2.reaches m.pk.dead).map fun q => q.2.job, { m with inbox := later })

/-! ## Agents outside the clusters -/

/-- The streams whose faults wait for a fault slot (R238). -/
def Package.slotWaiters (p : Package) : List StreamId :=
  let waits := fun (x : Option Stall) => match x with
    | some (.waitSlot _ _ _ _ _ _) => true
    | some (.waitReply _ _) | some (.aborted _ _) | none => false
  [(p.chans.filter fun c => waits c.2.stall).map fun c => .copy (BitVec.ofNat 5 (c.1 / 16)) (BitVec.ofNat 4 c.1),
    (p.fars.filter fun f => waits f.stall).map fun f => .far f.org.ctx,
    (p.path.filter fun g => waits g.stall).map fun g => .queue g.org.ctx g.quad,
    p.text.flatMap fun e => (e.2.slots.filter fun x => waits x.2.stall).map fun x =>
      .text (BitVec.ofNat 4 e.1) x.1,
    (p.sio.filter fun c => waits c.2.stall).map fun c => .sio (BitVec.ofNat 3 (c.1 / 4)) (BitVec.ofNat 2 c.1),
    (p.net.filter fun c => waits c.2.stall).map fun c => .net (BitVec.ofNat 3 (c.1 / 4)) (BitVec.ofNat 2 c.1),
    (p.hostStall.filter fun h => waits (some h.2)).map fun h => .host (BitVec.ofNat 4 h.1)].flatten

/-- Launch, admission, invalidations, keys and grants. -/
def Mach.controlJobs (m : Mach) : List Job :=
  let p := m.pk
  [(allDoms.filter fun d => !(m.dom d).capo.isEmpty || !(m.dom d).returned.isEmpty).map fun d => .event (.capoGrant d),
    (allQuads.filter fun q => p.invals.any fun i => i.quad == q && p.invalOver i).map fun q =>
      .event (.invalidationComplete q),
    (p.keys.filter fun k => k.2.revoking && decide (k.2.ready ≤ p.fret)).map fun k =>
      .event (.keyRevocationComplete (BitVec.ofNat 6 k.1)),
    (p.adm.filter fun a => a.2.check.isSome).map fun a => .event (.admissionResult (BitVec.ofNat 3 a.1)),
    match p.seq with
      | [] => []
      | c :: _ => [.event (match c.kind with
        | .clear => .clearCommand
        | .load => .loadCommand
        | .openIt => .openCommand
        | .bind => .bindCommand)],
    if p.admWait.isEmpty then [] else [.move .admNext],
    (p.images.filter Image.retired).map fun i => .event (.imageNumberFree i.num)].flatten

/-- Copies, far atomics, directories, queues, bridges and interrupt identities. -/
def Mach.engineJobs (m : Mach) : List Job :=
  let p := m.pk
  [p.slotWaiters.map fun st => .move (.faultSlot st),
    (p.chans.filter fun c => !c.2.cmds.isEmpty).flatMap fun c =>
      let cl : ClusterId := BitVec.ofNat 5 (c.1 / 16)
      let ch : BitVec 4 := BitVec.ofNat 4 c.1
      [.event (.copyLaunch cl ch), .move (.copyAhead cl ch), .move (.copyPart cl ch), .event (.copyComplete cl ch)],
    if p.fars.isEmpty then [] else .move .travel :: p.fars.map fun f => .event (.farAtomicPerform f.id),
    if p.pools.isEmpty && p.path.isEmpty then [] else allQuads.map fun q => .event (.directoryTick q),
    if p.queues.isEmpty && p.scopes.isEmpty && p.path.isEmpty then [] else
      allQuads.map fun q => .event (.queueEngineTick q),
    (m.ctxsWith fun x => !x.taskEnds.isEmpty).map fun r => .event (.taskEndMessage r.cl r.co r.cx),
    (m.ctxsWith Context.waitMsg).map fun r => .event (.waitMessage r.cl r.co r.cx),
    (((p.path.filter fun g => !g.armed).map fun g => g.org.ctx).dedup).map fun r => .move (.send r.cl r.co r.cx),
    m.clusters.flatMap fun c => (c.2.cores.filter fun k =>
      !k.2.bridge.crossings.isEmpty || !k.2.bridge.waiting.isEmpty).map fun k =>
        .event (.bridgeCountCrossing (BitVec.ofNat 5 c.1) (BitVec.ofNat 3 k.1)),
    (m.clusters.filter fun c => !c.2.irqs.isEmpty).map fun c =>
      .event (.interruptPending (BitVec.ofNat 5 c.1))].flatten

/-- Text engines and ports. -/
def Package.portJobs (p : Package) : List Job :=
  [p.text.flatMap fun e =>
      let n : BitVec 4 := BitVec.ofNat 4 e.1
      [if e.2.cmds.isEmpty then [] else [.event (if e.1 < 8 then .txtTokProcess n else .txtOutProcess n)],
        (e.2.slots.filter fun x => !x.2.inbound.isEmpty || !x.2.errs.isEmpty || decide (16 ≤ x.1)).map fun x =>
          .move (.textIn n x.1),
        (e.2.slots.filter fun x => x.2.state == 1).map fun x =>
          .event (.bindingCheckResult n (BitVec.ofNat 4 x.1))].flatten,
    p.sio.flatMap fun c =>
      let k : BitVec 5 := BitVec.ofNat 5 c.1
      [if c.2.state = 1 then [.event (.channelCheckResult .sio k)] else [],
        if c.2.cmds.isEmpty then [] else [.event (.storageCommandComplete k)]].flatten,
    p.net.flatMap fun c =>
      let k : BitVec 5 := BitVec.ofNat 5 c.1
      [if c.2.state = 1 then [.event (.channelCheckResult .net k)] else [],
        if c.2.cmds.isEmpty then [] else [.event (.networkCommandComplete k)],
        if c.2.inbound.isEmpty then [] else [.move (.netIn k)]].flatten,
    (p.hostQ.filter fun h => !h.2.isEmpty).map fun h => .move (.hostIn (BitVec.ofNat 4 h.1))].flatten

/-- The jobs of the agents outside the clusters, the supervisor harts last: first what the containment of traps still has to do, but for that of a
halted tier (R224, R270). -/
def Mach.agentJobs (m : Mach) : List Job :=
  ((m.clusters.filter fun c => !c.2.ending.isEmpty && !(m.dom (domOf (BitVec.ofNat 5 c.1))).halted).map fun c =>
    .move (.endings (BitVec.ofNat 5 c.1))) ++ m.controlJobs ++ m.engineJobs ++ m.pk.portJobs ++
    m.pk.harts.map fun h => .move (.runHart (BitVec.ofNat 5 h.1))

/-! ## Clocks (R2; log entry 3) -/

/-- The clock of a domain in one Fret tick: 12 + fcode twelfths of three periods; the core cycles that fall in it. -/
def Domain.tick (x : Domain) : Nat × Domain :=
  if x.runs then ((x.acc + 12 + x.fcur.toNat) / 36, { x with acc := (x.acc + 12 + x.fcur.toNat) % 36 }) else (0, x)

/-- The clock periods of this tick given to the clusters of a tier. -/
def Mach.tickDomain (m : Mach) (d : Dom) : Mach :=
  let (n, x) := (m.dom d).tick
  let m := m.modDom d fun _ => x
  if n = 0 then m else (clustersOf d).foldl (fun m cl => m.modCluster cl fun c => { c with credit := c.credit + n }) m

def Mach.tickClocks (m : Mach) : Mach := allDoms.foldl Mach.tickDomain m

/-! ## The parts of a core cycle -/

/-- The cores of a cluster that meet a test, as jobs. -/
def Cluster.coreJobs (c : Cluster) (f : Core → Bool) (j : CoreId → Job) : List Job :=
  (c.cores.filter fun k => f k.2).map fun k => j (BitVec.ofNat 3 k.1)

/-- The contexts of a cluster that meet a test, as jobs. -/
def Cluster.ctxJobs (c : Cluster) (f : Context → Bool) (j : CoreId → CtxId → Job) : List Job :=
  c.cores.flatMap fun k => (k.2.ctxs.filter fun x => f x.2).map fun x => j (BitVec.ofNat 3 k.1) (BitVec.ofNat 3 x.1)

/-- The copy channels of a cluster whose first command meets a test, as jobs. -/
def Package.copyJobs (p : Package) (cl : ClusterId) (f : CopyCmd → Bool) (j : BitVec 4 → Job) : List Job :=
  (p.chans.filter fun c => c.1 / 16 == cl.toNat && c.2.cmds.head?.any f).map fun c => j (BitVec.ofNat 4 c.1)

/-- Something is on its way to the LM of some core. -/
def Package.hasLines (p : Package) : Bool := !p.lines.isEmpty || p.queues.any fun q => !q.delivers.isEmpty

/-- The task ends that a cluster's contexts have to send. -/
def Cluster.ends (c : Cluster) (cl : ClusterId) : List Job :=
  c.ctxJobs (fun x => !x.taskEnds.isEmpty) fun co cx => .event (.taskEndMessage cl co cx)

/-- One entry drains in each core that has one. -/
def Cluster.drains (c : Cluster) (cl : ClusterId) : List Job :=
  c.coreJobs (fun k => !k.drain.isEmpty) fun co => .event (.drainEntry cl co)

/-- The jobs of one part of a cluster's core cycle. Before, between and behind the two entries that drain, the task ends
take their places (R288). Of the records that one cycle's matrix accesses queue, those of mma row
commits come before those of accumulator writes to other rows (log entry 37). -/
def Mach.phaseJobs (m : Mach) (cl : ClusterId) (p : Phase) : List Job :=
  let c := m.cluster cl
  let cyc := c.cyc
  match p with
  | .arrive =>
    ((coreIds.filter fun co => c.arrivals.any fun a => a.dst == co && decide (a.due ≤ cyc)).map fun co =>
      .event (.timedTransferArrival cl co)) ++
      c.ctxJobs (fun x => x.badTarget.isSome) fun co cx => .move (.target cl co cx)
  | .land => c.ctxJobs (fun x => x.inflight.any fun r => decide (r.due ≤ cyc)) fun co cx => .event (.resultLands cl co cx)
  | .sample =>
    [c.ctxJobs (fun x => x.loads.any fun l => l.tag.isSome && !l.tagDone && decide (l.memAt ≤ cyc))
        fun co cx => .event (.tagCheckSample cl co cx),
      c.coreJobs (fun k => k.ctxs.any fun x => !x.2.loads.isEmpty) fun co => .move (.loads cl co),
      c.coreJobs (fun k => !k.mmas.isEmpty) fun co => .event (.mmaRowSample cl co),
      c.coreJobs (fun k => k.load.isSome) fun co => .event (.planeLineSample cl co),
      c.coreJobs (fun k => !k.accR.isEmpty) fun co => .event (.accumulatorReadSample cl co),
      m.pk.copyJobs cl (fun k => k.launched && k.src.space != 0) fun ch => .move (.copyRead cl ch)].flatten
  | .issue => (coreIds.filter fun co => (m.issuing cl co).isSome).map fun co => .issue cl co
  | .mark =>
    (if (c.ctxJobs Context.marking fun _ _ => .move (.marks cl)).isEmpty then [] else [.move (.marks cl)]) ++
      if c.pend.isEmpty then [] else [.move (.traps cl)]
  | .select => c.coreJobs (fun k => k.running.isNone && decide (k.selFrom ≤ cyc)) fun co => .event (.contextSelection cl co)
  | .release =>
    c.ctxJobs (fun x => x.run == .waiting && (x.dueAt m.pk.count).isSome) fun co cx => .event (.contextRelease cl co cx)
  | .gang => (c.gangs.filter fun g => m.gangReady cl g.2).map fun g => .event (.gangRelease cl (BitVec.ofNat 6 g.1))
  | .preempt => c.coreJobs (fun k => k.issued) fun co => .event (.preemption cl co)
  | .write =>
    [c.coreJobs (fun k => !k.mmas.isEmpty) fun co => .event (.mmaRowCommit cl co),
      c.coreJobs (fun k => !k.accW.isEmpty) fun co => .event (.accumulatorWrite cl co),
      c.coreJobs (fun k => k.load.isSome) fun co => .event (.planeLoadComplete cl co),
      c.coreJobs (fun k => !k.heldEvts.isEmpty) fun co => .move (.evts cl co),
      c.ends cl ++ c.drains cl ++ c.ends cl ++ c.drains cl ++ c.ends cl,
      if c.bank.any fun b => decide (b.due ≤ cyc) && b.atomic.isNone then [.event (.scratchpadBankAccess cl)] else []].flatten
  | .last =>
    [c.coreJobs (fun k => !k.evq.isEmpty) fun co => .event (.eventWriteOut cl co),
      if m.pk.hasLines then [.move (.lines cl)] else [],
      m.pk.copyJobs cl (fun k => k.launched && k.touchesLocal) fun ch => .move (.copyLocal cl ch),
      if c.bank.any fun b => decide (b.due ≤ cyc) then [.event (.scratchpadBankAccess cl)] else [],
      c.coreJobs (fun k => !k.atomics.isEmpty) fun co => .move (.atomics cl co)].flatten

/-- The part of a core cycle after another. -/
def Phase.next : Phase → Option Phase
  | .arrive => some .land
  | .land => some .sample
  | .sample => some .issue
  | .issue => some .mark
  | .mark => some .release
  | .release => some .select
  | .select => some .gang
  | .gang => some .preempt
  | .preempt => some .write
  | .write => some .last
  | .last => none

/-- The machine enters a part of a core cycle. At the first, the containment of the cluster's traps is done (R224); the
cycle's records, but for its software events, enter the event queues before the last (R174). DESIGN CHOICE: a collision,
late-release, matrix or engine record so enters before the cycle's write-out makes room in a full queue (R175), and a
software event after it (log entry 37). -/
def Mach.enterPhase (m : Mach) (cl : ClusterId) (p : Phase) : Mach :=
  let m := match p with
    | .arrive => m.endings cl m.pk.fret
    | .last => m.modCluster cl fun c =>
      { c with cores := c.cores.map fun (k : Nat × Core) => (k.1, k.2.enterEvents rankSoftware) }
    | .land | .sample | .issue | .mark | .select | .release | .gang | .preempt | .write => m
  { m with stage := .phase cl p, todo := m.todo ++ m.phaseJobs cl p }

/-- The jobs at the end of a tick: fence holds end, and copies handed over in the tick launch where their conditions hold
already (R247). -/
def Mach.endJobs (m : Mach) : List Job :=
  .move .holds :: (m.pk.chans.filter fun c => c.2.cmds.head?.any fun k => !k.launched).map fun c =>
    .event (.copyLaunch (BitVec.ofNat 5 (c.1 / 16)) (BitVec.ofNat 4 c.1))

/-- The next core cycle of this tick, or a frozen period, or the end of the tick. -/
def Mach.nextCycle (m : Mach) : Mach :=
  match m.clusters.find? fun c => decide (0 < c.2.credit) with
  | none => { m with stage := .tickEnd, todo := m.endJobs }
  | some c =>
    let cl : ClusterId := BitVec.ofNat 5 c.1
    if 0 < c.2.frozen then { m with stage := .cycles, todo := [.event (.freezeEnd cl)] }
    else (m.modCluster cl fun x => { x with engHeld := false }).enterPhase cl .arrive

/-- The machine's next part, when nothing is left to do in the present one (log entry 1). -/
def Mach.advance (m : Mach) : Mach :=
  match m.stage with
  | .inputs => { m with stage := .agents, todo := m.agentJobs }
  | .agents => m.tickClocks.nextCycle
  | .cycles => m.nextCycle
  | .phase cl p =>
    match p.next with
    | some q => m.enterPhase cl q
    | none => (m.modCluster cl Cluster.endCycle).nextCycle
  | .tickEnd =>
    let (l, m) := (m.modPk fun p => { p with fret := p.fret + 1 }).inputJobs
    { m with stage := .inputs, todo := l }

/-- A move of the machine that no row of the table names. -/
def State.move (s : State) (v : Move) : State :=
  match v with
  | .loads cl co => s.sampleLoads cl co
  | .marks cl => s.takeMarks cl
  | .traps cl => s.takeTraps cl
  | .evts cl co => s.evts cl co
  | .target cl co cx => s.targetTrap cl co cx
  | .atomics cl co => s.performAtomics cl co
  | .copyPart cl ch => s.copyPart cl ch
  | .copyAhead cl ch => s.copyAhead cl ch
  | .copyRead cl ch => s.copyRead cl ch
  | .copyLocal cl ch => s.copyLocal cl ch
  | .send cl co cx => s.send cl co cx
  | .endings cl => s.modMach fun m => m.endings cl (m.pk.fret - 1)
  | .holds => s.endHolds
  | .travel => s.travel
  | .lines cl => (s.linesIn cl).queueLines cl
  | .faultSlot st => s.faultSlot st
  | .textIn e n => s.textIn e n
  | .netIn k => s.netIn k
  | .hostIn f => s.hostIn f
  | .hart a => s.hart a
  | .runHart cl => s.runHart cl
  | .sense d => s.modMach fun m => m.reading d (m.dom d).sense
  | .heat d temp => s.modMach fun m => m.modDom d fun x => { x with sense := temp }
  | .admNext => s.admNext

/-- The job that the machine takes is no longer to do. -/
def State.pop (s : State) : State := { s with mach := { s.mach with todo := s.mach.todo.drop 1 } }

/-! ## A slot word placed for the next step -/

/-- The bundle that holds a word with three nops (R17): last when its stop bit is set, else first, the last nop ending
the bundle. -/
def bundleWith (w : SlotWord) : List SlotWord := if w.getLsbD 31 then [0, 0, 0, w] else [w, 0, 0, 0x80000000]

/-- Context 0 of core 0 of cluster 0, about to issue the bundle at address 0 (log entry 10). -/
def Mach.readyToIssue (m : Mach) (ws : List SlotWord) : Mach :=
  let m := m.modCore 0 0 fun k =>
    { k with istore := Memory.putAll (some 0xFF) k.istore (codeCells 0 ws), running := some 0 }.modCtx 0 fun x =>
      { x with run := .running, pc := 0, nextIssue := m.cyc 0, badTarget := none, budget := max x.budget x.count }
  let m := m.modDom (domOf 0) fun d => { d with gated := false }
  { m with stage := .phase 0 .issue, todo := [.issue 0 0] }

end Sys2Proof.Machine
end

