-- ==== Sys2Proof/Machine/Dispatch.lean ====
section
/-!
DEFINITION. The meaning of every instruction: one arm for each constructor.
-/

namespace Sys2Proof.Machine

def exec (i : Instr) (s : State) : Host.Outcome State Fault Refusal :=
  match i with
  | .nop h => Sys2Proof.Machine.execNop h s
  | .brT h off => Sys2Proof.Machine.execBrT h off s
  | .brN h off => Sys2Proof.Machine.execBrN h off s
  | .call h off => Sys2Proof.Machine.execCall h off s
  | .jr h a => Sys2Proof.Machine.execJr h a s
  | .ret h => Sys2Proof.Machine.execRet h s
  | .loop h a body => Sys2Proof.Machine.execLoop h a body s
  | .loopi h body n => Sys2Proof.Machine.execLoopi h body n s
  | .lbrk h => Sys2Proof.Machine.execLbrk h s
  | .yieldNow h => Sys2Proof.Machine.execYieldNow h s
  | .yieldAt h a => Sys2Proof.Machine.execYieldAt h a s
  | .yieldQ h q => Sys2Proof.Machine.execYieldQ h q s
  | .yieldSc h k => Sys2Proof.Machine.execYieldSc h k s
  | .exit h => Sys2Proof.Machine.execExit h s
  | .rmark h => Sys2Proof.Machine.execRmark h s
  | .trap h code => Sys2Proof.Machine.execTrap h code s
  | .fmt h f desc => Sys2Proof.Machine.execFmt h f desc s
  | .fmtr h f a => Sys2Proof.Machine.execFmtr h f a s
  | .capoAcq h level => Sys2Proof.Machine.execCapoAcq h level s
  | .capoRel h => Sys2Proof.Machine.execCapoRel h s
  | .add h d a b => Sys2Proof.Machine.execAdd h d a b s
  | .sub h d a b => Sys2Proof.Machine.execSub h d a b s
  | .and h d a b => Sys2Proof.Machine.execAnd h d a b s
  | .or h d a b => Sys2Proof.Machine.execOr h d a b s
  | .xor h d a b => Sys2Proof.Machine.execXor h d a b s
  | .andn h d a b => Sys2Proof.Machine.execAndn h d a b s
  | .shl h d a b => Sys2Proof.Machine.execShl h d a b s
  | .shr h d a b => Sys2Proof.Machine.execShr h d a b s
  | .sra h d a b => Sys2Proof.Machine.execSra h d a b s
  | .addi h d a imm => Sys2Proof.Machine.execAddi h d a imm s
  | .shli h d a n => Sys2Proof.Machine.execShli h d a n s
  | .shri h d a n => Sys2Proof.Machine.execShri h d a n s
  | .srai h d a n => Sys2Proof.Machine.execSrai h d a n s
  | .li h d imm => Sys2Proof.Machine.execLi h d imm s
  | .lis h d imm => Sys2Proof.Machine.execLis h d imm s
  | .mul h d a b => Sys2Proof.Machine.execMul h d a b s
  | .mulh h d a b => Sys2Proof.Machine.execMulh h d a b s
  | .mulhn h d a b => Sys2Proof.Machine.execMulhn h d a b s
  | .div h d a b => Sys2Proof.Machine.execDiv h d a b s
  | .divn h d a b => Sys2Proof.Machine.execDivn h d a b s
  | .rem h d a b => Sys2Proof.Machine.execRem h d a b s
  | .remn h d a b => Sys2Proof.Machine.execRemn h d a b s
  | .min h d a b => Sys2Proof.Machine.execMin h d a b s
  | .max h d a b => Sys2Proof.Machine.execMax h d a b s
  | .minn h d a b => Sys2Proof.Machine.execMinn h d a b s
  | .maxn h d a b => Sys2Proof.Machine.execMaxn h d a b s
  | .clz h d a => Sys2Proof.Machine.execClz h d a s
  | .ctz h d a => Sys2Proof.Machine.execCtz h d a s
  | .popc h d a => Sys2Proof.Machine.execPopc h d a s
  | .cmp h c k a b => Sys2Proof.Machine.execCmp h c k a b s
  | .cmpi h c k a imm => Sys2Proof.Machine.execCmpi h c k a imm s
  | .pand h k a b => Sys2Proof.Machine.execPand h k a b s
  | .por h k a b => Sys2Proof.Machine.execPor h k a b s
  | .pxor h k a b => Sys2Proof.Machine.execPxor h k a b s
  | .pandn h k a b => Sys2Proof.Machine.execPandn h k a b s
  | .movp h k a n => Sys2Proof.Machine.execMovp h k a n s
  | .movl h d l => Sys2Proof.Machine.execMovl h d l s
  | .movlCount h d l => Sys2Proof.Machine.execMovlCount h d l s
  | .rdsys h d sel => Sys2Proof.Machine.execRdsys h d sel s
  | .wrsysVflags h a => Sys2Proof.Machine.execWrsysVflags h a s
  | .wrsysVrm h a => Sys2Proof.Machine.execWrsysVrm h a s
  | .andi h d a imm => Sys2Proof.Machine.execAndi h d a imm s
  | .cpy h t kd ks ch => Sys2Proof.Machine.execCpy h t kd ks ch s
  | .famoAdd h l o w a b => Sys2Proof.Machine.execFamoAdd h l o w a b s
  | .famoMin h l o w a b => Sys2Proof.Machine.execFamoMin h l o w a b s
  | .famoMax h l o w a b => Sys2Proof.Machine.execFamoMax h l o w a b s
  | .famoAnd h l o w a b => Sys2Proof.Machine.execFamoAnd h l o w a b s
  | .famoOr h l o w a b => Sys2Proof.Machine.execFamoOr h l o w a b s
  | .famoXor h l o w a b => Sys2Proof.Machine.execFamoXor h l o w a b s
  | .famoSwap h l o w a b => Sys2Proof.Machine.execFamoSwap h l o w a b s
  | .famoCas h l o w a b => Sys2Proof.Machine.execFamoCas h l o w a b s
  | .poolAcqw h d a => Sys2Proof.Machine.execPoolAcqw h d a s
  | .poolPub h d a => Sys2Proof.Machine.execPoolPub h d a s
  | .poolPin h d a => Sys2Proof.Machine.execPoolPin h d a s
  | .poolUnpin h a => Sys2Proof.Machine.execPoolUnpin h a s
  | .poolGen h d a => Sys2Proof.Machine.execPoolGen h d a s
  | .poolPubAfter h d a => Sys2Proof.Machine.execPoolPubAfter h d a s
  | .qopPush h d v => Sys2Proof.Machine.execQopPush h d v s
  | .qopPop h d a => Sys2Proof.Machine.execQopPop h d a s
  | .qopCount h d a => Sys2Proof.Machine.execQopCount h d a s
  | .scopeOpen h a => Sys2Proof.Machine.execScopeOpen h a s
  | .scopeClose h a => Sys2Proof.Machine.execScopeClose h a s
  | .brgPush h v => Sys2Proof.Machine.execBrgPush h v s
  | .brgPop h v => Sys2Proof.Machine.execBrgPop h v s
  | .xsndScalar h j a => Sys2Proof.Machine.execXsndScalar h j a s
  | .xsndVector h j a => Sys2Proof.Machine.execXsndVector h j a s
  | .xrcvScalar h d vi => Sys2Proof.Machine.execXrcvScalar h d vi s
  | .xrcvVector h d vi => Sys2Proof.Machine.execXrcvVector h d vi s
  | .txtOut h d p a => Sys2Proof.Machine.execTxtOut h d p a s
  | .txtTok h d p a => Sys2Proof.Machine.execTxtTok h d p a s
  | .sioRd h p c => Sys2Proof.Machine.execSioRd h p c s
  | .sioWr h p fua c => Sys2Proof.Machine.execSioWr h p fua c s
  | .sioFlush h c => Sys2Proof.Machine.execSioFlush h c s
  | .netSend h q ord c => Sys2Proof.Machine.execNetSend h q ord c s
  | .netWrite h q ord c => Sys2Proof.Machine.execNetWrite h q ord c s
  | .netRead h q c => Sys2Proof.Machine.execNetRead h q c s
  | .evtPost h a b => Sys2Proof.Machine.execEvtPost h a b s
  | .evtIrq h a => Sys2Proof.Machine.execEvtIrq h a s
  | .vadd h t d a b => Sys2Proof.Machine.execVadd h t d a b s
  | .vsub h t d a b => Sys2Proof.Machine.execVsub h t d a b s
  | .vmul h t d a b => Sys2Proof.Machine.execVmul h t d a b s
  | .vfma h t d a b => Sys2Proof.Machine.execVfma h t d a b s
  | .vfnma h t d a b => Sys2Proof.Machine.execVfnma h t d a b s
  | .vmin h t d a b => Sys2Proof.Machine.execVmin h t d a b s
  | .vmax h t d a b => Sys2Proof.Machine.execVmax h t d a b s
  | .vabs h t d a => Sys2Proof.Machine.execVabs h t d a s
  | .vneg h t d a => Sys2Proof.Machine.execVneg h t d a s
  | .vand h t d a b => Sys2Proof.Machine.execVand h t d a b s
  | .vor h t d a b => Sys2Proof.Machine.execVor h t d a b s
  | .vxor h t d a b => Sys2Proof.Machine.execVxor h t d a b s
  | .vshl h t d a b => Sys2Proof.Machine.execVshl h t d a b s
  | .vshr h t d a b => Sys2Proof.Machine.execVshr h t d a b s
  | .vcmp h t c k a b => Sys2Proof.Machine.execVcmp h t c k a b s
  | .vsel h t d a b => Sys2Proof.Machine.execVsel h t d a b s
  | .vcvt h f d a => Sys2Proof.Machine.execVcvt h f d a s
  | .vredSum h t d a => Sys2Proof.Machine.execVredSum h t d a s
  | .vredMax h t d a => Sys2Proof.Machine.execVredMax h t d a s
  | .vredMin h t d a => Sys2Proof.Machine.execVredMin h t d a s
  | .vbcast h t d a b => Sys2Proof.Machine.execVbcast h t d a b s
  | .vext h t d a b => Sys2Proof.Machine.execVext h t d a b s
  | .vins h t d a b => Sys2Proof.Machine.execVins h t d a b s
  | .vperm h t d a b => Sys2Proof.Machine.execVperm h t d a b s
  | .vslide h t d a b => Sys2Proof.Machine.execVslide h t d a b s
  | .viota h t d b => Sys2Proof.Machine.execViota h t d b s
  | .vrcp h t d a => Sys2Proof.Machine.execVrcp h t d a s
  | .vrsq h t d a => Sys2Proof.Machine.execVrsq h t d a s
  | .vexp2 h t d a => Sys2Proof.Machine.execVexp2 h t d a s
  | .vlog2 h t d a => Sys2Proof.Machine.execVlog2 h t d a s
  | .vmov h t d b => Sys2Proof.Machine.execVmov h t d b s
  | .vmskAnd h k a b => Sys2Proof.Machine.execVmskAnd h k a b s
  | .vmskOr h k a b => Sys2Proof.Machine.execVmskOr h k a b s
  | .vmskXor h k a b => Sys2Proof.Machine.execVmskXor h k a b s
  | .vmskNot h k a => Sys2Proof.Machine.execVmskNot h k a s
  | .vmskPopc h d a => Sys2Proof.Machine.execVmskPopc h d a s
  | .vmskFfs h d a => Sys2Proof.Machine.execVmskFfs h d a s
  | .vpack h t d a b => Sys2Proof.Machine.execVpack h t d a b s
  | .vunpk h t d a b => Sys2Proof.Machine.execVunpk h t d a b s
  | .vscale h t d a b => Sys2Proof.Machine.execVscale h t d a b s
  | .ldsB h d a o => Sys2Proof.Machine.execLdsB h d a o s
  | .ldsH h d a o => Sys2Proof.Machine.execLdsH h d a o s
  | .ldsW h d a o => Sys2Proof.Machine.execLdsW h d a o s
  | .ldsD h d a o => Sys2Proof.Machine.execLdsD h d a o s
  | .ldzB h d a o => Sys2Proof.Machine.execLdzB h d a o s
  | .ldzH h d a o => Sys2Proof.Machine.execLdzH h d a o s
  | .ldzW h d a o => Sys2Proof.Machine.execLdzW h d a o s
  | .stB h d a o => Sys2Proof.Machine.execStB h d a o s
  | .stH h d a o => Sys2Proof.Machine.execStH h d a o s
  | .stW h d a o => Sys2Proof.Machine.execStW h d a o s
  | .stD h d a o => Sys2Proof.Machine.execStD h d a o s
  | .vld h d a imm => Sys2Proof.Machine.execVld h d a imm s
  | .vldT h d a imm => Sys2Proof.Machine.execVldT h d a imm s
  | .vst h d a imm => Sys2Proof.Machine.execVst h d a imm s
  | .vldg h d a b w => Sys2Proof.Machine.execVldg h d a b w s
  | .vstg h d a b w => Sys2Proof.Machine.execVstg h d a b w s
  | .vgath h d a b w => Sys2Proof.Machine.execVgath h d a b w s
  | .vscat h d a b w => Sys2Proof.Machine.execVscat h d a b w s
  | .agsetBase h n a => Sys2Proof.Machine.execAgsetBase h n a s
  | .agsetStride h f n a => Sys2Proof.Machine.execAgsetStride h f n a s
  | .amoAdd h l o w a b => Sys2Proof.Machine.execAmoAdd h l o w a b s
  | .amoMin h l o w a b => Sys2Proof.Machine.execAmoMin h l o w a b s
  | .amoMax h l o w a b => Sys2Proof.Machine.execAmoMax h l o w a b s
  | .amoAnd h l o w a b => Sys2Proof.Machine.execAmoAnd h l o w a b s
  | .amoOr h l o w a b => Sys2Proof.Machine.execAmoOr h l o w a b s
  | .amoXor h l o w a b => Sys2Proof.Machine.execAmoXor h l o w a b s
  | .amoSwap h l o w a b => Sys2Proof.Machine.execAmoSwap h l o w a b s
  | .acas h l o w a b => Sys2Proof.Machine.execAcas h l o w a b s
  | .ald h d a w o => Sys2Proof.Machine.execAld h d a w o s
  | .ast h d a w o => Sys2Proof.Machine.execAst h d a w o s
  | .ldt h d a imm => Sys2Proof.Machine.execLdt h d a imm s
  | .fence h kinds scope => Sys2Proof.Machine.execFence h kinds scope s
  | .mld h k a => Sys2Proof.Machine.execMld h k a s
  | .mldSp h k a => Sys2Proof.Machine.execMldSp h k a s
  | .mswp h => Sys2Proof.Machine.execMswp h s
  | .mma h k t a b => Sys2Proof.Machine.execMma h k t a b s
  | .aclr h t a b => Sys2Proof.Machine.execAclr h t a b s
  | .ard h sat d hf t b x => Sys2Proof.Machine.execArd h sat d hf t b x s
  | .awr h t hf a b x => Sys2Proof.Machine.execAwr h t hf a b x s
  | .aexp h d t b => Sys2Proof.Machine.execAexp h d t b s
  | .anrm h t a b => Sys2Proof.Machine.execAnrm h t a b s
  | .resultLands cl co cx => Sys2Proof.Machine.execResultLands cl co cx s
  | .tagCheckSample cl co cx => Sys2Proof.Machine.execTagCheckSample cl co cx s
  | .drainEntry cl co => Sys2Proof.Machine.execDrainEntry cl co s
  | .scratchpadBankAccess cl => Sys2Proof.Machine.execScratchpadBankAccess cl s
  | .loopLevelStep cl co cx => Sys2Proof.Machine.execLoopLevelStep cl co cx s
  | .contextRelease cl co cx => Sys2Proof.Machine.execContextRelease cl co cx s
  | .contextSelection cl co => Sys2Proof.Machine.execContextSelection cl co s
  | .preemption cl co => Sys2Proof.Machine.execPreemption cl co s
  | .budgetOverrun cl co cx => Sys2Proof.Machine.execBudgetOverrun cl co cx s
  | .capoGrant d => Sys2Proof.Machine.execCapoGrant d s
  | .eventWriteOut cl co => Sys2Proof.Machine.execEventWriteOut cl co s
  | .mmaRowSample cl co => Sys2Proof.Machine.execMmaRowSample cl co s
  | .mmaRowCommit cl co => Sys2Proof.Machine.execMmaRowCommit cl co s
  | .planeLineSample cl co => Sys2Proof.Machine.execPlaneLineSample cl co s
  | .planeLoadComplete cl co => Sys2Proof.Machine.execPlaneLoadComplete cl co s
  | .accumulatorWrite cl co => Sys2Proof.Machine.execAccumulatorWrite cl co s
  | .accumulatorReadSample cl co => Sys2Proof.Machine.execAccumulatorReadSample cl co s
  | .freezeEnd cl => Sys2Proof.Machine.execFreezeEnd cl s
  | .gangRelease cl g => Sys2Proof.Machine.execGangRelease cl g s
  | .timedTransferArrival cl co => Sys2Proof.Machine.execTimedTransferArrival cl co s
  | .interruptPending cl => Sys2Proof.Machine.execInterruptPending cl s
  | .ifpendClear cl k v => Sys2Proof.Machine.execIfpendClear cl k v s
  | .ifclaim cl => Sys2Proof.Machine.execIfclaim cl s
  | .ifset cl v => Sys2Proof.Machine.execIfset cl v s
  | .tqpop cl v => Sys2Proof.Machine.execTqpop cl v s
  | .bridgeCountCrossing cl co => Sys2Proof.Machine.execBridgeCountCrossing cl co s
  | .dfreqWrite d v => Sys2Proof.Machine.execDfreqWrite d v s
  | .haltStart d => Sys2Proof.Machine.execHaltStart d s
  | .haltEnd d => Sys2Proof.Machine.execHaltEnd d s
  | .gateRequest d => Sys2Proof.Machine.execGateRequest d s
  | .wake d => Sys2Proof.Machine.execWake d s
  | .cancelGateRequest d => Sys2Proof.Machine.execCancelGateRequest d s
  | .tierGate d => Sys2Proof.Machine.execTierGate d s
  | .wakeComplete d => Sys2Proof.Machine.execWakeComplete d s
  | .invreq q p v => Sys2Proof.Machine.execInvreq q p v s
  | .invalidationComplete q => Sys2Proof.Machine.execInvalidationComplete q s
  | .fltreplyReplay w v => Sys2Proof.Machine.execFltreplyReplay w v s
  | .fltreplyAbort w v => Sys2Proof.Machine.execFltreplyAbort w v s
  | .asttabWrite w v => Sys2Proof.Machine.execAsttabWrite w v s
  | .keyRevocation k => Sys2Proof.Machine.execKeyRevocation k s
  | .keyRevocationComplete k => Sys2Proof.Machine.execKeyRevocationComplete k s
  | .copyLaunch cl ch => Sys2Proof.Machine.execCopyLaunch cl ch s
  | .copyComplete cl ch => Sys2Proof.Machine.execCopyComplete cl ch s
  | .farAtomicPerform id => Sys2Proof.Machine.execFarAtomicPerform id s
  | .directoryTick q => Sys2Proof.Machine.execDirectoryTick q s
  | .waitMessage cl co cx => Sys2Proof.Machine.execWaitMessage cl co cx s
  | .taskEndMessage cl co cx => Sys2Proof.Machine.execTaskEndMessage cl co cx s
  | .queueEngineTick q => Sys2Proof.Machine.execQueueEngineTick q s
  | .admpub p v => Sys2Proof.Machine.execAdmpub p v s
  | .admissionResult p => Sys2Proof.Machine.execAdmissionResult p s
  | .admcmdStart p im => Sys2Proof.Machine.execAdmcmdStart p im s
  | .admcmdStop p im => Sys2Proof.Machine.execAdmcmdStop p im s
  | .admcmdRetire p im => Sys2Proof.Machine.execAdmcmdRetire p im s
  | .clearCommand => Sys2Proof.Machine.execClearCommand s
  | .loadCommand => Sys2Proof.Machine.execLoadCommand s
  | .openCommand => Sys2Proof.Machine.execOpenCommand s
  | .bindCommand => Sys2Proof.Machine.execBindCommand s
  | .imageNumberFree im => Sys2Proof.Machine.execImageNumberFree im s
  | .txtOutProcess e => Sys2Proof.Machine.execTxtOutProcess e s
  | .txtTokProcess e => Sys2Proof.Machine.execTxtTokProcess e s
  | .bctlBind e vs v => Sys2Proof.Machine.execBctlBind e vs v s
  | .bindingCheckResult e vs => Sys2Proof.Machine.execBindingCheckResult e vs s
  | .channelCheckResult u c => Sys2Proof.Machine.execChannelCheckResult u c s
  | .storageCommandComplete c => Sys2Proof.Machine.execStorageCommandComplete c s
  | .networkCommandComplete c => Sys2Proof.Machine.execNetworkCommandComplete c s
  | .correctableErrorFreeze cl st co line => Sys2Proof.Machine.execCorrectableErrorFreeze cl st co line s
  | .uncorrectableError cl st co line => Sys2Proof.Machine.execUncorrectableError cl st co line s
  | .sensorReading d temp => Sys2Proof.Machine.execSensorReading d temp s
  | .inboundRequest vm => Sys2Proof.Machine.execInboundRequest vm s
  | .bctlUnbind e vs => Sys2Proof.Machine.execBctlUnbind e vs s
  | .peerEnter b v => Sys2Proof.Machine.execPeerEnter b v s
  | .peerFree b => Sys2Proof.Machine.execPeerFree b s
  | .hostRead r => Sys2Proof.Machine.execHostRead r s
  | .hostWrite r v => Sys2Proof.Machine.execHostWrite r v s
  | .channelBind u c v => Sys2Proof.Machine.execChannelBind u c v s
  | .channelUnbind u c => Sys2Proof.Machine.execChannelUnbind u c s
  | .inboundNetworkSend vm => Sys2Proof.Machine.execInboundNetworkSend vm s
  | .inboundRmaWrite vm => Sys2Proof.Machine.execInboundRmaWrite vm s
  | .inboundRmaRead vm => Sys2Proof.Machine.execInboundRmaRead vm s
  | .coldReset => Sys2Proof.Machine.execColdReset s
  | .spdmRequest fn vm => Sys2Proof.Machine.execSpdmRequest fn vm s
  | .registerWrite addr v => Sys2Proof.Machine.execRegisterWrite addr v s
  | .lossOfPowerAtTheDrive dr keep => Sys2Proof.Machine.execLossOfPowerAtTheDrive dr keep s
  | .datasetManagementDeallocate dr lba n => Sys2Proof.Machine.execDatasetManagementDeallocate dr lba n s
  | .tdispLock p => Sys2Proof.Machine.execTdispLock p s
  | .partitionRetirement p => Sys2Proof.Machine.execPartitionRetirement p s
  | .partitionDefinition p pd => Sys2Proof.Machine.execPartitionDefinition p pd s
  | .keySlotAssignment k p matter => Sys2Proof.Machine.execKeySlotAssignment k p matter s

end Sys2Proof.Machine
end

