-- ==== Sys2Proof/Machine/Step.lean ====
section
/-!
DEFINITION. One step: the machine's next job (log entry 1). A step issues a bundle, or takes one event, or one move.
-/

namespace Sys2Proof.Machine

/-- The slots of a bundle execute in turn; each reads the machine before the bundle (R18). -/
def runSlots : List (Nat × Instr) → State → Host.Outcome State Fault Refusal
  | [], s => .next s
  | (n, i) :: rest, s =>
    match exec i { s with iss.slot := BitVec.ofNat 3 n } with
    | .next t => runSlots rest t
    | .fault r => .fault r
    | .refused r => .refused r

/-- A core issues the bundle of its running context. -/
def State.issue (s : State) (cl : ClusterId) (co : CoreId) : Host.Outcome State Fault Refusal :=
  match s.begin cl co with
  | none => .next s
  | some (t, is) =>
    match runSlots is t with
    | .next u => .next (u.finish is)
    | .fault r => .fault r
    | .refused r => .refused r

/-- One step of the machine. -/
def step (s : State) : Host.Outcome State Fault Refusal :=
  match s.mach.todo with
  | [] => .next { s with mach := s.mach.advance }
  | .event i :: _ => exec i s.pop
  | .issue cl co :: _ => s.pop.issue cl co
  | .move v :: _ => .next (s.pop.move v)

/-- The machine with an opcode-table word placed so that the next step issues it (log entry 10). -/
def State.withFetchWord (s : State) (_nbits w : Nat) : State :=
  { mach := s.mach.readyToIssue (bundleWith (BitVec.ofNat 32 w)), iss := Issue.idle }

end Sys2Proof.Machine
end

