-- ==== Sys2Proof/Safety.lean ====
section
/-!
DEFINITION. What every state of a run keeps: the invariant in whose terms the claims about steps are stated.
-/

namespace Sys2Proof.Machine

/-- A core's memories are in canonical form, and its bridge FIFO holds at most its 16 entries (R218). -/
def Core.ok (k : Core) : Prop :=
  k.lm.wf (some 0) = true ∧ k.istore.wf (some 0xFF) = true ∧ k.bridge.fifo.length ≤ 16

/-- A cluster's memories are in canonical form, and its trap queue holds at most its 32 records (R173). -/
def Cluster.ok (c : Cluster) : Prop :=
  (∀ p ∈ c.cores, p.2.ok) ∧ c.scratch.wf (some 0) = true ∧ c.tqCount ≤ 32

/-- The bytes of a drive's namespace are in canonical form. -/
def Drive.ok (d : Drive) : Prop := d.now.wf none = true ∧ d.durable.wf none = true

/-- Vault memory, the drives and the supervisor cores' own memories are in canonical form. -/
def Package.ok (p : Package) : Prop :=
  p.vault.wf (some 0) = true ∧ (∀ d ∈ p.drives, d.ok) ∧ ∀ h ∈ p.harts, h.2.own.wf (some 0) = true

/-- A machine all of whose memories are in canonical form and whose queues hold no more than their places. -/
def Mach.ok (m : Mach) : Prop := (∀ p ∈ m.clusters, p.2.ok) ∧ m.pk.ok

/-- The invariant of a run: it holds of the machine, and of the machine before the bundle that is issuing. -/
def State.Inv (s : State) : Prop := s.mach.ok ∧ ∀ m, s.iss.before = some m → m.ok

end Sys2Proof.Machine
end

