-- ==== Sys2Proof/Certificates/Slice0/Obligations.lean ====
section
/-!
DEFINITION. The statements for the provers. A statement about an instruction says which state exec answers: the
instruction's own effect, in terms of the results in flight, gating buffer entries and traps whose own statements
(ResultInFlight, EntryInGate, TrapTaken) say what they do and what they leave alone.
-/

namespace Sys2Proof.Spec
open Sys2Proof Sys2Proof.Machine

/-- A slot executes: its predicate guard reads true (R19), and no slot of its bundle has raised a trap (R24). -/
def Runs (s : State) (h : Head) : Prop := s.pguard h = true ∧ s.iss.raises = []

/-- No slot of the bundle has raised a trap (R24). A slot that a mask guards executes under any mask (R96). -/
def Calm (s : State) : Prop := s.iss.raises = []

/-- The word a slot of an opcode and fields encodes to, with the fields in the places of R14 and R15. -/
def Encodes (i : Instr) (f : Fields) : Prop := fieldsOf i = some f

/-- Every word of an opcode whose fields meet a condition is a reserved field value, RF (R22, R28). -/
def Reserved (op : BitVec 7) (P : Fields → Bool) : Prop :=
  ∀ w, (Fields.ofWord w).op = op → P (Fields.ofWord w) = true → decodeWord w = .error .reservedField

/-- Every memory of the machine reads the same: LM and its tags, the instruction stores, the accumulator rows, the
scratchpads and their tags, the vaults and the drives. -/
def SameMemory (m t : Mach) : Prop :=
  (∀ cl co, (t.core cl co).lm = (m.core cl co).lm ∧ (t.core cl co).lmTags = (m.core cl co).lmTags ∧
    (t.core cl co).istore = (m.core cl co).istore ∧ (t.core cl co).acc = (m.core cl co).acc) ∧
  (∀ cl, (t.cluster cl).scratch = (m.cluster cl).scratch ∧ (t.cluster cl).spTags = (m.cluster cl).spTags) ∧
  t.pk.vault = m.pk.vault ∧ t.pk.drives = m.pk.drives

/-- The registers and the loop stack of every context are the same. -/
def SameRegs (m t : Mach) : Prop := ∀ r, (t.ctx r).regs = (m.ctx r).regs

/-- The control state of every cluster that no slot writes: interrupt file, trap queue, error registers, tags of the
clock, and the scratchpad's bad lines. -/
def SameBlocks (m t : Mach) : Prop :=
  ∀ cl, let c := m.cluster cl; let d := t.cluster cl
    d.cyc = c.cyc ∧ d.credit = c.credit ∧ d.frozen = c.frozen ∧ d.ifpend = c.ifpend ∧ d.ifen = c.ifen ∧
    d.irqs = c.irqs ∧ d.tqrec = c.tqrec ∧ d.tqHead = c.tqHead ∧ d.tqCount = c.tqCount ∧ d.tqOvf = c.tqOvf ∧
    d.tqSeq = c.tqSeq ∧ d.ceCount = c.ceCount ∧ d.frzowed = c.frzowed

/-- Every context but one is the same. -/
def OtherContexts (r : CtxRef) (m t : Mach) : Prop := ∀ q, q ≠ r → t.ctx q = m.ctx q

/-- Every core but one is the same. -/
def OtherCores (cl : ClusterId) (co : CoreId) (m t : Mach) : Prop := ∀ c o, (c, o) ≠ (cl, co) → t.core c o = m.core c o

/-- Every cluster but one is the same, and so is everything outside the clusters. -/
def OtherClusters (cl : ClusterId) (m t : Mach) : Prop := (∀ c, c ≠ cl → t.cluster c = m.cluster c) ∧ t.pk = m.pk

/-- Every voltage domain but one is the same, and so is every cluster. -/
def OtherDoms (d : Dom) (m t : Mach) : Prop := (∀ e, e ≠ d → t.dom e = m.dom e) ∧ ∀ cl, t.cluster cl = m.cluster cl

/-- The value of a finite number; 0 for a NaN or an infinity (R83, R86). -/
def val : Machine.Num → ℚ
  | .fin neg m e => (signedMant neg m : ℚ) * 2 ^ e
  | .nan _ => 0
  | .inf _ => 0

/-- A number that is neither a NaN nor an infinity. -/
def Finite (x : Machine.Num) : Prop := ∃ neg m e, x = .fin neg m e

/-- The formats of R83 and of the valid descriptors of R85. -/
def IsFormat (f : Fmt) : Prop := (∃ t, f = ftyFmt t) ∨ ∃ d, descValid d = true ∧ f = descFmt d

/-- A magnitude of a sign rounds to a whole number by a mode (R90). -/
def Rounded (r : RMode) (neg : Bool) (x : ℝ) (n : Nat) : Prop :=
  let cut : Prop := (n : ℝ) ≤ x ∧ x < n + 1
  let raised : Prop := x ≤ n ∧ (n : ℝ) < x + 1
  match r with
  | .nearest => |x - n| ≤ 1 / 2 ∧ (|x - n| = 1 / 2 → n % 2 = 0)
  | .zero => cut
  | .down => if neg then raised else cut
  | .up => if neg then cut else raised

/-- A nonzero magnitude of a sign, rounded once into a format by a mode: the code and the flags (R90, R91, R93). `n` is
the magnitude in units of the last place, and `k` the same with an unbounded exponent. -/
def RoundsTo (f : Fmt) (r : RMode) (neg : Bool) (x : ℝ) (l : Lane) : Prop :=
  let lead := Int.log 2 x
  let q := if f.e = 0 then -f.bias else max (lead - f.m) (1 - f.bias - f.m)
  let top : ℝ := val (f.unpack f.maxMag)
  ∃ n k : Nat, Rounded r neg (x / 2 ^ q) n ∧ Rounded r neg (x / 2 ^ (lead - f.m)) k ∧
    let y : ℝ := n * 2 ^ q
    (y ≤ top → ∃ (m : Nat) (e : Int), f.unpack l.1 = .fin neg m e ∧ (m : ℝ) * 2 ^ e = y) ∧
    (top < y → l.1 = (if neg = true then 2 ^ (f.e + f.m) else 0) +
      if f.sp = .ieee ∧ f.m ≠ 0 ∧ (r = .nearest ∨ r.awayFor neg = true) then (2 ^ f.e - 1) * 2 ^ f.m else f.maxMag) ∧
    (l.2.getLsbD 0 = true ↔ y ≠ x ∨ top < y) ∧ (l.2.getLsbD 2 = true ↔ top < y) ∧
    (l.2.getLsbD 1 = true ↔
      if f.e = 0 then x < 2 ^ (-f.bias) else y ≠ x ∧ (k : ℝ) * 2 ^ (lead - f.m) < 2 ^ (1 - f.bias)) ∧
    l.2.getLsbD 3 = false ∧ l.2.getLsbD 4 = false

/-- A byte is the last that a list of written bytes gives an address. -/
def LastIs (l : List (Nat × Byte)) (a : Nat) (b : Byte) : Prop := ∃ pre post, l = pre ++ (a, b) :: post ∧ ∀ p ∈ post, p.1 ≠ a

/-- The first `n` bytes of a run, lowest byte lowest, hold a number. -/
def Holds (byte : Nat → Byte) (n v : Nat) : Prop :=
  v < 2 ^ (8 * n) ∧ ∀ i, i < n → byte i = BitVec.ofNat 8 (v / 2 ^ (8 * i))

/-- A number of `n` bytes extended by its sign to 64 bits. -/
def signed (n v : Nat) : Word := BitVec.ofInt 64 (BitVec.ofNat (8 * n) v).toInt

/-- A UTF-8 sequence of 2 to 4 bytes, with the second-byte ranges that R299 names. -/
def WellFormed (l : List Byte) : Prop :=
  let more (b : Byte) : Prop := 0x80 ≤ b.toNat ∧ b.toNat ≤ 0xBF
  let second (a b : Byte) : Prop := more b ∧ (a = 0xE0 → 0xA0 ≤ b.toNat) ∧ (a = 0xED → b.toNat ≤ 0x9F) ∧
    (a = 0xF0 → 0x90 ≤ b.toNat) ∧ (a = 0xF4 → b.toNat ≤ 0x8F)
  (∃ a b, l = [a, b] ∧ 0xC2 ≤ a.toNat ∧ a.toNat ≤ 0xDF ∧ more b) ∨
  (∃ a b c, l = [a, b, c] ∧ 0xE0 ≤ a.toNat ∧ a.toNat ≤ 0xEF ∧ second a b ∧ more c) ∨
  ∃ a b c d, l = [a, b, c, d] ∧ 0xF0 ≤ a.toNat ∧ a.toNat ≤ 0xF4 ∧ second a b ∧ more c ∧ more d

end Sys2Proof.Spec

open Sys2Proof Sys2Proof.Machine

/-- Each instruction of R70 has its opcode and form selector in layout A; every other x is a reserved field value; and
an executing slot puts the stated function of sA and sB in flight to sD, available at c+1. The amount of a shift is
bits 5 to 0 of sB. (R70) -/
def Obligations.ScalarArithmetic : Prop :=
  (∀ h d a b,
    Spec.Encodes (.add h d a b) (mk h 0x10 d a b 0) ∧ Spec.Encodes (.sub h d a b) (mk h 0x11 d a b 0) ∧
    Spec.Encodes (.and h d a b) (mk h 0x12 d a b 0) ∧ Spec.Encodes (.or h d a b) (mk h 0x13 d a b 0) ∧
    Spec.Encodes (.xor h d a b) (mk h 0x14 d a b 0) ∧ Spec.Encodes (.andn h d a b) (mk h 0x15 d a b 0) ∧
    Spec.Encodes (.shl h d a b) (mk h 0x16 d a b 0) ∧ Spec.Encodes (.shr h d a b) (mk h 0x16 d a b 1) ∧
    Spec.Encodes (.sra h d a b) (mk h 0x16 d a b 2) ∧ Spec.Encodes (.min h d a b) (mk h 0x1D d a b 0) ∧
    Spec.Encodes (.max h d a b) (mk h 0x1D d a b 1) ∧ Spec.Encodes (.minn h d a b) (mk h 0x1D d a b 2) ∧
    Spec.Encodes (.maxn h d a b) (mk h 0x1D d a b 3)) ∧
  Spec.Reserved 0x10 (fun f => f.x != 0) ∧ Spec.Reserved 0x11 (fun f => f.x != 0) ∧
  Spec.Reserved 0x12 (fun f => f.x != 0) ∧ Spec.Reserved 0x13 (fun f => f.x != 0) ∧
  Spec.Reserved 0x14 (fun f => f.x != 0) ∧ Spec.Reserved 0x15 (fun f => f.x != 0) ∧
  Spec.Reserved 0x16 (fun f => f.x == 3) ∧
  ∀ (h : Head) (d a b : SReg) (s : State), Spec.Runs s h →
    let x := s.sreg a
    let y := s.sreg b
    let n := y.toNat % 64
    exec (.add h d a b) s = .next (s.scalar 1 d (BitVec.ofNat 64 (x.toNat + y.toNat))) ∧
    exec (.sub h d a b) s = .next (s.scalar 1 d (BitVec.ofInt 64 (x.toInt - y.toInt))) ∧
    exec (.and h d a b) s = .next (s.scalar 1 d (x &&& y)) ∧
    exec (.or h d a b) s = .next (s.scalar 1 d (x ||| y)) ∧
    exec (.xor h d a b) s = .next (s.scalar 1 d (x ^^^ y)) ∧
    exec (.andn h d a b) s = .next (s.scalar 1 d (x &&& ~~~y)) ∧
    exec (.shl h d a b) s = .next (s.scalar 1 d (BitVec.ofNat 64 (x.toNat * 2 ^ n))) ∧
    exec (.shr h d a b) s = .next (s.scalar 1 d (BitVec.ofNat 64 (x.toNat / 2 ^ n))) ∧
    exec (.sra h d a b) s = .next (s.scalar 1 d (BitVec.ofInt 64 (x.toInt / 2 ^ n))) ∧
    exec (.min h d a b) s = .next (s.scalar 1 d (BitVec.ofInt 64 (min x.toInt y.toInt))) ∧
    exec (.max h d a b) s = .next (s.scalar 1 d (BitVec.ofInt 64 (max x.toInt y.toInt))) ∧
    exec (.minn h d a b) s = .next (s.scalar 1 d (BitVec.ofNat 64 (min x.toNat y.toNat))) ∧
    exec (.maxn h d a b) s = .next (s.scalar 1 d (BitVec.ofNat 64 (max x.toNat y.toNat)))

/-- addi, andi, shli, shri and srai have their opcodes in layout B, with the form of a shift in i8[7:6], and put the
stated function of sA and the immediate in flight to sD, available at c+1; li (0x19) and lis (0x1A) do so in layout C
with their 14-bit immediate, lis reading sD at c; li and four lis build any 64-bit constant. (R71, R72) -/
def Obligations.ScalarImmediates : Prop :=
  (∀ h d a (i8 : BitVec 8) (n : BitVec 6),
    Spec.Encodes (.addi h d a i8) (mk h 0x17 d a (i8.extractLsb' 2 6) (i8.extractLsb' 0 2)) ∧
    Spec.Encodes (.andi h d a i8) (mk h 0x26 d a (i8.extractLsb' 2 6) (i8.extractLsb' 0 2)) ∧
    (∃ f, Spec.Encodes (.shli h d a n) f ∧ f.op = 0x18 ∧ f.d = d ∧ f.a = a ∧ f.i8 = 0#2 ++ n) ∧
    (∃ f, Spec.Encodes (.shri h d a n) f ∧ f.op = 0x18 ∧ f.d = d ∧ f.a = a ∧ f.i8 = 1#2 ++ n) ∧
    (∃ f, Spec.Encodes (.srai h d a n) f ∧ f.op = 0x18 ∧ f.d = d ∧ f.a = a ∧ f.i8 = 2#2 ++ n)) ∧
  (∀ h d (i14 : BitVec 14),
    (∃ f, Spec.Encodes (.li h d i14) f ∧ f.op = 0x19 ∧ f.d = d ∧ f.i14 = i14) ∧
    (∃ f, Spec.Encodes (.lis h d i14) f ∧ f.op = 0x1A ∧ f.d = d ∧ f.i14 = i14)) ∧
  (∀ c : Word, ∃ i j k l m : BitVec 14,
    let shifted (w : Word) (n : BitVec 14) : Word := BitVec.ofNat 64 (w.toNat * 2 ^ 14 + n.toNat)
    c = shifted (shifted (shifted (shifted (BitVec.ofInt 64 i.toInt) j) k) l) m) ∧
  Spec.Reserved 0x18 (fun f => f.i8.extractLsb' 6 2 == 3) ∧
  ∀ (h : Head) (d a : SReg) (s : State), Spec.Runs s h →
    let x := s.sreg a
    (∀ imm, exec (.addi h d a imm) s = .next (s.scalar 1 d (BitVec.ofInt 64 (x.toInt + imm.toInt)))) ∧
    (∀ imm, exec (.andi h d a imm) s = .next (s.scalar 1 d (x &&& BitVec.ofNat 64 imm.toNat))) ∧
    (∀ n, exec (.shli h d a n) s = .next (s.scalar 1 d (BitVec.ofNat 64 (x.toNat * 2 ^ n.toNat)))) ∧
    (∀ n, exec (.shri h d a n) s = .next (s.scalar 1 d (BitVec.ofNat 64 (x.toNat / 2 ^ n.toNat)))) ∧
    (∀ n, exec (.srai h d a n) s = .next (s.scalar 1 d (BitVec.ofInt 64 (x.toInt / 2 ^ n.toNat)))) ∧
    (∀ imm, exec (.li h d imm) s = .next (s.scalar 1 d (BitVec.ofInt 64 imm.toInt))) ∧
    (∀ imm, exec (.lis h d imm) s =
      .next (s.scalar 1 d (BitVec.ofNat 64 ((s.sreg d).toNat * 2 ^ 14 + imm.toNat))))

/-- The forms of opcode 0x1B are mul, mulh and mulhn by x, and x = 3 is reserved; an executing slot puts bits 63 to 0
of the product, or bits 127 to 64 of the signed or natural product, in flight to sD, available at c+3, whatever other
multiplications the bundle holds or are in flight. (R73) -/
def Obligations.Multiplication : Prop :=
  (∀ h d a b, Spec.Encodes (.mul h d a b) (mk h 0x1B d a b 0) ∧ Spec.Encodes (.mulh h d a b) (mk h 0x1B d a b 1) ∧
    Spec.Encodes (.mulhn h d a b) (mk h 0x1B d a b 2)) ∧
  Spec.Reserved 0x1B (fun f => f.x == 3) ∧
  ∀ (h : Head) (d a b : SReg) (s : State), Spec.Runs s h →
    let x := s.sreg a
    let y := s.sreg b
    exec (.mul h d a b) s = .next (s.scalar 3 d (BitVec.ofNat 64 (x.toNat * y.toNat))) ∧
    exec (.mulh h d a b) s = .next (s.scalar 3 d (BitVec.ofInt 64 (x.toInt * y.toInt / 2 ^ 64))) ∧
    exec (.mulhn h d a b) s = .next (s.scalar 3 d (BitVec.ofNat 64 (x.toNat * y.toNat / 2 ^ 64)))

/-- With the divider free and no earlier division in the bundle, an executing division puts the quotient or remainder
of R74 in flight to sD, available at c+18, with the corners of R74 (a divisor of 0; the most negative dividend by -1),
and holds the divider until c+18. While the divider is held, or after an earlier division of the bundle, it raises
cause 0x08 with the stated detail. (R74) -/
def Obligations.Division : Prop :=
  ∀ (h : Head) (d a b : SReg) (s : State), Spec.Runs s h →
    let k := s.pre.core s.iss.cl s.iss.co
    let x := s.sreg a
    let y := s.sreg b
    let u := { s with iss := { s.iss with divides := true } }
    let held (w : Word) : State :=
      (u.scalar 18 d w).modCore fun k =>
        { k with divFree := s.now + 18, divCx := s.iss.cx, divId := s.mach.nextId }
    let all (o : Host.Outcome State Fault Refusal) : Prop :=
      exec (.div h d a b) s = o ∧ exec (.divn h d a b) s = o ∧ exec (.rem h d a b) s = o ∧
      exec (.remn h d a b) s = o
    (k.divFree ≤ s.now → s.iss.divides = false →
      (y = 0 → exec (.div h d a b) s = .next (held (BitVec.ofInt 64 (-1))) ∧
        exec (.divn h d a b) s = .next (held (BitVec.ofNat 64 (2 ^ 64 - 1))) ∧
        exec (.rem h d a b) s = .next (held x) ∧ exec (.remn h d a b) s = .next (held x)) ∧
      (x.toInt = -2 ^ 63 → y.toInt = -1 → exec (.div h d a b) s = .next (held x) ∧
        exec (.rem h d a b) s = .next (held 0)) ∧
      (y ≠ 0 → ¬(x.toInt = -2 ^ 63 ∧ y.toInt = -1) →
        exec (.div h d a b) s = .next (held (BitVec.ofInt 64 (x.toInt.tdiv y.toInt))) ∧
        exec (.rem h d a b) s = .next (held (BitVec.ofInt 64 (x.toInt - x.toInt.tdiv y.toInt * y.toInt)))) ∧
      (y ≠ 0 → exec (.divn h d a b) s = .next (held (BitVec.ofNat 64 (x.toNat / y.toNat))) ∧
        exec (.remn h d a b) s = .next (held (BitVec.ofNat 64 (x.toNat - x.toNat / y.toNat * y.toNat))))) ∧
    (s.now < k.divFree → all (.next (u.raise 0x08 (BitVec.ofNat 64 (5 + (k.divFree - s.now) * 16))))) ∧
    (k.divFree ≤ s.now → s.iss.divides = true → all (.next (u.raise 0x08 (BitVec.ofNat 64 (5 + 18 * 16)))))

/-- The forms of opcode 0x1E are clz, ctz and popc by x; x = 3 and a nonzero b are reserved; an executing slot puts
the count of leading zeros, of trailing zeros or of one bits of sA in flight to sD, available at c+1, and clz and ctz
of 0 give 64. (R75) -/
def Obligations.BitCounts : Prop :=
  (∀ h d a, Spec.Encodes (.clz h d a) (mk h 0x1E d a 0 0) ∧ Spec.Encodes (.ctz h d a) (mk h 0x1E d a 0 1) ∧
    Spec.Encodes (.popc h d a) (mk h 0x1E d a 0 2)) ∧
  Spec.Reserved 0x1E (fun f => f.b != 0 || f.x == 3) ∧
  ∀ (h : Head) (d a : SReg) (s : State), Spec.Runs s h →
    let x := s.sreg a
    (∃ n, n ≤ 64 ∧ (∀ i, i < n → x.getLsbD (63 - i) = false) ∧ (n < 64 → x.getLsbD (63 - n) = true) ∧
      exec (.clz h d a) s = .next (s.scalar 1 d (BitVec.ofNat 64 n))) ∧
    (∃ n, n ≤ 64 ∧ (∀ i, i < n → x.getLsbD i = false) ∧ (n < 64 → x.getLsbD n = true) ∧
      exec (.ctz h d a) s = .next (s.scalar 1 d (BitVec.ofNat 64 n))) ∧
    exec (.popc h d a) s = .next (s.scalar 1 d (BitVec.ofNat 64 ((List.range 64).countP x.getLsbD))) ∧
    (x = 0 → exec (.clz h d a) s = .next (s.scalar 1 d 64) ∧ exec (.ctz h d a) s = .next (s.scalar 1 d 64))

/-- An executing cmp or cmpi puts the stated condition of sA and its operand in flight to the pair k, available at
c+1; the immediate of cmpi is natural for ltn and gen and signed for every other condition. (R76) -/
def Obligations.Comparisons : Prop :=
  ∀ (h : Head) (k : BitVec 3) (a : SReg) (s : State), Spec.Runs s h →
    let x := s.sreg a
    (∀ b, let y := s.sreg b
      exec (.cmp h .eq k a b) s = .next (s.predicate k (decide (x = y))) ∧
      exec (.cmp h .ne k a b) s = .next (s.predicate k (decide (x ≠ y))) ∧
      exec (.cmp h .lt k a b) s = .next (s.predicate k (decide (x.toInt < y.toInt))) ∧
      exec (.cmp h .ge k a b) s = .next (s.predicate k (decide (y.toInt ≤ x.toInt))) ∧
      exec (.cmp h .ltn k a b) s = .next (s.predicate k (decide (x.toNat < y.toNat))) ∧
      exec (.cmp h .gen k a b) s = .next (s.predicate k (decide (y.toNat ≤ x.toNat))) ∧
      exec (.cmp h .tst k a b) s = .next (s.predicate k (decide (x &&& y ≠ 0)))) ∧
    (∀ (imm : BitVec 8),
      exec (.cmpi h .eq k a imm) s = .next (s.predicate k (decide (x.toInt = imm.toInt))) ∧
      exec (.cmpi h .ne k a imm) s = .next (s.predicate k (decide (x.toInt ≠ imm.toInt))) ∧
      exec (.cmpi h .lt k a imm) s = .next (s.predicate k (decide (x.toInt < imm.toInt))) ∧
      exec (.cmpi h .ge k a imm) s = .next (s.predicate k (decide (imm.toInt ≤ x.toInt))) ∧
      exec (.cmpi h .ltn k a imm) s = .next (s.predicate k (decide (x.toNat < imm.toNat))) ∧
      exec (.cmpi h .gen k a imm) s = .next (s.predicate k (decide (imm.toNat ≤ x.toNat))) ∧
      exec (.cmpi h .tst k a imm) s = .next (s.predicate k (decide (x &&& BitVec.ofInt 64 imm.toInt ≠ 0))))

/-- The predicate instructions have the stated fields, with every other value of the fixed fields reserved; an
executing slot puts the stated function of its two source predicates, or bit n of sA, in flight to the pair k,
available at c+1; the odd member of a pair always reads the complement of the even one. (R77, R78) -/
def Obligations.PredicateLogic : Prop :=
  (∀ h k a b,
    Spec.Encodes (.pand h k a b) (mk h 0x21 (0#3 ++ k) (0#2 ++ a) (0#2 ++ b) 0) ∧
    Spec.Encodes (.por h k a b) (mk h 0x21 (0#3 ++ k) (0#2 ++ a) (0#2 ++ b) 1) ∧
    Spec.Encodes (.pxor h k a b) (mk h 0x21 (0#3 ++ k) (0#2 ++ a) (0#2 ++ b) 2) ∧
    Spec.Encodes (.pandn h k a b) (mk h 0x21 (0#3 ++ k) (0#2 ++ a) (0#2 ++ b) 3)) ∧
  (∀ h k a n, Spec.Encodes (.movp h k a n) (mk h 0x22 (0#3 ++ k) a n 0)) ∧
  Spec.Reserved 0x21 (fun f => hi3 f.d != 0 || hi2 f.a != 0 || hi2 f.b != 0) ∧
  Spec.Reserved 0x22 (fun f => hi3 f.d != 0 || f.x != 0) ∧
  (∀ (r : Regs) (k : BitVec 3), r.pred (k ++ 1#1) = !r.pred (k ++ 0#1)) ∧
  ∀ (h : Head) (k : BitVec 3) (s : State), Spec.Runs s h →
    (∀ a b, let x := s.regs.pred a; let y := s.regs.pred b
      exec (.pand h k a b) s = .next (s.predicate k (x && y)) ∧
      exec (.por h k a b) s = .next (s.predicate k (x || y)) ∧
      exec (.pxor h k a b) s = .next (s.predicate k (xor x y)) ∧
      exec (.pandn h k a b) s = .next (s.predicate k (x && !y))) ∧
    (∀ a (n : BitVec 6), exec (.movp h k a n) s = .next (s.predicate k ((s.sreg a).getLsbD n.toNat)))

/-- movl has opcode 0x23 with a = 0, the level in i8[2:0], index or count in i8[3], and everything else reserved,
levels 6 and 7 included; an executing slot puts the zero-extended field of the level l places outward from the
innermost in flight to sD, available at c+1, and 0 when l is not less than the loop depth. (R79) -/
def Obligations.LoopFields : Prop :=
  (∀ h d (l : BitVec 3), (∃ f, Spec.Encodes (.movl h d l) f ∧ f.op = 0x23 ∧ f.d = d ∧ f.a = 0 ∧ f.i8 = 0#5 ++ l) ∧
    (∃ f, Spec.Encodes (.movlCount h d l) f ∧ f.op = 0x23 ∧ f.d = d ∧ f.a = 0 ∧ f.i8 = 1#5 ++ l)) ∧
  Spec.Reserved 0x23 (fun f => f.a != 0 || f.i8.extractLsb' 4 4 != 0 || (6#3).ule (f.i8.extractLsb' 0 3)) ∧
  ∀ (h : Head) (d : SReg) (l : BitVec 3) (s : State), Spec.Runs s h →
    (∀ v, s.regs.loops[l.toNat]? = some v →
      exec (.movl h d l) s = .next (s.scalar 1 d (BitVec.ofNat 64 v.index.toNat)) ∧
      exec (.movlCount h d l) s = .next (s.scalar 1 d (BitVec.ofNat 64 v.count.toNat))) ∧
    (s.regs.loops.length ≤ l.toNat →
      exec (.movl h d l) s = .next (s.scalar 1 d 0) ∧ exec (.movlCount h d l) s = .next (s.scalar 1 d 0))

/-- An executing rdsys puts the value of its selector, as it stands at the issue, in flight to sD, available at c+1; a
channel not bound to an activity of the context's own image, and a bridge FIFO that is not available, read 0. A core's
FIFO is available to a context when the other end lies in its partition, in a tier that is neither gated nor waking
nor tripped, and holds a context bound to its image; held is each end's own copy of the count. An executing wrsys puts
bits 4 to 0 of sA in flight to vflags, or bits 1 to 0 to vrm, from c+1; fmt and fmtr put a valid descriptor in flight
to fmF, for operations from c+4; fmtr with an invalid descriptor raises cause 0x14 with the stated detail; agset
writes the base or stride f-1 of a generator from c+1. (R80, R81, R219, R221, R225, R82, R68, R156) -/
def Obligations.SystemRegisters : Prop :=
  (
    ∀ (h : Head) (d : SReg) (s : State), Spec.Runs s h →
      let m := s.pre
      let x := s.preCtx
      let reads (sel : SysSel) (n : Nat) : Prop :=
        exec (.rdsys h d sel) s = .next (s.scalar 1 d (BitVec.ofNat 64 n))
      let own (o : Option CtxRef) (i : Option (BitVec 12)) : Prop := o ≠ none ∧ i ≠ none ∧ i = x.img
      reads .fret m.pk.fret ∧ reads .cycle (m.cluster s.iss.cl).cyc ∧
      reads .ident (s.iss.cl.toNat * 64 + s.iss.co.toNat * 8 + s.iss.cx.toNat) ∧
      reads .ast x.ast.toNat ∧ reads .vflags x.regs.vflags.toNat ∧ reads .vrm x.regs.vrm.toNat ∧
      reads .energy x.energy.toNat ∧ reads .capolevel x.capo.toNat ∧
      reads .evqcount (m.core s.iss.cl s.iss.co).evq.length ∧
      (∀ r : CtxRef,
        let o := r.cl ^^^ 16#5
        let e := m.dom (domOf o)
        let y (c : CtxId) := m.ctx ⟨o, r.co, c⟩
        (m.bridgeOk r = true ↔ m.pk.clusterIn (m.ctx r).part o = true ∧ e.gated = false ∧ e.waking = false ∧
          e.tripped = false ∧ ∃ c, m.boundAt ⟨o, r.co, c⟩ = true ∧ (y c).img ≠ none ∧ (y c).img = (m.ctx r).img ∧
            (y c).part = (m.ctx r).part) ∧
        m.bridgeHeld r = if r.cl.getLsbD 4 = true then (m.core r.cl r.co).bridge.consHeld
          else (m.core (r.cl ||| 16#5) r.co).bridge.prodHeld) ∧
      (m.bridgeOk s.ref = true → reads .brfree (16 - m.bridgeHeld s.ref) ∧ reads .brcount (m.bridgeHeld s.ref)) ∧
      (m.bridgeOk s.ref = false → reads .brfree 0 ∧ reads .brcount 0) ∧
      (∀ ch, let c := m.pk.chan s.iss.cl ch
        (own c.owner c.img → reads (.done ch) c.done.toNat ∧ reads (.nextid ch) c.next.toNat) ∧
        (¬own c.owner c.img → reads (.done ch) 0 ∧ reads (.nextid ch) 0)) ∧
      (∀ ch, let c := m.pk.sioChan (portKey x.part ch)
        (own c.owner c.img → reads (.sdone ch) c.done.toNat) ∧ (¬own c.owner c.img → reads (.sdone ch) 0)) ∧
      (∀ ch, let c := m.pk.netChan (portKey x.part ch)
        (own c.owner c.img → reads (.ndone ch) c.done.toNat) ∧ (¬own c.owner c.img → reads (.ndone ch) 0))) ∧
  (
    ∀ (h : Head) (s : State), Spec.Runs s h →
      let puts (i : Instr) (lat : Nat) (d : RegDest) (v : Nat) : Prop :=
        ∃ w : Vec, w.toNat = v ∧ exec i s = .next (s.result lat d w (BitVec.allOnes 256) 0)
      (∀ a, puts (.wrsysVflags h a) 1 .vflags (s.sreg a).toNat ∧ puts (.wrsysVrm h a) 1 .vrm (s.sreg a).toNat) ∧
      (∀ f (desc : BitVec 17), puts (.fmt h f desc) 4 (.fm f) (desc.toNat * 8)) ∧
      (∀ f a, let desc := (s.sreg a).extractLsb' 0 20
        (descValid desc = true → puts (.fmtr h f a) 4 (.fm f) desc.toNat) ∧
        (descValid desc = false → exec (.fmtr h f a) s =
          .next (s.raise 0x14 (BitVec.ofNat 64 (2 ^ 62 + f.toNat * 2 ^ 20 + desc.toNat))))) ∧
      (∀ n a, puts (.agsetBase h n a) 1 (.agBase n) (s.sreg a).toNat ∧
        ∀ f, f ≠ 0 → puts (.agsetStride h f n a) 1 (.agStride n (f - 1)) (s.sreg a).toNat))

/-- A taken transfer to a valid target inside every active body moves the pc there, and the next bundle issues at c+1
for br.t and call, c+4 for br.n and c+3 for jr and ret; call also puts the address after its bundle in flight to s63,
available at c+1. A target outside an active body raises cause 0x03, detail 0. An invalid target is remembered with
the bundle and its issue cycle, for the trap of the cycle in which it would issue: in that cycle, and no earlier one,
the running context traps with cause 0x02, the target as its detail and the transferring bundle as its own; a gang
member with the marks of the cycle. A br whose guard reads false falls through, at c+4 when it is br.t. With a count
of 0 the bundle after the body follows at c+1; with a count of at least 1, depth 6 raises cause 0x03 detail 1 (also
where the body ends after the enclosing one, which R40 does not rank: log entry 37), a body that ends after the
enclosing body raises detail 3, and otherwise a level with index 0, the count (65,535 for a register above it), and
the start and end of the body is pushed. lbrk pops the innermost level and goes to the bundle after its body end; at
depth 0 it raises detail 2. (R59, R60, R61, R42, R25, R45, R40, R62, R63) -/
def Obligations.ControlSlots : Prop :=
  (
    ∀ (h : Head) (s : State), Spec.Calm s →
      let jump (u : State) (a : Int) (lat : Nat) : State :=
        { u.modCtx (fun x => { x with pc := (BitVec.ofInt 18 a).setWidth 19, nextIssue := u.now + lat }) with
          iss := { u.iss with transferred := true } }
      let escapes (a : Int) : Prop := ∃ l ∈ s.regs.loops, a < l.start.toNat ∨ (l.stop.toNat : Int) < a
      let valid (a : Int) : Prop := 0 ≤ a ∧ s.pre.validTarget s.ref a.toNat = true
      let goes (i : Instr) (u : State) (a : Int) (lat : Nat) : Prop :=
        (escapes a → exec i s = .next (s.raise 0x03 0)) ∧
        (¬escapes a → valid a → exec i s = .next (jump u a lat)) ∧
        (¬escapes a → ¬valid a → exec i s = .next ((jump u a lat).modCtx fun x =>
          { x with badTarget := some ⟨BitVec.ofInt 18 a, s.iss.baddr, s.iss.slot, s.now⟩ }))
      (s.pguard h = true →
        (∀ (off : BitVec 19), let a := (s.iss.baddr.toNat : Int) + off.toInt * 4
          goes (.brT h off) s a 1 ∧ goes (.brN h off) s a 4) ∧
        (∀ (off : BitVec 20), goes (.call h off) (s.scalar 1 63 (BitVec.ofNat 64 s.iss.after.toNat))
          ((s.iss.baddr.toNat : Int) + off.toInt * 4) 1) ∧
        (∀ a, goes (.jr h a) s (s.sreg a).toNat 3) ∧ goes (.ret h) s (s.sreg 63).toNat 3) ∧
      (s.pguard h = false → ∀ off,
        exec (.brN h off) s = .next s ∧
        exec (.brT h off) s = .next (s.modCtx fun x => { x with nextIssue := s.now + 4 })) ∧
      ∀ (cl : ClusterId) (co : CoreId) (cx : CtxId) (u : State) (b : BadTarget),
        let r : CtxRef := ⟨cl, co, cx⟩
        let x := u.mach.ctx r
        let trap : Trap :=
          { ctx := r, cause := 0x02, mask := 1#8 <<< b.slot.toNat, baddr := b.baddr, detail := b.target.setWidth 64,
            pos := .target, issued := b.issued, img := x.img, part := x.part }
        x.badTarget = some b →
        ((u.mach.core cl co).running = some cx → x.nextIssue ≤ u.mach.cyc cl →
          (x.gang = none → u.targetTrap cl co cx =
            { u with mach := (u.mach.modCtx r fun x => { x with badTarget := none }).trap trap }) ∧
          (x.gang ≠ none → u.targetTrap cl co cx =
            { u with mach := u.mach.modCluster cl fun c => { c with pend := c.pend ++ [trap] } })) ∧
        ((u.mach.core cl co).running ≠ some cx ∨ u.mach.cyc cl < x.nextIssue → u.targetTrap cl co cx = u)) ∧
  (
    ∀ (h : Head) (s : State), Spec.Runs s h →
      let k := s.pre.core s.iss.cl s.iss.co
      let starts (i : Instr) (b n : Nat) : Prop :=
        let last := k.bundleAfter s.iss.after.toNat (b - 1)
        let inner : Prop := ∃ l rest, s.regs.loops = l :: rest ∧ l.stop.toNat < last
        (n = 0 → exec i s = .next (s.goto (BitVec.ofNat 19 (k.bundleEnd last)) 1)) ∧
        (n ≠ 0 → 6 ≤ s.regs.loops.length → exec i s = .next (s.raise 0x03 1)) ∧
        (n ≠ 0 → s.regs.loops.length < 6 → inner → exec i s = .next (s.raise 0x03 3)) ∧
        (n ≠ 0 → s.regs.loops.length < 6 → ¬inner → exec i s = .next (s.modCtx fun x => { x with regs := { x.regs with
          loops := ⟨0, BitVec.ofNat 16 n, s.iss.after, BitVec.ofNat 19 last⟩ :: x.regs.loops } }))
      (∀ a (body : BitVec 8), starts (.loop h a body) (body.toNat + 1) (min (s.sreg a).toNat 65535)) ∧
      (∀ (body : BitVec 6) (n : BitVec 14), starts (.loopi h body n) (body.toNat + 1) n.toNat) ∧
      (s.regs.loops = [] → exec (.lbrk h) s = .next (s.raise 0x03 2)) ∧
      (∀ l rest, s.regs.loops = l :: rest →
        exec (.lbrk h) s = .next
          ((s.modCtx fun x => { x with regs := { x.regs with loops := rest } }).goto
            (BitVec.ofNat 19 (k.bundleEnd l.stop.toNat)) 1)))

/-- LOOP_LEVEL_STEP at the body end e: if the innermost level ends at e and its index + 1 is below its count, the
index increments and the body start follows; else that level pops, and the next level outward steps by the same rule
if it ends at e; if every level that ends at e pops, the bundle after e follows. Nothing else of the machine changes.
(R41) -/
def Obligations.LoopSteps : Prop :=
  ∀ (cl : ClusterId) (co : CoreId) (cx : CtxId) (s : State) (e : PC) (last outer : List LoopLevel),
    let r : CtxRef := ⟨cl, co, cx⟩
    let x := s.mach.ctx r
    let k := s.mach.core cl co
    x.stepAt = some e → x.regs.loops = last ++ outer → last.length ≤ 6 →
    (∀ l ∈ last, l.stop = e ∧ l.count.toNat ≤ l.index.toNat + 1) →
    let stepped (ls : List LoopLevel) (pc : PC) (kept : Bool) : State :=
      s.modMach fun m => m.modCtx r fun x =>
        { x with regs := { x.regs with loops := ls }, stepAt := none, pc := pc, steppedBody := kept }
    (∀ l rest, outer = l :: rest → l.stop = e → l.index.toNat + 1 < l.count.toNat → last.length < 6 →
      exec (.loopLevelStep cl co cx) s =
        .next (stepped ({ l with index := l.index + 1 } :: rest) l.start (last.length == 0))) ∧
    ((∀ l rest, outer = l :: rest → l.stop ≠ e) →
      exec (.loopLevelStep cl co cx) s =
        .next (stepped outer (BitVec.ofNat 19 (k.bundleEnd e.toNat)) false))

/-- An executing rmark, yield or exit commits every entry of the context's gating buffer to the core's drain, in order
and none before the next cycle, and leaves the buffer empty. A yield leaves the context waiting on its condition, with
no further issue, and frees the core; where the task came from a queue entry with a scope, its end is to be announced;
exit ends the activity: no result in flight, no loop level, no grant. nop changes nothing, whatever its guard reads.
(R64, R65, R66, R49, R58, R288) -/
def Obligations.CommitPoints : Prop :=
  ∀ (h : Head) (s : State), exec (.nop h) s = .next s ∧ (Spec.Runs s h →
    let m := s.mach
    let r := s.ref
    let drained (t : State) : Prop :=
      ((t.mach.ctx r).gate = []) ∧ ∃ items : List DrainItem,
        (t.mach.core r.cl r.co).drain = (m.core r.cl r.co).drain ++ items ∧
        items.map DrainItem.entry = (m.ctx r).gate ∧
        ∀ d ∈ items, d.cx = r.cx ∧ d.since = m.cyc r.cl + 1
    let taskEnds (t : State) : Prop := (t.mach.ctx r).taskEnds = (m.ctx r).taskEnds ++
      match (m.ctx r).entryScope with
      | none => []
      | some (k, _) => [⟨k, m.cyc r.cl⟩]
    let yields (i : Instr) (w : WaitCond) : Prop := ∃ t, exec i s = .next t ∧ drained t ∧
      (t.mach.ctx r).marking = true ∧ (t.mach.ctx r).run = .waiting ∧ (t.mach.ctx r).wait = w ∧ taskEnds t ∧
      (t.mach.ctx r).inflight = (m.ctx r).inflight ∧ (t.mach.ctx r).regs = (m.ctx r).regs ∧
      (t.mach.core r.cl r.co).running ≠ some r.cx ∧
      ((m.core r.cl r.co).running = some r.cx → (t.mach.core r.cl r.co).selFrom = s.now + 1)
    (∃ t, exec (.rmark h) s = .next t ∧ drained t ∧ (t.mach.ctx r).marking = true ∧ t.iss.commit = true ∧
      (t.mach.ctx r).run = (m.ctx r).run ∧ (t.mach.ctx r).regs = (m.ctx r).regs) ∧
    yields (.yieldNow h) .now ∧ (∀ a, yields (.yieldAt h a) (.at (s.sreg a).toNat)) ∧
    (∀ q, yields (.yieldQ h q) (.q q none)) ∧ (∀ k, yields (.yieldSc h k) (.sc k none)) ∧
    (∃ t, exec (.exit h) s = .next t ∧ drained t ∧ (t.mach.ctx r).run = .ended ∧ taskEnds t ∧ (t.mach.ctx r).inflight = [] ∧
      (t.mach.ctx r).loads = [] ∧ (t.mach.ctx r).regs = { (m.ctx r).regs with loops := [] } ∧
      (t.mach.ctx r).capo = 0 ∧ t.iss.exits = true ∧ (t.mach.core r.cl r.co).running ≠ some r.cx))

/-- trap has opcode 0x0A in layout D with the code as i20. With its guard false it does nothing. Executing, it raises
a precise trap with cause 0x0D, detail[19:0] = i20 and detail[63:20] = 0, marking its slot: the machine is then the
one before the bundle with that trap taken, for a gang member, and where a trap of the context found at a sample
waits, once the marks of the cycle are known (R211, R52; log entry 18), so no slot of the bundle takes effect. Where a
level ignores the trap, whichever it is, the context resumes at d+4 with the bundle after, levels that end there
stepping or popping by R41, and the results due from c on are counted anew with c0 = c; that the bundle after an
ignored first bundle is not itself a first bundle, so that a capo.acq in it traps, is the choice of the model (log
entry 37). (R67, R24, R178, R41, R55, R211) -/
def Obligations.SoftwareTrap : Prop :=
  let taken (s : State) (code : BitVec 20) : Trap :=
    { ctx := s.ref, cause := 0x0D, mask := 1#8 <<< s.iss.slot.toNat, baddr := s.iss.baddr,
      detail := BitVec.ofNat 64 code.toNat, pos := .issue s.iss.after, issued := s.now, img := s.preCtx.img,
      part := s.preCtx.part }
  let waits (s : State) : Prop := s.preCtx.gang ≠ none ∨ ∃ q ∈ (s.pre.cluster s.iss.cl).pend, q.ctx = s.ref
  (∀ h code, ∃ f, Spec.Encodes (.trap h code) f ∧ f.op = 0x0A ∧ f.i20 = code) ∧
  ∀ (h : Head) (code : BitVec 20) (s : State),
    (s.pguard h = false → exec (.trap h code) s = .next s) ∧
    (Spec.Runs s h → ∃ t, exec (.trap h code) s = .next t ∧
      t.iss.raises = [⟨1#8 <<< s.iss.slot.toNat, 0x0D, BitVec.ofNat 64 code.toNat⟩] ∧
      (¬waits s → t.mach = s.pre.trap (taken s code)) ∧
      (waits s → t.mach = s.pre.modCluster s.iss.cl fun c => { c with pend := c.pend ++ [taken s code] }) ∧
      (∀ i, (fieldsOf i).isSome = true → ∃ u, exec i t = .next u ∧ (u.iss.raises = t.iss.raises → u.mach = t.mach)) ∧
      (s.preCtx.policy = 0 → s.preCtx.gang = none →
        (contain false (.issue s.iss.after) (s.pre.levels (taken s code)) 0x0D).2.1 = .ignore)) ∧
    (∀ m : Mach, let r := s.ref
      let y := m.ctx r
      let c := m.cyc r.cl
      y.bound = true →
      (contain y.gang.isSome (.issue s.iss.after) (m.levels (taken s code)) 0x0D).2.1 = .ignore →
      let x := (m.trap (taken s code)).ctx r
      x.nextIssue = c + 4 ∧ x.regs = { y.regs with loops := x.regs.loops } ∧ x.gate = y.gate ∧ x.first = false ∧
      x.inflight = (y.inflight.filter fun f => decide (c ≤ f.due)).map (fun f => { f with due := f.due - c + (c + 4) }) ∧
      ∀ last outer, y.regs.loops = last ++ outer → last.length ≤ 6 →
        (∀ l ∈ last, l.stop = s.iss.baddr ∧ l.count.toNat ≤ l.index.toNat + 1) →
        (∀ l rest, outer = l :: rest → l.stop = s.iss.baddr → l.index.toNat + 1 < l.count.toNat → last.length < 6 →
          x.pc = l.start ∧ x.regs.loops = { l with index := l.index + 1 } :: rest) ∧
        ((∀ l rest, outer = l :: rest → l.stop ≠ s.iss.baddr) → x.pc = s.iss.after ∧ x.regs.loops = outer))

/-- An executing capo.rel returns the whole grant to the domain, and capolevel is 0 from c+1. capo.acq in the first
bundle after a release, with a level not above the one held, makes capolevel that level from c+1 and returns the
difference, which counts from the tick after it; with a level above it, it raises cause 0x0C detail 2; in any other
bundle it raises detail 1. (R69, R169) -/
def Obligations.CapoSlots : Prop :=
  ∀ (h : Head) (s : State), Spec.Runs s h →
    let held := s.preCtx.capo.toNat
    let sets (i : Instr) (level : BitVec 4) : Prop := ∃ t, exec i s = .next t ∧ t.iss = s.iss ∧
      (t.mach.ctx s.ref).capoNext = some level ∧ (t.mach.ctx s.ref).capo = (s.mach.ctx s.ref).capo ∧
      (t.mach.dom (domOf s.iss.cl)).returned =
        (s.mach.dom (domOf s.iss.cl)).returned ++ [(s.mach.pk.fret, held - level.toNat)]
    sets (.capoRel h) 0 ∧
    (∀ level, (s.preCtx.first = false → exec (.capoAcq h level) s = .next (s.raise 0x0C 1)) ∧
      (s.preCtx.first = true → held < level.toNat → exec (.capoAcq h level) s = .next (s.raise 0x0C 2)) ∧
      (s.preCtx.first = true → level.toNat ≤ held → sets (.capoAcq h level) level))

/-- An access to bytes a to a+n-1 passes exactly when every byte lies in the range of the first (LM, scratchpad or
interrupt files); in LM and the scratchpad lies in a window of the context, and in a claim where the access writes; in
the scratchpad the instruction reaches it at all; and an interrupt file lies in the context's partition and the access
has the form of R118. Accesses that do not pass fault at the lowest byte that itself fails, with the first kind that
applies to it: 0 outside the range of its access's first byte, 3 and then 4 in an interrupt file, 1 outside every
window, 2 in no claim. (R116, R117, R118) -/
def Obligations.AccessChecks : Prop :=
  ∀ (m : Mach) (x : Context) (k : AccessKind) (form : Bool) (a n : Nat), 0 < n →
    let covers (ws : List Window) (line : Nat) : Prop :=
      (∃ w ∈ ws, w.base ≤ line ∧ line ≤ w.limit) ∧
      (k.writes = true → ∃ w ∈ ws, w.w = true ∧ w.base ≤ line ∧ line ≤ w.limit)
    let every (p : Nat → Prop) : Prop := ∀ b, a ≤ b → b < a + n → p b
    (accessFault m x k form [span a n] = none ↔
      every (fun b => b ≤ 0x1FFFFF ∧ covers x.lmWin (b / 256)) ∨
      (k.lmOnly = false ∧
        every (fun b => 0x40000000 ≤ b ∧ b ≤ 0x41FFFFFF ∧ covers x.spWin ((b - 0x40000000) / 256))) ∨
      (form = true ∧ every (fun b => 0x70000000 ≤ b ∧ b ≤ 0x7001FFFF ∧
        m.pk.clusterIn x.part (BitVec.ofNat 5 ((b - 0x70000000) / 0x1000)) = true))) ∧
    let lm (b : Nat) : Prop := b ≤ 0x1FFFFF
    let sp (b : Nat) : Prop := 0x40000000 ≤ b ∧ b ≤ 0x41FFFFFF
    let irq (b : Nat) : Prop := 0x70000000 ≤ b ∧ b ≤ 0x7001FFFF
    let fails (first b kd : Nat) : Prop :=
      let same : Prop := (lm first ∧ lm b) ∨ (sp first ∧ sp b) ∨ (irq first ∧ irq b)
      let mine := m.pk.clusterIn x.part (BitVec.ofNat 5 ((b - 0x70000000) / 0x1000))
      let window (w : Window) : Prop :=
        (lm b ∧ w ∈ x.lmWin ∧ w.base ≤ b / 256 ∧ b / 256 ≤ w.limit) ∨
        (sp b ∧ k.lmOnly = false ∧ w ∈ x.spWin ∧ w.base ≤ (b - 0x40000000) / 256 ∧ (b - 0x40000000) / 256 ≤ w.limit)
      (kd = 0 ∧ ¬same) ∨ (same ∧ irq b ∧ ((kd = 3 ∧ mine = false) ∨ (kd = 4 ∧ mine = true ∧ form = false))) ∨
        (same ∧ ¬irq b ∧ ((kd = 1 ∧ ∀ w, ¬window w) ∨
          (kd = 2 ∧ k.writes = true ∧ (∃ w, window w) ∧ ∀ w, window w → w.w = false)))
    ∀ accs : List (List Nat),
      let byteFails (b kd : Nat) : Prop := ∃ c ∈ accs, ∃ first, c.head? = some first ∧ b ∈ c ∧ fails first b kd
      (accessFault m x k form accs = none ↔ ∀ b kd, ¬byteFails b kd) ∧
      ∀ f kd, accessFault m x k form accs = some (f, kd) → byteFails f kd ∧ ∀ b, b < f → ∀ e, ¬byteFails b e

/-- An executing scalar load at the address of its base and offset, scaled by its size, that passes its checks and is
aligned puts a result in flight to sD that samples its bytes, lowest byte lowest, and lands at c+5 from LM and c+13
from the scratchpad; lds extends the value by its sign, ldz by zeros. A failing byte raises cause 0x0A with its kind
and the low 32 bits of its address (log entry 37); a misaligned address raises cause 0x14. The sample of a scalar or
vector load gives each of its bytes the last that a store of its context, issued before it and not yet performed,
gives that byte, and else what memory held before a store of its own bundle, and else what memory holds; the bytes
that it does not read are 0, and a signed load extends them by their sign. In which cycle the forwarding and the
sample fall is log entry 19. An executing scalar store that passes its checks and is aligned enters one scalar store
in the gating buffer: the low bytes of sD, lowest byte first, at the address of its base and offset; to an interrupt
file, the identity and the cluster of the file. The form of R118 is an st.w or st.d of an identity from 64 to 1,023 to
offset 0. A failing byte raises cause 0x0A, a misaligned address cause 0x14. (R152, R116, R151, R50, R56, R153, R18,
R118) -/
def Obligations.ScalarMemory : Prop :=
  (
    ∀ (h : Head) (d : SReg) (b : Base) (o : BitVec 6) (s : State), Spec.Runs s h →
      let loads (i : Instr) (n : Nat) (ext : LoadExt) : Prop :=
        let a := (s.baseAddr b + BitVec.ofInt 32 (o.toInt * n)).toNat
        let check := accessFault s.pre s.preCtx .load false [span a n]
        (check = none → a % n = 0 → exec i s = .next (s.loadBytes (if region a = .sp then 13 else 5) (.s d)
          (BitVec.allOnes 256) ((List.range n).map fun j => (j, a + j)) ext none)) ∧
        (∀ f kd, check = some (f, kd) → exec i s = .next (s.raise 0x0A (BitVec.ofNat 64 (kd * 2 ^ 32 + f % 2 ^ 32)))) ∧
        (check = none → a % n ≠ 0 →
          exec i s = .next (s.raise 0x14 (BitVec.ofNat 64 (3 * 2 ^ 62 + a % 2 ^ 32 * 16 + 1))))
      loads (.ldsB h d b o) 1 (.sext 8) ∧ loads (.ldsH h d b o) 2 (.sext 16) ∧ loads (.ldsW h d b o) 4 (.sext 32) ∧
      loads (.ldsD h d b o) 8 .raw ∧ loads (.ldzB h d b o) 1 .raw ∧ loads (.ldzH h d b o) 2 .raw ∧
      loads (.ldzW h d b o) 4 .raw ∧
      ∀ (cl : ClusterId) (co : CoreId) (cx : CtxId) (s : State) (l : Load),
        let r : CtxRef := ⟨cl, co, cx⟩
        let x := s.mach.ctx r
        let k := s.mach.core cl co
        let now := s.mach.cyc cl
        let entries := (k.drain.filter fun d => d.cx == cx).map DrainItem.entry ++ x.gate
        let own : List (Nat × Byte) := entries.flatMap fun e =>
          if l.issued ≤ e.issued then []
          else match e.eff with
            | .store sp bytes => if sp = l.space then bytes else []
            | .irq _ _ | .atomic _ | .cmd _ => []
        let mem (a : Nat) : Byte := match l.space with
          | .lm => (k.lm.byte (some 0) a).getD 0
          | .sp => ((s.mach.cluster cl).scratch.byte (some 0) a).getD 0
        let sent (j a : Nat) (b : Byte) : Prop :=
          if l.fwdDone = true then l.fwd.find? (fun f => f.1 == j) = some (j, b) else Spec.LastIs own a b
        let kept (a : Nat) : Option (Nat × Byte) := l.keep.find? fun f => f.1 == a
        let t := s.sampleLoads cl co
        let only (y : Context) : Prop := t.mach.ctx r = y ∧ t.iss = s.iss ∧ t.mach.pk = s.mach.pk ∧
          Spec.OtherContexts r s.mach t.mach ∧ Spec.SameMemory s.mach t.mach
        x.loads = [l] → (∀ c, c ≠ cx → (s.mach.ctx ⟨cl, co, c⟩).loads = []) → (l.lanes.map Prod.fst).Nodup →
        (∀ p ∈ l.lanes, p.1 < 256) → l.fwdAt ≤ now →
        (l.fwdDone = false → now < l.memAt → ∃ f, only { x with loads := [{ l with fwdDone := true, fwd := f }] } ∧
          ∀ p ∈ l.lanes, ∀ b, (p.1, b) ∈ f ↔ Spec.LastIs own p.2 b) ∧
        (l.memAt ≤ now → s.mach.badByte cl co l.space (l.lanes.map Prod.snd) = none → ∃ raw v : Vec,
          only (({ x with loads := [] } : Context).fill l.id v 0) ∧
          (∀ p ∈ l.lanes, ∀ b, (sent p.1 p.2 b ∨ (∀ c, ¬sent p.1 p.2 c) ∧
            (kept p.2 = some (p.2, b) ∨ kept p.2 = none ∧ b = mem p.2)) → raw.extractLsb' (8 * p.1) 8 = b) ∧
          (∀ j, j < 256 → j ∉ l.lanes.map Prod.fst → raw.extractLsb' (8 * j) 8 = 0#8) ∧
          (l.ext = .raw → v = raw) ∧
          ∀ n, l.ext = .sext n → 0 < n → n ≤ 64 → ∀ i, v.getLsbD i = (decide (i < 64) && raw.getLsbD (min i (n - 1))))) ∧
  (
    ∀ (h : Head) (d : SReg) (b : Base) (o : BitVec 6) (s : State), Spec.Runs s h →
      let stores (i : Instr) (n : Nat) : Prop :=
        let a := (s.baseAddr b + BitVec.ofInt 32 (o.toInt * n)).toNat
        let v := (s.sreg d).toNat % 2 ^ (8 * n)
        let form := decide (4 ≤ n ∧ a % 0x1000 = 0 ∧ 64 ≤ v ∧ v ≤ 1023)
        let check := accessFault s.pre s.preCtx .write form [span a n]
        let bytes (base : Nat) : List (Nat × Byte) :=
          (List.range n).map fun j => (base + j, BitVec.ofNat 8 (v / 2 ^ (8 * j)))
        (check = none → a % n = 0 → a ≤ 0x1FFFFF →
          exec i s = .next (s.gatePush .scalar (.store .lm (bytes a)))) ∧
        (check = none → a % n = 0 → 0x40000000 ≤ a → a ≤ 0x41FFFFFF →
          exec i s = .next (s.gatePush .scalar (.store .sp (bytes (a - 0x40000000))))) ∧
        (check = none → a % n = 0 → 0x70000000 ≤ a → a ≤ 0x7001FFFF →
          exec i s = .next (s.gatePush .scalar
            (.irq (BitVec.ofNat 5 ((a - 0x70000000) / 0x1000)) (BitVec.ofNat 10 v)))) ∧
        (∀ f kd, check = some (f, kd) → exec i s = .next (s.raise 0x0A (BitVec.ofNat 64 (kd * 2 ^ 32 + f % 2 ^ 32)))) ∧
        (check = none → a % n ≠ 0 →
          exec i s = .next (s.raise 0x14 (BitVec.ofNat 64 (3 * 2 ^ 62 + a % 2 ^ 32 * 16 + 1))))
      stores (.stB h d b o) 1 ∧ stores (.stH h d b o) 2 ∧ stores (.stW h d b o) 4 ∧ stores (.stD h d b o) 8)

/-- Before its slots execute, a bundle raises cause 0x07 when, for some kind of entry, the entries of the context that
its executing slots would enter, with those in its buffer and those waiting to drain after this cycle, exceed the
maximum of the kind: the mask marks the slots of the first such kind, detail[1:0] names it, and detail[4:2] marks
every such kind. It raises cause 0x0C, detail 0 and no slot, when the charges of the 512 cycles that end with it
exceed the allowance of its context. A bundle that does neither goes on as it was. A bundle is charged, slot by slot,
its fetch, from the loop buffer or the instruction store, and the item of a nullified slot or the items of R170's
classes and widths, at the voltage step of its domain; when it ends without a trap the charge is added to the energy
accumulator of its context and to the charges of its window, and a suppressed bundle charges nothing. Three clauses
rest on readings of the model and not on R170 or R171 alone: that a nop, an agset and a fence charge their fetch only,
that a slot under q1 charges class 13 as a nullified one, and that a masked access with no enabled lane charges no
access are log entry 21; that the allowance is that of the level held before the capo of the cycle is log entry 22;
that the entries counted leave out those that drain in the same cycle is log entry 26. (R48, R49, R50, R170, R171,
R24, R19, R43, R95) -/
def Obligations.WholeBundleTraps : Prop :=
  ∀ (s : State) (is : List (Nat × Instr)),
    let k := s.pre.core s.iss.cl s.iss.co
    let x := s.preCtx
    let gone := (k.drain.filter fun d => decide (d.since ≤ s.now)).take 2
    let held (g : GKind) : Nat :=
      (k.drain.filter fun d => d.cx == s.iss.cx && d.entry.kind == g && !gone.any fun e => e.entry.id == d.entry.id).length +
        (x.gate.filter fun e => e.kind == g).length
    let enters (g : GKind) : List Nat :=
      (is.filter fun p => entryKind p.2 == some g && !s.nullified p.2).map Prod.fst
    let most : GKind → Nat
      | .scalar => x.gateMax.1
      | .vector => x.gateMax.2.1
      | .command => x.gateMax.2.2
    let exceeds (g : GKind) : Prop := enters g ≠ [] ∧ most g < held g + (enters g).length
    let spent := ((x.charges.filter fun p => decide (s.now < p.1 + 512)).map Prod.snd).sum + s.bundleCharge (is.map Prod.snd)
    let dom := s.pre.dom (domOf s.iss.cl)
    let excess : Prop := (dom.lb.toNat + x.capo.toNat) * dom.wl.toNat < spent
    let next (u : State) : Prop :=
      (excess → s.wholeChecks is = u.raiseMask 0 0x0C 0) ∧ (¬excess → s.wholeChecks is = u)
    let bad (g : GKind) (n : Nat) : Prop := ∃ mask d, next (s.raiseMask mask 0x07 d) ∧
      (∀ j, j < 8 → (mask.getLsbD j = true ↔ j ∈ enters g)) ∧ (d.extractLsb' 0 2).toNat = n ∧ d.extractLsb' 5 59 = 0 ∧
      (d.getLsbD 2 = true ↔ exceeds .scalar) ∧ (d.getLsbD 3 = true ↔ exceeds .vector) ∧ (d.getLsbD 4 = true ↔ exceeds .command)
    (¬exceeds .scalar → ¬exceeds .vector → ¬exceeds .command → next s) ∧
    (exceeds .scalar → bad .scalar 0) ∧ (¬exceeds .scalar → exceeds .vector → bad .vector 1) ∧
    (¬exceeds .scalar → ¬exceeds .vector → exceeds .command → bad .command 2) ∧
    (∀ cls width : Nat, dom.energy cls width =
      if 14 ≤ cls then 0 else ((dom.detab.find (cls * 64 + width * 16 + dom.vcur.toNat)).getD 0).toNat) ∧
    (∀ l : List Instr, s.bundleCharge l = (l.map fun i =>
      dom.energy (if k.buffered s.regs.loops s.iss.baddr = true then 12 else 11) 0 +
        if s.nullified i = true then dom.energy 13 0
        else ((s.slotCharge i).map fun c => c.times * dom.energy c.cls c.width).sum).sum) ∧
    (∀ i f, fieldsOf i = some f →
      (s.nullified i = true ↔ if maskGuarded f.op = true then f.guard = 1 else f.op ≠ 0 ∧ s.regs.pred f.guard = false)) ∧
    (∀ i f, fieldsOf i = some f →
      let op := f.op.toNat
      let items := s.slotCharge i
      (op = 0 ∨ op = 0x69 ∨ op = 0x6E → items = []) ∧
      (1 ≤ op → op ≤ 0x26 → items = [⟨if op = 0x1B ∨ op = 0x1C then 1 else 0, 3, 1⟩]) ∧
      (0x30 ≤ op → op ≤ 0x3B → items = [⟨10, 0, 1⟩]) ∧
      (op = 0x71 ∨ op = 0x73 ∨ op = 0x76 ∨ op = 0x77 → items = [⟨9, 3, 1⟩])) ∧
    (∀ (h : Head) (t : VTy) (d a r : VReg) (y : VSrc) (c : VCond) (n : BitVec 5) (q : BitVec 3),
      let w : Nat := match t with
        | .f32 | .i32 | .n32 => 3
        | .f16 | .bf16 | .i16 | .n16 => 2
        | .i8 | .n8 => 1
      (∀ i ∈ ([.vadd h t d a y, .vsub h t d a y, .vmin h t d a y, .vmax h t d a y, .vabs h t d a, .vneg h t d a,
          .vand h t d a y, .vor h t d a y, .vxor h t d a y, .vshl h t d a y, .vshr h t d a y, .vcmp h t c q a y,
          .vsel h t d a y, .vbcast h t d a n, .vext h t n n a, .vins h t d n n, .vperm h t d a r, .vslide h t d a n] : List Instr),
        s.slotCharge i = [⟨2, w, 1⟩]) ∧
      (∀ i ∈ ([.vmul h t d a y, .vfma h t d a y, .vfnma h t d a y] : List Instr), s.slotCharge i = [⟨3, w, 1⟩]) ∧
      ∀ i ∈ ([.vredSum h t n a, .vredMax h t n a, .vredMin h t n a] : List Instr), s.slotCharge i = [⟨4, w, 1⟩]) ∧
    (∀ (h : Head) (t : FTy) (d a : VReg) (y : VSrc) (sat hf : Bool) (tl : Tile) (n : BitVec 5),
      let w : Nat := if t = .f32 then 3 else 2
      (∀ i ∈ ([.vrcp h t d a, .vrsq h t d a, .vexp2 h t d a, .vlog2 h t d a] : List Instr), s.slotCharge i = [⟨4, w, 1⟩]) ∧
      s.slotCharge (.vscale h t d a y) = [⟨2, w, 1⟩] ∧
      ∀ i ∈ ([.awr h tl hf a n t, .ard h sat d hf tl n t] : List Instr), s.slotCharge i = [⟨9, w, 1⟩]) ∧
    (∀ (h : Head) (t : ETy) (d a r : VReg) (y : VSrc) (n : BitVec 5),
      let w : Nat := match t with
        | .f32 | .i32 => 3
        | .f16 | .bf16 | .i16 => 2
        | .i8 => 1
      ∀ i ∈ ([.viota h t d n, .vmov h t d y, .vpack h t d a r, .vunpk h t d a r] : List Instr), s.slotCharge i = [⟨2, w, 1⟩]) ∧
    (∀ (h : Head) (q : BitVec 3) (a b : QReg) (n : BitVec 5),
      (∀ i ∈ ([.vmskAnd h q a b, .vmskOr h q a b, .vmskXor h q a b, .vmskNot h q a] : List Instr), s.slotCharge i = [⟨2, 0, 1⟩]) ∧
      ∀ i ∈ ([.vmskPopc h n a, .vmskFfs h n a] : List Instr), s.slotCharge i = [⟨4, 0, 1⟩]) ∧
    (let code (bits : Nat) : Nat := if bits ≤ 4 then 0 else if bits ≤ 8 then 1 else if bits ≤ 16 then 2 else 3
      let access (i : Instr) (a w : Nat) : Prop :=
        (a ≤ 0x1FFFFF → s.slotCharge i = [⟨5, w, 1⟩]) ∧
        (0x40000000 ≤ a → a ≤ 0x41FFFFFF → s.slotCharge i = [⟨6, w, 1⟩])
      let place (b : Base) (n : Int) : Nat := (s.baseAddr b + BitVec.ofInt 32 n).toNat
      let kind (k : MKind) : Nat := match k with
        | .f16 | .bf16 => 2
        | .i8 => 1
        | .fm f => if (descFmt (s.regs.fmReg f)).bits ≤ 4 then 0 else 1
      (∀ h f d a, s.slotCharge (.vcvt h f d a) =
        [⟨2, max (code (cvtTypes s.regs f).1.width) (code (cvtTypes s.regs f).2.width), 1⟩]) ∧
      (∀ (h : Head) (d : SReg) (b : Base) (o : BitVec 6),
        (∀ i ∈ ([.ldsB h d b o, .ldzB h d b o, .stB h d b o] : List Instr), access i (place b o.toInt) 1) ∧
        (∀ i ∈ ([.ldsH h d b o, .ldzH h d b o, .stH h d b o] : List Instr), access i (place b (o.toInt * 2)) 2) ∧
        (∀ i ∈ ([.ldsW h d b o, .ldzW h d b o, .stW h d b o] : List Instr), access i (place b (o.toInt * 4)) 3) ∧
        ∀ i ∈ ([.ldsD h d b o, .stD h d b o] : List Instr), access i (place b (o.toInt * 8)) 3) ∧
      (∀ (h : Head) (d : VReg) (b : Base) (n : BitVec 8),
        let q := s.mguard h
        let whole (i : Instr) (b : Base) : Prop := (q = 0 → s.slotCharge i = []) ∧ ∀ j, j < 256 → q.getLsbD j = true →
          (∀ p, p < j → q.getLsbD p = false) → access i (place b (n.toInt * 256) + j) 3
        whole (.vld h d b n) b ∧ whole (.vst h d b n) b ∧ ∀ a, whole (.vldT h d a n) (.sreg a)) ∧
      (∀ (h : Head) (d : VReg) (a b : SReg) (x : VReg) (w : EW),
        let on (e : Nat) := (s.mguard h).getLsbD (ewBytes w * e)
        let each (i : Instr) (addr : Nat → Nat) : Prop :=
          ((∀ e, e < 256 / ewBytes w → on e = false) → s.slotCharge i = []) ∧
          ∀ e, e < 256 / ewBytes w → on e = true → (∀ p, p < e → on p = false) → access i (addr e) (code (8 * ewBytes w))
        (∀ i ∈ ([.vldg h d a b w, .vstg h d a b w] : List Instr), each i (strideAddr (s.sreg a) (s.sreg b))) ∧
        ∀ i ∈ ([.vgath h d a x w, .vscat h d a x w] : List Instr), each i (indexAddr (s.sreg a) (s.vreg x) w)) ∧
      (∀ (h : Head) (l a : BitVec 4) (o : Ord) (w : Bool) (b : BitVec 5),
        ∀ i ∈ ([.amoAdd h l o w a b, .amoMin h l o w a b, .amoMax h l o w a b, .amoAnd h l o w a b, .amoOr h l o w a b,
            .amoXor h l o w a b, .amoSwap h l o w a b, .acas h l o w a b] : List Instr),
          access i ((s.sreg (a.setWidth 6)).toNat % 2 ^ 32) 3) ∧
      (∀ (h : Head) (d a : SReg) (w : Bool) (o : Ord),
        ∀ i ∈ ([.ald h d a w o, .ast h d a w o] : List Instr), access i ((s.sreg a).toNat % 2 ^ 32) 3) ∧
      (∀ (h : Head) (d : SReg) (a : BitVec 5) (n : BitVec 8), access (.ldt h d a n) (place (.sreg a) (n.toInt * 8)) 3) ∧
      (∀ (h : Head) (m : MKind) (a : BitVec 5), ∀ i ∈ ([.mld h m a, .mldSp h m a] : List Instr),
        s.slotCharge i = [⟨8, kind m, if m = .f16 ∨ m = .bf16 then 128 else 64⟩]) ∧
      ∀ (h : Head) (m : MKind) (t : Tile) (a b : BitVec 5), ∃ p : Nat, s.slotCharge (.mma h m t a b) =
        [⟨7, max (kind m) p, (s.sreg (b.setWidth 6)).toNat % 256⟩] ∧
        p = if k.plane.kind = .f16 ∨ k.plane.kind = .bf16 then 2
          else if k.plane.kind = .i8 then 1 else if (descFmt k.plane.desc).bits ≤ 4 then 0 else 1) ∧
    (s.iss.raises ≠ [] → (s.finish is).mach = s.mach) ∧
    (s.iss.raises = [] →
      let c := s.bundleCharge ((is.filter fun p => (fieldsOf p.2).isSome).map Prod.snd)
      let y := (s.finish is).mach.ctx s.ref
      let x := s.mach.ctx s.ref
      y.energy = x.energy + BitVec.ofNat 64 c ∧
      y.charges = x.charges.filter (fun p => decide (s.now < p.1 + 512)) ++ if c = 0 then [] else [(s.now, c)])

/-- Each access touches the enabled byte lanes or elements only. A load that passes its checks and is aligned puts a
result in flight to vD that samples those bytes and lands at c+6 (c+14 from the scratchpad), and at c+8 for vldg and
vgath; vld.t and ldt carry the expected tag of their base register; a store enters one vector store with those bytes,
a vst with no enabled lane one with no byte; under q1, which nullifies its slot (R19, R48), a store enters nothing,
the model's reading beside R153 (log entry 21). A failing byte raises cause 0x0A with the low 32 bits of its address
(log entry 37), a misaligned address cause 0x14. (R153, R154, R155, R116, R151, R19, R48) -/
def Obligations.VectorMemory : Prop :=
  ∀ (h : Head) (d : VReg) (s : State), Spec.Calm s →
    let q := s.mguard h
    let guards (i : Instr) (k : AccessKind) (accs : List (List Nat)) (mis : Option (Nat × Nat)) (t : State) : Prop :=
      let check := accessFault s.pre s.preCtx k false accs
      (check = none → mis = none → exec i s = .next t) ∧
      (∀ f kd, check = some (f, kd) → exec i s = .next (s.raise 0x0A (BitVec.ofNat 64 (kd * 2 ^ 32 + f % 2 ^ 32)))) ∧
      (∀ f r, check = none → mis = some (f, r) →
        exec i s = .next (s.raise 0x14 (BitVec.ofNat 64 (3 * 2 ^ 62 + f % 2 ^ 32 * 16 + r))))
    let lanes (a : Nat) : List (Nat × Nat) := ((List.range 256).filter fun j => q.getLsbD j).map fun j => (j, a + j)
    let odd (a : Nat) : Option (Nat × Nat) := if a % 2 ≠ 0 ∧ lanes a ≠ [] then some (a, 2) else none
    let lat (a : Nat) : Nat := if (lanes a).any fun p => region p.2 = .sp then 14 else 6
    (∀ b (imm : BitVec 8), let a := (s.baseAddr b + BitVec.ofInt 32 (imm.toInt * 256)).toNat
      guards (.vld h d b imm) .load [(lanes a).map Prod.snd] (odd a) (s.loadBytes (lat a) (.v d) q (lanes a) .raw none) ∧
      (∀ sp, (∀ p ∈ lanes a, (spaceOf p.2).1 = sp) → lanes a ≠ [] →
        guards (.vst h d b imm) .write [(lanes a).map Prod.snd] (odd a)
          (s.gatePush .vector (.store sp ((lanes a).map fun p => ((spaceOf p.2).2, vecByte (s.vreg d) p.1))))) ∧
      (lanes a = [] → exec (.vst h d b imm) s =
          .next (if h.guard = 1 then s else s.gatePush .vector (.store .lm [])) ∧
        exec (.vld h d b imm) s = .next s)) ∧
    (∀ r (imm : BitVec 8), let a := (s.baseAddr (.sreg r) + BitVec.ofInt 32 (imm.toInt * 256)).toNat
      guards (.vldT h d r imm) .loadLM [(lanes a).map Prod.snd] (odd a) (s.loadBytes (lat a) (.v d) q (lanes a) .raw
        (some ((s.sreg (r.setWidth 6)).extractLsb' 32 16)))) ∧
    (∀ g r (imm : BitVec 8), s.pguard h = true →
      let a := (s.baseAddr (.sreg r) + BitVec.ofInt 32 (imm.toInt * 8)).toNat
      guards (.ldt h g r imm) .loadLM [span a 8] (if a % 8 ≠ 0 then some (a, 1) else none)
        (s.loadBytes 5 (.s g) (BitVec.allOnes 256) ((List.range 8).map fun j => (j, a + j)) .raw
          (some ((s.sreg (r.setWidth 6)).extractLsb' 32 16)))) ∧
    (∀ (w : EW),
      let n := ewBytes w
      let on (addr : Nat → Nat) : List (Nat × Nat) :=
        ((List.range (256 / n)).filter fun i => elemOn (8 * n) q i).map fun i => (i, addr i)
      let accs (addr : Nat → Nat) : List (List Nat) := (on addr).map fun p => span p.2 n
      let mis (addr : Nat → Nat) : Option (Nat × Nat) :=
        ((on addr).find? fun p => decide (p.2 % n ≠ 0)).map fun p => (p.2, 3)
      let load (addr : Nat → Nat) : State := s.loadBytes 8 (.v d) (elemMask (8 * n) q)
        ((on addr).flatMap fun p => (List.range n).map fun j => (p.1 * n + j, p.2 + j)) .raw none
      let store (addr : Nat → Nat) : State := if h.guard = 1 then s else s.gatePush .vector (.store .lm
        ((on addr).flatMap fun p => (List.range n).map fun j => (p.2 + j, vecByte (s.vreg d) (p.1 * n + j))))
      (∀ a b, let addr (i : Nat) : Nat := ((s.sreg a).toNat + i * (s.sreg b).toNat) % 2 ^ 32
        guards (.vldg h d a b w) .loadLM (accs addr) (mis addr) (load addr) ∧
        guards (.vstg h d a b w) .writeLM (accs addr) (mis addr) (store addr)) ∧
      (∀ a b, let addr (i : Nat) : Nat := ((s.sreg a).toNat + elem (8 * n) (s.vreg b) i * n) % 2 ^ 32
        guards (.vgath h d a b w) .loadLM (accs addr) (mis addr) (load addr) ∧
        guards (.vscat h d a b w) .writeLM (accs addr) (mis addr) (store addr)))

/-- An executing local atomic that passes its checks and is aligned makes its region unrestartable. Except with a
release ordering it then performs at c+2 in LM, or at its bank at c+7, with the operation, operand and expected value
read at issue, and puts the old value in flight to its destination, landing at c+5 or c+13, where it has one. With a
release ordering it commits the gating buffer, whose entries reach the drain in order, and when the bundle ends its
release atomics follow as the last entries of the commit. The operations are those of R159 to R161: addition modulo
2^8n, signed minimum and maximum, and, or, exclusive or, exchange and compare-and-exchange. An atomic that performs in
LM reads the number that its bytes hold, writes what its operation makes of it, or its value, or nothing for ald, and
gives its result, where it has one, that old number extended by its sign. (R158, R159, R160, R161, R157) -/
def Obligations.LocalAtomics : Prop :=
  ∀ (h : Head) (s : State), Spec.Runs s h →
    let queued (m t : Mach) (es : List Entry) : Prop := ∃ items : List DrainItem,
      (t.core s.iss.cl s.iss.co).drain = (m.core s.iss.cl s.iss.co).drain ++ items ∧ items.map DrainItem.entry = es ∧
      ∀ d ∈ items, d.cx = s.iss.cx ∧ d.since = m.cyc s.iss.cl + 1
    let drained (m t : Mach) : Prop := (t.ctx s.ref).gate = [] ∧ queued m t (m.ctx s.ref).gate
    (∀ is, queued s.mach (s.finish is).mach s.iss.rels) ∧
    (∀ n old v e, n = 4 ∨ n = 8 → old < 2 ^ (8 * n) → v < 2 ^ (8 * n) → e < 2 ^ (8 * n) →
      let int (x : Nat) : Int := (BitVec.ofNat (8 * n) x).toInt
      let least (r a b : Nat) : Prop := (r = a ∨ r = b) ∧ int r ≤ int a ∧ int r ≤ int b
      applyOp .add n old v e = (old + v) % 2 ^ (8 * n) ∧ least (applyOp .min n old v e) old v ∧
      (applyOp .max n old v e = old ∨ applyOp .max n old v e = v) ∧ int old ≤ int (applyOp .max n old v e) ∧
      int v ≤ int (applyOp .max n old v e) ∧
      (∀ i, (applyOp .and n old v e).testBit i = (old.testBit i && v.testBit i) ∧
        (applyOp .or n old v e).testBit i = (old.testBit i || v.testBit i) ∧
        (applyOp .xor n old v e).testBit i = (old.testBit i != v.testBit i)) ∧
      applyOp .swap n old v e = v ∧ (old = e → applyOp .cas n old v e = v) ∧ (old ≠ e → applyOp .cas n old v e = old)) ∧
    (∀ (cl : ClusterId) (co : CoreId) (u : State) (p : AtomicDue) (old : Nat),
      let a := p.a
      let k := u.mach.core cl co
      let r : CtxRef := ⟨cl, co, a.cx⟩
      let t := u.performAtomics cl co
      let w := 2 ^ (8 * a.n)
      let byte (m : Mach) (i : Nat) : Byte := ((m.core cl co).lm.byte (some 0) (a.addr + i)).getD 0
      k.atomics = [p] → p.due ≤ u.mach.cyc cl → a.space = .lm → (a.n = 4 ∨ a.n = 8) → k.lm.wf (some 0) = true →
      u.mach.badByte cl co .lm (span a.addr a.n) = none → Spec.Holds (byte u.mach) a.n old →
      (t.mach.core cl co).atomics = [] ∧
      (∀ op, a.kind = .rmw op → Spec.Holds (byte t.mach) a.n (applyOp op a.n old (a.val.toNat % w) (a.exp.toNat % w))) ∧
      (a.kind = .store → Spec.Holds (byte t.mach) a.n (a.val.toNat % w)) ∧
      (a.kind = .load → (t.mach.core cl co).lm = k.lm) ∧
      (∀ x, x < a.addr ∨ a.addr + a.n ≤ x → (t.mach.core cl co).lm.byte (some 0) x = k.lm.byte (some 0) x) ∧
      (t.mach.ctx r).inflight = (match a.res with
        | none => (u.mach.ctx r).inflight
        | some id => (u.mach.ctx r).inflight.map fun f => if f.id = id then
            { f with val := (Spec.signed a.n old).setWidth 2048, ready := true } else f) ∧
      (∀ id, a.eff = some id → ∀ o ∈ t.mach.pk.outs, o.id ≠ id) ∧ Spec.SameRegs u.mach t.mach ∧
      Spec.OtherCores cl co u.mach t.mach ∧ ∀ c, (t.mach.cluster c).scratch = (u.mach.cluster c).scratch) ∧
    let performs (i : Instr) (kind : AKind) (o : Ord) (w : Bool) (acc : AccessKind) (ad val exp : Word)
        (dest : Option SReg) : Prop :=
      let n := if w then 8 else 4
      let a := ad.toNat % 2 ^ 32
      let check := accessFault s.pre s.preCtx acc false [span a n]
      let u := s.modCtx fun x => { x with unrestartable := true }
      let atom (res eff : Option Nat) : Atomic :=
        { kind := kind, n := n, space := (spaceOf a).1, addr := (spaceOf a).2, val := val, exp := exp, res := res,
          cx := s.iss.cx, baddr := s.iss.baddr, slot := s.iss.slot, eff := eff }
      let sends (v : State) (res : Option Nat) : State :=
        if region a = .sp then v.modMach fun m => m.modCluster s.iss.cl fun c =>
          { c with bank := c.bank ++ [⟨s.now + 7, s.now, s.iss.co, s.iss.cx, [], some (atom res none), none⟩] }
        else v.modCore fun k => { k with atomics := k.atomics ++ [⟨s.now + 2, s.iss.co, atom res none, s.now⟩] }
      (check = none → a % n = 0 → o ≠ .rel → dest = none → exec i s = .next (sends u none)) ∧
      (∀ d, check = none → a % n = 0 → o ≠ .rel → dest = some d →
        let p := u.await (if region a = .sp then 13 else 5) (.s d) (BitVec.allOnes 256)
        exec i s = .next (sends p.2 (some p.1))) ∧
      (check = none → a % n = 0 → o = .rel → ∃ t, exec i s = .next t ∧ t.iss.commit = true ∧ drained s.mach t.mach ∧
        (t.mach.ctx s.ref).marking = true ∧ (t.mach.ctx s.ref).unrestartable = true ∧ ∃ id, t.iss.rels = s.iss.rels ++
          [⟨id, .scalar, .atomic (atom none (some id)), s.now, s.iss.baddr, s.iss.slot⟩]) ∧
      (∀ f kd, check = some (f, kd) → exec i s = .next (s.raise 0x0A (BitVec.ofNat 64 (kd * 2 ^ 32 + f % 2 ^ 32)))) ∧
      (check = none → a % n ≠ 0 →
        exec i s = .next (s.raise 0x14 (BitVec.ofNat 64 (3 * 2 ^ 62 + a % 2 ^ 32 * 16 + 1))))
    (∀ (l : BitVec 4) (o : Ord) (w : Bool) (a : BitVec 4) (b : BitVec 5),
      let ad := s.sreg (a.setWidth 6)
      let v := s.sreg (b.setWidth 6)
      let d : Option SReg := if o = .com ∨ o = .qnt ∨ o = .rel then none else some (l.setWidth 6)
      performs (.amoAdd h l o w a b) (.rmw .add) o w .write ad v 0 d ∧
      performs (.amoMin h l o w a b) (.rmw .min) o w .write ad v 0 d ∧
      performs (.amoMax h l o w a b) (.rmw .max) o w .write ad v 0 d ∧
      performs (.amoAnd h l o w a b) (.rmw .and) o w .write ad v 0 d ∧
      performs (.amoOr h l o w a b) (.rmw .or) o w .write ad v 0 d ∧
      performs (.amoXor h l o w a b) (.rmw .xor) o w .write ad v 0 d ∧
      performs (.amoSwap h l o w a b) (.rmw .swap) o w .write ad v 0 d ∧
      performs (.acas h l o w a b) (.rmw .cas) o w .write ad v (s.sreg (l.setWidth 6))
        (if o = .rel then none else some (l.setWidth 6))) ∧
    (∀ (d a : SReg) (w : Bool) (o : Ord),
      performs (.ald h d a w o) .load o w .load (s.sreg a) 0 0 (some d) ∧
      performs (.ast h d a w o) .store o w .write (s.sreg a) (s.sreg d) 0 none)

/-- An executing fence places an ordering point of its context with its kinds and scope, which waits for every effect
of those kinds that the context had committed and not performed, and for those that its own commit adds; it commits
every entry of the gating buffer to the drain, in order and none before the next cycle, and its bundle is a mark. It
writes no register and no memory. (R162, R273, R49) -/
def Obligations.FencePoint : Prop :=
  ∀ (h : Head) (kinds : BitVec 5) (scope : FScope) (s : State), Spec.Runs s h →
    ∃ t, exec (.fence h kinds scope) s = .next t ∧ t.iss.commit = true ∧
      t.iss.fences = s.iss.fences ++ [(s.mach.nextId, kinds)] ∧
      (t.mach.ctx s.ref).gate = [] ∧ (t.mach.ctx s.ref).marking = true ∧
      (∃ items : List DrainItem,
        (t.mach.core s.iss.cl s.iss.co).drain = (s.mach.core s.iss.cl s.iss.co).drain ++ items ∧
        items.map DrainItem.entry = (s.mach.ctx s.ref).gate ∧
        ∀ d ∈ items, d.cx = s.iss.cx ∧ d.since = s.mach.cyc s.iss.cl + 1) ∧
      Spec.SameRegs s.mach t.mach ∧ Spec.SameMemory s.mach t.mach ∧
      (∀ o ∈ s.mach.pk.outs, o.ctx = s.ref → kindIn kinds o.kind = true →
        ∃ f ∈ t.mach.pk.fences, f.id = s.mach.nextId ∧ f.ctx = s.ref ∧ f.scope = scope ∧ f.only = false ∧ o.id ∈ f.waits) ∧
      (∀ e ∈ (s.mach.ctx s.ref).gate, ∀ k, e.eff.fenceKind = some k → kindIn kinds k = true →
        (∃ f ∈ t.mach.pk.fences, f.id = s.mach.nextId ∧ e.id ∈ f.waits) ∧
        ∃ o ∈ t.mach.pk.outs, o.id = e.id ∧ o.ctx = s.ref ∧ o.kind = k)

/-- An executing cpy enters one command entry that holds sT, the two layout records of eight registers each, the
channel and the cluster's frzowed, all as read at c. An executing famo enters one command entry that holds its
operation, ordering, size, address sA, operand sB, compare value sB+1 and, unless it is s0, the result address sL. An
executing pool, qop or scope slot enters one command entry that holds its operation and the registers that it names as
read at c; a pool command says whether it names a result register other than s0; qop.push holds bytes 0 to 63 of its
vector. (R250, R256, R257, R48, R262, R289, R291) -/
def Obligations.CommandSlots : Prop :=
  (
    ∀ (h : Head) (s : State), Spec.Runs s h →
      let enters (i : Instr) (c : Cmd) : Prop := exec i s = .next (s.gatePush .command (.cmd c))
      let eight (k : BitVec 3) : List Word := (List.range 8).map fun j => s.sreg (BitVec.ofNat 6 (8 * k.toNat + j))
      (∀ t kd ks ch, enters (.cpy h t kd ks ch)
        (.cpy (s.sreg t) (eight kd) (eight ks) ch (s.pre.cluster s.iss.cl).frzowed)) ∧
      (∀ (l : BitVec 4) (o : Ord) (w : Bool) (a : BitVec 4) (b : BitVec 5),
        let c (op : AOp) : Cmd := .famo op o (if w then 8 else 4) (s.sreg (a.setWidth 6)) (s.sreg (b.setWidth 6))
          (s.sreg (BitVec.ofNat 6 (b.toNat + 1))) (if l = 0 then none else some (s.sreg (l.setWidth 6)))
        enters (.famoAdd h l o w a b) (c .add) ∧ enters (.famoMin h l o w a b) (c .min) ∧
        enters (.famoMax h l o w a b) (c .max) ∧ enters (.famoAnd h l o w a b) (c .and) ∧
        enters (.famoOr h l o w a b) (c .or) ∧ enters (.famoXor h l o w a b) (c .xor) ∧
        enters (.famoSwap h l o w a b) (c .swap) ∧ enters (.famoCas h l o w a b) (c .cas))) ∧
  (
    ∀ (h : Head) (s : State), Spec.Runs s h →
      let enters (i : Instr) (c : Cmd) : Prop := exec i s = .next (s.gatePush .command (.cmd c))
      (∀ d a, let c (op : PoolOp) : Cmd := .pool op (s.sreg a) (s.sreg d) (decide (d ≠ 0))
        enters (.poolAcqw h d a) (c .acqw) ∧ enters (.poolPub h d a) (c .pub) ∧ enters (.poolPin h d a) (c .pin) ∧
        enters (.poolGen h d a) (c .gen) ∧ enters (.poolPubAfter h d a) (c .pubAfter) ∧
        enters (.poolUnpin h a) (.pool .unpin (s.sreg a) 0 false)) ∧
      (∀ d v, enters (.qopPush h d v) (.qpush (s.sreg d) ((List.range 64).map fun j => vecByte (s.vreg v) j))) ∧
      (∀ d a, enters (.qopPop h d a) (.qpop (s.sreg a) (s.sreg d)) ∧
        enters (.qopCount h d a) (.qcount (s.sreg a) (s.sreg d))) ∧
      (∀ a, enters (.scopeOpen h a) (.scope true (s.sreg a)) ∧ enters (.scopeClose h a) (.scope false (s.sreg a))))

/-- An executing txt, sio or net slot enters one command entry that holds its parameter registers as read at c, its
flag and its channel. evt.post enters the code, context and detail when its target is bound to the issuing context's
image, and else raises cause 0x0A kind 6; evt.irq enters the cluster and identity, and raises cause 0x0A kind 3 for a
cluster outside the partition, then kind 4 for an identity below 64. (R301, R319, R176, R177, R48) -/
def Obligations.PortCommands : Prop :=
  ∀ (h : Head) (s : State), Spec.Runs s h →
    let enters (i : Instr) (c : Cmd) : Prop := exec i s = .next (s.gatePush .command (.cmd c))
    let r (n : Nat) : Word := s.sreg (BitVec.ofNat 6 n)
    (∀ d (p a : BitVec 5),
      let c (tok : Bool) : Cmd :=
        .txt tok (if d = 0 then none else some (s.sreg d)) (r (2 * p.toNat)) (r (2 * p.toNat + 1)) (r a.toNat)
      enters (.txtOut h d p a) (c false) ∧ enters (.txtTok h d p a) (c true)) ∧
    (∀ (p : BitVec 5) fua ch,
      enters (.sioRd h p ch) (.sio .rd (r (2 * p.toNat)) (r (2 * p.toNat + 1)) false ch) ∧
      enters (.sioWr h p fua ch) (.sio .wr (r (2 * p.toNat)) (r (2 * p.toNat + 1)) fua ch) ∧
      enters (.sioFlush h ch) (.sio .flush 0 0 false ch)) ∧
    (∀ (q : BitVec 4) ord ch, let g := (List.range 4).map fun j => r (4 * q.toNat + j)
      enters (.netSend h q ord ch) (.net .send g ord ch) ∧ enters (.netWrite h q ord ch) (.net .write g ord ch) ∧
      enters (.netRead h q ch) (.net .read g false ch)) ∧
    (∀ a b, let w := s.sreg a
      let target : CtxId := w.extractLsb' 8 3
      (s.pre.eventTarget s.ref target = true → enters (.evtPost h a b)
        (.evtPost (w.extractLsb' 0 7) target ((s.sreg b).extractLsb' 0 32))) ∧
      (s.pre.eventTarget s.ref target = false →
        exec (.evtPost h a b) s = .next (s.raise 0x0A (BitVec.ofNat 64 (6 * 2 ^ 32 + target.toNat))))) ∧
    (∀ a, let w := s.sreg a
      let cl : ClusterId := w.extractLsb' 0 5
      let ident : BitVec 10 := w.extractLsb' 16 10
      let detail (kind : Nat) : Word := BitVec.ofNat 64 (kind * 2 ^ 32 + 0x70000000 + 0x1000 * cl.toNat)
      (s.pre.pk.clusterIn s.preCtx.part cl = true → 64 ≤ ident.toNat → enters (.evtIrq h a) (.evtIrq cl ident)) ∧
      (s.pre.pk.clusterIn s.preCtx.part cl = false → exec (.evtIrq h a) s = .next (s.raise 0x0A (detail 3))) ∧
      (s.pre.pk.clusterIn s.preCtx.part cl = true → ident.toNat < 64 →
        exec (.evtIrq h a) s = .next (s.raise 0x0A (detail 4))))

/-- An executing brg.push on tier L with the FIFO available enters one command with the value of its vector. An
executing brg.pop on tier U, with the FIFO available, no other holder of uncommitted pops and more entries counted
than pops outstanding, puts the entry at position u from the head in flight to vD, available at c+4, counts one more
pop outstanding and enters one command. Else cause 0x05 is raised with kind 3, then 2, then 0 and the count read. An
executing xsnd sends its register, read at c, to core j: it arrives in cycle c + L(i, j) and is not gated; outside a
gang the region becomes unrestartable. An executing xrcv whose latch holds a value of its kind in this cycle puts it
in flight to its register, available at c+1; an empty latch or a value of the other kind raises cause 0x06 with the
stated detail. (R220, R221, R212, R213, R53) -/
def Obligations.BridgeAndTimedTransfers : Prop :=
  (
    ∀ (h : Head) (v : VReg) (s : State), Spec.Runs s h →
      let k := s.pre.core s.iss.cl s.iss.co
      let ok := s.pre.bridgeOk s.ref
      let upper := s.iss.cl.getLsbD 4
      let held : Prop := ∃ c, c ≠ s.iss.cx ∧ ∃ e ∈ (k.ctx c).gate, e.eff = .cmd .brgPop
      let raises (i : Instr) (kind cnt : Nat) : Prop :=
        exec i s = .next (s.raise 0x05 (BitVec.ofNat 64 (kind + cnt * 2 ^ 16)))
      (upper = true ∨ ok = false → raises (.brgPush h v) 3 0) ∧
      (upper = false → ok = true →
        exec (.brgPush h v) s = .next (s.gatePush .command (.cmd (.brgPush (s.vreg v))))) ∧
      (upper = false ∨ ok = false → raises (.brgPop h v) 3 0) ∧
      (upper = true → ok = true → held → raises (.brgPop h v) 2 0) ∧
      (upper = true → ok = true → ¬held → k.bridge.consHeld ≤ k.bridge.u → raises (.brgPop h v) 0 k.bridge.consHeld) ∧
      (upper = true → ok = true → ¬held → k.bridge.u < k.bridge.consHeld →
        ∀ val, k.bridge.fifo[k.bridge.u]? = some val →
          exec (.brgPop h v) s = .next
            (((s.result 4 (.v v) val (BitVec.allOnes 256) 0).modCore fun k =>
              { k with bridge := { k.bridge with u := k.bridge.u + 1 } }).gatePush .command (.cmd .brgPop)))) ∧
  (
    (∀ i j : CoreId, transferTime i j = 4 + 2 * (max (i.toNat % 4) (j.toNat % 4) - min (i.toNat % 4) (j.toNat % 4)) +
      (if i.toNat / 4 = j.toNat / 4 then 0 else 1)) ∧
    ∀ (h : Head) (s : State), Spec.Runs s h →
      let sends (i : Instr) (j : CoreId) (vec : Bool) (val : Vec) : Prop :=
        let u := s.modMach fun m => m.modCluster s.iss.cl fun c => { c with arrivals := c.arrivals ++
          [⟨s.now + transferTime s.iss.co j, s.iss.co, j, vec, val, s.iss.cx, s.now⟩] }
        (s.preCtx.gang ≠ none → exec i s = .next u) ∧
        (s.preCtx.gang = none → exec i s = .next (u.modCtx fun x => { x with unrestartable := true }))
      let takes (i : Instr) (n : CoreId) (vec : Bool) (d : RegDest) : Prop :=
        let detail (found : Nat) : Word := BitVec.ofNat 64 (n.toNat + (if vec then 8 else 0) + 16 * found)
        let latch := (s.pre.core s.iss.cl s.iss.co).latches.find n.toNat
        (∀ val, latch = some (vec, val) → exec i s = .next (s.result 1 d val (BitVec.allOnes 256) 0)) ∧
        (∀ val, latch = some (!vec, val) → exec i s = .next (s.raise 0x06 (detail 1))) ∧
        (latch = none → exec i s = .next (s.raise 0x06 (detail 0)))
      (∀ j a, sends (.xsndScalar h j a) j false ((s.sreg a).setWidth 2048)) ∧
      (∀ j a, sends (.xsndVector h j a) j true (s.vreg a)) ∧
      (∀ d i, takes (.xrcvScalar h d i) i false (.s d)) ∧ (∀ d i, takes (.xrcvVector h d i) i true (.v d)))

/-- A commit point of a bound context outside a gang captures, after its cycle m, the registers, the pc and the
results in flight, counted from m+1, and ends the region; a release captures the same for the task, settled when its
first bundle issues: results due earlier have landed, in their order, and the others keep their offsets (log entry
36). A rollback in cycle d restores exactly that set: the registers, the pc, the captured results at d+4 and their
offsets, or in the snapshot when the context does not run; the gating buffer is empty and the pops in it count no
more, while committed entries keep draining. A mark whose bundle transferred control to an invalid target keeps that
target, and the context resumes by raising its trap (log entry 36). A trap that the context absorbs by retry is that
rollback with one retry less. (R51, R52, R53, R55, R56, R178) -/
def Obligations.Rollback : Prop :=
  (∀ (x : Context) (c : Nat), x.gang = none → x.marking = true → x.bound = true →
    let y := x.takeMark c
    y.shadow = some ⟨x.regs, x.pc, c + 1, x.inflight, x.loads, false, x.badTarget⟩ ∧ y.markAt = some c ∧
    y.unrestartable = false ∧ y.regs = x.regs ∧ y.pc = x.pc ∧ y.inflight = x.inflight ∧ y.gate = x.gate) ∧
  (∀ (x : Context) (c time base : Nat),
    let y := x.released c time base
    y.shadow = some ⟨x.regs, x.pc, base, x.inflight, x.loads, true, none⟩ ∧ y.retry = x.retryInit ∧
    y.unrestartable = false) ∧
  (∀ (h : Shadow) (base : Nat),
    (h.settle base).base = base ∧ (h.settle base).pc = h.pc ∧ (h.settle base).release = h.release ∧
    (h.settle base).inflight = h.inflight.filter (fun r => decide (base ≤ r.due)) ∧
    ((∀ r ∈ h.inflight, base ≤ r.due) → (h.settle base).regs = h.regs) ∧
    ∀ r q, h.inflight = [r, q] → r.due < q.due → q.due < base → r.ready = true → q.ready = true →
      (h.settle base).regs = (h.regs.landResult r).landResult q) ∧
  (∀ (m : Mach) (r : CtxRef) (h : Shadow),
    let k := m.core r.cl r.co
    let x := m.ctx r
    let d := m.cyc r.cl
    let t := m.rollbackCtx r
    let y := t.ctx r
    x.shadow = some h →
    y.regs = h.regs ∧ y.pc = h.pc ∧ y.gate = [] ∧ y.nextIssue = d + 4 ∧ y.first = h.release ∧
    y.badTarget = h.bad ∧ y.shadow = some h ∧ y.unrestartable = false ∧ y.energy = x.energy ∧ y.count = x.count ∧
    y.loads = x.loads.filter (fun l => h.inflight.any fun f => f.id == l.id) ∧
    (k.running = some r.cx → y.snap = none ∧
      y.inflight = h.inflight.map fun f => { f with due := f.due - h.base + (d + 4) }) ∧
    (k.running ≠ some r.cx → y.snap = some ⟨h.base, h.inflight⟩ ∧ y.inflight = []) ∧
    (t.core r.cl r.co).drain = k.drain ∧ (t.core r.cl r.co).bridge.fifo = k.bridge.fifo ∧
    (t.core r.cl r.co).bridge.u = k.bridge.u - (x.gate.filter fun e => decide (e.eff = .cmd .brgPop)).length ∧
    Spec.OtherContexts r m t ∧ Spec.SameMemory m t ∧ t.pk = m.pk) ∧
  ∀ (m : Mach) (t : Trap) (cause : BitVec 8),
    contain (m.ctx t.ctx).gang.isSome t.pos (m.levels t) t.cause = (.context, .retry, cause) →
    ∃ u, (m.trap t) = (u.modCtx t.ctx fun x => { x with retry := x.retry - 1 }).rollbackCtx t.ctx ∧
      cause = t.cause ∧ Spec.SameMemory m u ∧ u.pk = m.pk ∧ ∀ r, u.ctx r = m.ctx r

/-- A vector result under the mask guard, with a lane value and flags for each element, is one result in flight to vD:
its byte lanes are those of the enabled elements; the value of each enabled element is the lane's, cut to the width;
its flags are the flags of the enabled elements together. In a suppressed bundle nothing is put in flight. (R96, R91,
R95) -/
def Obligations.VectorResults : Prop :=
  ∀ (h : Head) (lat : Nat) (d : VReg) (w : Nat) (f : Nat → Lane) (s : State), w = 8 ∨ w = 16 ∨ w = 32 →
    (s.iss.raises ≠ [] → s.vecResult h lat d w f = s) ∧
    (Spec.Calm s → ∃ (val : Vec) (en : Mask) (fl : Flags), s.vecResult h lat d w f = s.result lat (.v d) val en fl ∧
      (∀ i, i < 2048 / w → elemOn w (s.mguard h) i = true → elem w val i = (f i).1 % 2 ^ w) ∧
      (∀ j, j < 256 → en.getLsbD j = elemOn w (s.mguard h) (8 * j / w)) ∧
      (∀ n, n < 5 → (fl.getLsbD n = true ↔
        ∃ i, i < 2048 / w ∧ elemOn w (s.mguard h) i = true ∧ (f i).2.getLsbD n = true)))

/-- A float element takes the exact sum, difference, product or fused product of the operands' values, rounded once by
vrm, with the flags of the operation and of the rounding; an integer element wraps modulo 2^w. vmin and vmax order
integers by their reading. vabs and vneg of an integer are modulo 2^w, and of a float act on the sign. The results
land at c+3, and at c+5 for the multiplications. The exact sum, product, fused product and minimum are those of the
operands' values, with the NaN, infinity and zero-sign rows of R92, R99 and R100; FloatRounding says how a value is
rounded. (R99, R100, R101, R91, R92) -/
def Obligations.VectorArithmetic : Prop :=
  (∀ (r : RMode) (g big : Bool) (x y z : Machine.Num),
    let nv : Flags := if x.isSnan = true ∨ y.isSnan = true then flagNV else 0
    let clash : Prop := x.isZero = true ∧ y.isInf = true ∨ x.isInf = true ∧ y.isZero = true
    let less : Prop := fcmp x y < 0 ∨ fcmp x y = 0 ∧ x.negative = true ∧ y.negative = false
    (x.isNan = true ∨ y.isNan = true → fadd r x y = (.nan false, nv) ∧ fmul x y = (.nan false, nv)) ∧
    (clash → ffma r g x y z = (.nan false, flagNV)) ∧
    (¬clash → x.isNan = true ∨ y.isNan = true ∨ z.isNan = true →
      ffma r g x y z = (.nan false, if z.isSnan = true then flagNV else nv)) ∧
    (¬clash → x.isNan = false → y.isNan = false → z.isNan = false →
      ffma r g x y z = fadd r (if g = true then (fmul x y).1.neg else (fmul x y).1) z) ∧
    (x.isNan = false → y.isNan = false →
      (less → fminmax big x y = (if big = true then y else x, 0)) ∧
      (¬less → fminmax big x y = (if big = true then x else y, 0))) ∧
    (x.isNan = true → y.isNan = false → fminmax big x y = (y, nv)) ∧
    (x.isNan = false → y.isNan = true → fminmax big x y = (x, nv)) ∧
    (x.isNan = true → y.isNan = true → fminmax big x y = (.nan false, nv))) ∧
  (∀ (r : RMode) (a b : Bool),
    fadd r (.inf a) (.inf b) = (if a = b then (.inf a, 0) else (.nan false, flagNV)) ∧
    fmul (.inf a) (.inf b) = (.inf (a != b), 0) ∧
    (fcmp (.inf a) (.inf b) = if a = b then 0 else if a = true then -1 else 1) ∧
    ∀ n m e, fadd r (.inf a) (.fin n m e) = (.inf a, 0) ∧ fadd r (.fin n m e) (.inf a) = (.inf a, 0) ∧
      fmul (.inf a) (.fin n m e) = (if m = 0 then (.nan false, flagNV) else (.inf (a != n), 0)) ∧
      fmul (.fin n m e) (.inf a) = (if m = 0 then (.nan false, flagNV) else (.inf (n != a), 0)) ∧
      (fcmp (.inf a) (.fin n m e) = if a = true then -1 else 1) ∧
      (fcmp (.fin n m e) (.inf a) = if a = true then 1 else -1)) ∧
  (∀ (r : RMode) (n k : Bool) (m p : Nat) (e g : Int),
    let u : Machine.Num := .fin n m e
    let v : Machine.Num := .fin k p g
    let s := fadd r u v
    s.2 = 0 ∧ Spec.Finite s.1 ∧ Spec.val s.1 = Spec.val u + Spec.val v ∧
    (Spec.val u + Spec.val v = 0 → s.1.negative = if m = 0 ∧ p = 0 ∧ n = k then n else decide (r = .down)) ∧
    (fmul u v).2 = 0 ∧ Spec.Finite (fmul u v).1 ∧ Spec.val (fmul u v).1 = Spec.val u * Spec.val v ∧
    (fmul u v).1.negative = (n != k) ∧ Spec.val u.neg = -Spec.val u ∧
    (fcmp u v < 0 ↔ Spec.val u < Spec.val v) ∧ (fcmp u v = 0 ↔ Spec.val u = Spec.val v)) ∧
  (∀ (t : VTy) (fm : Fmt) (c : Nat), vtyFloat t = some fm →
    let X := fm.unpack c
    (X.isNan = true → ∀ b, vSign b t c = ((2 ^ fm.e - 1) * 2 ^ fm.m + 2 ^ (fm.m - 1),
      if X.isSnan = true then flagNV else 0)) ∧
    (X.isNan = false → (vSign true t c).2 = 0 ∧ (vSign false t c).2 = 0 ∧ fm.unpack (vSign true t c).1 = X.neg ∧
      fm.unpack (vSign false t c).1 = if X.negative = true then X.neg else X)) ∧
  ∀ (h : Head) (t : VTy) (d a : VReg) (b : VSrc) (s : State), Spec.Calm s →
    let w := vtyBits t
    let x (i : Nat) := elem w (s.vreg a) i
    let y (i : Nat) := elem w (s.vsrc w b) i
    let z (i : Nat) := elem w (s.vreg d) i
    let lands (i : Instr) (lat : Nat) (f : Nat → Lane) : Prop := exec i s = .next (s.vecResult h lat d w f)
    let cut (n : Int) : Lane := ((n % 2 ^ w).toNat, 0)
    let value (i : Nat) : Int := readInt (vtyNat t) w i
    (∀ fm, vtyFloat t = some fm →
      let X (i : Nat) := fm.unpack (x i)
      let Y (i : Nat) := fm.unpack (y i)
      let Z (i : Nat) := fm.unpack (z i)
      let r := s.rmode
      lands (.vadd h t d a b) 3 (fun i => roundLane fm r (fadd r (X i) (Y i))) ∧
      lands (.vsub h t d a b) 3 (fun i => roundLane fm r (fadd r (X i) (Y i).neg)) ∧
      lands (.vmul h t d a b) 5 (fun i => roundLane fm r (fmul (X i) (Y i))) ∧
      lands (.vfma h t d a b) 5 (fun i => roundLane fm r (ffma r false (X i) (Y i) (Z i))) ∧
      lands (.vfnma h t d a b) 5 (fun i => roundLane fm r (ffma r true (X i) (Y i) (Z i))) ∧
      lands (.vmin h t d a b) 3 (fun i => let p := fminmax false (X i) (Y i); ((fm.pack .nearest p.1).1, p.2)) ∧
      lands (.vmax h t d a b) 3 (fun i => let p := fminmax true (X i) (Y i); ((fm.pack .nearest p.1).1, p.2)) ∧
      lands (.vabs h t d a) 3 (fun i => vSign false t (x i)) ∧ lands (.vneg h t d a) 3 (fun i => vSign true t (x i))) ∧
    (vtyFloat t = none →
      lands (.vadd h t d a b) 3 (fun i => cut (x i + y i)) ∧ lands (.vsub h t d a b) 3 (fun i => cut (x i - y i)) ∧
      lands (.vmul h t d a b) 5 (fun i => cut (x i * y i)) ∧ lands (.vfma h t d a b) 5 (fun i => cut (x i * y i + z i)) ∧
      lands (.vfnma h t d a b) 5 (fun i => cut (z i - x i * y i)) ∧
      lands (.vmin h t d a b) 3 (fun i => (if value (x i) < value (y i) then x i else y i, 0)) ∧
      lands (.vmax h t d a b) 3 (fun i => (if value (x i) < value (y i) then y i else x i, 0)) ∧
      lands (.vabs h t d a) 3 (fun i => cut |(BitVec.ofNat w (x i)).toInt|) ∧
      lands (.vneg h t d a) 3 (fun i => cut (-(BitVec.ofNat w (x i)).toInt)))

/-- The logical instructions act on the element bits and set no flag; a shift of the full width or more gives 0, or
all sign bits for the signed vshr. vsel takes vA where the guard enables and operand b elsewhere, in every element.
vmsk.and, or, xor and not write the enabled bits of a mask pair, at c+1; vmsk.popc and vmsk.ffs put the number and the
least of the enabled set bits, or 256, in flight to sD, at c+8. Each writes the stated element of its sources, or bits
of its scalar, to each enabled element and sets no flag, at c+3 (vperm, vslide, vpack and vunpk at c+4); vext puts an
element, extended by its reading, in flight to sD at c+3 and writes nothing when that element is not enabled; vins
writes element sA mod N alone, when it is enabled. (R102, R104, R105, R111, R112, R113, R114) -/
def Obligations.VectorLogicAndMoves : Prop :=
  (
    ∀ (h : Head) (t : VTy) (d a : VReg) (b : VSrc) (s : State), Spec.Calm s →
      let w := vtyBits t
      let x (i : Nat) := elem w (s.vreg a) i
      let y (i : Nat) := elem w (s.vsrc w b) i
      let lands (i : Instr) (f : Nat → Nat) : Prop := exec i s = .next (s.vecResult h 3 d w fun j => (f j, 0))
      lands (.vand h t d a b) (fun i => x i &&& y i) ∧ lands (.vor h t d a b) (fun i => x i ||| y i) ∧
      lands (.vxor h t d a b) (fun i => x i ^^^ y i) ∧
      lands (.vshl h t d a b) (fun i => if w ≤ y i then 0 else x i * 2 ^ y i % 2 ^ w) ∧
      (vtyNat t = true → lands (.vshr h t d a b) (fun i => if w ≤ y i then 0 else x i / 2 ^ y i)) ∧
      (vtyNat t = false → lands (.vshr h t d a b)
        (fun i => (BitVec.ofInt w ((BitVec.ofNat w (x i)).toInt / 2 ^ min (y i) w)).toNat)) ∧
      exec (.vsel h t d a b) s = .next (s.result 3 (.v d) (vecMerge (s.vsrc w b) (s.vreg a) (elemMask w (s.mguard h)))
        (BitVec.allOnes 256) 0) ∧
      (∀ (k : BitVec 3) (p q : QReg),
        let A := s.regs.mask p
        let B := s.regs.mask q
        let masks (i : Instr) (m : Mask) : Prop := exec i s = .next (s.result 1 (.q k) (m.setWidth 2048) (s.mguard h) 0)
        masks (.vmskAnd h k p q) (A &&& B) ∧ masks (.vmskOr h k p q) (A ||| B) ∧ masks (.vmskXor h k p q) (A ^^^ B) ∧
        masks (.vmskNot h k p) (~~~A)) ∧
      (∀ (g : BitVec 5) (p : QReg),
        let on := (List.range 256).filter fun j => (s.regs.mask p).getLsbD j && (s.mguard h).getLsbD j
        exec (.vmskPopc h g p) s = .next (s.scalar 8 (g.setWidth 6) (BitVec.ofNat 64 on.length)) ∧
        exec (.vmskFfs h g p) s = .next (s.scalar 8 (g.setWidth 6) (BitVec.ofNat 64 (on.head?.getD 256))))) ∧
  (
    ∀ (h : Head) (s : State), Spec.Calm s →
      let r (n : BitVec 5) : Nat := (s.sreg (n.setWidth 6)).toNat
      (∀ (t : VTy) (d a b : VReg) (g : BitVec 5),
        let w := vtyBits t
        let N := 2048 / w
        let x (i : Nat) := elem w (s.vreg a) i
        let lands (i : Instr) (lat : Nat) (f : Nat → Nat) : Prop :=
          exec i s = .next (s.vecResult h lat d w fun j => (f j, 0))
        lands (.vbcast h t d a g) 3 (fun _ => x (r g % N)) ∧
        lands (.vperm h t d a b) 4 (fun i => x (elem w (s.vreg b) i % N)) ∧
        lands (.vslide h t d a g) 4 (fun i => let j := (i : Int) + (s.sreg (g.setWidth 6)).toInt
          if 0 ≤ j ∧ j < N then x j.toNat else 0) ∧
        (∀ (e : BitVec 5), let i := r g % N
          (elemOn w (s.mguard h) i = true → exec (.vext h t e g b) s =
            .next (s.scalar 3 (e.setWidth 6) (extendElem t (elem w (s.vreg b) i)))) ∧
          (elemOn w (s.mguard h) i = false → exec (.vext h t e g b) s = .next s) ∧
          (elemOn w (s.mguard h) i = true → exec (.vins h t d g e) s = .next (s.result 3 (.v d)
            (BitVec.ofNat 2048 (r e % 2 ^ w * 2 ^ (w * i))) (BitVec.ofNat 256 ((2 ^ (w / 8) - 1) * 2 ^ (w / 8 * i))) 0)) ∧
          (elemOn w (s.mguard h) i = false → ∃ val, exec (.vins h t d g e) s = .next (s.result 3 (.v d) val 0 0)))) ∧
      (∀ (t : ETy) (d a b : VReg) (src : VSrc) (g : BitVec 5),
        let w := etyBits t
        let n := 2048 / w / 2
        let x (i : Nat) := elem w (s.vreg a) i
        let y (i : Nat) := elem w (s.vreg b) i
        let lands (i : Instr) (lat : Nat) (f : Nat → Nat) : Prop :=
          exec i s = .next (s.vecResult h lat d w fun j => (f j, 0))
        lands (.vmov h t d src) 3 (fun i => elem w (s.vsrc w src) i) ∧
        lands (.viota h t d g) 3 (fun i => (r g + i) % 2 ^ w) ∧
        lands (.vpack h t d a b) 4 (fun i => if i < n then x (2 * i) else y (2 * (i - n))) ∧
        lands (.vunpk h t d a b) 4 (fun i => if i % 2 = 0 then x (i / 2) else y (i / 2))))

/-- vcmp puts one result in flight to the mask pair k, landing at c+3 with the byte lanes of the enabled elements:
each byte bit of an enabled element is the condition on that element. Integers compare under their reading with no
flag; floats compare as values, a NaN making eq, lt and le false and ne true, with NV for lt and le and for a
signalling NaN. (R103) -/
def Obligations.VectorCompares : Prop :=
  ∀ (h : Head) (t : VTy) (c : VCond) (k : BitVec 3) (a : VReg) (b : VSrc) (s : State), Spec.Calm s →
    let w := vtyBits t
    let q := s.mguard h
    let cond (i : Nat) : Bool × Flags := vCompare c t (elem w (s.vreg a) i) (elem w (s.vsrc w b) i)
    (∃ (val : Vec) (fl : Flags), exec (.vcmp h t c k a b) s = .next (s.result 3 (.q k) val (elemMask w q) fl) ∧
      (∀ j, j < 256 → elemOn w q (8 * j / w) = true → val.getLsbD j = (cond (8 * j / w)).1) ∧
      (∀ n, n < 5 → (fl.getLsbD n = true ↔
        ∃ i, i < 2048 / w ∧ elemOn w q i = true ∧ (cond i).2.getLsbD n = true))) ∧
    (∀ x y : Nat, vtyFloat t = none →
      let X := readInt (vtyNat t) w x
      let Y := readInt (vtyNat t) w y
      vCompare .eq t x y = (decide (X = Y), 0) ∧ vCompare .ne t x y = (decide (X ≠ Y), 0) ∧
      vCompare .lt t x y = (decide (X < Y), 0) ∧ vCompare .le t x y = (decide (X ≤ Y), 0)) ∧
    (∀ (x y : Nat) (fm : Fmt), vtyFloat t = some fm →
      let X := fm.unpack x
      let Y := fm.unpack y
      (X.isNan = true ∨ Y.isNan = true →
        let nv : Flags := if X.isSnan = true ∨ Y.isSnan = true then flagNV else 0
        vCompare .eq t x y = (false, nv) ∧ vCompare .ne t x y = (true, nv) ∧
        vCompare .lt t x y = (false, flagNV) ∧ vCompare .le t x y = (false, flagNV)) ∧
      (X.isNan = false → Y.isNan = false →
        vCompare .eq t x y = (decide (fcmp X Y = 0), 0) ∧ vCompare .ne t x y = (decide (fcmp X Y ≠ 0), 0) ∧
        vCompare .lt t x y = (decide (fcmp X Y < 0), 0) ∧ vCompare .le t x y = (decide (fcmp X Y ≤ 0), 0)))

/-- vcvt converts each enabled element under vrm and the format registers at issue, and gives 0 to elements past the
source's count, at c+4; vscale multiplies by the power of two of a signed byte, rounded once, at c+4; a reduction
reduces the elements by a tree of neighbours, disabled elements counting as the identity, into sD at c+8 with the
flags of every node; vrcp, vrsq, vexp2 and vlog2 give the function of each element at c+11. Each conversion has the
value and flags of its row of R107; vscale rounds once; each node of a reduction is an addition, maximum or minimum;
the functions have the special rows of R110, vrcp and vrsq are correctly rounded, and so are vexp2 of an integer and
vlog2 of a power of two (that the other values of vexp2 and vlog2 are rests on log entry 11). (R106, R107, R108, R109,
R110, R91, R92) -/
def Obligations.ConversionsAndUnits : Prop :=
  (∀ (h : Head) (s : State), Spec.Calm s →
    let q := s.mguard h
    (∀ (f : CvtForm) (d a : VReg),
      let dt := (cvtTypes s.regs f).1
      let st := (cvtTypes s.regs f).2
      let lane (i : Nat) : Lane :=
        if q.getLsbD (dt.width * i / 8) = true ∧ i < min (2048 / st.width) (2048 / dt.width) then
          vConvert s.rmode dt st (elem st.width (s.vreg a) i) else (0, 0)
      let l := (List.range (2048 / dt.width)).map lane
      exec (.vcvt h f d a) s = .next (s.result 4 (.v d) (ofElems dt.width (l.map Prod.fst))
        (elemMask (max 8 dt.width) q) (laneFlags l))) ∧
    (∀ (t : FTy) (d a : VReg),
      let f := ftyFmt t
      let x (i : Nat) := elem f.bits (s.vreg a) i
      let lands (i : Instr) (lat : Nat) (g : Nat → Lane) : Prop := exec i s = .next (s.vecResult h lat d f.bits g)
      (∀ r, lands (.vscale h t d a (.vec r)) 4
        fun i => vScale f s.rmode (x i) ((s.vreg r).extractLsb' (8 * (i / 32)) 8).toInt) ∧
      (∀ r, lands (.vscale h t d a (.scal r)) 4
        fun i => vScale f s.rmode (x i) ((s.sreg (r.setWidth 6)).extractLsb' 0 8).toInt) ∧
      lands (.vrcp h t d a) 11 (fun i => vUnit .rcp f (x i)) ∧ lands (.vrsq h t d a) 11 (fun i => vUnit .rsq f (x i)) ∧
      lands (.vexp2 h t d a) 11 (fun i => vUnit .exp2 f (x i)) ∧
      lands (.vlog2 h t d a) 11 (fun i => vUnit .log2 f (x i))) ∧
    (∀ (t : VTy) (d : BitVec 5) (a : VReg),
      let w := vtyBits t
      let reduces (i : Instr) (op : VRed) : Prop :=
        let y := vredTree (vredNode op t s.rmode) 9 ((List.range (2048 / w)).map fun i =>
          (if elemOn w q i then elem w (s.vreg a) i else vredIdentity op t, 0))
        exec i s = .next (s.result 8 (.s (d.setWidth 6)) ((extendElem t y.1).setWidth 2048) (BitVec.allOnes 256) y.2)
      reduces (.vredSum h t d a) .sum ∧ reduces (.vredMax h t d a) .max ∧ reduces (.vredMin h t d a) .min)) ∧
  (∀ (r : RMode) (f g : Fmt) (c : Nat),
    let v := f.unpack c
    let nv : Flags := if v.isSnan = true then flagNV else 0
    vConvert r (.float g) (.float f) c = roundLane g r (v, nv) ∧
    vConvert r (.narrow g) (.float f) c = roundLane g r (v, nv) ∧ vConvert r (.float g) (.narrow f) c = g.pack r v ∧
    ∀ (nat : Bool) (w : Nat), 0 < w →
      let lo : Int := if nat = true then 0 else -2 ^ (w - 1)
      let hi : Int := if nat = true then 2 ^ w - 1 else 2 ^ (w - 1) - 1
      let code (x : Int) : Nat := (x % 2 ^ w).toNat
      (v.isNan = true → vConvert r (.int nat w) (.float f) c = (0, flagNV)) ∧
      (∀ neg, v = .inf neg → vConvert r (.int nat w) (.float f) c = (code (if neg = true then lo else hi), flagNV)) ∧
      (∀ neg m e, v = .fin neg m e → ∃ n : Nat, Spec.Rounded r neg ((m : ℝ) * 2 ^ e) n ∧
        let x := signedMant neg n
        (lo ≤ x → x ≤ hi → vConvert r (.int nat w) (.float f) c =
          (code x, if (n : ℚ) = m * 2 ^ e then 0 else flagNX)) ∧
        (x < lo → vConvert r (.int nat w) (.float f) c = (code lo, flagNV)) ∧
        (hi < x → vConvert r (.int nat w) (.float f) c = (code hi, flagNV))) ∧
      (let x := readInt nat w c;
        vConvert r (.float g) (.int nat w) c = g.pack r (.fin (decide (x < 0)) x.natAbs 0)) ∧
      ∀ (sn : Bool) (sw : Nat),
        let x := readInt sn sw c
        (sw < w ∨ sw = w ∧ sn = nat → vConvert r (.int nat w) (.int sn sw) c = (code x, 0)) ∧
        (w < sw ∨ sw = w ∧ sn ≠ nat → vConvert r (.int nat w) (.int sn sw) c = (code (max lo (min hi x)), 0))) ∧
  (∀ (t : FTy) (r : RMode) (c : Nat) (x : Int),
    let f := ftyFmt t
    let v := f.unpack c
    let quiet := (2 ^ f.e - 1) * 2 ^ f.m + 2 ^ (f.m - 1)
    (v.isNan = true → vScale f r c x = (quiet, if v.isSnan = true then flagNV else 0)) ∧
    (∀ neg, v = .inf neg → f.unpack (vScale f r c x).1 = v ∧ (vScale f r c x).2 = 0) ∧
    (∀ neg m e, v = .fin neg m e → vScale f r c x = f.pack r (.fin neg m (e + x))) ∧
    (∀ u, vUnit u f c = roundLane f .nearest (unitFn u v)) ∧
    (∀ neg m e, v = .fin neg m e → m ≠ 0 →
      Spec.RoundsTo f .nearest neg (1 / ((m : ℝ) * 2 ^ e)) (vUnit .rcp f c) ∧
      (neg = false → Spec.RoundsTo f .nearest false (1 / Real.sqrt ((m : ℝ) * 2 ^ e)) (vUnit .rsq f c))) ∧
    (∀ neg m e (k : Int), v = .fin neg m e → Spec.val v = k →
      Spec.RoundsTo f .nearest false ((2 : ℝ) ^ k) (vUnit .exp2 f c)) ∧
    ∀ m e (k : Int), v = .fin false m e → (m : ℚ) * 2 ^ e = 2 ^ k →
      (k = 0 → vUnit .log2 f c = (0, 0)) ∧
      (k ≠ 0 → Spec.RoundsTo f .nearest (decide (k < 0)) (k.natAbs : ℝ) (vUnit .log2 f c))) ∧
  (∀ (n : Bool) (m : Nat) (e : Int),
    unitFn .rcp (.fin n 0 e) = (.inf n, flagDZ) ∧ unitFn .rsq (.fin n 0 e) = (.inf n, flagDZ) ∧
    unitFn .exp2 (.fin n 0 e) = (.fin false 1 0, 0) ∧ unitFn .log2 (.fin n 0 e) = (.inf true, flagDZ) ∧
    unitFn .rcp (.inf n) = (.fin n 0 0, 0) ∧ unitFn .rsq (.inf false) = (.fin false 0 0, 0) ∧
    unitFn .exp2 (.inf false) = (.inf false, 0) ∧ unitFn .exp2 (.inf true) = (.fin false 0 0, 0) ∧
    unitFn .log2 (.inf false) = (.inf false, 0) ∧ unitFn .rsq (.inf true) = (.nan false, flagNV) ∧
    unitFn .log2 (.inf true) = (.nan false, flagNV) ∧
    (m ≠ 0 → unitFn .rsq (.fin true m e) = (.nan false, flagNV) ∧ unitFn .log2 (.fin true m e) = (.nan false, flagNV)) ∧
    ∀ u b, unitFn u (.nan b) = (.nan false, if b = true then flagNV else 0)) ∧
  (∀ (f : Lane → Lane → Lane) (n fuel : Nat) (l k : List Lane) (x : Lane), vredTree f fuel [x] = x ∧
    (l.length = 2 ^ n → k.length = 2 ^ n → n < fuel →
      vredTree f fuel (l ++ k) = f (vredTree f n l) (vredTree f n k))) ∧
  ∀ (t : VTy) (r : RMode) (a b : Lane) (op : VRed),
    (vredNode op t r a b).2 = (match op with
      | .sum => vArith .add t r a.1 b.1 0
      | .max => vMinMax true t a.1 b.1
      | .min => vMinMax false t a.1 b.1).2 ||| a.2 ||| b.2 ∧
    (vredNode op t r a b).1 = (match op with
      | .sum => vArith .add t r a.1 b.1 0
      | .max => vMinMax true t a.1 b.1
      | .min => vMinMax false t a.1 b.1).1 ∧
    vredIdentity .sum t = 0 ∧
    (∀ fm, vtyFloat t = some fm → fm.unpack (vredIdentity .max t) = .inf true ∧
      fm.unpack (vredIdentity .min t) = .inf false) ∧
    (vtyFloat t = none → ∀ c, c < 2 ^ vtyBits t →
      readInt (vtyNat t) (vtyBits t) (vredIdentity .max t) ≤ readInt (vtyNat t) (vtyBits t) c ∧
      readInt (vtyNat t) (vtyBits t) c ≤ readInt (vtyNat t) (vtyBits t) (vredIdentity .min t))

/-- For an integer type, the value that vred.sum puts in flight to sD is the sum of the enabled elements modulo 2^w,
extended by the reading, and it sets no flag. (R109) -/
def Obligations.IntegerSums : Prop :=
  ∀ (h : Head) (t : VTy) (d : BitVec 5) (a : VReg) (s : State), Spec.Calm s → vtyFloat t = none →
    let w := vtyBits t
    let total := (((List.range (2048 / w)).filter fun i => elemOn w (s.mguard h) i).map fun i => elem w (s.vreg a) i).sum
    exec (.vredSum h t d a) s = .next (s.scalar 8 (d.setWidth 6)
      (BitVec.ofInt 64 (readInt (vtyNat t) w (total % 2 ^ w))))

/-- A code of a format of R83 or of a valid descriptor has the value of R86, or is the NaN or infinity of R87. A
nonzero value is rounded once by the mode, to the last place that its magnitude and the lowest exponent leave, and
placed by R93: within the largest finite magnitude its code has exactly the rounded value, above it the infinity or
the largest finite; NX, OF and UF are those of R91. Into a format without a sign a negative value gives +0, with NV
unless it rounds to 0; NaN and infinities go by the rows of R93. A tie in a format with no mantissa bits goes by the
hidden bit, and where the largest finite magnitude is 0 a nonzero value that rounds to 0 sets UF and NX and no OF (log
entry 37). (R83, R85, R86, R87, R90, R91, R92, R93) -/
def Obligations.FloatRounding : Prop :=
  ∀ (f : Fmt), Spec.IsFormat f →
    let sign := 2 ^ (f.e + f.m)
    (∀ c : Nat,
      let neg := f.s && c.testBit (f.e + f.m)
      let mag := c % sign
      let be := mag / 2 ^ f.m
      let fr := mag % 2 ^ f.m
      (f.sp = .fn → mag = sign - 1 → f.unpack c = .nan false) ∧
      (f.sp = .ieee → be = 2 ^ f.e - 1 → f.m ≠ 0 → fr = 0 → f.unpack c = .inf neg) ∧
      (f.sp = .ieee → be = 2 ^ f.e - 1 → f.m = 0 ∨ fr ≠ 0 →
        f.unpack c = .nan (f.signals && !fr.testBit (f.m - 1))) ∧
      (¬(f.sp = .fn ∧ mag = sign - 1) → ¬(f.sp = .ieee ∧ be = 2 ^ f.e - 1) →
        ∃ (m : Nat) (e : Int), f.unpack c = .fin neg m e ∧ (m : ℚ) * 2 ^ e =
          if f.e = 0 then (fr : ℚ) * 2 ^ (-f.bias)
          else if be = 0 then (fr : ℚ) * 2 ^ (1 - f.bias - f.m)
          else ((2 ^ f.m + fr : Nat) : ℚ) * 2 ^ ((be : Int) - f.bias - f.m))) ∧
    (∀ c m e, f.unpack c = .fin false m e → (m : ℚ) * 2 ^ e ≤ Spec.val (f.unpack f.maxMag)) ∧
    (∃ m e, f.unpack f.maxMag = .fin false m e) ∧
    (∀ r neg (m : Nat) (e : Int), m ≠ 0 → (neg = true → f.s = true) →
      Spec.RoundsTo f r neg ((m : ℝ) * 2 ^ e) (f.pack r (.fin neg m e))) ∧
    (∀ r neg e, f.pack r (.fin neg 0 e) = (if neg = true ∧ f.s = true then sign else 0, 0)) ∧
    (f.s = false → ∀ r (m : Nat) (e : Int), m ≠ 0 →
      let x : ℝ := (m : ℝ) * 2 ^ e
      ∃ n : Nat, Spec.Rounded r true (x / 2 ^ (if f.e = 0 then -f.bias else
          max (Int.log 2 x - f.m) (1 - f.bias - f.m))) n ∧
        f.pack r (.fin true m e) = (0, if n = 0 then flagUF ||| flagNX else flagNV)) ∧
    (∀ r b,
      let nv : Flags := if b = true then flagNV else 0
      (f.sp = .none → f.pack r (.nan b) = (0, flagNV)) ∧ (f.sp = .fn → f.pack r (.nan b) = (sign - 1, nv)) ∧
      (f.sp = .ieee → f.pack r (.nan b) = ((2 ^ f.e - 1) * 2 ^ f.m + 2 ^ f.m / 2, nv))) ∧
    ∀ r neg,
      let high := if neg = true then sign else 0
      (neg = true → f.s = false → f.pack r (.inf neg) = (0, flagNV)) ∧
      ((neg = true → f.s = true) → f.sp = .ieee → f.m ≠ 0 →
        f.pack r (.inf neg) = (high + (2 ^ f.e - 1) * 2 ^ f.m, 0)) ∧
      ((neg = true → f.s = true) → f.sp ≠ .ieee ∨ f.m = 0 → f.pack r (.inf neg) = (high + f.maxMag, flagNV))

/-- An executing mld or mld.sp of a context that holds a tile, with the matrix unit free for it, its lines in the
context's LM windows and its bases aligned, captures kind and descriptor into the shadow plane and starts the load of
its value, scale and metadata lines over P cycles. mswp exchanges the planes at c when no load is in its window. Unit-
busy (2, 3, 4), the missing tile, a byte outside the windows and a misaligned base are raised in that order. Unit-busy
3 lasts the whole window of P cycles, also for a sparse load whose last line has been sampled: the model's reading
(log entry 19). (R136, R141, R142, R128, R130) -/
def Obligations.PlaneSlots : Prop :=
  ∀ (h : Head) (s : State), Spec.Runs s h →
    let k := s.pre.core s.iss.cl s.iss.co
    let loading : Prop := ∃ l, k.load = some l ∧ s.now < l.org.issued + 2 + l.p
    let noTile : Prop := s.preCtx.tiles = 0
    let tileTrap : State := s.raise 0x0A (BitVec.ofNat 64 (5 * 2 ^ 32 + 32))
    (∀ (kind : MKind) (a : BitVec 5) (sparse : Bool),
      let i := if sparse then Instr.mldSp h kind a else .mld h kind a
      let w := (s.sreg (a.setWidth 6)).toNat
      let base := w % 2 ^ 32
      let sbase := w / 2 ^ 32
      let desc := kindDesc s.regs kind
      let nv := if sparse then kindDepth kind desc / 2 * planeRow kind desc / 256 else planeLines kind
      let ns := if kindScaled kind desc then kindDepth kind desc / 64 else 0
      let nm := if sparse then kindDepth kind desc / 8 else 0
      let lines (b n : Nat) : List (List Nat) := (List.range n).map fun j => span (b + j * 256) 256
      let check := accessFault s.pre s.preCtx .loadLM false
        (lines base nv ++ lines sbase ns ++ lines (base + nv * 256) nm)
      let aligned : Prop := base % 256 = 0 ∧ (ns ≠ 0 → sbase % 256 = 0)
      let inUse : Prop := s.now + 2 ≤ k.shadowPlane.useUntil
      (inUse → exec i s = .next (s.raise 0x08 2)) ∧ (¬inUse → loading → exec i s = .next (s.raise 0x08 3)) ∧
      (¬inUse → ¬loading → noTile → exec i s = .next tileTrap) ∧
      (∀ f kd, ¬inUse → ¬loading → ¬noTile → check = some (f, kd) →
        exec i s = .next (s.raise 0x0A (BitVec.ofNat 64 (kd * 2 ^ 32 + f % 2 ^ 32)))) ∧
      (¬inUse → ¬loading → ¬noTile → check = none → ¬aligned →
        exec i s = .next (s.raise 0x14 (BitVec.ofNat 64 (2 * 2 ^ 62 + 3)))) ∧
      (¬inUse → ¬loading → ¬noTile → check = none → aligned →
        exec i s = .next (s.modCore fun c => { c with
          shadowPlane := ⟨kind, desc, sparse, [], [], [], 0, c.shadowPlane.buf⟩,
          load := some ⟨⟨s.iss.cx, s.iss.baddr, s.iss.slot, s.now⟩, base, sbase, planeLines kind, nv, ns, nm,
            base + nv * 256⟩ }))) ∧
    (loading → exec (.mswp h) s = .next (s.raise 0x08 4)) ∧
    (¬loading → noTile → exec (.mswp h) s = .next tileTrap) ∧
    (¬loading → ¬noTile →
      exec (.mswp h) s = .next (s.modCore fun c => { c with plane := c.shadowPlane, shadowPlane := c.plane }))

/-- With the tile allocated, no unit-busy, no write scheduled for the same row and cycle, operands in the LM windows
and usable: mma captures the stationary plane, holds the unit for g × M cycles and streams its rows; aclr, awr and
anrm write at c+2; ard and aexp sample at c+2 and land at c+6 and c+4. mma and the writes make the region
unrestartable. The traps of R135, R137, R122, R116 and R140 are raised otherwise, in that order, also where several
apply; that an aclr which R140 refuses has its rows up to 127 checked for a row conflict first is the choice of the
model (log entry 37). (R143, R144, R145, R146, R148, R149, R135, R137, R140, R116, R122) -/
def Obligations.AccumulatorSlots : Prop :=
  ∀ (h : Head) (t : Tile) (s : State), Spec.Runs s h →
    let k := s.pre.core s.iss.cl s.iss.co
    let org : Origin := ⟨s.iss.cx, s.iss.baddr, s.iss.slot, s.now⟩
    let owned : Prop := s.preCtx.tiles.getLsbD t.toNat = true
    let tileTrap : State := s.raise 0x0A (BitVec.ofNat 64 (5 * 2 ^ 32 + t.toNat))
    let u := s.modCtx fun x => { x with unrestartable := true }
    let detail (count row reason : Nat) : Word := BitVec.ofNat 64 (2 * 2 ^ 62 + count * 2 ^ 16 + row * 2 ^ 8 + reason)
    let writes (i : Instr) (slots : List AccSlot) (access : Option State) (operand : Option Word) (v : State) : Prop :=
      let conflict := k.rowConflict slots
      (∀ w, conflict = some w → exec i s = .next (s.raise 0x09
        (BitVec.ofNat 64 (w.2.1 * 2 ^ 27 + w.2.2 * 2 ^ 20 + (w.1 - s.now))))) ∧
      (conflict = none → ¬owned → exec i s = .next tileTrap) ∧
      (∀ u, conflict = none → owned → access = some u → exec i s = .next u) ∧
      (∀ x, conflict = none → owned → access = none → operand = some x → exec i s = .next (s.raise 0x14 x)) ∧
      (conflict = none → owned → access = none → operand = none → exec i s = .next v)
    let lands (op : AccWriteOp) : State := u.modCore fun c => { c with accW := c.accW ++ [⟨org, s.now + 2, t, op⟩] }
    (∀ (a b : BitVec 5),
      let e := (s.sreg (a.setWidth 6)).extractLsb' 0 16
      let wb := (s.sreg (b.setWidth 6)).toNat
      let n := wb % 256
      let row0 := wb / 256 % 128
      let row := wb % 128
      writes (.aclr h t a b) ((List.range (min n (128 - row0))).map fun i => (s.now + 2, t.toNat, row0 + i)) none
        (if 128 < n then some (detail n row0 1) else if 128 < row0 + n then some (detail n row0 2) else none)
        (lands (.clr row0 n e)) ∧
      writes (.anrm h t a b) [(s.now + 2, t.toNat, row)] none none (lands (.nrm row e)) ∧
      (∀ v hf ty, writes (.awr h t hf v b ty) [(s.now + 2, t.toNat, row)] none none (lands (.awr row ty hf (s.vreg v)))) ∧
      (∀ v hf ty sat, let p := s.await 6 (.v v) (BitVec.allOnes 256)
        writes (.ard h sat v hf t b ty) [] none none (p.2.modCore fun c =>
          { c with accR := c.accR ++ [⟨org, s.now + 2, t, row, .row ty hf sat, p.1⟩],
                   accLand := max c.accLand (s.now + 6) })) ∧
      (∀ d, let p := s.await 4 (.s d) (BitVec.allOnes 256)
        writes (.aexp h d t b) [] none none (p.2.modCore fun c =>
          { c with accR := c.accR ++ [⟨org, s.now + 2, t, row, .header, p.1⟩],
                   accLand := max c.accLand (s.now + 4) }))) ∧
    (∀ (kind : MKind) (a b : BitVec 5),
      let desc := kindDesc s.regs kind
      let wa := (s.sreg (a.setWidth 6)).toNat
      let base := wa % 2 ^ 32
      let sbase := wa / 2 ^ 32
      let m := (s.sreg (b.setWidth 6)).toNat % 256
      let row0 := (s.sreg (b.setWidth 6)).toNat / 256 % 128
      let rows := min m (128 - row0)
      let rb := actRow kind desc
      let sb := kindDepth kind desc / 32
      let scaled := kindScaled kind desc
      let g := if kindWide kind || kindWide k.plane.kind then 4 else 1
      let accs := (List.range rows).map (fun r => span (base + r * rb) rb) ++
        (if scaled then (List.range rows).map fun r => span (sbase + 8 * r) sb else [])
      (s.now < k.mmaNext → exec (.mma h kind t a b) s = .next (s.raise 0x08 1)) ∧
      (k.mmaNext ≤ s.now → m = 0 → writes (.mma h kind t a b) [] none none
        (u.modCore fun c => { c with mmaNext := s.now + 1 })) ∧
      (k.mmaNext ≤ s.now → m ≠ 0 →
        writes (.mma h kind t a b) ((List.range rows).map fun r => (s.now + 24 + g * r, t.toNat, row0 + r))
          ((accessFault s.pre s.preCtx .loadLM false accs).map fun p =>
            s.raise 0x0A (BitVec.ofNat 64 (p.2 * 2 ^ 32 + p.1 % 2 ^ 32)))
          (if 128 < m then some (detail m row0 1) else if 128 < row0 + m then some (detail m row0 2)
            else if base % rb ≠ 0 ∨ (scaled ∧ sbase % 8 ≠ 0) then some (detail m row0 3)
            else if kindDepth kind desc ≠ kindDepth k.plane.kind k.plane.desc then some (detail m row0 4) else none)
          (u.modCore fun c => { c with
            mmaNext := s.now + g * m,
            plane := { c.plane with useUntil := max c.plane.useUntil (s.now + 24 + g * (m - 1)) },
            mmas := c.mmas ++ [⟨org, t, row0, m, kind, desc, base, sbase, g, k.plane, []⟩] })))

/-- Words that the spec gives with their instructions decode to those instructions: nop, br.t, loop, loopi, yield,
exit, rmark, trap, fmt, capo; the scalar and predicate operations; cpy, famo, pool, qop, scope, brg, xsnd, xrcv, txt,
sio, net, evt; the vector operations vadd to vrsq; lds, ldz, st, vld, vst, agset, ldt, fence; mld, mswp, mma, aclr,
ard, awr, aexp. The word of a reserved shift selector is a reserved field value, and the all-ones word a reserved
opcode. (R14, R24, R28, R37, R40, R58, R69, R72, R141, R143, R250, R319) -/
def Obligations.DecodeSampleWords : Prop :=
  let h : Head := ⟨false, 0⟩
  decodeWord 0x00000000 = .ok (.nop h) ∧ decodeWord 0x80000000 = .ok (.nop ⟨true, 0⟩) ∧
  decodeWord 0x101FFFF9 = .ok (.brT ⟨false, 2⟩ 0x7FFFC) ∧ decodeWord 0x00400D04 = .ok (.loop h 13 4) ∧
  decodeWord 0x00500081 = .ok (.loopi h 0 129) ∧ decodeWord 0x0070400C = .ok (.yieldAt h 12) ∧
  decodeWord 0x10800000 = .ok (.exit ⟨false, 2⟩) ∧ decodeWord 0x80900000 = .ok (.rmark ⟨true, 0⟩) ∧
  decodeWord 0x30A00006 = .ok (.trap ⟨false, 6⟩ 6) ∧ decodeWord 0x00BA8C09 = .ok (.fmt h 5 0x8C09) ∧
  decodeWord 0x00D00006 = .ok (.capoAcq h 6) ∧ decodeWord 0x00D04000 = .ok (.capoRel h) ∧
  decodeWord 0x1101461C = .ok (.add ⟨false, 2⟩ 5 6 7) ∧ decodeWord 0x017082FF = .ok (.addi h 2 2 0xFF) ∧
  decodeWord 0x01810943 = .ok (.shri h 4 9 3) ∧ decodeWord 0x01904004 = .ok (.li h 1 4) ∧
  decodeWord 0x01A04000 = .ok (.lis h 1 0) ∧ decodeWord 0x01A04200 = .ok (.lis h 1 0x200) ∧
  decodeWord 0x01B1020C = .ok (.mul h 4 2 3) ∧ decodeWord 0x01D0812E = .ok (.minn h 2 1 11) ∧
  decodeWord 0x01F86EA8 = .ok (.cmp h .ltn 1 46 42) ∧ decodeWord 0x02024201 = .ok (.cmpi h .ne 1 2 1) ∧
  decodeWord 0x0210C210 = .ok (.pand h 3 2 4) ∧ decodeWord 0x02314001 = .ok (.movl h 5 1) ∧
  decodeWord 0x02404006 = .ok (.rdsys h 1 .brfree) ∧ decodeWord 0x0301510C = .ok (.cpy h 5 2 1 3) ∧
  decodeWord 0x03001100 = .ok (.cpy h 0 2 1 0) ∧ decodeWord 0x0314351C = .ok (.famoAdd h 0 .qnt true 5 7) ∧
  decodeWord 0x0318F680 = .ok (.famoOr h 3 .acq true 6 0) ∧
  decodeWord 0x03101392 = .ok (.famoSwap h 0 .unp true 3 4) ∧ decodeWord 0x03250500 = .ok (.poolAcqw h 20 5) ∧
  decodeWord 0x03250581 = .ok (.poolPubAfter h 20 5) ∧ decodeWord 0x03310200 = .ok (.qopPush h 4 2) ∧
  decodeWord 0x03350501 = .ok (.qopPop h 20 5) ∧ decodeWord 0x03400301 = .ok (.scopeClose h 3) ∧
  decodeWord 0x03500100 = .ok (.brgPush h 1) ∧ decodeWord 0x03504001 = .ok (.brgPop h 1) ∧
  decodeWord 0x03614200 = .ok (.xsndScalar h 5 2) ∧ decodeWord 0x0371C001 = .ok (.xrcvVector h 7 0) ∧
  decodeWord 0x0385080C = .ok (.txtOut h 20 4 3) ∧ decodeWord 0x03850A11 = .ok (.txtTok h 20 5 4) ∧
  decodeWord 0x03900815 = .ok (.sioWr h 4 true 1) ∧ decodeWord 0x03900006 = .ok (.sioFlush h 1) ∧
  decodeWord 0x03A00808 = .ok (.netSend h 2 false 2) ∧ decodeWord 0x03A00C11 = .ok (.netWrite h 3 true 0) ∧
  decodeWord 0x03B00310 = .ok (.evtPost h 3 4) ∧ decodeWord 0x03B00301 = .ok (.evtIrq h 3) ∧
  decodeWord 0x0400420C = .ok (.vadd h .f32 1 2 (.vec 3)) ∧
  decodeWord 0x240105A4 = .ok (.vadd ⟨false, 4⟩ .f32 4 5 (.scal 9)) ∧
  decodeWord 0x0410812D = .ok (.vsub h .f16 2 1 (.vec 11)) ∧
  decodeWord 0x0420C241 = .ok (.vmul h .f16 3 2 (.vec 16)) ∧
  decodeWord 0x04314105 = .ok (.vfma h .f16 5 1 (.vec 1)) ∧
  decodeWord 0x04DC828C = .ok (.vcmp h .i16 .lt 2 2 (.scal 3)) ∧
  decodeWord 0x04F08102 = .ok (.vcvt h (.elem .bf16 .f32) 2 1) ∧
  decodeWord 0x25014101 = .ok (.vredSum ⟨false, 4⟩ .f16 5 1) ∧ decodeWord 0x0501C304 = .ok (.vredMax h .f32 7 3) ∧
  decodeWord 0x0550408F = .ok (.viota h .i32 1 3) ∧ decodeWord 0x05740F01 = .ok (.vrsq h .f16 16 15) ∧
  decodeWord 0x06020126 = .ok (.ldsW h 8 (.sreg 1) 9) ∧ decodeWord 0x061B4805 = .ok (.ldzH h 45 (.sreg 8) 1) ∧
  decodeWord 0x06216102 = .ok (.stW h 5 (.gen 1) 0) ∧ decodeWord 0x06304A0D = .ok (.vld h 1 (.sreg 10) 13) ∧
  decodeWord 0x06394200 = .ok (.vldT h 5 2 0) ∧ decodeWord 0x0640E300 = .ok (.vst h 3 (.gen 3) 0) ∧
  decodeWord 0x06904100 = .ok (.agsetBase h 1 1) ∧ decodeWord 0x06924200 = .ok (.agsetStride h 1 1 2) ∧
  decodeWord 0x06D14300 = .ok (.ldt h 5 3 0) ∧ decodeWord 0x06E0001C = .ok (.fence h 0b00011 .package) ∧
  decodeWord 0x07082400 = .ok (.mld h .bf16 4) ∧ decodeWord 0x07100000 = .ok (.mswp h) ∧
  decodeWord 0x0728A518 = .ok (.mma h .bf16 2 5 6) ∧ decodeWord 0x07308108 = .ok (.aclr h 2 1 2) ∧
  decodeWord 0x07408200 = .ok (.ard h false 2 false 2 0 .f32) ∧
  decodeWord 0x07508100 = .ok (.awr h 2 false 1 0 .f32) ∧ decodeWord 0x0761C200 = .ok (.aexp h 7 2 0) ∧
  decodeWord 0x018109C3 = .error .reservedField ∧ decodeWord 0xFFFFFFFF = .error .reservedOpcode

/-- For every instruction that is well-formed and has a word, with every operand at every value that its encoding
admits, the decoder reads the encoder's word as that instruction. (R14, R15, R16, R27) -/
def Obligations.DecodeEncode : Prop :=
  ∀ (i : Instr) (w : SlotWord), encode i = some w → decodeWord w = .ok i

/-- If the decoder reads a word as an instruction, that instruction is well-formed and the encoder gives exactly that
word: no two words have one meaning, and no bit of a word is dropped. (R14, R15, R16, R27) -/
def Obligations.EncodeDecode : Prop :=
  ∀ (w : SlotWord) (i : Instr), decodeWord w = .ok i → i.wf = true ∧ encode i = some w

/-- A word decodes to the reserved-opcode refusal exactly when its opcode is one of the 26 values of the rule. A
bundle with such a slot is refused with RO set and the slot's bit in the mask, whatever its guard. Eight zero words
form an unterminated bundle, refused with LG, and every zero word is a nop without a stop bit. Admission refuses every
image whose code holds such a word. (R37) -/
def Obligations.ReservedOpcodes : Prop :=
  let reserved : List (BitVec 7) := [0x0E, 0x0F, 0x27, 0x28, 0x29, 0x2A, 0x2B, 0x2C, 0x2D, 0x2E, 0x2F, 0x3C, 0x3D, 0x3E,
    0x3F, 0x5E, 0x5F, 0x6F, 0x78, 0x79, 0x7A, 0x7B, 0x7C, 0x7D, 0x7E, 0x7F]
  reserved.length = 26 ∧
  (∀ w : SlotWord, decodeWord w = .error .reservedOpcode ↔ w.extractLsb' 20 7 ∈ reserved) ∧
  (∀ (ws : List SlotWord) (term : Bool) (n : Nat) (w : SlotWord), n < 8 → ws[n]? = some w →
    w.extractLsb' 20 7 ∈ reserved →
    (refusal ws term).2.getLsbD 4 = true ∧ (refusal ws term).1.getLsbD n = true) ∧
  (∀ (m : Mach) (part : BitVec 3) (ast : BitVec 16) (d : ImageDecl) (place : List (BitVec 16)),
    ∀ c ∈ d.code, ∀ w ∈ c.2.2, w.extractLsb' 20 7 ∈ reserved → (m.checkImage part ast d place).1 ≠ none) ∧
  decodeWord 0 = .ok (.nop ⟨false, 0⟩) ∧ refusal (List.replicate 8 0) false = (0xFF, 2)

/-- When a core is to issue and its bundle lies in good lines, passes the refusal checks and runs within its budget,
the step is: the frame of the bundle, whose slots read the machine before it; the pc past the bundle; the checks the
bundle fails as a whole; exec of each decoded slot in slot order; and the bundle's finish. The slots are the words at
the pc, each decoded by decodeWord; past the end of the instruction store stands a one-slot bundle of the word outside
every image, the model's reading (log entry 37). When an event is to be taken, the step is exec of that event. (R17,
R18, R21, R22, R24, R44) -/
def Obligations.StepRunsDecoded : Prop :=
  (∀ s : State, runSlots [] s = .next s) ∧
  (∀ (n : Nat) (i : Instr) (rest : List (Nat × Instr)) (s t : State),
    exec i { s with iss := { s.iss with slot := BitVec.ofNat 3 n } } = .next t →
      runSlots ((n, i) :: rest) s = runSlots rest t) ∧
  (∀ (ws : List SlotWord) (n : Nat) (i : Instr),
    (n, i) ∈ decoded ws ↔ ∃ w, ws[n]? = some w ∧ decodeWord w = .ok i) ∧
  (∀ (k : Core) (a fuel n : Nat) (w : SlotWord), (k.frame a fuel).1[n]? = some w → w = k.slotWord (a + 4 * n)) ∧
  (∀ (k : Core) (a : Nat), (a ≤ 0x3FFFC → k.bundleAt a = k.frame a 8) ∧
    (0x3FFFC < a → k.bundleAt a = ([BitVec.allOnes 32], true))) ∧
  ∀ (s : State),
    (∀ i rest, s.mach.todo = .event i :: rest →
      step s = exec i { s with mach := { s.mach with todo := rest } }) ∧
    (∀ cl co rest cx, s.mach.todo = .issue cl co :: rest → s.mach.issuing cl co = some cx →
      let u : State := { s with mach := { s.mach with todo := rest } }
      let x := s.mach.ctx ⟨cl, co, cx⟩
      let fr := (s.mach.core cl co).bundleAt x.pc.toNat
      let is := decoded fr.1
      (s.mach.core cl co).fetchError x.pc.toNat fr.1.length = none → (refusal fr.1 fr.2).2 = 0 → x.count ≤ x.budget →
        let v := ((u.frameOf cl co cx (BitVec.ofNat 19 (x.pc.toNat + 4 * fr.1.length))).advance fr.1).wholeChecks is
        (∀ t, runSlots is v = .next t → step s = .next (t.finish is)) ∧
        v.iss.before = (u.frameOf cl co cx (BitVec.ofNat 19 (x.pc.toNat + 4 * fr.1.length))).iss.before)

/-- At cold reset every memory of the machine is in its canonical form, and no queue holds more than its places.
(R327, R218, R173) -/
def Obligations.ResetInv : Prop := State.reset.Inv

/-- From every state that meets the invariant, in a run or not, a step that answers a next state answers one that
meets it: LM, instruction stores, scratchpads, vaults and drives stay in canonical form, no bridge FIFO holds more
than 16 entries, and no trap queue more than 32 records. (R218, R173, R220, R3) -/
def Obligations.StepKeepsInv : Prop :=
  ∀ s t : State, s.Inv → step s = .next t → t.Inv

/-- A result of a slot adds one entry to the results in flight of the issuing context, with its register, its value,
the cycle c + latency in which it lands, its enabled lanes and its flags. No register of any context, no loop level,
no memory and no register of a cluster changes, and no other context's results. (R44, R96, R54) -/
def Obligations.ResultInFlight : Prop :=
  ∀ (s : State) (lat : Nat) (d : RegDest) (val : Vec) (en : Mask) (fl : Flags),
    let t := s.result lat d val en fl
    t.iss = s.iss ∧ t.mach.pk = s.mach.pk ∧
    (t.mach.ctx s.ref).inflight = (s.mach.ctx s.ref).inflight ++
      [⟨s.mach.nextId, s.now + lat, d, val, en, fl, true, s.now, s.iss.baddr, s.iss.slot⟩] ∧
    (∀ r, r ≠ s.ref → t.mach.ctx r = s.mach.ctx r) ∧
    Spec.SameRegs s.mach t.mach ∧ Spec.SameMemory s.mach t.mach ∧ Spec.SameBlocks s.mach t.mach

/-- An entry of a slot is appended to the gating buffer of the issuing context, or, where an earlier slot of the
bundle is a commit point, to the core's drain, to perform no earlier than the next cycle. No register of any context,
no memory and no register of a cluster changes. (R48, R49, R18) -/
def Obligations.EntryInGate : Prop :=
  ∀ (s : State) (k : GKind) (e : Effect),
    let t := s.gatePush k e
    let entry : Entry := ⟨s.mach.nextId, k, e, s.now, s.iss.baddr, s.iss.slot⟩
    t.iss = s.iss ∧
    (s.iss.commit = false → (t.mach.ctx s.ref).gate = (s.mach.ctx s.ref).gate ++ [entry] ∧
      ∀ cl co, (t.mach.core cl co).drain = (s.mach.core cl co).drain) ∧
    (s.iss.commit = true → (t.mach.ctx s.ref).gate = (s.mach.ctx s.ref).gate ∧
      ∃ d, (t.mach.core s.iss.cl s.iss.co).drain = (s.mach.core s.iss.cl s.iss.co).drain ++ [d] ∧ d.entry = entry ∧
        d.cx = s.iss.cx ∧ d.since = s.mach.cyc s.iss.cl + 1) ∧
    Spec.SameRegs s.mach t.mach ∧ Spec.SameMemory s.mach t.mach ∧ Spec.SameBlocks s.mach t.mach

/-- For every instruction that has a slot word: if exec answers a next state and the slot raised no trap, every byte
of LM, of the instruction stores, of the scratchpads, of the vaults and of the drives reads as before, every tag and
accumulator row is as before, and so are the interrupt files, trap queues and clocks of every cluster. A store changes
memory in its drain cycle, not before. (R48, R49, R54, R18) -/
def Obligations.SlotsKeepMemory : Prop :=
  ∀ (i : Instr) (s t : State), (fieldsOf i).isSome = true → exec i s = .next t → t.iss.raises = s.iss.raises →
    Spec.SameMemory s.mach t.mach ∧ Spec.SameBlocks s.mach t.mach

/-- For every instruction that has a slot word: if exec answers a next state and the slot raised no trap, every
scalar, vector, predicate, mask and format register, every address generator, vrm, vflags and the energy accumulator
of every context are as before; the loop stack of a context is as before unless the instruction is a loop, loopi, lbrk
or exit and the context is the issuing one. (R44, R57, R40, R42, R65) -/
def Obligations.SlotsKeepRegisters : Prop :=
  ∀ (i : Instr) (s t : State) (r : CtxRef), (fieldsOf i).isSome = true → exec i s = .next t →
    t.iss.raises = s.iss.raises →
    let g := (s.mach.ctx r).regs
    let g' := (t.mach.ctx r).regs
    g' = { g with loops := g'.loops } ∧ (t.mach.ctx r).energy = (s.mach.ctx r).energy ∧
    (g'.loops = g.loops ∨ r = s.ref ∧ ((∃ h a b, i = .loop h a b) ∨ (∃ h b n, i = .loopi h b n) ∨
      (∃ h, i = .lbrk h) ∨ ∃ h, i = .exit h))

/-- For every instruction with a slot word whose guard names a predicate: when that predicate reads false, exec
answers the same state, so no register, buffer entry, unit, transfer or trap comes of it; br.t alone moves the next
issue to c+4, as its row of R45 says. (R19, R45, R59) -/
def Obligations.FalseGuardNullifies : Prop :=
  ∀ (i : Instr) (f : Fields) (s : State), fieldsOf i = some f → maskGuarded f.op = false →
    s.regs.pred f.guard = false → (∀ h off, i ≠ .brT h off) → exec i s = .next s

/-- Once a slot of the bundle has raised a trap, every later slot answers a next state that adds at most traps to the
bundle's list: if it adds none, the machine is unchanged; and the trap that the bundle takes has the lowest cause of
the list, the mask of the slots that raised that cause, and the detail of the first of them (the first in slot order:
log entry 18), with the machine as it was before the bundle; a gang member's trap, and one of a context for which a
trap found at a sample waits, is taken once the marks of the cycle are known (log entry 18). (R24) -/
def Obligations.Suppression : Prop :=
  (∀ (i : Instr) (s : State), (fieldsOf i).isSome = true → s.iss.raises ≠ [] →
    ∃ t l, exec i s = .next t ∧ t.iss.raises = s.iss.raises ++ l ∧ (l = [] → t.mach = s.mach)) ∧
  (∀ (s : State) (cause : BitVec 8) (detail : Word),
    let t := s.raise cause detail
    t.iss.raises = s.iss.raises ++ [⟨1#8 <<< s.iss.slot.toNat, cause, detail⟩] ∧ t.iss.before = some s.pre ∧
    ∃ r first rest mask, t.iss.raises = first ++ r :: rest ∧ (∀ q ∈ t.iss.raises, r.cause.toNat ≤ q.cause.toNat) ∧
      (∀ q ∈ first, q.cause ≠ r.cause) ∧
      (∀ n, n < 8 → (mask.getLsbD n = true ↔ ∃ q ∈ t.iss.raises, q.cause = r.cause ∧ q.mask.getLsbD n = true)) ∧
      let taken : Trap :=
        { ctx := s.ref, cause := r.cause, mask := mask, baddr := s.iss.baddr, detail := r.detail,
          pos := .issue s.iss.after, issued := s.now, img := s.preCtx.img, part := s.preCtx.part }
      let waits : Prop := s.preCtx.gang ≠ none ∨ ∃ q ∈ (s.pre.cluster s.iss.cl).pend, q.ctx = s.ref
      (¬waits → t.mach = s.pre.trap taken) ∧
      (waits → t.mach = s.pre.modCluster s.iss.cl fun c => { c with pend := c.pend ++ [taken] }))

/-- Taking a trap writes one record with the fields of R172 in their places: it enters the queue of the context's
cluster when fewer than 32 are there, and is dropped and counted otherwise; its number is consumed either way, and the
identity of its cause, or 15 above 0x0E, is set pending in the cluster's interrupt file. Every other identity stays as
it was. (R172, R173) -/
def Obligations.TrapRecords : Prop :=
  (∀ (seq mask cause : BitVec 8) (r : CtxRef) (lvl : BitVec 3) (act : BitVec 2) (baddr : PC) (fret detail : Word),
    let w := trapRecord seq mask cause r lvl act baddr fret detail
    w.extractLsb' 0 64 = detail ∧ w.extractLsb' 64 64 = fret ∧ w.extractLsb' 128 18 = baddr.setWidth 18 ∧
    w.extractLsb' 146 46 = 0 ∧ w.extractLsb' 192 2 = act ∧ w.extractLsb' 194 3 = lvl ∧ w.extractLsb' 197 3 = r.cx ∧
    w.extractLsb' 200 3 = r.co ∧ w.extractLsb' 203 5 = r.cl ∧ w.extractLsb' 208 8 = cause ∧
    w.extractLsb' 216 8 = mask ∧ w.extractLsb' 224 8 = seq ∧ w.extractLsb' 232 24 = 0) ∧
  (∀ (m : Mach) (t : Trap),
    let v := contain (m.ctx t.ctx).gang.isSome t.pos (m.levels t) t.cause
    let c := m.cluster t.ctx.cl
    let d := (m.trap t).cluster t.ctx.cl
    let ident := if v.2.2.toNat ≤ 0x0E then v.2.2.toNat else 15
    d.tqSeq = c.tqSeq + 1 ∧ d.tqHead = c.tqHead ∧
    (c.tqCount < 32 → d.tqCount = c.tqCount + 1 ∧ d.tqOvf = c.tqOvf ∧
      d.tqrec.find ((c.tqHead.toNat + c.tqCount) % 32) = some (trapRecord c.tqSeq t.mask v.2.2 t.ctx v.1.code
        v.2.1.code t.baddr m.fret t.detail)) ∧
    (32 ≤ c.tqCount → d.tqCount = c.tqCount ∧ d.tqrec = c.tqrec ∧ d.tqOvf = min 65535 (c.tqOvf + 1)) ∧
    (ident ≠ 0 → d.ifpend = c.ifpend ||| 1#1024 <<< ident) ∧ d.ifen = c.ifen)

/-- RESULT_LANDS of a context with one result due: its register takes the value (the enabled byte lanes of a vector or
mask, the low bits of any other; a write to s0 is discarded), its flags are ORed into vflags, every other register
keeps its value, the result leaves the list, and the results due later stay. fm, vrm, vflags, an address generator's
base and a stride take the low bits of the value, and the other parts of theirs stay. Of two results due in one cycle
the later-issued lands last, a write of vflags before the flags of the cycle are ORed into it; two bundles' results
that meet in one register of R174 queue the collision event, of the earlier-issued one, and so with more than two, one
event for each earlier-issued one. That a result with no enabled element counts as a landing, and how many events more
than two results make, is the choice of the model (log entry 37). No memory changes, and no other context. (R44, R47,
R91, R96, R38, R82, R68, R156, R174) -/
def Obligations.Landings : Prop :=
  (∀ (cl : ClusterId) (co : CoreId) (cx : CtxId) (s : State) (x : InFlight),
    let r : CtxRef := ⟨cl, co, cx⟩
    let cyc := s.mach.cyc cl
    let g := (s.mach.ctx r).regs.land x.dest x.val x.en
    (s.mach.ctx r).inflight.filter (fun y => decide (y.due ≤ cyc) && y.ready) = [x] →
    ∃ t, exec (.resultLands cl co cx) s = .next t ∧
      (t.mach.ctx r).regs = { g with vflags := g.vflags ||| x.flags } ∧
      (t.mach.ctx r).inflight = (s.mach.ctx r).inflight.filter (fun y => decide (cyc < y.due)) ∧
      (∀ q, q ≠ r → t.mach.ctx q = s.mach.ctx q) ∧ Spec.SameMemory s.mach t.mach ∧ Spec.SameBlocks s.mach t.mach) ∧
  (∀ (g : Regs) (val : Vec) (en : Mask),
    g.land (.s 0) val en = g ∧
    (∀ n, n ≠ 0 → (g.land (.s n) val en).sreg n = val.setWidth 64 ∧
      ∀ k, k ≠ n → (g.land (.s n) val en).sreg k = g.sreg k) ∧
    (∀ n j, j < 256 → vecByte ((g.land (.v n) val en).vreg n) j =
      if en.getLsbD j then vecByte val j else vecByte (g.vreg n) j) ∧
    (∀ n k, k ≠ n → (g.land (.v n) val en).vreg k = g.vreg k) ∧
    (∀ k, k ≠ 0 → k ≠ 6 → k ≠ 7 → (g.land (.p k) val en).predEven k = val.getLsbD 0 ∧
      ∀ j, j ≠ k → (g.land (.p k) val en).predEven j = g.predEven j) ∧
    (∀ k j, k ≠ 0 → j < 256 → ((g.land (.q k) val en).maskEven k).getLsbD j =
      if en.getLsbD j then val.getLsbD j else (g.maskEven k).getLsbD j) ∧
    (∀ f, (g.land (.fm f) val en).fmReg f = val.setWidth 20 ∧
      ∀ j, j ≠ f → (g.land (.fm f) val en).fmReg j = g.fmReg j) ∧
    g.land .vrm val en = { g with vrm := val.setWidth 2 } ∧ g.land .vflags val en = { g with vflags := val.setWidth 5 } ∧
    (∀ (n j : BitVec 3),
      let a := g.ag[j.toNat]'j.isLt
      ((g.land (.agBase n) val en).ag[j.toNat]'j.isLt) = (if j = n then { a with base := val.setWidth 32 } else a) ∧
      ∀ (l : BitVec 3) (i : Nat) (hi : i < 6),
        let b := (g.land (.agStride n l) val en).ag[j.toNat]'j.isLt
        b.base = a.base ∧ b.stride[i] = if j = n ∧ i = l.toNat then val.setWidth 32 else a.stride[i]) ∧
    (∀ n, g.land (.fm n) val en = { g with fm := (g.land (.fm n) val en).fm }) ∧
    (∀ n l, g.land (.agBase n) val en = { g with ag := (g.land (.agBase n) val en).ag } ∧
      g.land (.agStride n l) val en = { g with ag := (g.land (.agStride n l) val en).ag })) ∧
  (∀ (cl : ClusterId) (co : CoreId) (cx : CtxId) (s : State) (x y : InFlight),
    let r : CtxRef := ⟨cl, co, cx⟩
    let cyc := s.mach.cyc cl
    let g := (s.mach.ctx r).regs
    let after (u v : InFlight) : Regs :=
      let a := g.land u.dest u.val u.en
      let b := { a with vflags := a.vflags ||| u.flags }.land v.dest v.val v.en
      { b with vflags := b.vflags ||| v.flags }
    (s.mach.ctx r).inflight.filter (fun z => decide (z.due ≤ cyc) && z.ready) = [x, y] → x.id < y.id →
    ∃ t, exec (.resultLands cl co cx) s = .next t ∧
      (t.mach.ctx r).regs = (if y.dest = .vflags ∧ x.dest ≠ .vflags then after y x else after x y) ∧
      (t.mach.ctx r).inflight = (s.mach.ctx r).inflight.filter (fun z => decide (cyc < z.due)) ∧
      (t.mach.core cl co).evNew = (s.mach.core cl co).evNew ++
        match collisionReg x.dest with
        | none => []
        | some n => if x.dest = y.dest ∧ x.issued ≠ y.issued then
            [⟨0, 0x01, cx, x.slot, x.baddr, BitVec.ofNat 40 s.mach.pk.fret, n, false⟩] else []) ∧
  (∀ (cl : ClusterId) (co : CoreId) (cx : CtxId) (s : State) (l : List InFlight),
    let r : CtxRef := ⟨cl, co, cx⟩
    let cyc := s.mach.cyc cl
    let lands (g : Regs) (u : InFlight) : Regs :=
      let a := g.land u.dest u.val u.en
      { a with vflags := a.vflags ||| u.flags }
    (s.mach.ctx r).inflight.filter (fun z => decide (z.due ≤ cyc) && z.ready) = l →
    l.Pairwise (fun x y => x.id < y.id) →
    ∃ t, exec (.resultLands cl co cx) s = .next t ∧
      (t.mach.ctx r).regs = (l.filter (fun u => decide (u.dest ≠ .vflags))).foldl lands
        ((l.filter fun u => decide (u.dest = .vflags)).foldl lands (s.mach.ctx r).regs) ∧
      (t.mach.ctx r).inflight = (s.mach.ctx r).inflight.filter (fun z => decide (cyc < z.due)) ∧
      (t.mach.core cl co).evNew = (s.mach.core cl co).evNew ++ l.flatMap fun x =>
        match collisionReg x.dest with
        | none => []
        | some n => if l.any (fun y => decide (x.id < y.id ∧ y.dest = x.dest ∧ y.issued ≠ x.issued)) = true then
            [⟨0, 0x01, cx, x.slot, x.baddr, BitVec.ofNat 40 s.mach.pk.fret, n, false⟩] else []) ∧
  (∀ k, k ≠ 0 → collisionReg (.s k) = some (BitVec.ofNat 32 k.toNat)) ∧ collisionReg (.s 0) = none ∧
  (∀ k, collisionReg (.v k) = some (BitVec.ofNat 32 (2 ^ 8 + k.toNat))) ∧
  (∀ k, collisionReg (.p k) = some (BitVec.ofNat 32 (2 * 2 ^ 8 + k.toNat)) ∧
    collisionReg (.q k) = some (BitVec.ofNat 32 (3 * 2 ^ 8 + k.toNat)))

/-- DRAIN_ENTRY with a committed LM store at the head, its cycle come and fewer than two entries drained in this
cycle: the store leaves the drain; each byte that it writes reads as the last that the store gives it, where the
elements of a scatter overlap, and every other byte of that LM as before; no other LM, no scratchpad, vault or
register changes. A scratchpad store and a release atomic go to their bank, which they reach five cycles later; a
release atomic in LM performs in the drain cycle; an interrupt reaches its file eight cycles later or after a free
delay more; one to a cluster that has left the partition reaches none (log entry 16). An event that no fence holds,
and behind none of its context that one holds, is queued at its core with the Fret count; a held one waits. A copy is
handed over: a channel not bound to the context refuses it with reason 8 and no ID; otherwise it takes the next ID,
and waits in the channel, or is refused with its reason, 7 for a full share, and ends. A far atomic is refused with
reason 9 for its alignment and 10 for its result line, or joins those under way. A pool message, and a queue or scope
message that none of the reasons 11 to 13 refuses, joins the path to its directory or queue engine. A text command is
refused with reason 14 or 15 or joins its engine. A storage or network command takes the next ID of its channel, and
is refused with reason 8, 3, 6 or 7, or waits in the channel (the 0 shown with reason 8 is the choice of log entry
29). A bridge push that no fence holds stands last in its FIFO and counts at the producer, or into a full FIFO is
dropped with cause 0x05, kind 1; a pop becomes final. (R49, R155, R158, R176, R177, R220, R246, R251, R256, R260,
R301, R320) -/
def Obligations.DrainStoresBytes : Prop :=
  (∀ (cl : ClusterId) (co : CoreId) (s : State) (d : DrainItem) (rest : List DrainItem) (bytes : List (Nat × Byte)),
    let k := s.mach.core cl co
    k.drain = d :: rest → d.entry.eff = .store .lm bytes → k.drained < 2 → d.since ≤ s.mach.cyc cl →
    k.lm.wf (some 0) = true →
    ∃ t, exec (.drainEntry cl co) s = .next t ∧ (t.mach.core cl co).drain = rest ∧
      (t.mach.core cl co).drained = k.drained + 1 ∧
      (∀ a b, Spec.LastIs bytes a b → (t.mach.core cl co).lm.byte (some 0) a = some b) ∧
      (∀ a, a ∉ bytes.map Prod.fst → (t.mach.core cl co).lm.byte (some 0) a = k.lm.byte (some 0) a) ∧
      (∀ c o, (c, o) ≠ (cl, co) → t.mach.core c o = s.mach.core c o) ∧
      (∀ c, (t.mach.cluster c).scratch = (s.mach.cluster c).scratch) ∧ t.mach.pk.vault = s.mach.pk.vault ∧
      Spec.SameRegs s.mach t.mach ∧ ∀ o ∈ t.mach.pk.outs, o.id ≠ d.entry.id) ∧
  ∀ (cl : ClusterId) (co : CoreId) (s : State) (d : DrainItem) (rest : List DrainItem),
    let k := s.mach.core cl co
    let id := d.entry.id
    let b := (s.mach.core (cl ||| 16#5) co).bridge
    let gone := s.mach.modCore cl co fun k => { k with drain := rest, drained := k.drained + 1 }
    let goes (m : Mach) : Prop := exec (.drainEntry cl co) s = .next { s with mach := m }
    let drains (P : Mach → Prop) : Prop := ∃ t, exec (.drainEntry cl co) s = .next t ∧
      (t.mach.core cl co).drain = rest ∧ (t.mach.core cl co).drained = k.drained + 1 ∧
      Spec.SameRegs s.mach t.mach ∧ Spec.SameMemory s.mach t.mach ∧ P t.mach
    let banked (bytes : List (Nat × Byte)) (a : Option Atomic) : Mach := gone.modCluster cl fun c =>
      { c with bank := c.bank ++ [⟨c.cyc + 5, d.entry.issued, co, d.cx, bytes, a, some id⟩] }
    let o := d.origin cl co
    let x := s.mach.ctx o.ctx
    let refused (reason ch shown : Nat) : Prop := goes (gone.refuse o id reason ch shown)
    let sent (q : Quad) (g : Msg) : Mach := gone.modPk fun p =>
      { p with path := p.path ++ [⟨o, q, g, some id, d.holds, false, 0, none, false⟩] }
    let home := ((o.img.bind fun n => s.mach.pk.image o.part n).map Image.home).getD (quadOf cl)
    let queue (hd : Word) := s.mach.pk.queueOf o.part o.img (hd.setWidth 12)
    let scope (c : BitVec 8) := s.mach.pk.scopeOf o.part o.img c
    let line (align n : Nat) (w : Word) : Prop :=
      let a := w.toNat % 2 ^ 32
      a % align = 0 ∧ a + n ≤ 0x200000 ∧ ∀ b, a ≤ b → b < a + n → ∃ v ∈ x.lmWin, v.w = true ∧ v.has (b / 256) = true
    let rings (dst : ClusterId) (ident : BitVec 10) : Prop :=
      (s.mach.pk.clusterIn d.part dst = false → goes (gone.performed id)) ∧
      (s.mach.pk.clusterIn d.part dst = true → ∃ n, drains fun m =>
        (m.cluster dst).irqs = (s.mach.cluster dst).irqs ++ [⟨cl.toNat, s.mach.cyc cl + 8 + n, ident, some id, none⟩] ∧
        ∀ c, c ≠ dst → (m.cluster c).irqs = (s.mach.cluster c).irqs)
    let now : Prop := s.mach.free? d.holds = true ∧ ∀ e ∈ k.heldEvts, e.cx ≠ d.cx
    let later : Mach := gone.modCore cl co fun k => { k with heldEvts := k.heldEvts ++ [d] }
    let ports (sio : Option SioOp) (net : Option NetOp) (ps : List Word) (flag : Bool) (ch : BitVec 2) : Prop :=
      let u : ChanUnit := if sio.isSome then .sio else .net
      let j := (o.part ++ ch).toNat
      let c := s.mach.pk.port u (o.part ++ ch)
      let taken : Mach := gone.modPk fun p => p.modPort u j fun c => { c with next := c.next + 1 }
      let ended : Mach := taken.modPk fun p => p.modPort u j fun y => y.finish c.next
      let va := (ps.headD 0).toNat % 2 ^ 48
      let second := ps.getD 1 0
      let blocks := ((s.mach.pk.driveOf c).map fun d => d.ns.blocks).getD 0
      let cmd (n : Nat) : PortCmd :=
        { org := o, id := c.next, sio := sio, net := net, p := ps, flag := flag, holds := d.holds, eff := id,
          ready := s.mach.pk.fret + 1 + n,
          mark := if net.isSome && (s.mach.pk.keySlot c.domain).revoked then some 0 else none, begun := false, data := [] }
      let owns : Prop := c.state = 2 ∧ c.owner = some o.ctx ∧ c.img = o.img
      let bad3 : Prop := sio ≠ some .flush ∧ va % (if sio.isSome then 512 else 4) ≠ 0
      let bad6 : Prop := sio ≠ some .flush ∧
        if sio.isSome then blocks < second.toNat / 2 ^ 48 + 1
        else second.toNat % 2 ^ 32 = 0 ∨ 16777216 < second.toNat % 2 ^ 32
      (¬owns → goes (ended.refuse o id 8 ch.toNat 0)) ∧
      (owns → bad3 → goes (ended.refuse o id 3 ch.toNat c.next.toNat)) ∧
      (owns → ¬bad3 → bad6 → goes (ended.refuse o id 6 ch.toNat c.next.toNat)) ∧
      (owns → ¬bad3 → ¬bad6 → 64 ≤ c.cmds.length → goes (ended.refuse o id 7 ch.toNat c.next.toNat)) ∧
      (owns → ¬bad3 → ¬bad6 → c.cmds.length < 64 → ∃ n, drains fun m => m.pk.port u (o.part ++ ch) =
        { c with next := c.next + 1, cmds := c.cmds ++ [cmd n] })
    k.drain = d :: rest → k.drained < 2 → d.since ≤ s.mach.cyc cl →
    (∀ bytes, d.entry.eff = .store .sp bytes → goes (banked bytes none)) ∧
    (∀ a, d.entry.eff = .atomic a →
      (a.space = .sp → goes (banked [] (some { a with eff := some id }))) ∧
      (a.space = .lm → goes (gone.modCore cl co fun k =>
        { k with atomics := k.atomics ++ [⟨s.mach.cyc cl, co, { a with eff := some id }, d.entry.issued⟩] }))) ∧
    (∀ dst ident, d.entry.eff = .irq dst ident → rings dst ident) ∧
    (∀ dst ident, d.entry.eff = .cmd (.evtIrq dst ident) → (now → rings dst ident) ∧ (¬now → goes later)) ∧
    (∀ code target detail, d.entry.eff = .cmd (.evtPost code target detail) →
      let y := s.mach.ctx ⟨cl, co, target⟩
      let ev : EventNew := ⟨rankSoftware, 1#1 ++ code, target, d.entry.slot, d.entry.baddr, BitVec.ofNat 40 s.mach.pk.fret,
        detail, y.img != d.img || y.part != d.part⟩
      (now → goes ((gone.modCore cl co fun k => { k with evNew := k.evNew ++ [ev] }).performed id)) ∧
      (¬now → goes later)) ∧
    (∀ op ord n addr val cmp res, d.entry.eff = .cmd (.famo op ord n addr val cmp res) →
      let va := addr.toNat % 2 ^ 48
      let fits : Prop := ∀ w, res = some w → line 8 8 w
      let far : FarAtomic :=
        { id := id, org := o, op := op, ord := ord, n := n, addr := addr.setWidth 48, val := val, cmp := cmp,
          res := res.map fun w => (w.toNat % 2 ^ 32, w.extractLsb' 32 16), holds := d.holds, handed := s.mach.pk.fret,
          ready := 0, armed := false, stall := none, loc := none }
      (va % n ≠ 0 → refused 9 0 va) ∧ (va % n = 0 → ¬fits → refused 10 0 va) ∧
      (va % n = 0 → fits → goes (gone.modPk fun p => { p with fars := p.fars ++ [far] }))) ∧
    (∀ op a v hasD, d.entry.eff = .cmd (.pool op a v hasD) →
      let q := ((s.mach.pk.poolOf o.part o.img (poolHandle op a)).map fun y => quadOf y.writer.cl).getD (quadOf cl)
      goes ((sent q (.pool op a v hasD)).placed id [.quad q])) ∧
    (∀ hd bytes, d.entry.eff = .cmd (.qpush hd bytes) →
      let bad : Prop := hd.getLsbD 20 = true ∧ scope (hd.extractLsb' 12 8) = none
      (queue hd = none → refused 11 0 0) ∧ (queue hd ≠ none → bad → refused 12 0 0) ∧
      (queue hd ≠ none → ¬bad → goes (sent home (.qpush hd bytes)))) ∧
    (∀ hd res, d.entry.eff = .cmd (.qpop hd res) → (queue hd = none → refused 11 0 0) ∧
      (queue hd ≠ none → ¬line 256 72 res → refused 13 0 0) ∧
      (queue hd ≠ none → line 256 72 res → goes (sent home (.qpop hd res)))) ∧
    (∀ hd res, d.entry.eff = .cmd (.qcount hd res) → (queue hd = none → refused 11 0 0) ∧
      (queue hd ≠ none → ¬line 8 8 res → refused 13 0 0) ∧
      (queue hd ≠ none → line 8 8 res → goes (sent home (.qcount hd res)))) ∧
    (∀ openIt a, d.entry.eff = .cmd (.scope openIt a) → (scope (a.setWidth 8) = none → refused 12 0 0) ∧
      (scope (a.setWidth 8) ≠ none → goes (sent home (.scope openIt (a.setWidth 8))))) ∧
    (∀ tok r p0 p1 a, d.entry.eff = .cmd (.txt tok r p0 p1 a) →
      let e : BitVec 4 := (if tok then 0#1 else 1#1) ++ a.extractLsb' 4 3
      let n := a.toNat % 16
      let y := s.mach.pk.textSlot e n
      let bound : Prop := y.state = 2 ∧ (s.mach.pk.textEngine e).part = some o.part ∧ some y.img = o.img
      let cmd (t : Nat) : TextCmd :=
        { org := o, tok := tok, d := r, p0 := p0, p1 := p1, slot := n, final := a.getLsbD 8, holds := d.holds, eff := id,
          ready := s.mach.pk.fret + t, ids := none, put := 0, got := [] }
      let fits : Prop := (∀ w, r = some w → line 16 16 w) ∧ (if tok then p1 else p0).toNat % 4 = 0
      (¬bound → refused 14 0 0) ∧ (bound → ¬fits → refused 15 0 0) ∧
      (bound → fits → ∃ t, drains fun m => m.pk.textEngine e =
        { s.mach.pk.textEngine e with cmds := (s.mach.pk.textEngine e).cmds ++ [cmd t] })) ∧
    (∀ op p0 p1 fua ch, d.entry.eff = .cmd (.sio op p0 p1 fua ch) → ports (some op) none [p0, p1] fua ch) ∧
    (∀ op ps ord ch, d.entry.eff = .cmd (.net op ps ord ch) → ports none (some op) ps ord ch) ∧
    (∀ t dst src ch frz, d.entry.eff = .cmd (.cpy t dst src ch frz) →
      let c := s.mach.pk.chan cl ch
      let dest := layoutOf dst
      let reason := gone.copyReason o.ctx (layoutOf src) dest
      (c.owner ≠ some o.ctx ∨ c.img ≠ d.img → dest.space ≠ 0 → goes (gone.refuse o id 8 ch.toNat 0)) ∧
      (c.owner = some o.ctx → c.img = d.img →
        (reason = none → c.cmds.length < 16 → drains fun m => ∃ x : CopyCmd,
          m.pk.chan cl ch = { c with next := c.next + 1, cmds := c.cmds ++ [x] } ∧ x.id = c.next ∧ x.org = o ∧
          x.src = layoutOf src ∧ x.dst = dest ∧ x.t = t ∧ x.frz = frz ∧ x.handed = s.mach.pk.fret ∧ x.holds = d.holds ∧
          x.launched = false ∧ x.eff = id) ∧
        ∀ n, reason = some n ∨ (reason = none ∧ 16 ≤ c.cmds.length ∧ n = 7) → dest.space ≠ 0 →
          goes ((gone.modPk fun p => p.modChan cl ch fun c => { c with next := c.next + 1 }.finish c.next).refuse o id n
            ch.toNat c.next.toNat))) ∧
    (∀ v, d.entry.eff = .cmd (.brgPush v) → cl.getLsbD 4 = false → s.mach.free? d.holds = true → b.waiting = [] →
      (b.fifo.length < 16 → ∃ n, drains fun m => (m.core (cl ||| 16#5) co).bridge =
        { b with fifo := b.fifo ++ [v], prodHeld := b.prodHeld + 1,
                 crossings := b.crossings ++ [⟨s.mach.pk.fret + 1 + n, true⟩] }) ∧
      (16 ≤ b.fifo.length → goes ((gone.performed id).trapLate
        { ctx := ⟨cl, co, d.cx⟩, cause := 0x05, mask := 1#8 <<< d.entry.slot.toNat, baddr := d.entry.baddr,
          detail := BitVec.ofNat 64 (1 + b.fifo.length * 2 ^ 16), pos := .effect, issued := d.entry.issued,
          img := d.img, part := d.part }))) ∧
    (d.entry.eff = .cmd .brgPop → cl.getLsbD 4 = true → ∃ n, drains fun m => (m.core cl co).bridge =
      { b with fifo := b.fifo.drop 1, consHeld := b.consHeld - 1, u := b.u - 1,
               crossings := b.crossings ++ [⟨s.mach.pk.fret + 1 + n, false⟩] })

/-- CONTEXT_RELEASE releases a waiting context whose condition holds, with its retry count reloaded and its running
count at 1, or asks for the capo level its first bundle needs. CONTEXT_SELECTION takes the candidate of highest
priority, then earliest release time, then lowest number, and it issues two cycles later. PREEMPTION puts the running
context back to released. BUDGET_OVERRUN raises cause 0x0F. GANG_RELEASE lets every member issue three cycles later.
No register of a context and no memory changes. (R163, R164, R165, R166, R167, R210, R169) -/
def Obligations.SchedulingEvents : Prop :=
  (∀ (cl : ClusterId) (co : CoreId) (cx : CtxId) (s : State) (due : Nat),
    let r : CtxRef := ⟨cl, co, cx⟩
    let x := s.mach.ctx r
    let need := (s.mach.core cl co).capoNeed x
    x.run = .waiting → x.dueAt s.mach.pk.count = some due → x.capoReq = none →
    (x.capoGrantAt.isSome = true ∨ need ≤ x.capo → ∃ t, exec (.contextRelease cl co cx) s = .next t ∧
      let y := t.mach.ctx r
      y.run = .released ∧ y.relTime = x.releaseTime s.mach.pk.fret ∧ y.relCycle = s.mach.cyc cl ∧
      y.retry = x.retryInit ∧ y.count = 1 ∧ y.pc = x.pc ∧ y.gate = x.gate ∧
      Spec.OtherContexts r s.mach t.mach ∧ Spec.SameRegs s.mach t.mach ∧ Spec.SameMemory s.mach t.mach) ∧
    (x.capoGrantAt = none → x.capo < need → ∃ t, exec (.contextRelease cl co cx) s = .next t ∧
      (t.mach.ctx r).run = .waiting ∧ (t.mach.ctx r).capoReq = some (need, s.mach.pk.fret) ∧
      (t.mach.dom (domOf cl)).capo =
        CapoReq.insert ⟨x.prio, s.mach.pk.fret, r, need⟩ (s.mach.dom (domOf cl)).capo ∧
      Spec.OtherContexts r s.mach t.mach ∧ Spec.SameRegs s.mach t.mach ∧ Spec.SameMemory s.mach t.mach)) ∧
  (∀ (cl : ClusterId) (co : CoreId) (s : State) (cx : CtxId) (x : Context),
    let k := s.mach.core cl co
    let ready := k.candidates (s.mach.cyc cl)
    k.running = none → k.selFrom ≤ s.mach.cyc cl → (cx, x) ∈ ready →
    (∀ p ∈ ready, p.1 ≠ cx → p.2.prio < x.prio ∨ p.2.prio = x.prio ∧ (x.relTime < p.2.relTime ∨
      x.relTime = p.2.relTime ∧ cx < p.1)) →
    ∃ t, exec (.contextSelection cl co) s = .next t ∧ (t.mach.core cl co).running = some cx ∧
      let y := t.mach.ctx ⟨cl, co, cx⟩
      y.run = .running ∧ y.nextIssue = max (s.mach.cyc cl + 2) x.nextIssue ∧ y.pc = x.pc ∧
      Spec.OtherContexts ⟨cl, co, cx⟩ s.mach t.mach ∧ Spec.SameRegs s.mach t.mach ∧ Spec.SameMemory s.mach t.mach) ∧
  (∀ (cl : ClusterId) (co : CoreId) (s : State) (cx : CtxId),
    let k := s.mach.core cl co
    let x := k.ctx cx
    let cyc := s.mach.cyc cl
    k.running = some cx → k.issued = true → x.steppedBody = true → x.gang = none →
    k.preempter x.prio cyc = true →
    ∃ t, exec (.preemption cl co) s = .next t ∧ (t.mach.core cl co).running = none ∧
      (t.mach.core cl co).selFrom = cyc + 1 ∧ (t.mach.core cl co).selUrgent = some x.prio ∧
      let y := t.mach.ctx ⟨cl, co, cx⟩
      y.run = .released ∧ y.inflight = [] ∧ y.snap = some ⟨cyc + 1, x.inflight⟩ ∧ y.pc = x.pc ∧
      Spec.OtherContexts ⟨cl, co, cx⟩ s.mach t.mach ∧ Spec.SameRegs s.mach t.mach ∧ Spec.SameMemory s.mach t.mach) ∧
  (∀ (cl : ClusterId) (co : CoreId) (cx : CtxId) (s : State),
    s.iss.before.isSome = true → s.ref = ⟨cl, co, cx⟩ → s.preCtx.budget < s.preCtx.count →
    exec (.budgetOverrun cl co cx) s = .next (s.raiseMask 0 0x0F (BitVec.ofNat 64 (s.preCtx.budget % 2 ^ 32)))) ∧
  ∀ (cl : ClusterId) (g : BitVec 6) (s : State) (gg : Gang),
    let cyc := s.mach.cyc cl
    (s.mach.cluster cl).gangs.find g.toNat = some gg → s.mach.gangReady cl gg = true →
    (gg.members.map Prod.fst).Nodup →
    ∃ t, exec (.gangRelease cl g) s = .next t ∧
      (∀ p ∈ gg.members, (t.mach.core cl p.1).running = some p.2 ∧
        let y := t.mach.ctx ⟨cl, p.1, p.2⟩
        y.run = .running ∧ y.nextIssue = cyc + 3 ∧ y.relTime = s.mach.pk.fret ∧
        y.pc = (s.mach.ctx ⟨cl, p.1, p.2⟩).pc) ∧
      (∃ h, (t.mach.cluster cl).gangs.find g.toNat = some h ∧ h.base = cyc + 3 ∧ h.retry = gg.retryInit ∧
        h.lone = false ∧ h.killed = []) ∧
      Spec.SameRegs s.mach t.mach ∧ Spec.SameMemory s.mach t.mach

/-- TAG_CHECK_SAMPLE passes a load all of whose lines carry the expected tag, and finds a trap with cause 0x04, the
first mismatching line and the tag found otherwise, taken with the marks of its cycle (log entry 18).
SCRATCHPAD_BANK_ACCESS writes the bytes of a store that has reached its bank, the last of them at each address, and no
other; an atomic there reads the number that its bytes hold, writes what its operation makes of it, and gives its
result that number extended by its sign. EVENT_WRITE_OUT writes the oldest record at its place of the event area, or
discards it without one; the records behind it with no area to go to are discarded as they reach the head.
TIMED_TRANSFER_ARRIVAL puts an arrival into the latch of its sender. (R125, R175, R204, R205, R208, R213) -/
def Obligations.CoreSampleEvents : Prop :=
  (∀ (cl : ClusterId) (co : CoreId) (cx : CtxId) (s : State) (l : Load) (tg : BitVec 16),
    let r : CtxRef := ⟨cl, co, cx⟩
    let k := s.mach.core cl co
    let x := s.mach.ctx r
    let m := s.mach.modCtx r fun x => { x with loads := [{ l with tagDone := true }] }
    x.loads = [l] → l.tag = some tg → l.tagDone = false → l.memAt ≤ s.mach.cyc cl →
    ((∀ n ∈ l.lines, k.tag n = tg) → exec (.tagCheckSample cl co cx) s = .next { s with mach := m }) ∧
    (∀ n, l.lines.find? (fun n => k.tag n != tg) = some n →
      let trap : Trap :=
        { ctx := r, cause := 0x04, mask := 1#8 <<< l.slot.toNat, baddr := l.baddr,
          detail := BitVec.ofNat 64 ((k.tag n).toNat * 2 ^ 32 + n * 256), pos := .sample, issued := l.issued,
          img := x.img, part := x.part }
      exec (.tagCheckSample cl co cx) s =
        .next { s with mach := m.modCluster cl fun c => { c with pend := c.pend ++ [trap] } })) ∧
  (∀ (cl : ClusterId) (s : State) (t : Trap), (s.mach.cluster cl).pend = [t] → t.pos ≠ .target →
    s.takeTraps cl = { s with mach := (s.mach.modCluster cl fun c => { c with pend := [] }).trap t }) ∧
  (∀ (cl : ClusterId) (s : State) (b : BankWrite),
    let c := s.mach.cluster cl
    c.bank = [b] → b.due ≤ c.cyc → c.scratch.wf (some 0) = true →
    (b.atomic = none →
    ∃ t, exec (.scratchpadBankAccess cl) s = .next t ∧ (t.mach.cluster cl).bank = [] ∧
      (∀ a v, Spec.LastIs b.bytes a v → (t.mach.cluster cl).scratch.byte (some 0) a = some v) ∧
      (∀ a, a ∉ b.bytes.map Prod.fst →
        (t.mach.cluster cl).scratch.byte (some 0) a = c.scratch.byte (some 0) a) ∧
      (∀ co, (t.mach.core cl co).lm = (s.mach.core cl co).lm ∧ (t.mach.core cl co).lmTags = (s.mach.core cl co).lmTags ∧
        (t.mach.core cl co).acc = (s.mach.core cl co).acc ∧ (t.mach.core cl co).drain = (s.mach.core cl co).drain) ∧
      (∀ r, (t.mach.ctx r).loads.map (fun l => { l with keep := [] }) =
        (s.mach.ctx r).loads.map fun l => { l with keep := [] }) ∧ Spec.SameRegs s.mach t.mach ∧
      (∀ d, d ≠ cl → t.mach.cluster d = s.mach.cluster d) ∧ t.mach.pk.vault = s.mach.pk.vault) ∧
    ∀ (a : Atomic) (old : Nat),
      let r : CtxRef := ⟨cl, b.core, a.cx⟩
      let w := 2 ^ (8 * a.n)
      let byte (m : Mach) (i : Nat) : Byte := ((m.cluster cl).scratch.byte (some 0) (a.addr + i)).getD 0
      b.atomic = some a → a.space = .sp → (a.n = 4 ∨ a.n = 8) → s.mach.badByte cl b.core .sp (span a.addr a.n) = none →
      Spec.Holds (byte s.mach) a.n old →
      ∃ t, exec (.scratchpadBankAccess cl) s = .next t ∧ (t.mach.cluster cl).bank = [] ∧
        (∀ op, a.kind = .rmw op → Spec.Holds (byte t.mach) a.n (applyOp op a.n old (a.val.toNat % w) (a.exp.toNat % w))) ∧
        (a.kind = .store → Spec.Holds (byte t.mach) a.n (a.val.toNat % w)) ∧
        (a.kind = .load → (t.mach.cluster cl).scratch = c.scratch) ∧
        (∀ x, x < a.addr ∨ a.addr + a.n ≤ x →
          (t.mach.cluster cl).scratch.byte (some 0) x = c.scratch.byte (some 0) x) ∧
        (t.mach.ctx r).inflight = (match a.res with
          | none => (s.mach.ctx r).inflight
          | some id => (s.mach.ctx r).inflight.map fun f => if f.id = id then
              { f with val := (Spec.signed a.n old).setWidth 2048, ready := true } else f) ∧
        (∀ id, a.eff = some id → ∀ o ∈ t.mach.pk.outs, o.id ≠ id) ∧ Spec.SameRegs s.mach t.mach ∧
        (∀ co, (t.mach.core cl co).lm = (s.mach.core cl co).lm) ∧
        (∀ d, d ≠ cl → t.mach.cluster d = s.mach.cluster d) ∧ t.mach.pk.vault = s.mach.pk.vault) ∧
  (∀ (cl : ClusterId) (co : CoreId) (s : State) (e : EvRecord) (rest : List EvRecord),
    let k := s.mach.core cl co
    let cx : CtxId := e.bits.extractLsb' 32 3
    let x := k.ctx cx
    let area (q : EvRecord) : Option (Nat × Nat) :=
      if (k.ctx (q.bits.extractLsb' 32 3)).bindId = q.bind then (k.ctx (q.bits.extractLsb' 32 3)).evtArea else none
    let after := rest.dropWhile fun q => (area q).isNone
    k.evq = e :: rest → k.issuedC = false → k.drained = 0 →
    (area e = none → ∃ t, exec (.eventWriteOut cl co) s = .next t ∧ (t.mach.core cl co).evq = after ∧
      Spec.SameRegs s.mach t.mach ∧ Spec.SameMemory s.mach t.mach) ∧
    (∀ b n, area e = some (b, n) → k.lm.wf (some 0) = true → ∃ t, exec (.eventWriteOut cl co) s = .next t ∧
      let first := b + 16 * (x.evtK % n)
      (t.mach.core cl co).evq = after ∧ (t.mach.ctx ⟨cl, co, cx⟩).evtK = x.evtK + 1 ∧
      (∀ j, j < 16 → (t.mach.core cl co).lm.byte (some 0) (first + j) = some (e.bits.extractLsb' (8 * j) 8)) ∧
      (∀ a, a < first ∨ first + 16 ≤ a → (t.mach.core cl co).lm.byte (some 0) a = k.lm.byte (some 0) a) ∧
      Spec.SameRegs s.mach t.mach ∧ Spec.OtherCores cl co s.mach t.mach)) ∧
  ∀ (cl : ClusterId) (co : CoreId) (s : State) (a : Arrival),
    let c := s.mach.cluster cl
    let mine := fun (x : Arrival) => x.dst == co && decide (x.due ≤ c.cyc)
    c.arrivals.filter mine = [a] →
    ∃ t, exec (.timedTransferArrival cl co) s = .next t ∧
      (∀ n, (t.mach.core cl co).latches.find n = if n = a.sender.toNat then some (a.vec, a.val) else none) ∧
      (t.mach.cluster cl).arrivals = c.arrivals.filter (fun x => !mine x) ∧
      Spec.OtherCores cl co s.mach t.mach ∧ Spec.SameRegs s.mach t.mach ∧ Spec.SameMemory s.mach t.mach

/-- With no line in error: MMA_ROW_SAMPLE reads row r of the activations at c+2+g r; MMA_ROW_COMMIT adds the exact
sums of row r into accumulator row row0+r at c+24+g r; PLANE_LINE_SAMPLE puts the lines of a cycle into the shadow
plane; PLANE_LOAD_COMPLETE ends the load after its window; ACCUMULATOR_WRITE clears, replaces or renormalises rows at
c+2; ACCUMULATOR_READ_SAMPLE fills its result. Every other row stays. The terms of a commit are the exact products of
R134, or the lanes of awr; a commit takes the smallest s whose sums fit, each mantissa rounded and each term truncated
at E+s, or saturates at 32,767, and sets H; anrm moves a row to its exponent. A lane of ard is its element rounded
once to nearest even, the infinity or with .sat the largest finite value above the range, +0 for a zero mantissa, and
the quiet NaN when the row is invalid. (R131, R132, R133, R134, R135, R136, R147, R144, R145, R146, R148, R149) -/
def Obligations.MatrixUnitEvents : Prop :=
  (∀ (cl : ClusterId) (co : CoreId) (s : State) (x : Mma) (r : Nat),
    let k := s.mach.core cl co
    let cyc := s.mach.cyc cl
    let n := actRow x.kind x.desc
    let scales := if kindScaled x.kind x.desc then
      k.portBytes x.org.cx cyc (x.sbase + 8 * r) (kindDepth x.kind x.desc / 32) else []
    let rows := x.rows.put r (some (k.portBytes x.org.cx cyc (x.base + r * n) n, scales))
    let m := s.mach.modCore cl co fun k => { k with mmas := [{ x with rows := rows }] }
    k.mmas = [x] → 0 < x.g → r < x.m → cyc = x.org.issued + 2 + x.g * r → k.badLines = [] →
    exec (.mmaRowSample cl co) s = .next { s with mach := m }) ∧
  (∀ (cl : ClusterId) (co : CoreId) (s : State) (x : Mma) (r : Nat) (bytes scales : List Byte),
    let k := s.mach.core cl co
    let row := k.accRow x.tile.toNat (x.row0 + r)
    let a := actNums x.kind x.desc bytes
    let special := !x.plane.finite || a.any fun v => match v with
      | .fin _ _ _ => false
      | .nan _ | .inf _ => true
    k.mmas = [x] → 0 < x.g → r < x.m → s.mach.cyc cl = x.org.issued + 24 + x.g * r → k.badLines = [] →
    x.rows.find r = some (some (bytes, scales)) →
    ∃ t, exec (.mmaRowCommit cl co) s = .next t ∧
      (t.mach.core cl co).accRow x.tile.toNat (x.row0 + r) = ({ row with v := row.v || special }.commit (fun _ => false)
        (mmaTerms x.plane a scales (kindScaled x.kind x.desc))).1 ∧
      (∀ key, key ≠ accKey x.tile.toNat (x.row0 + r) → (t.mach.core cl co).acc.find key = k.acc.find key) ∧
      (t.mach.core cl co).mmas = (if r + 1 < x.m then [x] else []) ∧ Spec.SameRegs s.mach t.mach ∧
      Spec.OtherCores cl co s.mach t.mach ∧ (t.mach.core cl co).lm = k.lm) ∧
  (∀ (row : AccRow) (replaced : Nat → Bool) (terms : Nat → List Machine.Dyadic) (s : Nat),
    let mant (r : AccRow) (j : Nat) : Int := ((r.m.toList).getD j 0).toInt
    let sum (s j : Nat) : Int := rneShift (if replaced j then 0 else mant row j) s +
      ((terms j).map fun t => t.truncAt (row.e.toInt + s)).sum
    let fits (s : Nat) : Prop := ∀ j, j < 128 → -(2 ^ 62) ≤ sum s j ∧ sum s j ≤ 2 ^ 62 - 1
    let p := row.commit replaced terms
    p.1.v = row.v ∧
    (fits s → (∀ q, q < s → ¬fits q) → row.e.toInt + s ≤ 32767 → p.2 = (s, false) ∧ p.1.e.toInt = row.e.toInt + s ∧
      p.1.z = row.z ∧ ∀ j, j < 128 → mant p.1 j = sum s j) ∧
    ((∀ q, q ≤ s → ¬fits q) → row.e.toInt + s = 32767 → p.2 = (s, true) ∧ p.1.e.toInt = 32767 ∧ p.1.z = true ∧
      ∀ j, j < 128 → mant p.1 j =
        if 2 ^ 62 - 1 < sum s j then 2 ^ 62 - 1 else if sum s j < -(2 ^ 62) then -(2 ^ 62 - 1) else sum s j) ∧
    ((∀ j, j < 128 → mant p.1 j = 0) → p.1.h = 62) ∧
    ∀ j, j < 128 → mant p.1 j ≠ 0 → (∀ i, i < 128 → (mant p.1 i).natAbs ≤ (mant p.1 j).natAbs) →
      p.1.h.toNat = 61 - (mant p.1 j).natAbs.log2) ∧
  (∀ (t : Machine.Dyadic) (x b : Int) (s : Nat),
    let q : ℚ := (t.m : ℚ) * 2 ^ (t.e - x)
    let n := t.truncAt x
    let r : ℚ := (b : ℚ) / 2 ^ s
    let i := rneShift b s
    |(n : ℚ)| ≤ |q| ∧ |q| < |(n : ℚ)| + 1 ∧ (0 < n → 0 < q) ∧ (n < 0 → q < 0) ∧
    |r - i| ≤ 1 / 2 ∧ (|r - i| = 1 / 2 → i % 2 = 0)) ∧
  (∀ (p : Plane) (a : List Machine.Num) (scales : List Byte) (scaled : Bool) (j k : Nat) (x : Machine.Num),
    let w := kindNum p.kind p.desc (p.code k j)
    let shift : Int := (if scaled = true then (scales.getD (k / 32) 0).toInt else 0) + p.scale (k / 32) j
    (mmaTerms p a scales scaled j).length = a.length ∧
    (a[k]? = some x → ∃ d, (mmaTerms p a scales scaled j)[k]? = some d ∧
      (Spec.Finite x → Spec.Finite w → (d.m : ℚ) * 2 ^ d.e = Spec.val x * Spec.val w * 2 ^ shift) ∧
      (¬(Spec.Finite x ∧ Spec.Finite w) → d.m = 0))) ∧
  (∀ (p : Plane) (k j : Nat), j < 128 →
    let w := kindBits p.kind p.desc
    let byte (t : FMap Vec) (o : Nat) : Nat := (((t.find (o / 256)).getD 0).extractLsb' (8 * (o % 256)) 8).toNat
    let row (r : Nat) : Nat :=
      if w = 16 then byte p.lines (256 * r + 2 * j) + 256 * byte p.lines (256 * r + 2 * j + 1)
      else if w = 8 then byte p.lines (128 * r + j)
      else byte p.lines (64 * r + j / 2) / 16 ^ (j % 2) % 16
    let sel := byte p.metas (128 * (k / 4) + j)
    (p.sparse = false → p.code k j = row k) ∧
    (p.sparse = true → sel / 4 % 4 = k % 4 → p.code k j = row (2 * (k / 4) + 1)) ∧
    (p.sparse = true → sel / 4 % 4 ≠ k % 4 → sel % 4 = k % 4 → p.code k j = row (2 * (k / 4))) ∧
    (p.sparse = true → sel / 4 % 4 ≠ k % 4 → sel % 4 ≠ k % 4 → p.code k j = 0)) ∧
  (∀ (cl : ClusterId) (co : CoreId) (s : State) (l : PlaneLoad),
    let k := s.mach.core cl co
    let cyc := s.mach.cyc cl
    let line := fun (base i : Nat) => vecOfBytes (k.portBytes l.org.cx cyc (base + 256 * i) 256)
    let added := fun (t : FMap Vec) (base first n : Nat) =>
      if first ≤ cyc ∧ cyc < first + n then t.put (cyc - first) (line base (cyc - first)) else t
    let p := k.shadowPlane
    let lines := added p.lines l.base (l.org.issued + 2) l.nValue
    let scales := added p.scales l.sbase (l.org.issued + 2) l.nScale
    let metas := added p.metas l.metaBase (l.org.issued + 2 + l.nScale) l.nMeta
    let q := { p with lines := lines, scales := scales, metas := metas }
    k.load = some l → k.badLines = [] →
    exec (.planeLineSample cl co) s = .next { s with mach := s.mach.modCore cl co fun k => { k with shadowPlane := q } }) ∧
  (∀ (cl : ClusterId) (co : CoreId) (s : State) (l : PlaneLoad),
    (s.mach.core cl co).load = some l → l.org.issued + 2 + l.p ≤ s.mach.cyc cl →
    exec (.planeLoadComplete cl co) s = .next { s with mach := s.mach.modCore cl co fun k => { k with load := none } }) ∧
  (∀ (cl : ClusterId) (co : CoreId) (s : State) (w : AccWrite),
    let k := s.mach.core cl co
    let tile := w.tile.toNat
    k.accW = [w] → w.due ≤ s.mach.cyc cl → k.badLines = [] →
    ∃ t, exec (.accumulatorWrite cl co) s = .next t ∧ (t.mach.core cl co).accW = [] ∧
      (∀ row0 n e, w.op = .clr row0 n e →
        (∀ i, i < n → (t.mach.core cl co).accRow tile (row0 + i) = { AccRow.reset with e := e }) ∧
        ∀ key, key < accKey tile row0 ∨ accKey tile row0 + n ≤ key →
          (t.mach.core cl co).acc.find key = k.acc.find key) ∧
      (∀ row e, w.op = .nrm row e →
        (t.mach.core cl co).accRow tile row = ((k.accRow tile row).renorm e).1 ∧
        ∀ key, key ≠ accKey tile row → (t.mach.core cl co).acc.find key = k.acc.find key) ∧
      (∀ row ty half val, w.op = .awr row ty half val →
        let terms : Nat → List Machine.Dyadic := fun j => match awrNum ty half val j with
          | some (.fin n m e) => [⟨signedMant n m, e⟩]
          | some (.nan _) | some (.inf _) | none => []
        ∃ new, (t.mach.core cl co).accRow tile row =
            ({ k.accRow tile row with v := new }.commit (fun j => (awrNum ty half val j).isSome) terms).1 ∧
          (new = true ↔ (k.accRow tile row).v = true ∨ ∃ j, j < 128 ∧
            ((∃ b, awrNum ty half val j = some (.nan b)) ∨ ∃ b, awrNum ty half val j = some (.inf b))) ∧
          ∀ key, key ≠ accKey tile row → (t.mach.core cl co).acc.find key = k.acc.find key) ∧
      Spec.SameRegs s.mach t.mach ∧ Spec.OtherCores cl co s.mach t.mach ∧ (t.mach.core cl co).lm = k.lm) ∧
  (∀ (ty : FTy) (half : Bool) (val : Vec) (j : Nat), j < 128 →
    awrNum ty half val j =
      if ty = .f32 then
        (if decide (64 ≤ j) = half then some ((ftyFmt .f32).unpack (elem 32 val (j % 64))) else none)
      else some ((ftyFmt ty).unpack (elem 16 val j))) ∧
  (∀ (row : AccRow) (e : BitVec 16),
    let mant (r : AccRow) (j : Nat) : Int := ((r.m.toList).getD j 0).toInt
    let p := row.renorm e
    let up (j : Nat) : Int := mant row j * 2 ^ (row.e.toInt - e.toInt).toNat
    let big (j : Nat) : Prop := 2 ^ 62 - 1 < up j ∨ up j < -(2 ^ 62)
    p.1.e = e ∧ p.1.v = row.v ∧ p.1.z = (row.z || p.2) ∧
    (row.e.toInt ≤ e.toInt → p.2 = false ∧
      ∀ j, j < 128 → mant p.1 j = rneShift (mant row j) (e.toInt - row.e.toInt).toNat) ∧
    (e.toInt < row.e.toInt → (p.2 = true ↔ ∃ j, j < 128 ∧ big j) ∧ ∀ j, j < 128 →
      (¬big j → mant p.1 j = up j) ∧ (big j → mant p.1 j = if 0 < up j then 2 ^ 62 - 1 else -(2 ^ 62 - 1)))) ∧
  (∀ (cl : ClusterId) (co : CoreId) (s : State) (a : AccRead),
    let k := s.mach.core cl co
    let r : CtxRef := ⟨cl, co, a.org.cx⟩
    k.accR = [a] → a.due ≤ s.mach.cyc cl → k.badLines = [] →
    ∃ t, exec (.accumulatorReadSample cl co) s = .next t ∧ (t.mach.core cl co).accR = [] ∧
      t.mach.ctx r = (s.mach.ctx r).fill a.id (k.accReadValue a) 0 ∧ Spec.OtherContexts r s.mach t.mach ∧
      Spec.SameMemory s.mach t.mach) ∧
  (∀ (k : Core) (a : AccRead),
    let row := k.accRow a.tile.toNat a.row
    (a.op = .header → (k.accReadValue a).setWidth 64 =
      (0#40 ++ (BitVec.ofBool row.z ++ BitVec.ofBool row.v ++ row.h ++ row.e) : BitVec 64)) ∧
    ∀ ty half sat, a.op = .row ty half sat → ∀ i, i < 2048 / (ftyFmt ty).bits →
      elem (ftyFmt ty).bits (k.accReadValue a) i =
        ardLane (ftyFmt ty) sat row ((if ty = .f32 ∧ half = true then 64 else 0) + i) % 2 ^ (ftyFmt ty).bits) ∧
  ∀ (ty : FTy) (sat : Bool) (row : AccRow) (j : Nat),
    let f := ftyFmt ty
    let c := ardLane f sat row j
    let mant : Int := ((row.m.toList).getD j 0).toInt
    let neg := decide (mant < 0)
    (row.v = true → c = (2 ^ f.e - 1) * 2 ^ f.m + 2 ^ f.m / 2) ∧
    (row.v = false → mant = 0 → c = 0) ∧
    (row.v = false → mant ≠ 0 → ∃ l : Lane, Spec.RoundsTo f .nearest neg ((mant.natAbs : ℝ) * 2 ^ row.e.toInt) l ∧
      c = if sat = true ∧ l.2.getLsbD 2 = true then (if neg = true then 2 ^ (f.e + f.m) else 0) + f.maxMag else l.1)

/-- A correctable error freezes its cluster for six periods once in a cycle, is counted and recorded, and adds the
freeze in Fret ticks, rounded up, to frzowed. FREEZE_END lets frozen periods pass. An uncorrectable error marks its
line, with a class of its store (log entry 2). An identity is set pending, 0 aside, once the cycle of its sender has
begun, or at its tick when the sender has lost its power; IFPEND_CLEAR, IFCLAIM and IFSET clear and set exactly the
bits the rule names; TQPOP frees the head record. A crossing updates the count of the other end. A hart's machine
external interrupt stands while an identity is both pending and enabled; a hart that enables it saves its pc and takes
it, and another executes the instruction that its fetched word decodes to, or takes its exception: the registers of
the entry are those of the RISC-V machine mode (log entry 40). (R207, R208, R214, R215, R216, R173, R177, R219) -/
def Obligations.ErrorAndInterruptEvents : Prop :=
  (∀ (cl : ClusterId) (st : SramStore) (co : CoreId) (line : BitVec 18) (s : State),
    let c := s.mach.cluster cl
    let f := (s.mach.dom (domOf cl)).fcur
    ∃ t, exec (.correctableErrorFreeze cl st co line) s = .next t ∧
      let d := t.mach.cluster cl
      d.ceCount = min (c.ceCount + 1) 4294967295 ∧ d.ceStore = BitVec.ofNat 4 (storeCode st) ∧
      d.ceCore = (if st = .scratchpad then 0 else co) ∧ d.ceLine = line.setWidth 17 ∧ d.cores = c.cores ∧
      d.scratch = c.scratch ∧ Spec.OtherClusters cl s.mach t.mach ∧
      (c.freezeReq = true → d.frozen = c.frozen ∧ d.frzowed = c.frzowed) ∧
      (c.freezeReq = false → d.frozen = c.frozen + 6 ∧ d.freezeReq = true ∧ ∃ n : Nat,
        10800 ≤ n * (600 + 50 * f.toNat) ∧ (n - 1) * (600 + 50 * f.toNat) < 10800 ∧
        d.frzowed = c.frzowed + BitVec.ofNat 32 n)) ∧
  (∀ (cl : ClusterId) (s : State),
    let c := s.mach.cluster cl
    ∃ t, exec (.freezeEnd cl) s = .next t ∧
      t.mach.cluster cl = { c with frozen := c.frozen - min c.frozen c.credit,
                                   credit := c.credit - min c.frozen c.credit } ∧
      Spec.OtherClusters cl s.mach t.mach) ∧
  (∀ (cl : ClusterId) (st : SramStore) (co : CoreId) (line : BitVec 18) (s : State),
    ∃ t, exec (.uncorrectableError cl st co line) s = .next t ∧
      (st = .scratchpad → (∃ c, 1 ≤ c ∧ c ≤ 2 ∧ ∀ p, p ∈ (t.mach.cluster cl).badLines ↔
          p = (line.toNat, c) ∨ p.1 ≠ line.toNat ∧ p ∈ (s.mach.cluster cl).badLines) ∧
        ∀ o, t.mach.core cl o = s.mach.core cl o) ∧
      (st ≠ .scratchpad → (∃ b : BadLine, b.st = st ∧ 1 ≤ b.cls ∧ b.cls ≤ 3 ∧ (b.cls = 2 → st = .lm) ∧
          (b.cls = 3 → st = .accumulator) ∧ (st ≠ .plane → b.line = line.toNat) ∧
          (st = .plane → ∃ buf, b.line = planeKey buf line.toNat) ∧
          ∀ p, p ∈ (t.mach.core cl co).badLines ↔
            p = b ∨ ¬(p.st = st ∧ p.line = b.line) ∧ p ∈ (s.mach.core cl co).badLines) ∧
        Spec.OtherCores cl co s.mach t.mach) ∧
      Spec.SameRegs s.mach t.mach ∧ Spec.SameMemory s.mach t.mach ∧ Spec.OtherClusters cl s.mach t.mach) ∧
  (∀ (cl : ClusterId) (s : State) (q : IrqWay),
    let c := s.mach.cluster cl
    let come : Prop := (q.gone = none → q.since < s.mach.cyc (BitVec.ofNat 5 q.src)) ∧
      ∀ t, q.gone = some t → t ≤ s.mach.pk.fret
    c.irqs = [q] →
    ∃ t, exec (.interruptPending cl) s = .next t ∧
      let d := t.mach.cluster cl
      (come → d.irqs = [] ∧ ∀ n, n < 1024 →
        d.ifpend.getLsbD n = (c.ifpend.getLsbD n || decide (n = q.ident.toNat ∧ n ≠ 0))) ∧ (¬come → d = c) ∧
      d.ifen = c.ifen ∧ ∀ x, x ≠ cl → t.mach.cluster x = s.mach.cluster x) ∧
  (∀ (cl : ClusterId) (k : BitVec 4) (v : BitVec 64) (s : State),
    ∃ t, exec (.ifpendClear cl k v) s = .next t ∧ Spec.OtherClusters cl s.mach t.mach ∧
      t.mach.cluster cl = { s.mach.cluster cl with ifpend := (t.mach.cluster cl).ifpend } ∧
      ∀ n, n < 1024 → (t.mach.cluster cl).ifpend.getLsbD n =
        ((s.mach.cluster cl).ifpend.getLsbD n && !(decide (n / 64 = k.toNat) && v.getLsbD (n % 64)))) ∧
  (∀ (cl : ClusterId) (s : State),
    let c := s.mach.cluster cl
    let both := c.ifpend &&& c.ifen
    ∃ t, exec (.ifclaim cl) s = .next t ∧ Spec.OtherClusters cl s.mach t.mach ∧
      (both = 0 → t.mach.cluster cl = c) ∧
      ∀ n, n < 1024 → both.getLsbD n = true → (∀ j, j < n → both.getLsbD j = false) →
        t.mach.cluster cl = { c with ifpend := (t.mach.cluster cl).ifpend } ∧
        ∀ j, j < 1024 → (t.mach.cluster cl).ifpend.getLsbD j = (c.ifpend.getLsbD j && decide (j ≠ n))) ∧
  (∀ (cl : ClusterId) (v : BitVec 64) (s : State),
    let c := s.mach.cluster cl
    ∃ t, exec (.ifset cl v) s = .next t ∧ Spec.OtherClusters cl s.mach t.mach ∧
      t.mach.cluster cl = { c with ifpend := (t.mach.cluster cl).ifpend } ∧
      ∀ n, n < 1024 → (t.mach.cluster cl).ifpend.getLsbD n =
        (c.ifpend.getLsbD n || decide (n ≠ 0 ∧ v.toNat = n))) ∧
  (∀ (cl : ClusterId) (v : BitVec 64) (s : State),
    let c := s.mach.cluster cl
    ∃ t, exec (.tqpop cl v) s = .next t ∧ Spec.OtherClusters cl s.mach t.mach ∧
      t.mach.cluster cl = (if c.tqCount = 0 then c else
        { c with tqHead := c.tqHead + 1, tqCount := c.tqCount - 1 })) ∧
  (∀ (cl : ClusterId) (co : CoreId) (s : State),
    let b := s.mach.bridge cl co
    let come := b.crossings.filter fun c => decide (c.ready ≤ s.mach.pk.fret)
    b.waiting = [] →
    ∃ t, exec (.bridgeCountCrossing cl co) s = .next t ∧
      let d := t.mach.bridge cl co
      d.consHeld = b.consHeld + (come.filter fun c => c.up).length ∧
      d.prodHeld = b.prodHeld - (come.filter fun c => !c.up).length ∧ d.fifo = b.fifo ∧ d.u = b.u ∧
      d.crossings = b.crossings.filter (fun c => decide (s.mach.pk.fret < c.ready)) ∧
      Spec.SameRegs s.mach t.mach ∧ Spec.SameMemory s.mach t.mach) ∧
  (∀ c : Cluster, c.externalInterrupt = true ↔ ∃ n, n < 1024 ∧ c.ifpend.getLsbD n = true ∧ c.ifen.getLsbD n = true) ∧
  ∀ (cl : ClusterId) (m : Mach) (h : Hart),
    let t := m.hartStep cl
    let rings : Prop := h.ie = true ∧ h.mie.getLsbD 11 = true ∧ (m.cluster cl).externalInterrupt = true
    m.pk.harts.find cl.toNat = some h →
    (rings → t.pk.harts.find cl.toNat = some
        { h with mepc := h.pc, mcause := BitVec.ofNat 64 (2 ^ 63 + 11), mtval := 0, pie := true, ie := false,
                 pc := (h.mtvec &&& ~~~3) + if h.mtvec.getLsbD 0 then 44 else 0 } ∧
      (∀ c, c ≠ cl.toNat → t.pk.harts.find c = m.pk.harts.find c) ∧ t.pk = { m.pk with harts := t.pk.harts } ∧
      ∀ c, t.cluster c = m.cluster c) ∧
    ∀ (w : BitVec 32) (i : HartInstr) (n : Mach), ¬rings → h.holds h.pc 4 = true → h.base + h.size ≤ 2 ^ 64 →
      natOfBytes (h.own.bytes 0 h.pc.toNat 4) = w.toNat → w.toNat % 4 = 3 → decode32 w = some i →
      (∀ g, m.hartExec cl h (w.setWidth 64) 4 i = (.ok g, n) →
        t = n.putHart cl (if i.setsInstret then g else { g with minstret := g.minstret + 1 })) ∧
      ∀ c v, m.hartExec cl h (w.setWidth 64) 4 i = (.trap c v, n) → t = n.putHart cl (h.enter false c v)

/-- CAPO_GRANT counts the levels returned in earlier ticks and serves the list from its head while the levels fit the
budget. A dfreq write asks for a halt at a change of code or step, a reserved code aside, and is held during a halt. A
halt lasts 1,024 Fret ticks and ends at the new values, wl among them. A gate request gates in the next tick when both
conditions hold, and pends until they do otherwise; a wake takes 36,000 ticks; WAKE_COMPLETE gives the tier its reset
values. A reading of 115 or more trips; one at the threshold throttles, and one 3 below it ends throttling, where no
transition stands or 1,800,000 ticks have passed since the last: at 1,799,999 nothing moves. That a transition takes
effect at the start of its halt, that throttling keeps the voltage step, and how a tripped base die wakes, are
readings of the model (log entry 23). So is that what the containment of a tier's traps had still to do is done when
it gates (log entry 23). That no wake begins after a failed boot follows from R327, by which the root core then runs
nothing, and from log entry 8, by which a wake is its act. That a reading is due every 1,800 ticks, from tick 1,800
on, is log entry 8. (R169, R222, R223, R225, R226, R327) -/
def Obligations.DomainEvents : Prop :=
  (∀ (d : Dom) (s : State),
    let x := s.mach.dom d
    let come := ((x.returned.filter fun p => decide (p.1 < s.mach.pk.fret)).map Prod.snd).sum
    let later := x.returned.filter fun p => decide (s.mach.pk.fret ≤ p.1)
    (x.capo = [] → ∃ t, exec (.capoGrant d) s = .next t ∧
      t.mach.dom d = { x with granted := x.granted - come, returned := later } ∧ Spec.OtherDoms d s.mach t.mach) ∧
    ∀ (r : CapoReq) (rest : List CapoReq), x.capo = r :: rest →
      let held := (s.mach.ctx r.ctx).capo.toNat
      let new := x.granted - come - held + r.level.toNat
      ((x.budget.toNat : Int) - 32 * x.lb.toNat < (((x.granted - come : Nat) : Int) - held + r.level.toNat) →
        ∃ t, exec (.capoGrant d) s = .next t ∧ (t.mach.dom d).capo = x.capo ∧
          (t.mach.ctx r.ctx).capoGrantAt = (s.mach.ctx r.ctx).capoGrantAt) ∧
      ((((x.granted - come : Nat) : Int) - held + r.level.toNat) ≤ (x.budget.toNat : Int) - 32 * x.lb.toNat →
        rest = [] → ∃ t, exec (.capoGrant d) s = .next t ∧ (t.mach.dom d).capo = [] ∧ (t.mach.dom d).granted = new ∧
          (t.mach.dom d).returned = later ∧
          t.mach.ctx r.ctx = { s.mach.ctx r.ctx with
            capo := r.level, capoReq := none, capoGrantAt := some s.mach.pk.fret } ∧
          Spec.OtherContexts r.ctx s.mach t.mach)) ∧
  (∀ (u : Bool) (q : Quad) (v : BitVec 64) (s : State),
    let d : Dom := .tier u q
    let x := s.mach.dom d
    let f : BitVec 6 := if (v.setWidth 6 : BitVec 6).toNat ≤ 60 then v.setWidth 6 else x.fcode
    let step : BitVec 4 := v.extractLsb' 8 4
    ∃ t, exec (.dfreqWrite d v) s = .next t ∧ Spec.OtherDoms d s.mach t.mach ∧
      (t.mach.dom d).fcode = f ∧ (t.mach.dom d).vstep = step ∧ (t.mach.dom d).fcur = x.fcur ∧
      (t.mach.dom d).vcur = x.vcur ∧
      (x.throttled = false → x.transTo = none → x.halted = false → (f, step) ≠ (x.fcur, x.vcur) →
        (t.mach.dom d).target = some (f, step)) ∧
      (x.throttled = false → x.transTo = none → x.halted = false → (f, step) = (x.fcur, x.vcur) →
        (t.mach.dom d).target = none) ∧
      (x.throttled = false → x.transTo = none → x.halted = true → (t.mach.dom d).held = some (f, step) ∧
        (t.mach.dom d).target = x.target) ∧
      (x.throttled = true → (t.mach.dom d).target = x.target ∧ (t.mach.dom d).held = x.held)) ∧
  (∀ (q : Quad) (v : BitVec 64) (s : State), exec (.dfreqWrite (.base q) v) s = .next s) ∧
  (∀ (d : Dom) (s : State),
    let x := s.mach.dom d
    x.target.isSome = true → x.halted = false → x.transTo = none →
    ∃ t, exec (.haltStart d) s = .next t ∧ Spec.OtherDoms d s.mach t.mach ∧ (t.mach.dom d).halted = true ∧
      (t.mach.dom d).haltEnd = some (s.mach.pk.fret + 1024) ∧ (t.mach.dom d).target = x.target ∧
      (t.mach.dom d).fcur = x.fcur ∧ (t.mach.dom d).runs = false) ∧
  (∀ (d : Dom) (s : State) (b : Bool),
    let x := s.mach.dom d
    x.target.isSome = true → x.halted = false → x.transTo = some b →
    ∃ t, exec (.haltStart d) s = .next t ∧ Spec.OtherDoms d s.mach t.mach ∧ (t.mach.dom d).halted = true ∧
      (t.mach.dom d).throttled = b ∧ (t.mach.dom d).lastTrans = some s.mach.pk.fret ∧ (t.mach.dom d).transTo = none ∧
      (t.mach.dom d).target = if b = true then x.target else some (x.fcode, x.vstep)) ∧
  (∀ (d : Dom) (s : State) (e : Nat) (f : BitVec 6) (v : BitVec 4),
    let x := s.mach.dom d
    x.haltEnd = some e → e ≤ s.mach.pk.fret → x.target = some (f, v) → x.transTo = none → x.held = none →
    ∃ t, exec (.haltEnd d) s = .next t ∧ Spec.OtherDoms d s.mach t.mach ∧ ∃ phase, t.mach.dom d =
      { x with halted := false, haltEnd := none, target := none, fcur := f, vcur := v, wl := x.wlnext, acc := phase }) ∧
  (∀ (d : Dom) (s : State),
    let x := s.mach.dom d
    (∃ t, exec (.cancelGateRequest d) s = .next t ∧ Spec.OtherDoms d s.mach t.mach ∧
      t.mach.dom d = { x with gatePend := false, gateSoon := false }) ∧
    (s.mach.mayGate d = true ↔ (∀ r ∈ tierCtxs d, s.mach.boundAt r = false) ∧
      ∀ cl ∈ clustersOf d, ∀ co ∈ coreIds, s.mach.bridgeQuiet cl co = true) ∧
    (domIsBase d = false → x.gated = false → x.waking = false → x.tripped = false →
      ∃ t, exec (.gateRequest d) s = .next t ∧ Spec.OtherDoms d s.mach t.mach ∧
        t.mach.dom d = (if s.mach.mayGate d = true then { x with gateSoon := !x.gatePend }
          else { x with gatePend := true })) ∧
    (s.mach.pk.boot = some false → exec (.wake d) s = .next s) ∧
    (s.mach.pk.boot ≠ some false → domIsBase d = false → (x.gated = true ∧ x.tripped = false ∨ x.tripped = true ∧ x.temp.toNat + 3 ≤ x.thr.toNat) →
      ∃ t, exec (.wake d) s = .next t ∧ Spec.OtherDoms d s.mach t.mach ∧ (t.mach.dom d).waking = true ∧
        (t.mach.dom d).gated = false ∧ (t.mach.dom d).tripped = false ∧ (t.mach.dom d).gatePend = false ∧
        (t.mach.dom d).gateSoon = false ∧ (t.mach.dom d).wakeEnd = some (s.mach.pk.fret + 36000)) ∧
    (s.mach.pk.boot ≠ some false → domIsBase d = true → x.tripped = true → x.temp.toNat + 3 ≤ x.thr.toNat →
      ∃ t, exec (.wake d) s = .next t ∧ Spec.OtherDoms d s.mach t.mach ∧
        t.mach.dom d = { x with tripped := false }) ∧
    (x.gatePend = true ∨ x.gateSoon = true → s.mach.mayGate d = true →
      ∃ t, exec (.tierGate d) s = .next t ∧ (t.mach.dom d).gated = true ∧ (t.mach.dom d).gatePend = false ∧
        (t.mach.dom d).gateSoon = false ∧ (t.mach.dom d).runs = false ∧ (t.mach.dom d).fcur = x.fcur ∧
        (t.mach.dom d).vcur = x.vcur ∧ Spec.SameMemory s.mach t.mach ∧
        (∀ r, (t.mach.ctx r).regs = { (s.mach.ctx r).regs with loops := (t.mach.ctx r).regs.loops }) ∧
        ((∀ cl ∈ clustersOf d, (s.mach.cluster cl).ending = []) → Spec.SameRegs s.mach t.mach)) ∧
    (x.gatePend = true ∨ x.gateSoon = true → s.mach.mayGate d = false →
      ∃ t, exec (.tierGate d) s = .next t ∧ Spec.OtherDoms d s.mach t.mach ∧
        t.mach.dom d = { x with gatePend := true, gateSoon := false })) ∧
  (∀ (u : Bool) (q : Quad) (s : State) (e : Nat),
    let d : Dom := .tier u q
    (s.mach.dom d).wakeEnd = some e → e ≤ s.mach.pk.fret →
    ∃ t, exec (.wakeComplete d) s = .next t ∧ (t.mach.dom d).waking = false ∧ (t.mach.dom d).wakeEnd = none ∧
      ∀ cl, domOf cl = d → t.mach.cyc cl = 0 ∧ (t.mach.cluster cl).scratch = [] ∧ (t.mach.cluster cl).ifpend = 0 ∧
        ∀ co, (t.mach.core cl co).lm = [] ∧ (t.mach.core cl co).acc = [] ∧ (t.mach.core cl co).istore = []) ∧
  ∀ (u : Bool) (q : Quad) (temp : BitVec 8) (s : State),
    let d : Dom := .tier u q
    let x := s.mach.dom d
    ∃ t, exec (.sensorReading d temp) s = .next t ∧ (t.mach.dom d).temp = temp ∧
      (115 ≤ temp.toNat → (t.mach.dom d).tripped = true ∧ d ∈ t.mach.pk.rootDom ∧
        ∀ r ∈ tierCtxs d, (t.mach.ctx r).bound = false) ∧
      (temp.toNat < 115 → x.lastTrans = none → x.transTo = none → x.throttled = false → x.halted = false →
        Spec.OtherDoms d s.mach t.mach ∧
        (x.thr.toNat ≤ temp.toNat → (t.mach.dom d).target = some (x.tfcode.setWidth 6, x.vcur)) ∧
        (temp.toNat < x.thr.toNat → t.mach.dom d = { x with temp := temp, senseAt := s.mach.pk.fret + 1800 })) ∧
      ∀ l, temp.toNat < 115 → x.lastTrans = some l → x.transTo = none → x.halted = false →
        Spec.OtherDoms d s.mach t.mach ∧
        (s.mach.pk.fret ≤ l + 1799999 → t.mach.dom d = { x with temp := temp, senseAt := s.mach.pk.fret + 1800 }) ∧
        (l + 1800000 ≤ s.mach.pk.fret →
          (x.throttled = false → x.thr.toNat ≤ temp.toNat → (t.mach.dom d).transTo = some true ∧
            (t.mach.dom d).target = some (x.tfcode.setWidth 6, x.vcur)) ∧
          (x.throttled = false → temp.toNat < x.thr.toNat → t.mach.dom d = { x with temp := temp, senseAt := s.mach.pk.fret + 1800 }) ∧
          (x.throttled = true → temp.toNat + 3 ≤ x.thr.toNat → (t.mach.dom d).transTo = some false ∧
            (t.mach.dom d).target = some (x.fcode, x.vstep)) ∧
          (x.throttled = true → x.thr.toNat < temp.toNat + 3 → t.mach.dom d = { x with temp := temp, senseAt := s.mach.pk.fret + 1800 }))

/-- INVREQ takes the next number and drops exactly the cached translations, and the const mappings of the loader (log
entry 13), that its range meets, unless a pinned one refuses it, which is counted; a forced request drops pinned ones
too that no binding or pool names. INVALIDATION_COMPLETE moves invdone past the requests that are over; a request
waits for the accesses that a dropped translation has already served and that have still to perform. A fault reply
frees its slot and lets the stream go on or drop its command; a kernel answers for its own service clusters alone. A
table write is masked; a kernel writes its own entries, and not their partition field. A fltbase entry takes what root
firmware writes and what the kernel of its own cluster writes, and nothing from another. A revocation marks its slot,
its completion, once every access translated under the key has performed, destroys the key so that no block written
under it opens, and an assignment gives a slot a fresh key. That a table write, a revocation and an assignment do
nothing after a failed boot follows from R327, by which the root core then runs nothing and no image is ever admitted,
with log entry 8; R238 to R242 and R326 do not say it. (R238, R239, R240, R242, R326, R327) -/
def Obligations.TranslationEvents : Prop :=
  (∀ (q : Quad) (p : Option (BitVec 3)) (v : BitVec 64) (s : State),
    let pk := s.mach.pk
    let lo := if v.getLsbD 6 = true then 0 else (v &&& 0xFFFFFFFFF000).toNat
    let hi := if v.getLsbD 6 = true then 2 ^ 48 else lo + 2 ^ max 12 (v.extractLsb' 0 6).toNat
    let num := (pk.invseq.find q.toNat).getD 0
    let hit := fun (e : TlbEntry) => e.ast = v.extractLsb' 48 16 ∧ (p = none ∨ p = some e.part) ∧ e.vbase < hi ∧
      lo < e.vbase + 2 ^ e.log2
    ∃ t, exec (.invreq q p v) s = .next t ∧ t.mach.pk.invseq.find q.toNat = some (num + 1) ∧
      (∃ i ∈ t.mach.pk.invals, i.quad = q ∧ i.num = num) ∧ (∀ cl, t.mach.cluster cl = s.mach.cluster cl) ∧
      ((∀ e ∈ pk.allTlbs, hit e → e.pin = true → v.getLsbD 7 = true ∧ pk.pageNamed e = false) →
        (∃ i ∈ t.mach.pk.invals, i.quad = q ∧ i.num = num ∧ pk.fret ≤ i.ready ∧
          ∀ x ∈ pk.aheads, hit x.page → x.id ∈ i.waits) ∧
        (∀ e, e ∈ t.mach.pk.allTlbs ↔ e ∈ pk.allTlbs ∧ ¬hit e) ∧
        ∀ e, e ∈ t.mach.pk.constMaps ↔ e ∈ pk.constMaps ∧ ¬hit e.2) ∧
      ((∃ e ∈ pk.allTlbs, hit e ∧ e.pin = true ∧ (v.getLsbD 7 = false ∨ pk.pageNamed e = true)) →
        t.mach.pk.allTlbs = pk.allTlbs ∧ t.mach.pk.constMaps = pk.constMaps ∧
        t.mach.pk.invref.find q.toNat = some (min 4294967295 ((pk.invref.find q.toNat).getD 0 + 1)))) ∧
  (∀ (q : Quad) (s : State),
    let pk := s.mach.pk
    let left := pk.invals.filter fun i =>
      !(i.quad == q && (decide (i.ready ≤ pk.fret) && !pk.aheads.any fun x => i.waits.contains x.id))
    ∃ t n, exec (.invalidationComplete q) s = .next t ∧ t.mach.pk.invals = left ∧
      t.mach.pk.invdone.find q.toNat = some n ∧ (∀ i ∈ left, i.quad = q → n ≤ i.num) ∧
      (n = (pk.invseq.find q.toNat).getD 0 ∨ ∃ i ∈ left, i.quad = q ∧ i.num = n)) ∧
  (∀ (q : Quad) (w : Option (BitVec 3)) (v : BitVec 64) (s : State),
    (s.mach.pk.faultNamed v = none →
      exec (.fltreplyReplay (q, w) v) s = .next s ∧ exec (.fltreplyAbort (q, w) v) s = .next s) ∧
    (∀ f p, s.mach.pk.faultNamed v = some f → w = some p → s.mach.pk.clusterIn p f.service = false →
      exec (.fltreplyReplay (q, w) v) s = .next s ∧ exec (.fltreplyAbort (q, w) v) s = .next s) ∧
    ∀ f kind va, s.mach.pk.faultNamed v = some f → s.mach.pk.stallOf f.stream = some (.waitReply kind va) →
      (∀ p, w = some p → s.mach.pk.clusterIn p f.service = true) →
      let m := s.mach.modPk fun p => { p with faults := p.faults.filter fun g => g != f }
      exec (.fltreplyReplay (q, w) v) s = .next { s with mach := m.setStall f.stream none } ∧
      exec (.fltreplyAbort (q, w) v) s = .next { s with mach := m.setStall f.stream (some (.aborted kind va)) }) ∧
  (∀ (m : Mach) (x : Option Stall),
    (∀ cl ch, (m.setStall (.copy cl ch) x).pk.stallOf (.copy cl ch) = x) ∧
    (∀ e n, (m.setStall (.text e n) x).pk.stallOf (.text e n) = x) ∧
    (∀ p ch, (m.setStall (.sio p ch) x).pk.stallOf (.sio p ch) = x ∧ (m.setStall (.net p ch) x).pk.stallOf (.net p ch) = x)) ∧
  (∀ (i : BitVec 10) (v : BitVec 64) (s : State),
    let new : BitVec 64 := v &&& 0xFFFFF3FFFFFFF000
    let old := (s.mach.pk.asttab.find i.toNat).getD 0
    (s.mach.pk.boot = some false → ∀ w, exec (.asttabWrite (i, w) v) s = .next s) ∧
    (s.mach.pk.boot ≠ some false → ∃ t, exec (.asttabWrite (i, none) v) s = .next t ∧ (∀ j, t.mach.pk.asttab.find j =
      if j = i.toNat then some new else s.mach.pk.asttab.find j) ∧
      t.mach.pk = { s.mach.pk with asttab := t.mach.pk.asttab } ∧ ∀ cl, t.mach.cluster cl = s.mach.cluster cl) ∧
    ∀ p : BitVec 3, (i.toNat / 128 ≠ p.toNat → exec (.asttabWrite (i, some p) v) s = .next s) ∧
      (s.mach.pk.boot ≠ some false → i.toNat / 128 = p.toNat → ∃ t, exec (.asttabWrite (i, some p) v) s = .next t ∧
        (∀ j, j ≠ i.toNat → t.mach.pk.asttab.find j = s.mach.pk.asttab.find j) ∧
        (∃ x, t.mach.pk.asttab.find i.toNat = some x ∧ ∀ n, n < 64 →
          x.getLsbD n = if 45 ≤ n ∧ n ≤ 47 then old.getLsbD n else new.getLsbD n) ∧
        t.mach.pk = { s.mach.pk with asttab := t.mach.pk.asttab } ∧ ∀ cl, t.mach.cluster cl = s.mach.cluster cl)) ∧
  (∀ (m : Mach) (q : Quad) (l : Nat) (v : Word) (p : BitVec 3) (k : Option ClusterId),
    let t (w : Option Writer) := m.writeTransl w q (0x100 + 8 * l) v
    let put := m.modPk fun x => { x with fltbase := x.fltbase.put (q.toNat * 8 + l) (v &&& 0x3FFFFF00001) }
    l < 8 → t none = put ∧ (k = some (fltCluster q l) → m.pk.clusterIn p (fltCluster q l) = true → t (some ⟨p, k⟩) = put) ∧
      (k ≠ some (fltCluster q l) → t (some ⟨p, k⟩) = m)) ∧
  (∀ (k : BitVec 6) (s : State),
    let old := s.mach.pk.keySlot k
    (s.mach.pk.boot ≠ some false → ∃ t, exec (.keyRevocation k) s = .next t ∧
      let new := t.mach.pk.keySlot k
      new.revoked = true ∧ new.revoking = true ∧ new.part = old.part ∧ new.gen = old.gen ∧ s.mach.pk.fret ≤ new.ready ∧
      ∀ j, j ≠ k → t.mach.pk.keySlot j = s.mach.pk.keySlot j) ∧
    ((∃ x ∈ s.mach.pk.aheads, x.page.key = k) → ∃ t, exec (.keyRevocationComplete k) s = .next t ∧
      t.mach.pk.keySlot k = old) ∧
    (old.revoking = true → old.ready ≤ s.mach.pk.fret → (∀ x ∈ s.mach.pk.aheads, x.page.key ≠ k) →
      ∃ t, exec (.keyRevocationComplete k) s = .next t ∧
      (t.mach.pk.keySlot k).revoking = false ∧ (∀ j, j ≠ k → t.mach.pk.keySlot j = s.mach.pk.keySlot j) ∧
      t.mach.pk.vaultKey = s.mach.pk.vaultKey ∧
      ∀ a, s.mach.pk.byteKey a = some (k, old.gen) → t.mach.pk.blockOpen a k = false) ∧
    ∀ (p : BitVec 3) (matter : KeyMatter), s.mach.pk.boot ≠ some false → ∃ t, exec (.keySlotAssignment k p matter) s = .next t ∧
      let new := t.mach.pk.keySlot k
      new.part = some p ∧ new.revoked = false ∧ new.revoking = false ∧ new.gen ≠ old.gen ∧
      ∀ j, j ≠ k → t.mach.pk.keySlot j = s.mach.pk.keySlot j)

/-- A partition is defined unless TDISP locks it, another partition holds one of its endpoints or ports, or the shares
do not fit (log entry 33); a lock marks it; a retirement marks it, revokes its key slots and zeroes its vaults. A peer
is entered for a bound endpoint unless its index or pair is in use, and freed; that an entry at an unbound endpoint is
ignored is the choice of the model (log entry 29). Cold reset leaves every cluster, domain and register at its reset
value, measures root firmware whose signature verifies, and leaves vault memory at zero by the choice of the model
(log entry 4). An SPDM request is answered, after a failed boot by the physical function alone, which the model
numbers 8 and gives the measurements of partition 0 (log entry 29). A register write of root firmware acts on the
block at its address; that it faults where none stands is the choice of the model (NOTES, Stops), as are the reset
registers of a context never bound and what measurements and drives hold after cold reset (log entry 9). After a
failed boot root firmware does nothing. (R4, R38, R215, R222, R232, R292, R323, R326, R327, R328) -/
def Obligations.RootEvents : Prop :=
  (∀ (p : BitVec 3) (pd : PartDef) (s : State),
    let pk := s.mach.pk
    ((pk.parts.find p.toNat).any Partition.tdisp = true → exec (.partitionDefinition p pd) s = .next s) ∧
    ((∃ q ∈ pk.parts, q.1 ≠ p.toNat ∧ q.2.retired = false ∧ ∃ e ∈ pd.eps, e ∈ q.2.defn.eps) →
      exec (.partitionDefinition p pd) s = .next s) ∧
    ((∃ q ∈ pk.parts, q.1 ≠ p.toNat ∧ q.2.retired = false ∧ pd.ports &&& q.2.defn.ports ≠ 0) →
      exec (.partitionDefinition p pd) s = .next s) ∧
    (sharesFit (pd :: (pk.parts.filter fun q => q.1 != p.toNat && !q.2.retired).map fun q => q.2.defn) = false →
      exec (.partitionDefinition p pd) s = .next s) ∧
    (pk.boot = some false → exec (.partitionDefinition p pd) s = .next s ∧ exec (.tdispLock p) s = .next s ∧
      exec (.partitionRetirement p) s = .next s) ∧
    (pk.boot ≠ some false → (pk.parts.find p.toNat).any Partition.tdisp = false →
      (∀ q ∈ pk.parts, q.1 ≠ p.toNat → q.2.retired = true) → sharesFit [pd] = true →
      ∃ t, exec (.partitionDefinition p pd) s = .next t ∧ t.mach.pk.parts.find p.toNat = some ⟨pd, false, false⟩ ∧
        (∀ n, n ≠ p.toNat → t.mach.pk.parts.find n = pk.parts.find n) ∧
        (∀ n ∈ pd.spaces, ∃ d ∈ t.mach.pk.drives, d.ns.ctrl = n.ctrl ∧ d.ns.nsid = n.nsid) ∧
        ∀ cl, t.mach.cluster cl = s.mach.cluster cl) ∧
    ∀ d, pk.boot ≠ some false → pk.parts.find p.toNat = some d →
      (∃ t, exec (.tdispLock p) s = .next t ∧ t.mach.pk.parts.find p.toNat = some { d with tdisp := true } ∧
        (∀ n, n ≠ p.toNat → t.mach.pk.parts.find n = pk.parts.find n) ∧
        ∀ cl, t.mach.cluster cl = s.mach.cluster cl) ∧
      (∃ t, exec (.partitionRetirement p) s = .next t ∧
        t.mach.pk.parts.find p.toNat = some { d with tdisp := false, retired := true }) ∧
      ((∀ i ∈ pk.images, i.part = p → i.retired = true) → ∃ t, exec (.partitionRetirement p) s = .next t ∧
        (∀ k, (pk.keySlot k).part = some p → (t.mach.pk.keySlot k).revoked = true) ∧
        ∀ cl, pk.clusterIn p cl = true → ∀ a, cl.toNat * 2 ^ 35 ≤ a → a < (cl.toNat + 1) * 2 ^ 35 →
          t.mach.pk.vault.byte (some 0) a = some 0)) ∧
  (∀ l : List PartDef, sharesFit l = true ↔ (l.map PartDef.tlb).sum ≤ 16384 ∧ (l.map PartDef.walks).sum ≤ 1024 ∧
    ∀ q, q < 4 → (l.map fun d => (d.places[q]?).getD 0).sum ≤ 256 ∧ (l.map fun d => (d.dirs[q]?).getD 0).sum ≤ 1024) ∧
  (∀ (b : PeerBlock) (v : BitVec 64) (s : State),
    let pk := s.mach.pk
    let rep : BitVec 16 := v.setWidth 16
    (pk.peerEp b = none → exec (.peerEnter b v) s = .next s ∧ exec (.peerFree b) s = .next s) ∧
    ∀ ep, pk.peerEp b = some ep →
      let used := fun (x : Peer) => x.ep = ep ∧ (x.index = pk.peerSel b ∨ x.fa = pk.peerFa b ∧ x.rep = rep)
      ((∀ x ∈ pk.peers, ¬used x) → ∃ t, exec (.peerEnter b v) s = .next t ∧
        t.mach.pk = { pk with peers := pk.peers ++ [⟨ep, pk.peerSel b, pk.peerFa b, rep, false⟩] } ∧
        ∀ cl, t.mach.cluster cl = s.mach.cluster cl) ∧
      ((∃ x ∈ pk.peers, used x) → exec (.peerEnter b v) s = .next s) ∧
      ∃ t, exec (.peerFree b) s = .next t ∧ (∀ cl, t.mach.cluster cl = s.mach.cluster cl) ∧
        t.mach.pk = { pk with peers := t.mach.pk.peers } ∧
        ∀ x, x ∈ t.mach.pk.peers ↔ x ∈ pk.peers ∧ ¬(x.ep = ep ∧ x.index = pk.peerSel b)) ∧
  (∀ s : State, ∃ t, exec .coldReset s = .next t ∧ (∀ cl, t.mach.cluster cl = Cluster.reset) ∧
    (∀ cl co, t.mach.core cl co = Core.reset) ∧ (∀ r, (t.mach.ctx r).regs = Regs.reset ∧ (t.mach.ctx r).run = .unbound) ∧
    t.mach.pk.fret = 0 ∧ t.mach.pk.images = [] ∧ t.mach.pk.parts = [] ∧ t.mach.pk.vault = [] ∧
    (∀ d, (t.mach.dom d).thr = 105 ∧ (t.mach.dom d).lb = 1 ∧ (t.mach.dom d).tripped = false) ∧
    (∀ u q, (t.mach.dom (.tier u q)).gated = true ∧ (t.mach.dom (.tier u q)).fcur = 36 ∧
      (t.mach.dom (.tier u q)).budget = 380) ∧
    (∀ q, (t.mach.dom (.base q)).gated = false ∧ (t.mach.dom (.base q)).fcur = 24 ∧ (t.mach.dom (.base q)).budget = 120) ∧
    (∀ d ∈ t.mach.pk.drives, d.now = d.durable ∧ d.vol = []) ∧
    t.mach.pk.drives.map Drive.durable = s.mach.pk.drives.map Drive.durable ∧ t.iss = Issue.idle ∧
    (firmwareOk = true → t.mach.pk.boot = some true ∧ t.mach.pk.meas = [(0, sha384 Config.firmware)]) ∧
    (firmwareOk = false → t.mach.pk.boot = some false ∧ t.mach.pk.meas = [])) ∧
  (∀ (f : HostFn) (r : List Byte) (s : State), f.toNat ≤ 8 →
    let part : BitVec 3 := if f = 8 then 0 else f.setWidth 3
    (s.mach.pk.boot ≠ some false ∨ f = 8 → ∃ t, exec (.spdmRequest f r) s = .next t ∧
      t.mach.pk = { s.mach.pk with
        out := s.mach.pk.out ++ [.spdm (Config.spdmAnswer r (s.mach.pk.measurements part))] } ∧
      ∀ cl, t.mach.cluster cl = s.mach.cluster cl) ∧
    (s.mach.pk.boot = some false → f ≠ 8 → exec (.spdmRequest f r) s = .next s)) ∧
  (∀ (addr : BitVec 42) (v : BitVec 64) (s : State),
    (∀ b off, physPlace addr.toNat = .block b off → s.mach.pk.boot = some false →
      exec (.registerWrite addr v) s = .next s) ∧
    (∀ b off, physPlace addr.toNat = .block b off → s.mach.pk.boot ≠ some false →
      exec (.registerWrite addr v) s = .next { s with mach := s.mach.writeReg none b off v }) ∧
    ((∀ b off, physPlace addr.toNat ≠ .block b off) →
      exec (.registerWrite addr v) s = .fault (.addressesNothing addr.toNat))) ∧
  (∀ (cl : ClusterId) (k : BitVec 4) (v : BitVec 64) (s : State), s.mach.pk.boot ≠ some false →
    ∃ t, exec (.registerWrite (BitVec.ofNat 42 (2 ^ 40 + 0x10000 * cl.toNat + 0x80 + 8 * k.toNat)) v) s = .next t ∧
      Spec.OtherClusters cl s.mach t.mach ∧
      t.mach.cluster cl = { s.mach.cluster cl with ifen := (t.mach.cluster cl).ifen } ∧
      ∀ n, n < 1024 → (t.mach.cluster cl).ifen.getLsbD n =
        if n / 64 = k.toNat then v.getLsbD (n % 64) else (s.mach.cluster cl).ifen.getLsbD n) ∧
  ∀ (q : Quad) (i : BitVec 10) (v : BitVec 64) (s : State), s.mach.pk.boot ≠ some false →
    exec (.registerWrite (BitVec.ofNat 42 (2 ^ 40 + 0x300000 + 0x10000 * q.toNat + 0x1000 + 8 * i.toNat)) v) s =
      .next { s with mach := { s.mach with todo := .event (.asttabWrite (i, none) v) :: s.mach.todo } }

/-- A copy launches once its conditions hold and completes into its watermark. A far atomic at vault memory writes
exactly its bytes, by the operation on the old value (applyOp, whose operations LocalAtomics says), and sends a result
line of the old value, sign-extended, where it has one. One pool message that passes its checks acts as its operation
says, and one queue message pushes, pops, counts or opens. A wait takes the head entry. A task-end message follows the
last entry that its task committed, and a wait message that and the task end. A retired image without a launched copy
frees its number; what it has committed drains on, of no image (log entry 16). (R247, R252, R253, R257, R261, R264,
R265, R266, R285, R288, R289, R290) -/
def Obligations.EngineEvents : Prop :=
  (∀ (cl : ClusterId) (ch : BitVec 4) (s : State) (k : CopyCmd) (rest : List CopyCmd),
    let c := s.mach.pk.chan cl ch
    c.cmds = k :: rest →
    (s.mach.mayLaunch cl k = true ↔ s.mach.free? k.holds = true ∧ (k.t = 0 ∨
      k.t.toNat + ((s.mach.cluster cl).frzowed - k.frz).toNat ≤ s.mach.pk.fret % 2 ^ 64)) ∧
    (k.launched = false → s.mach.mayLaunch cl k = true → ∃ t k', exec (.copyLaunch cl ch) s = .next t ∧
      (t.mach.pk.chan cl ch).cmds = k' :: rest ∧ k'.launched = true ∧ k'.id = k.id ∧ k'.src = k.src ∧ k'.dst = k.dst ∧
      s.mach.pk.fret ≤ k'.ready) ∧
    (k.launched = false → s.mach.mayLaunch cl k = false → exec (.copyLaunch cl ch) s = .next s) ∧
    (k.launched = true → k.dst.count ≤ k.pos → ∃ t, exec (.copyComplete cl ch) s = .next t ∧
      (t.mach.pk.chan cl ch).cmds = c.cmds.filter (fun x => x.id != k.id) ∧
      (k.id = c.done + 1 → c.ended = [] → (t.mach.pk.chan cl ch).done = k.id) ∧
      (∀ o ∈ t.mach.pk.outs, o.id ≠ k.eff) ∧ ∀ d, t.mach.cluster d = s.mach.cluster d)) ∧
  (∀ (id : Nat) (s : State) (f : FarAtomic) (pa pb : Nat) (d e : TlbEntry) (m n : Mach),
    s.mach.pk.fars.find? (fun f => f.id == id) = some f → f.stall = none → f.armed = true →
    f.ready ≤ s.mach.pk.fret → s.mach.farWaits f = false →
    (∀ x, f.loc = some x → exec (.farAtomicPerform id) s = .next { s with mach := s.mach.farPerform f x.pa x.page }) ∧
    (f.loc = none → f.ord = .spec → s.mach.translate f.agent .read f.addr.toNat f.n = (.ok pa d, m) →
      exec (.farAtomicPerform id) s = .next { s with mach := m.farPerform f pa d }) ∧
    (f.loc = none → f.ord ≠ .spec → s.mach.translate f.agent .write f.addr.toNat f.n = (.ok pa d, m) →
      m.translate f.agent .read f.addr.toNat f.n = (.ok pb e, n) →
      exec (.farAtomicPerform id) s = .next { s with mach := n.farPerform f pb e })) ∧
  (∀ (m : Mach) (f : FarAtomic) (v pa : Nat) (e : TlbEntry),
    let t := m.farPerform f pa e
    let old := natOfBytes ((span pa f.n).map fun a => (m.pk.vault.byte (some 0) a).getD 0)
    let new := applyOp f.op f.n old (f.val.toNat % 2 ^ (8 * f.n)) (f.cmp.toNat % 2 ^ (8 * f.n))
    f.ord ≠ .spec → (f.n = 4 ∨ f.n = 8) → pa % f.n = 0 → physPlace pa = .vault v →
    m.pk.blockOpen pa e.key = true → m.pk.vaultBad = [] → m.pk.vault.wf (some 0) = true →
    t.pk.fars = m.pk.fars.filter (fun g => g.id != f.id) ∧
    (∀ i, i < f.n → t.pk.vault.byte (some 0) (pa + i) = some (BitVec.ofNat 8 (new / 2 ^ (8 * i)))) ∧
    (∀ a, a < pa ∨ pa + f.n ≤ a → t.pk.vault.byte (some 0) a = m.pk.vault.byte (some 0) a) ∧
    (f.res = none → t.pk.lines = m.pk.lines ∧ ∀ o ∈ t.pk.outs, o.id ≠ f.id) ∧
    (∀ a tag, f.res = some (a, tag) → (m.dom (domOf f.org.ctx.cl)).tripped = false →
      t.pk.lines = m.pk.lines ++ [⟨f.org.ctx, a, bytesOfNat 8 (Spec.signed f.n old).toNat, tag, some f.id⟩]) ∧
    ∀ cl, t.cluster cl = m.cluster cl) ∧
  (∀ (q : Quad) (s : State) (g : PathMsg) (op : PoolOp) (a d : Word) (hasD : Bool) (p : Pool),
    let pk := s.mach.pk
    let ch : BitVec 4 := a.extractLsb' 60 4
    pk.path = [g] → g.msg = .pool op a d hasD → g.quad = q → g.armed = true → g.ready ≤ pk.fret →
    pk.pools = [p] → p.opened = true → p.inQuad q = true → p.handle = poolHandle op a → p.part = g.org.part → some p.img = g.org.img →
    p.pend = false → p.releases = [] → s.mach.poolKind g.org op a d hasD = none →
    ∃ t, exec (.directoryTick q) s = .next t ∧ t.mach.pk.path = [] ∧
      (op = .gen → t.mach.pk.pools = [p]) ∧
      (op = .unpin → t.mach.pk.pools = [{ p with pins := p.pins.filter fun y => y.1 != g.org.ctx }]) ∧
      (op = .pin → p.latest = 0x7F → t.mach.pk.pools = [p]) ∧
      (op = .pin → p.latest ≠ 0x7F → t.mach.pk.pools =
        [{ p with pins := (p.pins.filter fun y => y.1 != g.org.ctx) ++ [(g.org.ctx, p.latest.toNat)] }]) ∧
      (op = .acqw → p.held ≠ 0x7F → t.mach.pk.pools = [{ p with spoil := false }]) ∧
      (op = .acqw → p.held = 0x7F → ∀ n, n < p.n → n < 64 → p.pincnt n = 0 → n ≠ p.latest.toNat →
        (∀ j, j < n → p.pincnt j ≠ 0 ∨ j = p.latest.toNat) →
        t.mach.pk.pools = [{ p with held := BitVec.ofNat 7 n }]) ∧
      (op = .pub → t.mach.pk.pools = [{ p with latest := p.held, held := 0x7F, gen := p.gen + 1,
                                               pubtime := BitVec.ofNat 64 pk.fret, pseen := none }]) ∧
      (op = .pubAfter → 2 ^ 47 ≤ ((pk.chan p.writer.cl ch).done - a.setWidth 48).toNat →
        ∃ x, t.mach.pk.pools = [x] ∧ x.pend = true ∧ x.pch = ch ∧ x.pid = a.setWidth 48 ∧ x.held = p.held ∧
          x.latest = p.latest ∧ x.gen = p.gen)) ∧
  (∀ (q : Quad) (s : State) (g : PathMsg) (x : Queue),
    let pk := s.mach.pk
    pk.path = [g] → g.quad = q → g.armed = true → g.ready ≤ pk.fret → g.stall = none → pk.scopes = [] →
    pk.queues = [x] → x.quad = q → x.part = g.org.part → some x.img = g.org.img → x.resident = true → x.waits = [] →
    x.delivers = [] →
    (∀ hd bytes, g.msg = .qpush hd bytes → hd.setWidth 12 = x.handle → hd.getLsbD 20 = false → x.entries.length < x.occ →
      ∃ t, exec (.queueEngineTick q) s = .next t ∧ t.mach.pk.path = [] ∧
        t.mach.pk.queues = [{ x with entries := x.entries ++ [⟨bytes, x.next, none⟩], next := x.next + 1 }]) ∧
    (∀ hd res e rest, g.msg = .qpop hd res → hd.setWidth 12 = x.handle → x.entries = e :: rest → e.scope = none →
      ∃ t, exec (.queueEngineTick q) s = .next t ∧ t.mach.pk.path = [] ∧
        t.mach.pk.queues = [{ x with entries := rest }]) ∧
    (∀ hd res, g.msg = .qcount hd res → hd.setWidth 12 = x.handle →
      ∃ t, exec (.queueEngineTick q) s = .next t ∧ t.mach.pk.path = [] ∧ t.mach.pk.queues = [x])) ∧
  (∀ (q : Quad) (s : State) (g : PathMsg) (x : Scope) (o : Bool),
    let pk := s.mach.pk
    pk.path = [g] → g.msg = .scope o x.k → g.quad = q → g.armed = true → g.ready ≤ pk.fret → g.stall = none →
    pk.queues = [] → pk.scopes = [x] → x.part = g.org.part → some x.img = g.org.img → x.waits = [] →
    ∃ t, exec (.queueEngineTick q) s = .next t ∧ t.mach.pk.path = [] ∧
      t.mach.pk.scopes = [{ x with openBit := o }]) ∧
  (∀ (q : Quad) (s : State) (x : Queue) (w : QWait) (e : QEntry),
    let pk := s.mach.pk
    pk.path = [] → pk.scopes = [] → pk.queues = [x] → x.quad = q → x.waits = [w] → x.entries = [e] →
    x.delivers = [] → ∃ t y, exec (.queueEngineTick q) s = .next t ∧ t.mach.pk.queues = [y] ∧ y.entries = [] ∧
      y.waits = [] ∧ ∃ d, y.delivers = [⟨w.ctx, e, pk.fret + d⟩]) ∧
  (∀ (cl : ClusterId) (co : CoreId) (cx : CtxId) (s : State),
    let r : CtxRef := ⟨cl, co, cx⟩
    let x := s.mach.ctx r
    let sends := fun (i : Instr) (m : Msg) => ∃ t g, exec i s = .next t ∧ t.mach.pk.path = s.mach.pk.path ++ [g] ∧
      g.msg = m ∧ g.org.ctx = r ∧ g.quad = s.mach.homeQuad (s.mach.selfOrigin r) ∧ (t.mach.ctx r).regs = x.regs ∧
      Spec.OtherContexts r s.mach t.mach ∧ Spec.SameMemory s.mach t.mach
    let drain := (s.mach.core cl co).drain
    (∀ e rest, x.taskEnds = e :: rest → (∀ d ∈ drain, d.cx = cx → e.cyc < d.entry.issued) →
      sends (.taskEndMessage cl co cx) (.taskEnd e.scope) ∧
      ∃ t, exec (.taskEndMessage cl co cx) s = .next t ∧ (t.mach.ctx r).taskEnds = rest) ∧
    (∀ e rest, x.taskEnds = e :: rest → (∃ d ∈ drain, d.cx = cx ∧ d.entry.issued ≤ e.cyc) →
      exec (.taskEndMessage cl co cx) s = .next s) ∧
    ((∀ d ∈ drain, d.cx ≠ cx) → x.waitMsg = true → x.taskEnds = [] →
      (∀ h d, x.wait = .q h d → sends (.waitMessage cl co cx) (.waitQ h)) ∧
      (∀ k d, x.wait = .sc k d → sends (.waitMessage cl co cx) (.waitSc k))) ∧
    (x.taskEnds ≠ [] → exec (.waitMessage cl co cx) s = .next s)) ∧
  ∀ (im : BitVec 12) (s : State),
    ∃ t, exec (.imageNumberFree im) s = .next t ∧ Spec.SameRegs s.mach t.mach ∧ Spec.SameMemory s.mach t.mach ∧
      (∀ cl co, (t.mach.core cl co).drain.map DrainItem.entry = (s.mach.core cl co).drain.map DrainItem.entry ∧
        ∀ d ∈ (t.mach.core cl co).drain, d.img = none ∨ d ∈ (s.mach.core cl co).drain) ∧
      ∀ i, i ∈ t.mach.pk.images ↔ i ∈ s.mach.pk.images ∧
        ¬(i.num = im ∧ i.retired = true ∧ ∀ c ∈ s.mach.pk.chans, ∀ k ∈ c.2.cmds,
          ¬(k.launched = true ∧ k.org.part = i.part ∧ k.org.img = some i.num))

/-- A publication starts the checks. Their result is a refusal with its reason, or an image with the lowest free
number, whose Clear, Load, Open and Bind join the stream. Reason 1 for an image that cannot be read, and reason 2 for
one that fails a check of reason 1 because its memory has changed since it was published, are the choice of log entry
30, not of R283. Clear waits for matrix work, and for that alone which was issued by the time its wait began (log
entry 30), and zeroes claims, tags and tiles; Load writes code and data; Open opens the pool entries, which have their
reset values, and creates queues and scopes (that an entry takes its place and its memory at admission, so that Open
finds it, is log entry 24: R285 has Open create it); Bind gives each context its entry point, its registers at binding
and its declarations. A Start, Stop or Retire joins the commands that wait while an earlier command of its image
stands; else Start sets the first releases, Stop ends every context, Retire removes objects, code and contexts. (R123,
R186, R283, R284, R285, R38) -/
def Obligations.AdmissionEvents : Prop :=
  (∀ (p : BitVec 3) (v : BitVec 64) (s : State),
    let a := s.mach.pk.admBlock p
    (a.state = 1 → exec (.admpub p v) s = .next s) ∧
    (a.state ≠ 1 → ∃ t c, exec (.admpub p v) s = .next t ∧ t.mach.pk.admBlock p =
        { a with state := 1, reason := 0, check := some c } ∧ c.va = v.setWidth 48 ∧ c.ast = a.ast ∧
      c.place = a.place ∧ s.mach.pk.fret ≤ c.ready ∧ (∀ q, q ≠ p → t.mach.pk.admBlock q = s.mach.pk.admBlock q) ∧
      ∀ cl, t.mach.cluster cl = s.mach.cluster cl)) ∧
  (∀ (p : BitVec 3) (s : State) (c : Publication) (m : Mach),
    (s.mach.pk.admBlock p).check = some c → c.ready ≤ s.mach.pk.fret →
    s.mach.readImage p c.ast c.va.toNat = (none, m) →
    ∃ t, exec (.admissionResult p) s = .next t ∧ (t.mach.pk.admBlock p).state = 3 ∧
      (t.mach.pk.admBlock p).reason = (if c.image = none then 1 else 2) ∧ (t.mach.pk.admBlock p).check = none) ∧
  (∀ (p : BitVec 3) (s : State) (c : Publication) (bytes table : List Byte) (m2 m3 : Mach),
    (s.mach.pk.admBlock p).check = some c → c.ready ≤ s.mach.pk.fret →
    s.mach.readImage p c.ast c.va.toNat = (some bytes, m2) →
    m2.loaderRead p c.ast c.place.toNat 512 = (some table, m3) →
    ∃ t, exec (.admissionResult p) s = .next t ∧ (t.mach.pk.admBlock p).check = none ∧
      let a := t.mach.pk.admBlock p
      (imageDecl bytes = none → a.state = 3 ∧ a.reason = (if some bytes = c.image then 1 else 2)) ∧
      ∀ d, imageDecl bytes = some d →
        (signatureOk (Config.imageKey p) bytes = false → a.state = 3 ∧ a.reason = 2) ∧
        (signatureOk (Config.imageKey p) bytes = true →
          let r := m3.checkImage p c.ast d (halfwords table)
          (∀ n, r.1 = some n → a.state = 3 ∧ a.reason = BitVec.ofNat 8 n) ∧
          ∀ n, r.1 = none → r.2.pk.freeNumber p = some n → a.state = 2 ∧ a.reason = 0 ∧ a.img = BitVec.ofNat 12 n ∧
            ∃ i, t.mach.pk.images = r.2.pk.images ++ [i] ∧ i.num = BitVec.ofNat 12 n ∧ i.part = p ∧ i.decl = d ∧
              i.retired = false ∧ i.digest = sha384 (bytes.take 24 ++ bytes.drop 120) ∧
              (∀ o ∈ t.mach.pk.pools.drop r.2.pk.pools.length, o.part = p ∧ o.img = i.num ∧ o.opened = false) ∧
              (t.mach.pk.seq.drop r.2.pk.seq.length).map SeqCmd.kind = [.clear, .load, .openIt, .bind])) ∧
  (∀ (s : State) (c : SeqCmd) (rest : List SeqCmd) (i : Image),
    let pk := s.mach.pk
    pk.seq = c :: rest → c.ready ≤ pk.fret → pk.image c.part c.img = some i →
    (c.kind = .clear → (∀ d ∈ i.doms, ((s.mach.wakeFor i).dom d).away = false) →
      (s.mach.wakeFor i).mayClear i (c.idle.getD ((s.mach.wakeFor i).matrixWork i)) = false →
      ∃ t, exec .clearCommand s = .next t ∧
        t.mach.pk.seq = { c with idle := some (c.idle.getD ((s.mach.wakeFor i).matrixWork i)) } :: rest) ∧
    (c.kind = .clear → (∀ d ∈ i.doms, ((s.mach.wakeFor i).dom d).away = false) →
      (s.mach.wakeFor i).mayClear i (c.idle.getD ((s.mach.wakeFor i).matrixWork i)) = true →
      ∃ t, exec .clearCommand s = .next t ∧ t.mach.pk.seq = rest ∧ ∀ a ∈ i.decl.acts,
        let k := t.mach.core (actRef i.place a).cl (actRef i.place a).co
        let d := t.mach.cluster (actRef i.place a).cl
        (∀ w ∈ a.lm, w.w = true →
          (∀ x, 256 * w.base ≤ x → x < 256 * (w.limit + 1) → k.lm.byte (some 0) x = some 0) ∧
          ∀ n, w.base ≤ n → n ≤ w.limit → k.lmTags.find n = none) ∧
        (∀ w ∈ a.sp, w.w = true →
          (∀ x, 256 * w.base ≤ x → x < 256 * (w.limit + 1) → d.scratch.byte (some 0) x = some 0) ∧
          ∀ n, w.base ≤ n → n ≤ w.limit → d.spTags.find n = none) ∧
        ∀ tile row, a.hasTile tile = true → row < 128 → k.accRow tile row = AccRow.reset) ∧
    (c.kind = .load → (∀ p ∈ i.coresAt, s.mach.sramHeld p.1 = false) → i.decl.consts = [] →
      ∃ t, exec .loadCommand s = .next t ∧ t.mach.pk.seq = rest ∧
        (∀ n org ws, i.decl.code = [(n, org, ws)] →
          let k := s.mach.core (placeOf i.place n).1 (placeOf i.place n).2
          k.istore.wf (some 0xFF) = true → ∀ j w, ws[j]? = some w →
            (t.mach.core (placeOf i.place n).1 (placeOf i.place n).2).slotWord (org + 4 * j) = w) ∧
        (∀ n a bytes, c.again = false → i.decl.data = [(n, a, bytes)] →
          let k := s.mach.core (placeOf i.place n).1 (placeOf i.place n).2
          k.lm.wf (some 0) = true → ∀ j b, bytes[j]? = some b →
            (t.mach.core (placeOf i.place n).1 (placeOf i.place n).2).lm.byte (some 0) (a + j) = some b)) ∧
    (c.kind = .openIt → ∃ t, exec .openCommand s = .next t ∧ t.mach.pk.seq = rest ∧
      t.mach.pk.pools = pk.pools.map (fun o =>
        if o.part = i.part ∧ o.img = i.num then { o with opened := true } else o) ∧ (∀ cl, t.mach.cluster cl = s.mach.cluster cl) ∧
      t.mach.pk.scopes = pk.scopes ++ i.decl.scopes.map (fun d => ⟨d.k, i.num, i.part, i.home, d.parent, false, 0, []⟩) ∧
      t.mach.pk.queues.length = pk.queues.length + i.decl.queues.length ∧
      ∀ (n : Nat) (d : QueueDecl), i.decl.queues[n]? = some d → ∃ q : Queue,
        t.mach.pk.queues[pk.queues.length + n]? = some q ∧
        q.handle = d.handle ∧ q.img = i.num ∧ q.part = i.part ∧ q.occ = d.occ ∧ q.area = d.area ∧ q.entries = [] ∧
        q.next = 1 ∧ q.waits = []) ∧
    (c.kind = .bind → (∀ d ∈ i.doms, ((s.mach.wakeFor i).dom d).away = false) →
      i.refs.any (s.mach.wakeFor i).trailing = false → i.refs.Nodup →
      ∃ t, exec .bindCommand s = .next t ∧ t.mach.pk.seq = rest ∧ ∀ (n : Nat) (a : ActDecl), i.decl.acts[n]? = some a →
        let y := t.mach.ctx (actRef i.place a)
        y.run = .waiting ∧ y.pc = a.entry ∧ y.regs = Regs.reset ∧ y.img = some i.num ∧ y.part = i.part ∧ y.act = n ∧
        y.prio = a.prio ∧ y.lmWin = a.lm ∧ y.spWin = a.sp ∧ y.retry = (a.retry.getD 15).toNat ∧ y.budget = a.budget ∧
        y.policy = a.policy.getD 1 ∧ y.gateMax = a.gate.getD (64, 32, 16) ∧ y.gate = [] ∧ y.inflight = [])) ∧
  (∀ (i : Image) (d : PoolDecl) (w : CtxRef) (l : List (Nat × Nat × Nat)),
    let o := Pool.start i d w l
    o.opened = false ∧ o.latest = 0x7F ∧ o.held = 0x7F ∧ o.gen = 0 ∧ o.pubtime = 0 ∧ o.pend = false ∧ o.spoil = false ∧ o.pins = []) ∧
  ∀ (p : BitVec 3) (im : BitVec 12) (s : State) (i : Image),
    let pk := s.mach.pk
    pk.image p im = some i →
    (pk.seqPending i = true ∨ (∃ w ∈ pk.admWait, pk.admittedAfter i w.2.1 w.2.2 = false) →
      exec (.admcmdStart p im) s = .next (s.modMach fun m => m.modPk fun k => { k with admWait := k.admWait ++ [(.start, p, im)] }) ∧
      exec (.admcmdStop p im) s = .next (s.modMach fun m => m.modPk fun k => { k with admWait := k.admWait ++ [(.stop, p, im)] }) ∧
      exec (.admcmdRetire p im) s =
        .next (s.modMach fun m => m.modPk fun k => { k with admWait := k.admWait ++ [(.retire, p, im)] })) ∧
    (i.retired = false → pk.seqPending i = false → (∀ w ∈ pk.admWait, pk.admittedAfter i w.2.1 w.2.2 = true) →
    (i.stopped = false → i.started = false → (i.queueStarts = [] ∨ pk.queueTraffic p im = false) → i.refs.Nodup →
      ∃ t, exec (.admcmdStart p im) s = .next t ∧ t.mach.pk.image p im = some { i with started := true } ∧
        ∀ a ∈ i.decl.acts,
          let x := t.mach.ctx (actRef i.place a)
          (a.first = .now → x.wait = .now ∧ x.relTime = pk.fret) ∧
          (∀ n, a.first = .at n → x.wait = .at n.toNat ∧
            x.relTime = if n.toNat ≤ pk.count then pk.fret else pk.tickOf n) ∧
          (∀ h, a.first = .q h → x.wait = .q h none ∧
            ∃ g ∈ t.mach.pk.path, g.org.ctx = actRef i.place a ∧ g.msg = .waitQ h ∧ g.quad = i.home)) ∧
    (i.stopped = false → i.started = true → exec (.admcmdStart p im) s = .next s) ∧
    (∃ t, exec (.admcmdStop p im) s = .next t ∧ ∀ r ∈ i.refs, (t.mach.ctx r).bound = false) ∧
    ∃ t, exec (.admcmdRetire p im) s = .next t ∧
      (∀ x ∈ t.mach.pk.images, x.part = i.part → x.num = i.num → x.retired = true) ∧
      (∀ o ∈ t.mach.pk.pools, ¬(o.part = i.part ∧ o.img = i.num)) ∧
      (∀ o ∈ t.mach.pk.queues, ¬(o.part = i.part ∧ o.img = i.num)) ∧
      (∀ o ∈ t.mach.pk.scopes, ¬(o.part = i.part ∧ o.img = i.num)) ∧
      (∀ r ∈ i.refs, t.mach.ctx r = Context.reset) ∧
      ∀ c ∈ i.decl.code, ∀ x, c.2.1 ≤ x → x < c.2.1 + 4 * c.2.2.length →
        (t.mach.core (placeOf i.place c.1).1 (placeOf i.place c.1).2).istore.byte (some 0xFF) x = some 0xFF)

/-- A bind starts the checks of its slot, from any state of it (the choice of log entry 28), and an unbind ends it
with its request states; requests in process go on with the registers that the binding had (R300 says only that they
complete; log entry 28); the checks bind it or refuse it with their reason. A request at an endpoint that no tokeniser
names is dropped (the choice of log entry 28); else it joins its tokeniser's requests with its arrival, its sender
numbered only when it is accepted, or is refused when its sender can have no index. The merge entry of a pair is the
one its probes meet first; of the special strings that match, the longest counts; a span splits at its split bits and
nowhere else, its pieces are cut at C bytes, and in each the pair of lowest rank, the leftmost on a tie, merges until
none has a rank; a special string ends a span. A txt.tok whose accesses are done ends with status 0, or 2 and an error
record when not all IDs fit. A txt.out whose accesses are done streams its bytes: those held, then the strings of its
IDs below T; it holds back the longest suffix that is a proper beginning of a UTF-8 sequence unless it is final, and
the rest leaves in messages of at most 8,192 bytes, none of which ends inside a sequence, with their numbers and
flags; a final one with none sends one empty message with the final flag. (R295, R296, R297, R299, R300, R302, R303,
R306, R323) -/
def Obligations.TextEvents : Prop :=
  (∀ (e n : BitVec 4) (v : BitVec 64) (s : State),
    let x := s.mach.pk.textSlot e n.toNat
    (∃ t, exec (.bctlBind e n v) s = .next t ∧
      let y := t.mach.pk.textSlot e n.toNat
      y.valid = true ∧ y.state = 1 ∧ y.reason = 0 ∧ y.ast = v.extractLsb' 16 16 ∧ y.img = v.extractLsb' 32 12 ∧
      y.vocab = x.vocab ∧ y.ep = x.ep ∧ s.mach.pk.fret ≤ y.ready ∧
      (∀ k : BitVec 4, k ≠ n → t.mach.pk.textSlot e k.toNat = s.mach.pk.textSlot e k.toNat) ∧
      ∀ cl, t.mach.cluster cl = s.mach.cluster cl) ∧
    (∃ t, exec (.bctlUnbind e n) s = .next t ∧
      t.mach.pk.textSlot e n.toNat = { x with valid := false, state := 0, reason := 0, inbound := [], stall := none,
                                              stallIn := false, kept := [], errs := [] } ∧
      (∀ r ∈ (t.mach.pk.textEngine e).states, r.slot ≠ n.toNat) ∧
      (x.inbound ≠ [] → ∃ j, 16 ≤ j ∧
        t.mach.pk.textSlot e j = { x with valid := false, state := 0, reason := 0 }) ∧
      (∀ k : BitVec 4, k ≠ n → t.mach.pk.textSlot e k.toNat = s.mach.pk.textSlot e k.toNat) ∧
      ∀ cl, t.mach.cluster cl = s.mach.cluster cl) ∧
    (x.state = 1 → x.ready ≤ s.mach.pk.fret → ∃ t, exec (.bindingCheckResult e n) s = .next t ∧
      let y := t.mach.pk.textSlot e n.toNat
      let r := (s.mach.bindReason e n.toNat).1
      (∀ k, r = .inl k → y.state = 3 ∧ y.reason = BitVec.ofNat 8 k) ∧
      (∀ k, r = .inr k → y.state = 2 ∧ y.reason = 0 ∧ y.vlen = k ∧ y.used = 0 ∧ y.wp = 0 ∧ y.seen = 0))) ∧
  (∀ (k : Packet) (s : State),
    let pk := s.mach.pk
    (pk.tokeniserOf k.ep = none → exec (.inboundRequest k) s = .next s) ∧
    ∀ e n, pk.tokeniserOf k.ep = some (e, n) →
      ((pk.senderIndex k.ep k.fa k.rep).1 = none → ∃ t, exec (.inboundRequest k) s = .next t ∧
        t.mach.pk = { pk with out := pk.out ++ [.refusal k.fa k.rep] } ∧
        ∀ cl, t.mach.cluster cl = s.mach.cluster cl) ∧
      (∀ j, (pk.senderIndex k.ep k.fa k.rep).1 = some j → ∃ t, exec (.inboundRequest k) s = .next t ∧
        (t.mach.pk.textSlot e n.toNat).inbound =
          (pk.textSlot e n.toNat).inbound ++ [⟨pk.fret, s.mach.nextId, k⟩] ∧
        t.mach.pk.peers = pk.peers ∧
        ∀ cl, t.mach.cluster cl = s.mach.cluster cl)) ∧
  (∀ (e : BitVec 4) (s : State) (k : TextCmd) (v : Vocab) (b : List Byte) (m1 m2 m3 : Mach),
    let ids := v.ids (k.got ++ b)
    let put := ids.take (paramTop k.p1)
    let used := (put.map Prod.snd).sum
    e.toNat < 8 → s.mach.textNext e = some k → (s.mach.pk.textSlot e k.slot).stall = none → k.ids = none → k.put = 0 →
    s.mach.readVocab e k.slot = (.done v, m1) →
    m1.readVirt (k.agent e) (paramVa k.p0 + k.got.length) 0 (paramTop k.p0 - k.got.length) = (.done b, m2) →
    m2.writeVirt (k.agent e) (paramVa k.p1) (put.flatMap fun i => bytesOfNat 4 i.1) = (.done (), m3) →
    (ids.length ≤ paramTop k.p1 → exec (.txtTokProcess e) s =
      .next { s with mach := m3.endText e k ⟨ids.length, used, 0, 0⟩ }) ∧
    (paramTop k.p1 < ids.length → exec (.txtTokProcess e) s =
      .next { s with mach := (m3.errorRecord e k.slot 0x05 0 used).endText e k ⟨paramTop k.p1, used, 0, 2⟩ })) ∧
  (∀ (e : BitVec 4) (s : State) (k : TextCmd) (v : Vocab) (b : List Byte) (x : Peer) (m1 m2 : Mach),
    let peer : BitVec 16 := k.p1.extractLsb' 32 16
    let t := s.mach.pk.textEngine e
    8 ≤ e.toNat → s.mach.textNext e = some k → (s.mach.pk.textSlot e k.slot).stall = none → peer.toNat < 4096 →
    s.mach.pk.peerAt (t.slot k.slot).ep (peer.setWidth 12) = some x →
    ((t.state k.slot (k.p1.setWidth 32)).isSome = true ∨ t.states.length < 1024) →
    s.mach.readVocab e k.slot = (.done v, m1) →
    m1.readVirt (k.agent e) (paramVa k.p0 + k.got.length) 0 (4 * paramTop k.p0 - k.got.length) = (.done b, m2) →
    exec (.txtOutProcess e) s =
      .next { s with mach := m2.streamOut e k v (wordsOf (paramTop k.p0) (k.got ++ b)) x }) ∧
  (∀ (m : Mach) (e : BitVec 4) (k : TextCmd) (v : Vocab) (x : Peer),
    let req : BitVec 32 := k.p1.setWidth 32
    k.final = true → (m.pk.textEngine e).state k.slot req = none →
    let t := m.streamOut e k v [] x
    t.pk.out = m.pk.out ++ [.send (m.pk.textSlot e k.slot).ep x.fa x.rep
      (bytesOfNat 4 req.toNat ++ [0, 0, 0, 0] ++ [1, 0, 0, 0] ++ [0, 0, 0, 0])] ∧
    (t.pk.textEngine e).state k.slot req = none) ∧
  (∀ (v : Vocab) (l r n : Nat),
    let at' (i : Nat) := v.bucket (((l * 0x9E3779B1 + r * 0x85EBCA77) % 2 ^ 32 + i) % v.buckets)
    n < v.buckets → (∀ i, i < n → (at' i).left ≠ 0xFFFFFFFF ∧ ¬((at' i).left = l ∧ (at' i).right = r)) →
    ((at' n).left = 0xFFFFFFFF → v.merge l r = none) ∧
    ((at' n).left ≠ 0xFFFFFFFF → (at' n).left = l → (at' n).right = r →
      v.merge l r = some ((at' n).rank, (at' n).merged))) ∧
  (∀ (v : Vocab) (b : List Byte),
    (v.specialAt b = none ↔ ∀ x ∈ v.specialList, ¬x.2 <+: b) ∧
    ∀ id n, v.specialAt b = some (id, n) → (∃ str, (id, str) ∈ v.specialList ∧ str <+: b ∧ str.length = n) ∧
      ∀ x ∈ v.specialList, x.2 <+: b → x.2.length ≤ n) ∧
  (∀ (v : Vocab) (s : List Byte),
    let ps := v.pieces s
    ps.flatten = s ∧ (∀ p ∈ ps, p ≠ [] ∧ ∀ x a b y, p = x ++ a :: b :: y → v.splits a b = false) ∧
    ∀ x p q y, ps = x ++ p :: q :: y → ∀ a b, p.getLast? = some a → q.head? = some b → v.splits a b = true) ∧
  (∀ (c : Nat) (p : List Byte),
    let cs := cutPiece c p.length p
    0 < c → cs.flatten = p ∧ (∀ q ∈ cs, q ≠ [] ∧ q.length ≤ c) ∧
      ∀ x q y, cs = x ++ q :: y → y ≠ [] → q.length = c) ∧
  (∀ (v : Vocab) (x y : List Nat) (l r rank id : Nat),
    let t := x ++ l :: r :: y
    v.merge l r = some (rank, id) →
    (∀ x' l' r' y' rk id', t = x' ++ l' :: r' :: y' → v.merge l' r' = some (rk, id') →
      rank ≤ rk ∧ (x'.length < x.length → rank < rk)) →
    v.mergeAll t.length t = v.mergeAll (x ++ id :: y).length (x ++ id :: y)) ∧
  (∀ (v : Vocab) (t : List Nat), (∀ x l r y, t = x ++ l :: r :: y → v.merge l r = none) → v.mergeAll t.length t = t) ∧
  (∀ (v : Vocab) (x y : List Byte),
    let cut (s : List Byte) := (v.pieces s).flatMap fun p => cutPiece v.chunk p.length p
    v.spanIds x = (cut x).flatMap (fun p =>
      let t := p.map v.byteToken
      (v.mergeAll t.length t).map fun i => (i, v.tokenLen i)) ∧
    ((∀ u c w, x = u ++ c :: w → v.specialAt (c :: w ++ y) = none) →
      (y = [] → v.ids (x ++ y) = v.spanIds x) ∧
      ∀ id n, 0 < n → v.specialAt y = some (id, n) →
        v.ids (x ++ y) = v.spanIds x ++ (id, n) :: v.ids (y.drop n))) ∧
  (∀ l : List Byte, heldTail l <:+ l ∧
    (heldTail l ≠ [] → ∃ z, z ≠ [] ∧ Spec.WellFormed (heldTail l ++ z)) ∧
    ∀ x y z, l = x ++ y → y ≠ [] → z ≠ [] → Spec.WellFormed (y ++ z) → y.length ≤ (heldTail l).length) ∧
  (∀ l : List Byte, (l = [] → payloads l.length l = []) ∧ (l ≠ [] → ∃ n, 0 < n ∧ n ≤ 8192 ∧
    payloads l.length l = l.take n :: payloads (l.drop n).length (l.drop n) ∧
    (l.length ≤ 8192 → (l.drop n) = []) ∧
    (8192 < l.length → (∀ x w y, l = x ++ w ++ y → Spec.WellFormed w → x.length < 8192 → 8192 < x.length + w.length →
        n = x.length) ∧
      ((∀ x w y, l = x ++ w ++ y → Spec.WellFormed w → x.length < 8192 → x.length + w.length ≤ 8192) → n = 8192)))) ∧
  ∀ (m : Mach) (e : BitVec 4) (k : TextCmd) (v : Vocab) (ids : List Nat) (x : Peer),
    let req : BitVec 32 := k.p1.setWidth 32
    let st := ((m.pk.textEngine e).state k.slot req).getD ⟨k.slot, req, [], 0, k.p1.extractLsb' 32 16⟩
    let bad := (ids.mapIdx fun i j => (i, j)).filter fun j => decide (v.tokens ≤ j.2)
    let n := bad.foldl (fun m j => m.errorRecord e k.slot 0x04 req.toNat j.1) m
    let stream := st.held ++ (ids.filter fun j => decide (j < v.tokens)).flatMap v.string
    let held := if k.final then [] else heldTail stream
    let body := stream.take (stream.length - held.length)
    let ps := if k.final = true ∧ body = [] then [[]] else payloads body.length body
    let t := m.streamOut e k v ids x
    t.pk.out = n.pk.out ++ (ps.mapIdx fun i p => .send (n.pk.textSlot e k.slot).ep x.fa x.rep
      (bytesOfNat 4 req.toNat ++ bytesOfNat 4 (st.seq + BitVec.ofNat 32 i).toNat ++
        bytesOfNat 4 ((if k.final = true ∧ i + 1 = ps.length then 1 else 0) + if bad = [] then 0 else 2) ++
        bytesOfNat 4 p.length ++ p)) ∧
    (t.pk.textEngine e).state k.slot req =
      (if k.final then none else some { st with held := held, seq := st.seq + BitVec.ofNat 32 ps.length })

/-- A bind starts the checks of its channel, an unbind ends it, and the checks bind it or refuse it. A storage command
that its drive accepts reads, writes or flushes and is counted; a network command that its peer takes sends, writes or
reads and is counted. Inbound traffic joins its channel's, unless its domain is revoked. A transfer that has begun
goes on from where it stalled. A host access joins its function's stream; through BAR0 it reaches a register of the
admission block, through BAR2 it is performed where it translates, and a write that fails is counted. That a write
past 64 GiB is dropped and counted, that BAR0 is reached at the width of a register, a reserved offset at any width,
and any other access fails, and the number 8 of the physical function and its place as function of partition 0 are the
choice of log entry 29. A drive without power keeps its durable bytes; deallocated blocks read as zero. (R317, R318,
R320, R321, R322, R323, R326) -/
def Obligations.PortEvents : Prop :=
  (∀ (u : ChanUnit) (c : BitVec 5) (v : BitVec 64) (s : State),
    let x := s.mach.pk.port u c
    (∃ t, exec (.channelBind u c v) s = .next t ∧
      let y := t.mach.pk.port u c
      y.valid = true ∧ y.state = 1 ∧ y.reason = 0 ∧ y.ast = v.extractLsb' 16 16 ∧ y.r08 = x.r08 ∧
      s.mach.pk.fret ≤ y.checkAt ∧ (∀ k, k ≠ c → t.mach.pk.port u k = s.mach.pk.port u k) ∧
      ∀ cl, t.mach.cluster cl = s.mach.cluster cl) ∧
    (∃ t, exec (.channelUnbind u c) s = .next t ∧
      t.mach.pk.port u c = { x with valid := false, state := 0, reason := 0 } ∧
      (∀ k, k ≠ c → t.mach.pk.port u k = s.mach.pk.port u k) ∧ ∀ cl, t.mach.cluster cl = s.mach.cluster cl) ∧
    (x.state = 1 → x.checkAt ≤ s.mach.pk.fret → ∃ t, exec (.channelCheckResult u c) s = .next t ∧
      let y := t.mach.pk.port u c
      let r := (s.mach.portReason u c).1
      (∀ k, r = some k → y.state = 3 ∧ y.reason = BitVec.ofNat 8 k) ∧
      (r = none → y.state = 2 ∧ y.reason = 0 ∧ y.used = 0 ∧ y.wp = 0))) ∧
  (∀ (c : BitVec 5) (s : State) (x : PortCmd) (d : Drive),
    let chan := s.mach.pk.sioChan c.toNat
    let m := if x.begun = true then s.mach else s.mach.choice.2
    let va := paramVa (x.p.headD 0)
    let lba := paramVa (x.p.getD 1 0)
    let n := paramTop (x.p.getD 1 0) + 1
    s.mach.portNext chan = some x → chan.stall = none → s.mach.pk.driveOf chan = some d →
    (x.begun = true ∨ s.mach.choice.1 % 2 = 0) →
    (∀ b m2, x.sio = some .wr → lba + n ≤ d.ns.blocks →
      m.readVirt (x.agent .sio c) (va + x.data.length) 0 (n * blockSize d.ns - x.data.length) = (.done b, m2) →
      let m3 := m2.modPk fun p => p.modDrive d.ns fun y => y.write x.flag (lba * blockSize d.ns) (x.data ++ b)
      exec (.storageCommandComplete c) s = .next { s with mach := m3.endPort .sio c x }) ∧
    (∀ b m2 m3, x.sio = some .rd → lba + n ≤ d.ns.blocks →
      (x.begun = true → b = x.data ∧ m2 = m) →
      (x.begun = false → m.driveRead d (lba * blockSize d.ns) (n * blockSize d.ns) = (b, m2)) →
      m2.writeVirt (x.agent .sio c) (va + (n * blockSize d.ns - b.length)) b = (.done (), m3) →
      exec (.storageCommandComplete c) s = .next { s with mach := m3.endPort .sio c x }) ∧
    (∀ q, x.sio = some .flush → x.mark = some q → exec (.storageCommandComplete c) s =
      .next { s with mach := (m.modPk fun p => p.modDrive d.ns fun y => y.flush q).endPort .sio c x })) ∧
  (∀ (d : Drive) (fua : Bool) (a : Nat) (l : List Byte), d.ok →
    let e := d.write fua a l
    (∀ i b, l[i]? = some b → e.now.byte none (a + i) = some b) ∧
    (∀ i, i < a ∨ a + l.length ≤ i → e.now.byte none i = d.now.byte none i) ∧
    (fua = true ∨ d.ns.cache = false → ∀ i b, l[i]? = some b → e.durable.byte none (a + i) = some b) ∧
    (fua = false → d.ns.cache = true → e.durable = d.durable)) ∧
  (∀ (c : BitVec 5) (s : State) (x : PortCmd) (q : Peer),
    let chan := s.mach.pk.netChan c.toNat
    let m := if x.begun = true then s.mach else s.mach.choice.2
    let ep : BitVec 16 := chan.r08.setWidth 16
    let va := paramVa (x.p.headD 0)
    let len := ((x.p.getD 1 0).setWidth 32 : BitVec 32).toNat
    let idx := ((x.p.getD 1 0).extractLsb' 32 16 : BitVec 16).toNat
    let off := x.p.getD 2 0
    let key : BitVec 16 := (x.p.getD 3 0).setWidth 16
    s.mach.portNext chan = some x → chan.stall = none → idx < 4096 → s.mach.pk.peerAt ep (BitVec.ofNat 12 idx) = some q →
    x.mark = none → (x.begun = true ∨ s.mach.choice.1 % 2 = 0) →
    (∀ b m2, x.net = some .send → m.readVirt (x.agent .net c) (va + x.data.length) 0 (len - x.data.length) = (.done b, m2) →
      exec (.networkCommandComplete c) s =
        .next { s with mach := (m2.emit (.send ep q.fa q.rep (x.data ++ b))).endPort .net c x }) ∧
    (∀ b m2, x.net = some .write → m.readVirt (x.agent .net c) (va + x.data.length) 0 (len - x.data.length) = (.done b, m2) →
      exec (.networkCommandComplete c) s =
        .next { s with mach := (m2.emit (.rmaWrite ep q.fa q.rep key off (x.data ++ b))).endPort .net c x }) ∧
    (∀ m2, x.net = some .read →
      let b := if x.begun = true then (x.data, m) else m.freeBytes len
      b.2.writeVirt (x.agent .net c) (va + (len - b.1.length)) b.1 = (.done (), m2) →
      exec (.networkCommandComplete c) s =
        .next { s with mach := (m2.emit (.rmaReadReq ep q.fa q.rep key off len)).endPort .net c x })) ∧
  (∀ (k : Packet) (s : State) (c : BitVec 5),
    let pk := s.mach.pk
    let joins := fun (i : Instr) (kind : InKind) => ∃ t, exec i s = .next t ∧
      (t.mach.pk.netChan c.toNat).inbound = (pk.netChan c.toNat).inbound ++ [(kind, pk.fret, k)] ∧
      ∀ cl, t.mach.cluster cl = s.mach.cluster cl
    pk.netOf k.ep = some c →
    ((pk.keySlot (pk.netChan c.toNat).domain).revoked = true → exec (.inboundNetworkSend k) s = .next s ∧
      exec (.inboundRmaWrite k) s = .next s ∧ exec (.inboundRmaRead k) s = .next s) ∧
    ((pk.keySlot (pk.netChan c.toNat).domain).revoked = false → (pk.senderIndex k.ep k.fa k.rep).1 = none →
      ∃ t, exec (.inboundNetworkSend k) s = .next t ∧ t.mach.pk = { pk with out := pk.out ++ [.refusal k.fa k.rep] }) ∧
    ((pk.keySlot (pk.netChan c.toNat).domain).revoked = false → (pk.senderIndex k.ep k.fa k.rep).1 ≠ none →
      joins (.inboundNetworkSend k) .send ∧ joins (.inboundRmaWrite k) .rmaWrite ∧
      joins (.inboundRmaRead k) .rmaRead)) ∧
  (∀ (r : HostAccess) (v : List Byte) (s : State),
    (∃ t, exec (.hostRead r) s = .next t ∧ t.mach.pk.hostList r.fn = s.mach.pk.hostList r.fn ++ [⟨r, none⟩] ∧
      (∀ f, f ≠ r.fn → t.mach.pk.hostList f = s.mach.pk.hostList f) ∧ ∀ cl, t.mach.cluster cl = s.mach.cluster cl) ∧
    ∃ t, exec (.hostWrite r v) s = .next t ∧ t.mach.pk.hostList r.fn = s.mach.pk.hostList r.fn ++ [⟨r, some v⟩] ∧
      (∀ f, f ≠ r.fn → t.mach.pk.hostList f = s.mach.pk.hostList f) ∧ ∀ cl, t.mach.cluster cl = s.mach.cluster cl) ∧
  (∀ (f : HostFn) (s : State) (w : HostWait) (rest : List HostWait) (d : Partition) (pa : Nat) (e : TlbEntry)
      (m : Mach),
    let p : BitVec 3 := if f = 8 then 0 else f.setWidth 3
    let a : Agent := ⟨.host f, p, if f = 8 then d.defn.pfAst else d.defn.apAst, none, false⟩
    let va := (if f = 8 then d.defn.pfBase else d.defn.apBase).toNat + w.acc.off.toNat
    let reg := s.mach.reg (.admission p) w.acc.off.toNat
    f.toNat ≤ 8 → s.mach.pk.dead = false →
    s.mach.pk.hostList f = w :: rest → s.mach.pk.hostStall.find f.toNat = none →
    s.mach.pk.parts.find p.toNat = some d → d.retired = false →
    (w.acc.bar0 = true → w.acc.off.toNat < 4096 →
      let at' (i : Nat) := (Block.admission p).regAt (w.acc.off.toNat + i)
      (∀ n, at' 0 = some (0, n) → (w.data = none → w.acc.len = n → s.hostIn f =
          { s with mach := (s.mach.emit (.hostData w.acc.fn (some (bytesOfNat n reg.2)))).hostOver f }) ∧
        ∀ l, w.data = some l → l.length = n → s.hostIn f = { s with mach :=
          (s.mach.writeReg (some ⟨p, none⟩) (.admission p) w.acc.off.toNat (BitVec.ofNat 64 (natOfBytes l))).hostOver f }) ∧
      (w.data = none → 0 < w.acc.len → (∀ i, i < w.acc.len → at' i = none) → s.hostIn f =
        { s with mach := (s.mach.emit (.hostData w.acc.fn (some (List.replicate w.acc.len 0)))).hostOver f }) ∧
      (w.data = none → at' 0 ≠ some (0, w.acc.len) → (∃ i, i < w.acc.len ∧ at' i ≠ none) → s.hostIn f =
        { s with mach := (s.mach.emit (.hostData w.acc.fn none)).hostOver f })) ∧
    (∀ l, w.data = some l → 2 ^ 36 < w.acc.off.toNat + l.length → ∃ t, s.hostIn f = { s with mach := t } ∧
      t.pk.hostList f = rest ∧ t.pk.hostDrops.find w.acc.fn.toNat =
        some ((s.mach.pk.hostDrops.find w.acc.fn.toNat).getD 0 + 1)) ∧
    (∀ l, w.acc.bar0 = false → w.data = some l → 0 < l.length → w.acc.off.toNat + l.length ≤ 2 ^ 36 → va / 4096 = (va + l.length - 1) / 4096 →
      s.mach.translate a .write va l.length = (.ok pa e, m) →
      s.hostIn f = { s with mach := (m.physWrite ⟨p, none⟩ e pa l).hostOver f }) ∧
    (∀ b m2, w.acc.bar0 = false → w.data = none → 0 < w.acc.len → w.acc.off.toNat + w.acc.len ≤ 2 ^ 36 → va / 4096 = (va + w.acc.len - 1) / 4096 →
      s.mach.translate a .read va w.acc.len = (.ok pa e, m) → m.physRead e pa w.acc.len = (some b, m2) →
      s.hostIn f = { s with mach := (m2.emit (.hostData w.acc.fn (some b))).hostOver f })) ∧
  ∀ (dr : Nat) (s : State) (d : Drive), s.mach.pk.drives[dr]? = some d →
    (∀ keep, ∃ t e, exec (.lossOfPowerAtTheDrive dr keep) s = .next t ∧ t.mach.pk.drives[dr]? = some e ∧
      e.ns = d.ns ∧ e.now = e.durable ∧ e.vol = [] ∧ (keep = [] → e.durable = d.durable) ∧
      ∀ cl, t.mach.cluster cl = s.mach.cluster cl) ∧
    (∀ lba n, d.ok → s.mach.pk.dead = false → ∃ t e, exec (.datasetManagementDeallocate dr lba n) s = .next t ∧
      t.mach.pk.drives[dr]? = some e ∧ e.ns = d.ns ∧
      (∀ i, lba * blockSize d.ns ≤ i → i < (lba + n) * blockSize d.ns → e.now.byte none i = some 0) ∧
      (∀ i, i < lba * blockSize d.ns ∨ (lba + n) * blockSize d.ns ≤ i → e.now.byte none i = d.now.byte none i) ∧
      ∀ cl, t.mach.cluster cl = s.mach.cluster cl)
end

