-- ==== Sys2Proof/Laws/Memory.lean ====
section
/-!
SUPPORT. The laws of sparse tables and of memories in their canonical form: a read after a write, and that every
memory operation keeps the form.
-/

namespace Sys2Proof.Machine

@[simp] theorem FMap.find_put_same {α : Type} (m : FMap α) (k : Nat) (v : α) : (FMap.put m k v).find k = some v := by
  induction m with
  | nil => simp [FMap.put, FMap.find]
  | cons p rest ih =>
    obtain ⟨i, w⟩ := p
    simp only [FMap.put]
    split
    · simp [FMap.find]
    · split
      · simp [FMap.find]
      · simp only [FMap.find]
        rw [if_neg (by omega)]
        exact ih

theorem FMap.find_put_other {α : Type} (m : FMap α) (k j : Nat) (v : α) (h : j ≠ k) :
    (FMap.put m k v).find j = m.find j := by
  induction m with
  | nil => simp [FMap.put, FMap.find, Ne.symm h]
  | cons p rest ih =>
    obtain ⟨i, w⟩ := p
    simp only [FMap.put]
    split
    · simp [FMap.find, Ne.symm h]
    · split
      · subst_vars; simp [FMap.find, Ne.symm h]
      · simp only [FMap.find, ih]

theorem FMap.mem_put {α : Type} (m : FMap α) (k : Nat) (v : α) (p : Nat × α) (h : p ∈ FMap.put m k v) :
    p = (k, v) ∨ p ∈ m := by
  induction m with
  | nil => simp [FMap.put] at h; exact .inl h
  | cons q rest ih =>
    obtain ⟨i, w⟩ := q
    simp only [FMap.put] at h
    split at h
    · simpa using h
    · split at h
      · rcases List.mem_cons.mp h with h | h
        · exact .inl h
        · exact .inr (List.mem_cons_of_mem _ h)
      · rcases List.mem_cons.mp h with h | h
        · exact .inr (h ▸ List.mem_cons_self)
        · exact (ih h).imp id (List.mem_cons_of_mem _)

theorem FMap.mem_of_find {α : Type} (m : FMap α) (k : Nat) (v : α) (h : m.find k = some v) : (k, v) ∈ m := by
  induction m with
  | nil => simp [FMap.find] at h
  | cons q rest ih =>
    obtain ⟨i, w⟩ := q
    simp only [FMap.find] at h
    split at h
    · simp_all
    · exact List.mem_cons_of_mem _ (ih h)

/-- A memory is canonical when its first entry may stand where it does and the rest is. -/
theorem Memory.wf_cons (d : Option Byte) (a : Nat) (b : Byte) (m : Memory) :
    Memory.wf d ((a, b) :: m) = (decide (d ≠ some b) && (m.all fun p => decide (a < p.1)) && Memory.wf d m) := by
  induction m generalizing a b with
  | nil => simp [Memory.wf]
  | cons q rest ih =>
    obtain ⟨a', b'⟩ := q
    rw [Memory.wf, ih]
    by_cases h : a < a'
    · have : (rest.all fun p => decide (a' < p.1)) = true → (rest.all fun p => decide (a < p.1)) = true := by
        simp only [List.all_eq_true, decide_eq_true_eq]
        exact fun g p hp => Nat.lt_trans h (g p hp)
      by_cases g : (rest.all fun p => decide (a' < p.1)) = true
      · simp [h, this g, g]
      · simp only [Bool.not_eq_true] at g
        simp [g]
    · simp [h]

theorem Memory.byte_above (d : Option Byte) (m : Memory) (a : Nat) (h : (m.all fun p => decide (a < p.1)) = true) :
    m.byte d a = d := by
  induction m with
  | nil => rfl
  | cons q rest ih =>
    obtain ⟨i, b⟩ := q
    simp only [List.all_cons, Bool.and_eq_true, decide_eq_true_eq] at h
    rw [Memory.byte, if_neg (by omega), ih h.2]

theorem Memory.mem_put (d : Option Byte) (m : Memory) (a : Nat) (b : Byte) (p : Nat × Byte) (h : p ∈ m.put d a b) :
    p = (a, b) ∨ p ∈ m := by
  induction m with
  | nil =>
    simp only [Memory.put] at h
    split at h
    · exact .inr h
    · exact .inl (List.mem_singleton.mp h)
  | cons q rest ih =>
    obtain ⟨i, c⟩ := q
    simp only [Memory.put] at h
    split at h
    · split at h
      · exact .inr h
      · exact List.mem_cons.mp h
    · split at h
      · split at h
        · exact .inr (List.mem_cons_of_mem _ h)
        · exact (List.mem_cons.mp h).imp id (List.mem_cons_of_mem _)
      · rcases List.mem_cons.mp h with h | h
        · exact .inr (h ▸ List.mem_cons_self)
        · exact (ih h).imp id (List.mem_cons_of_mem _)

theorem Memory.put_above (d : Option Byte) (m : Memory) (x a : Nat) (b : Byte) (hx : x < a)
    (h : (m.all fun p => decide (x < p.1)) = true) : ((m.put d a b).all fun p => decide (x < p.1)) = true := by
  rw [List.all_eq_true] at h ⊢
  intro p hp
  rcases Memory.mem_put d m a b p hp with e | e
  · rw [e]; exact decide_eq_true hx
  · exact h p e

/-- A write keeps the canonical form. -/
theorem Memory.wf_put (d : Option Byte) (m : Memory) (a : Nat) (b : Byte) (h : m.wf d = true) :
    (m.put d a b).wf d = true := by
  induction m with
  | nil => simp only [Memory.put]; split <;> simp_all [Memory.wf]
  | cons q rest ih =>
    obtain ⟨i, c⟩ := q
    have hc := h
    rw [Memory.wf_cons] at hc
    simp only [Bool.and_eq_true, decide_eq_true_eq] at hc
    simp only [Memory.put]
    split
    · split
      · exact h
      · rename_i hlt hne
        rw [Memory.wf_cons]
        have : (rest.all fun p => decide (a < p.1)) = true := by
          have g := hc.1.2
          simp only [List.all_eq_true, decide_eq_true_eq] at g ⊢
          exact fun p hp => Nat.lt_trans hlt (g p hp)
        simp [hne, hlt, this, h]
    · split
      · rename_i _ heq
        subst heq
        split
        · exact hc.2
        · rename_i hne
          rw [Memory.wf_cons]
          simp [hne, hc.1.2, hc.2]
      · rename_i h1 h2
        rw [Memory.wf_cons]
        have := Memory.put_above d rest i a b (by omega) hc.1.2
        simp [hc.1.1, this, ih hc.2]

/-- Several writes keep the canonical form. -/
theorem Memory.wf_putAll (d : Option Byte) (l : List (Nat × Byte)) (m : Memory) (h : m.wf d = true) :
    (m.putAll d l).wf d = true := by
  induction l generalizing m with
  | nil => exact h
  | cons p rest ih => exact ih _ (Memory.wf_put d m p.1 p.2 h)

/-- A clear keeps the canonical form. -/
theorem Memory.wf_clear (d : Option Byte) (m : Memory) (first last : Nat) (h : m.wf d = true) :
    (m.clear first last).wf d = true := by
  induction m with
  | nil => exact h
  | cons q rest ih =>
    obtain ⟨i, c⟩ := q
    rw [Memory.wf_cons, Bool.and_eq_true, Bool.and_eq_true] at h
    unfold Memory.clear at ih ⊢
    rw [List.filter_cons]
    split
    · rw [Memory.wf_cons, Bool.and_eq_true, Bool.and_eq_true]
      refine ⟨⟨h.1.1, ?_⟩, ih h.2⟩
      rw [List.all_eq_true]
      exact fun p hp => List.all_eq_true.mp h.1.2 p (List.mem_filter.mp hp).1
    · exact ih h.2

/-- A byte read after it was written (R120). -/
theorem Memory.byte_put_same (d : Option Byte) (m : Memory) (a : Nat) (b : Byte) (h : m.wf d = true) :
    (m.put d a b).byte d a = some b := by
  induction m with
  | nil =>
    simp only [Memory.put]
    split
    · rename_i e; simpa [Memory.byte] using e
    · simp [Memory.byte]
  | cons q rest ih =>
    obtain ⟨i, c⟩ := q
    rw [Memory.wf_cons] at h
    simp only [Bool.and_eq_true, decide_eq_true_eq] at h
    have above : ∀ x, x < i → Memory.byte d ((i, c) :: rest) x = d := fun x hx => by
      apply Memory.byte_above
      simp only [List.all_cons, Bool.and_eq_true, decide_eq_true_eq]
      refine ⟨hx, ?_⟩
      have g := h.1.2
      simp only [List.all_eq_true, decide_eq_true_eq] at g ⊢
      exact fun p hp => Nat.lt_trans hx (g p hp)
    simp only [Memory.put]
    split
    · rename_i hlt
      split
      · rename_i e; rw [above a hlt, e]
      · simp [Memory.byte]
    · split
      · rename_i _ heq
        subst heq
        split
        · rename_i e; rw [Memory.byte_above d rest a h.1.2, e]
        · simp [Memory.byte]
      · rename_i _ hne
        rw [Memory.byte, if_neg (Ne.symm hne)]
        exact ih h.2

/-- A write leaves every other byte alone. -/
theorem Memory.byte_put_other (d : Option Byte) (m : Memory) (a x : Nat) (b : Byte) (h : x ≠ a) :
    (m.put d a b).byte d x = m.byte d x := by
  induction m with
  | nil => simp only [Memory.put]; split <;> simp [Memory.byte, Ne.symm h]
  | cons q rest ih =>
    obtain ⟨i, c⟩ := q
    simp only [Memory.put]
    split
    · split
      · rfl
      · rw [Memory.byte, if_neg (Ne.symm h)]
    · split
      · rename_i _ heq
        subst heq
        split
        · rw [Memory.byte, if_neg (Ne.symm h)]
        · rw [Memory.byte, if_neg (Ne.symm h), Memory.byte, if_neg (Ne.symm h)]
      · rw [Memory.byte, Memory.byte, ih]

/-- Writes leave every byte alone that they do not name. -/
theorem Memory.byte_putAll_other (d : Option Byte) (l : List (Nat × Byte)) (m : Memory) (x : Nat)
    (h : ∀ p ∈ l, x ≠ p.1) : (m.putAll d l).byte d x = m.byte d x := by
  induction l generalizing m with
  | nil => rfl
  | cons p rest ih =>
    have := ih (m.put d p.1 p.2) fun q hq => h q (List.mem_cons_of_mem _ hq)
    rw [Memory.byte_put_other d m p.1 x p.2 (h p List.mem_cons_self)] at this
    exact this

end Sys2Proof.Machine
end

