-- ==== Sys2Proof/Laws/State.lean ====
section
/-!
SUPPORT. What each named update of the state leaves alone and what it sets: one lemma for each field of each update.
-/

namespace Sys2Proof.Machine

/-! ## The whole state -/

@[simp] theorem State.modMach_mach (s : State) (f : Mach → Mach) : (s.modMach f).mach = f s.mach := rfl
@[simp] theorem State.modMach_iss (s : State) (f : Mach → Mach) : (s.modMach f).iss = s.iss := rfl
@[simp] theorem State.modCtx_mach (s : State) (f : Context → Context) : (s.modCtx f).mach = s.mach.modCtx s.ref f := rfl
@[simp] theorem State.modCtx_iss (s : State) (f : Context → Context) : (s.modCtx f).iss = s.iss := rfl
@[simp] theorem State.modCore_mach (s : State) (f : Core → Core) : (s.modCore f).mach = s.mach.modCore s.iss.cl s.iss.co f := rfl
@[simp] theorem State.modCore_iss (s : State) (f : Core → Core) : (s.modCore f).iss = s.iss := rfl
@[simp] theorem State.pop_iss (s : State) : s.pop.iss = s.iss := rfl
@[simp] theorem State.pop_clusters (s : State) : s.pop.mach.clusters = s.mach.clusters := rfl
@[simp] theorem State.pop_pk (s : State) : s.pop.mach.pk = s.mach.pk := rfl
@[simp] theorem State.pop_todo (s : State) : s.pop.mach.todo = s.mach.todo.drop 1 := rfl

/-! ## The machine -/

@[simp] theorem Mach.setCluster_pk (m : Mach) (cl : ClusterId) (c : Cluster) : (m.setCluster cl c).pk = m.pk := rfl
@[simp] theorem Mach.setCluster_inbox (m : Mach) (cl : ClusterId) (c : Cluster) : (m.setCluster cl c).inbox = m.inbox := rfl
@[simp] theorem Mach.setCluster_stage (m : Mach) (cl : ClusterId) (c : Cluster) : (m.setCluster cl c).stage = m.stage := rfl
@[simp] theorem Mach.setCluster_todo (m : Mach) (cl : ClusterId) (c : Cluster) : (m.setCluster cl c).todo = m.todo := rfl
@[simp] theorem Mach.setCluster_delays (m : Mach) (cl : ClusterId) (c : Cluster) : (m.setCluster cl c).delays = m.delays := rfl
@[simp] theorem Mach.setCluster_free (m : Mach) (cl : ClusterId) (c : Cluster) : (m.setCluster cl c).free = m.free := rfl
@[simp] theorem Mach.setCluster_nextId (m : Mach) (cl : ClusterId) (c : Cluster) : (m.setCluster cl c).nextId = m.nextId := rfl
@[simp] theorem Mach.modCluster_pk (m : Mach) (cl : ClusterId) (f : Cluster → Cluster) : (m.modCluster cl f).pk = m.pk := rfl
@[simp] theorem Mach.modCluster_inbox (m : Mach) (cl : ClusterId) (f : Cluster → Cluster) : (m.modCluster cl f).inbox = m.inbox := rfl
@[simp] theorem Mach.modCluster_stage (m : Mach) (cl : ClusterId) (f : Cluster → Cluster) : (m.modCluster cl f).stage = m.stage := rfl
@[simp] theorem Mach.modCluster_todo (m : Mach) (cl : ClusterId) (f : Cluster → Cluster) : (m.modCluster cl f).todo = m.todo := rfl
@[simp] theorem Mach.modCluster_delays (m : Mach) (cl : ClusterId) (f : Cluster → Cluster) : (m.modCluster cl f).delays = m.delays := rfl
@[simp] theorem Mach.modCluster_free (m : Mach) (cl : ClusterId) (f : Cluster → Cluster) : (m.modCluster cl f).free = m.free := rfl
@[simp] theorem Mach.modCluster_nextId (m : Mach) (cl : ClusterId) (f : Cluster → Cluster) : (m.modCluster cl f).nextId = m.nextId := rfl
@[simp] theorem Mach.setCore_pk (m : Mach) (cl : ClusterId) (co : CoreId) (k : Core) : (m.setCore cl co k).pk = m.pk := rfl
@[simp] theorem Mach.setCore_inbox (m : Mach) (cl : ClusterId) (co : CoreId) (k : Core) : (m.setCore cl co k).inbox = m.inbox := rfl
@[simp] theorem Mach.setCore_stage (m : Mach) (cl : ClusterId) (co : CoreId) (k : Core) : (m.setCore cl co k).stage = m.stage := rfl
@[simp] theorem Mach.setCore_todo (m : Mach) (cl : ClusterId) (co : CoreId) (k : Core) : (m.setCore cl co k).todo = m.todo := rfl
@[simp] theorem Mach.setCore_delays (m : Mach) (cl : ClusterId) (co : CoreId) (k : Core) : (m.setCore cl co k).delays = m.delays := rfl
@[simp] theorem Mach.setCore_free (m : Mach) (cl : ClusterId) (co : CoreId) (k : Core) : (m.setCore cl co k).free = m.free := rfl
@[simp] theorem Mach.setCore_nextId (m : Mach) (cl : ClusterId) (co : CoreId) (k : Core) : (m.setCore cl co k).nextId = m.nextId := rfl
@[simp] theorem Mach.modCore_pk (m : Mach) (cl : ClusterId) (co : CoreId) (f : Core → Core) : (m.modCore cl co f).pk = m.pk := rfl
@[simp] theorem Mach.modCore_inbox (m : Mach) (cl : ClusterId) (co : CoreId) (f : Core → Core) : (m.modCore cl co f).inbox = m.inbox := rfl
@[simp] theorem Mach.modCore_stage (m : Mach) (cl : ClusterId) (co : CoreId) (f : Core → Core) : (m.modCore cl co f).stage = m.stage := rfl
@[simp] theorem Mach.modCore_todo (m : Mach) (cl : ClusterId) (co : CoreId) (f : Core → Core) : (m.modCore cl co f).todo = m.todo := rfl
@[simp] theorem Mach.modCore_delays (m : Mach) (cl : ClusterId) (co : CoreId) (f : Core → Core) : (m.modCore cl co f).delays = m.delays := rfl
@[simp] theorem Mach.modCore_free (m : Mach) (cl : ClusterId) (co : CoreId) (f : Core → Core) : (m.modCore cl co f).free = m.free := rfl
@[simp] theorem Mach.modCore_nextId (m : Mach) (cl : ClusterId) (co : CoreId) (f : Core → Core) : (m.modCore cl co f).nextId = m.nextId := rfl
@[simp] theorem Mach.modCtx_pk (m : Mach) (r : CtxRef) (f : Context → Context) : (m.modCtx r f).pk = m.pk := rfl
@[simp] theorem Mach.modCtx_inbox (m : Mach) (r : CtxRef) (f : Context → Context) : (m.modCtx r f).inbox = m.inbox := rfl
@[simp] theorem Mach.modCtx_stage (m : Mach) (r : CtxRef) (f : Context → Context) : (m.modCtx r f).stage = m.stage := rfl
@[simp] theorem Mach.modCtx_todo (m : Mach) (r : CtxRef) (f : Context → Context) : (m.modCtx r f).todo = m.todo := rfl
@[simp] theorem Mach.modCtx_delays (m : Mach) (r : CtxRef) (f : Context → Context) : (m.modCtx r f).delays = m.delays := rfl
@[simp] theorem Mach.modCtx_free (m : Mach) (r : CtxRef) (f : Context → Context) : (m.modCtx r f).free = m.free := rfl
@[simp] theorem Mach.modCtx_nextId (m : Mach) (r : CtxRef) (f : Context → Context) : (m.modCtx r f).nextId = m.nextId := rfl
@[simp] theorem Mach.modPk_clusters (m : Mach) (f : Package → Package) : (m.modPk f).clusters = m.clusters := rfl
@[simp] theorem Mach.modPk_inbox (m : Mach) (f : Package → Package) : (m.modPk f).inbox = m.inbox := rfl
@[simp] theorem Mach.modPk_stage (m : Mach) (f : Package → Package) : (m.modPk f).stage = m.stage := rfl
@[simp] theorem Mach.modPk_todo (m : Mach) (f : Package → Package) : (m.modPk f).todo = m.todo := rfl
@[simp] theorem Mach.modPk_delays (m : Mach) (f : Package → Package) : (m.modPk f).delays = m.delays := rfl
@[simp] theorem Mach.modPk_free (m : Mach) (f : Package → Package) : (m.modPk f).free = m.free := rfl
@[simp] theorem Mach.modPk_nextId (m : Mach) (f : Package → Package) : (m.modPk f).nextId = m.nextId := rfl
@[simp] theorem Mach.modDom_clusters (m : Mach) (d : Dom) (f : Domain → Domain) : (m.modDom d f).clusters = m.clusters := rfl
@[simp] theorem Mach.modDom_inbox (m : Mach) (d : Dom) (f : Domain → Domain) : (m.modDom d f).inbox = m.inbox := rfl
@[simp] theorem Mach.modDom_stage (m : Mach) (d : Dom) (f : Domain → Domain) : (m.modDom d f).stage = m.stage := rfl
@[simp] theorem Mach.modDom_todo (m : Mach) (d : Dom) (f : Domain → Domain) : (m.modDom d f).todo = m.todo := rfl
@[simp] theorem Mach.modDom_delays (m : Mach) (d : Dom) (f : Domain → Domain) : (m.modDom d f).delays = m.delays := rfl
@[simp] theorem Mach.modDom_free (m : Mach) (d : Dom) (f : Domain → Domain) : (m.modDom d f).free = m.free := rfl
@[simp] theorem Mach.modDom_nextId (m : Mach) (d : Dom) (f : Domain → Domain) : (m.modDom d f).nextId = m.nextId := rfl
@[simp] theorem Mach.modPk_pk (m : Mach) (f : Package → Package) : (m.modPk f).pk = f m.pk := rfl
@[simp] theorem Mach.modDom_pk (m : Mach) (d : Dom) (f : Domain → Domain) : (m.modDom d f).pk = m.pk.modDom d f := rfl
@[simp] theorem Package.modDom_fret (p : Package) (d : Dom) (f : Domain → Domain) : (p.modDom d f).fret = p.fret := rfl
@[simp] theorem Package.modDom_vault (p : Package) (d : Dom) (f : Domain → Domain) : (p.modDom d f).vault = p.vault := rfl
@[simp] theorem Package.modDom_vaultKey (p : Package) (d : Dom) (f : Domain → Domain) : (p.modDom d f).vaultKey = p.vaultKey := rfl
@[simp] theorem Package.modDom_vaultBad (p : Package) (d : Dom) (f : Domain → Domain) : (p.modDom d f).vaultBad = p.vaultBad := rfl
@[simp] theorem Package.modDom_vaultLog (p : Package) (d : Dom) (f : Domain → Domain) : (p.modDom d f).vaultLog = p.vaultLog := rfl
@[simp] theorem Package.modDom_parts (p : Package) (d : Dom) (f : Domain → Domain) : (p.modDom d f).parts = p.parts := rfl
@[simp] theorem Package.modDom_keys (p : Package) (d : Dom) (f : Domain → Domain) : (p.modDom d f).keys = p.keys := rfl
@[simp] theorem Package.modDom_asttab (p : Package) (d : Dom) (f : Domain → Domain) : (p.modDom d f).asttab = p.asttab := rfl
@[simp] theorem Package.modDom_fltbase (p : Package) (d : Dom) (f : Domain → Domain) : (p.modDom d f).fltbase = p.fltbase := rfl
@[simp] theorem Package.modDom_invseq (p : Package) (d : Dom) (f : Domain → Domain) : (p.modDom d f).invseq = p.invseq := rfl
@[simp] theorem Package.modDom_invdone (p : Package) (d : Dom) (f : Domain → Domain) : (p.modDom d f).invdone = p.invdone := rfl
@[simp] theorem Package.modDom_invref (p : Package) (d : Dom) (f : Domain → Domain) : (p.modDom d f).invref = p.invref := rfl
@[simp] theorem Package.modDom_invals (p : Package) (d : Dom) (f : Domain → Domain) : (p.modDom d f).invals = p.invals := rfl
@[simp] theorem Package.modDom_tlbs (p : Package) (d : Dom) (f : Domain → Domain) : (p.modDom d f).tlbs = p.tlbs := rfl
@[simp] theorem Package.modDom_shared (p : Package) (d : Dom) (f : Domain → Domain) : (p.modDom d f).shared = p.shared := rfl
@[simp] theorem Package.modDom_walks (p : Package) (d : Dom) (f : Domain → Domain) : (p.modDom d f).walks = p.walks := rfl
@[simp] theorem Package.modDom_faults (p : Package) (d : Dom) (f : Domain → Domain) : (p.modDom d f).faults = p.faults := rfl
@[simp] theorem Package.modDom_fltseq (p : Package) (d : Dom) (f : Domain → Domain) : (p.modDom d f).fltseq = p.fltseq := rfl
@[simp] theorem Package.modDom_chans (p : Package) (d : Dom) (f : Domain → Domain) : (p.modDom d f).chans = p.chans := rfl
@[simp] theorem Package.modDom_fars (p : Package) (d : Dom) (f : Domain → Domain) : (p.modDom d f).fars = p.fars := rfl
@[simp] theorem Package.modDom_lines (p : Package) (d : Dom) (f : Domain → Domain) : (p.modDom d f).lines = p.lines := rfl
@[simp] theorem Package.modDom_pools (p : Package) (d : Dom) (f : Domain → Domain) : (p.modDom d f).pools = p.pools := rfl
@[simp] theorem Package.modDom_queues (p : Package) (d : Dom) (f : Domain → Domain) : (p.modDom d f).queues = p.queues := rfl
@[simp] theorem Package.modDom_scopes (p : Package) (d : Dom) (f : Domain → Domain) : (p.modDom d f).scopes = p.scopes := rfl
@[simp] theorem Package.modDom_path (p : Package) (d : Dom) (f : Domain → Domain) : (p.modDom d f).path = p.path := rfl
@[simp] theorem Package.modDom_images (p : Package) (d : Dom) (f : Domain → Domain) : (p.modDom d f).images = p.images := rfl
@[simp] theorem Package.modDom_adm (p : Package) (d : Dom) (f : Domain → Domain) : (p.modDom d f).adm = p.adm := rfl
@[simp] theorem Package.modDom_seq (p : Package) (d : Dom) (f : Domain → Domain) : (p.modDom d f).seq = p.seq := rfl
@[simp] theorem Package.modDom_admWait (p : Package) (d : Dom) (f : Domain → Domain) : (p.modDom d f).admWait = p.admWait := rfl
@[simp] theorem Package.modDom_constMaps (p : Package) (d : Dom) (f : Domain → Domain) : (p.modDom d f).constMaps = p.constMaps := rfl
@[simp] theorem Package.modDom_outs (p : Package) (d : Dom) (f : Domain → Domain) : (p.modDom d f).outs = p.outs := rfl
@[simp] theorem Package.modDom_fences (p : Package) (d : Dom) (f : Domain → Domain) : (p.modDom d f).fences = p.fences := rfl
@[simp] theorem Package.modDom_text (p : Package) (d : Dom) (f : Domain → Domain) : (p.modDom d f).text = p.text := rfl
@[simp] theorem Package.modDom_sio (p : Package) (d : Dom) (f : Domain → Domain) : (p.modDom d f).sio = p.sio := rfl
@[simp] theorem Package.modDom_net (p : Package) (d : Dom) (f : Domain → Domain) : (p.modDom d f).net = p.net := rfl
@[simp] theorem Package.modDom_peers (p : Package) (d : Dom) (f : Domain → Domain) : (p.modDom d f).peers = p.peers := rfl
@[simp] theorem Package.modDom_drives (p : Package) (d : Dom) (f : Domain → Domain) : (p.modDom d f).drives = p.drives := rfl
@[simp] theorem Package.modDom_hostQ (p : Package) (d : Dom) (f : Domain → Domain) : (p.modDom d f).hostQ = p.hostQ := rfl
@[simp] theorem Package.modDom_hostStall (p : Package) (d : Dom) (f : Domain → Domain) : (p.modDom d f).hostStall = p.hostStall := rfl
@[simp] theorem Package.modDom_hostDrops (p : Package) (d : Dom) (f : Domain → Domain) : (p.modDom d f).hostDrops = p.hostDrops := rfl
@[simp] theorem Package.modDom_out (p : Package) (d : Dom) (f : Domain → Domain) : (p.modDom d f).out = p.out := rfl
@[simp] theorem Package.modDom_rootPart (p : Package) (d : Dom) (f : Domain → Domain) : (p.modDom d f).rootPart = p.rootPart := rfl
@[simp] theorem Package.modDom_rootDom (p : Package) (d : Dom) (f : Domain → Domain) : (p.modDom d f).rootDom = p.rootDom := rfl
@[simp] theorem Package.modDom_meas (p : Package) (d : Dom) (f : Domain → Domain) : (p.modDom d f).meas = p.meas := rfl
@[simp] theorem Package.modDom_harts (p : Package) (d : Dom) (f : Domain → Domain) : (p.modDom d f).harts = p.harts := rfl
@[simp] theorem Package.modDom_resv (p : Package) (d : Dom) (f : Domain → Domain) : (p.modDom d f).resv = p.resv := rfl
@[simp] theorem Package.modDom_boot (p : Package) (d : Dom) (f : Domain → Domain) : (p.modDom d f).boot = p.boot := rfl
@[simp] theorem Mach.fresh_clusters (m : Mach) : m.fresh.2.clusters = m.clusters := rfl
@[simp] theorem Mach.fresh_pk (m : Mach) : m.fresh.2.pk = m.pk := rfl
@[simp] theorem Mach.fresh_inbox (m : Mach) : m.fresh.2.inbox = m.inbox := rfl
@[simp] theorem Mach.fresh_stage (m : Mach) : m.fresh.2.stage = m.stage := rfl
@[simp] theorem Mach.fresh_todo (m : Mach) : m.fresh.2.todo = m.todo := rfl
@[simp] theorem Mach.fresh_delays (m : Mach) : m.fresh.2.delays = m.delays := rfl
@[simp] theorem Mach.fresh_free (m : Mach) : m.fresh.2.free = m.free := rfl
@[simp] theorem Mach.fresh_nextId (m : Mach) : m.fresh.2.nextId = m.nextId + 1 := rfl
@[simp] theorem Mach.fresh_id (m : Mach) : m.fresh.1 = m.nextId := rfl

/-! ## A cluster, a core, the registers -/

@[simp] theorem Cluster.setCore_cyc (c : Cluster) (co : CoreId) (k : Core) : (c.setCore co k).cyc = c.cyc := rfl
@[simp] theorem Cluster.setCore_credit (c : Cluster) (co : CoreId) (k : Core) : (c.setCore co k).credit = c.credit := rfl
@[simp] theorem Cluster.setCore_frozen (c : Cluster) (co : CoreId) (k : Core) : (c.setCore co k).frozen = c.frozen := rfl
@[simp] theorem Cluster.setCore_freezeReq (c : Cluster) (co : CoreId) (k : Core) : (c.setCore co k).freezeReq = c.freezeReq := rfl
@[simp] theorem Cluster.setCore_engHeld (c : Cluster) (co : CoreId) (k : Core) : (c.setCore co k).engHeld = c.engHeld := rfl
@[simp] theorem Cluster.setCore_scratch (c : Cluster) (co : CoreId) (k : Core) : (c.setCore co k).scratch = c.scratch := rfl
@[simp] theorem Cluster.setCore_spTags (c : Cluster) (co : CoreId) (k : Core) : (c.setCore co k).spTags = c.spTags := rfl
@[simp] theorem Cluster.setCore_badLines (c : Cluster) (co : CoreId) (k : Core) : (c.setCore co k).badLines = c.badLines := rfl
@[simp] theorem Cluster.setCore_ifpend (c : Cluster) (co : CoreId) (k : Core) : (c.setCore co k).ifpend = c.ifpend := rfl
@[simp] theorem Cluster.setCore_ifen (c : Cluster) (co : CoreId) (k : Core) : (c.setCore co k).ifen = c.ifen := rfl
@[simp] theorem Cluster.setCore_irqs (c : Cluster) (co : CoreId) (k : Core) : (c.setCore co k).irqs = c.irqs := rfl
@[simp] theorem Cluster.setCore_tqrec (c : Cluster) (co : CoreId) (k : Core) : (c.setCore co k).tqrec = c.tqrec := rfl
@[simp] theorem Cluster.setCore_tqHead (c : Cluster) (co : CoreId) (k : Core) : (c.setCore co k).tqHead = c.tqHead := rfl
@[simp] theorem Cluster.setCore_tqCount (c : Cluster) (co : CoreId) (k : Core) : (c.setCore co k).tqCount = c.tqCount := rfl
@[simp] theorem Cluster.setCore_tqOvf (c : Cluster) (co : CoreId) (k : Core) : (c.setCore co k).tqOvf = c.tqOvf := rfl
@[simp] theorem Cluster.setCore_tqSeq (c : Cluster) (co : CoreId) (k : Core) : (c.setCore co k).tqSeq = c.tqSeq := rfl
@[simp] theorem Cluster.setCore_ceCount (c : Cluster) (co : CoreId) (k : Core) : (c.setCore co k).ceCount = c.ceCount := rfl
@[simp] theorem Cluster.setCore_ceStore (c : Cluster) (co : CoreId) (k : Core) : (c.setCore co k).ceStore = c.ceStore := rfl
@[simp] theorem Cluster.setCore_ceCore (c : Cluster) (co : CoreId) (k : Core) : (c.setCore co k).ceCore = c.ceCore := rfl
@[simp] theorem Cluster.setCore_ceLine (c : Cluster) (co : CoreId) (k : Core) : (c.setCore co k).ceLine = c.ceLine := rfl
@[simp] theorem Cluster.setCore_frzowed (c : Cluster) (co : CoreId) (k : Core) : (c.setCore co k).frzowed = c.frzowed := rfl
@[simp] theorem Cluster.setCore_gangs (c : Cluster) (co : CoreId) (k : Core) : (c.setCore co k).gangs = c.gangs := rfl
@[simp] theorem Cluster.setCore_bank (c : Cluster) (co : CoreId) (k : Core) : (c.setCore co k).bank = c.bank := rfl
@[simp] theorem Cluster.setCore_ports (c : Cluster) (co : CoreId) (k : Core) : (c.setCore co k).ports = c.ports := rfl
@[simp] theorem Cluster.setCore_arrivals (c : Cluster) (co : CoreId) (k : Core) : (c.setCore co k).arrivals = c.arrivals := rfl
@[simp] theorem Cluster.setCore_pend (c : Cluster) (co : CoreId) (k : Core) : (c.setCore co k).pend = c.pend := rfl
@[simp] theorem Cluster.setCore_ending (c : Cluster) (co : CoreId) (k : Core) : (c.setCore co k).ending = c.ending := rfl
@[simp] theorem Core.setCtx_lm (k : Core) (cx : CtxId) (x : Context) : (k.setCtx cx x).lm = k.lm := rfl
@[simp] theorem Core.setCtx_lmTags (k : Core) (cx : CtxId) (x : Context) : (k.setCtx cx x).lmTags = k.lmTags := rfl
@[simp] theorem Core.setCtx_istore (k : Core) (cx : CtxId) (x : Context) : (k.setCtx cx x).istore = k.istore := rfl
@[simp] theorem Core.setCtx_acc (k : Core) (cx : CtxId) (x : Context) : (k.setCtx cx x).acc = k.acc := rfl
@[simp] theorem Core.setCtx_plane (k : Core) (cx : CtxId) (x : Context) : (k.setCtx cx x).plane = k.plane := rfl
@[simp] theorem Core.setCtx_shadowPlane (k : Core) (cx : CtxId) (x : Context) : (k.setCtx cx x).shadowPlane = k.shadowPlane := rfl
@[simp] theorem Core.setCtx_load (k : Core) (cx : CtxId) (x : Context) : (k.setCtx cx x).load = k.load := rfl
@[simp] theorem Core.setCtx_mmas (k : Core) (cx : CtxId) (x : Context) : (k.setCtx cx x).mmas = k.mmas := rfl
@[simp] theorem Core.setCtx_mmaNext (k : Core) (cx : CtxId) (x : Context) : (k.setCtx cx x).mmaNext = k.mmaNext := rfl
@[simp] theorem Core.setCtx_accW (k : Core) (cx : CtxId) (x : Context) : (k.setCtx cx x).accW = k.accW := rfl
@[simp] theorem Core.setCtx_accR (k : Core) (cx : CtxId) (x : Context) : (k.setCtx cx x).accR = k.accR := rfl
@[simp] theorem Core.setCtx_accLand (k : Core) (cx : CtxId) (x : Context) : (k.setCtx cx x).accLand = k.accLand := rfl
@[simp] theorem Core.setCtx_divFree (k : Core) (cx : CtxId) (x : Context) : (k.setCtx cx x).divFree = k.divFree := rfl
@[simp] theorem Core.setCtx_divCx (k : Core) (cx : CtxId) (x : Context) : (k.setCtx cx x).divCx = k.divCx := rfl
@[simp] theorem Core.setCtx_divId (k : Core) (cx : CtxId) (x : Context) : (k.setCtx cx x).divId = k.divId := rfl
@[simp] theorem Core.setCtx_evq (k : Core) (cx : CtxId) (x : Context) : (k.setCtx cx x).evq = k.evq := rfl
@[simp] theorem Core.setCtx_evLost (k : Core) (cx : CtxId) (x : Context) : (k.setCtx cx x).evLost = k.evLost := rfl
@[simp] theorem Core.setCtx_evNew (k : Core) (cx : CtxId) (x : Context) : (k.setCtx cx x).evNew = k.evNew := rfl
@[simp] theorem Core.setCtx_drain (k : Core) (cx : CtxId) (x : Context) : (k.setCtx cx x).drain = k.drain := rfl
@[simp] theorem Core.setCtx_heldEvts (k : Core) (cx : CtxId) (x : Context) : (k.setCtx cx x).heldEvts = k.heldEvts := rfl
@[simp] theorem Core.setCtx_drained (k : Core) (cx : CtxId) (x : Context) : (k.setCtx cx x).drained = k.drained := rfl
@[simp] theorem Core.setCtx_evOut (k : Core) (cx : CtxId) (x : Context) : (k.setCtx cx x).evOut = k.evOut := rfl
@[simp] theorem Core.setCtx_issuedC (k : Core) (cx : CtxId) (x : Context) : (k.setCtx cx x).issuedC = k.issuedC := rfl
@[simp] theorem Core.setCtx_issued (k : Core) (cx : CtxId) (x : Context) : (k.setCtx cx x).issued = k.issued := rfl
@[simp] theorem Core.setCtx_atomics (k : Core) (cx : CtxId) (x : Context) : (k.setCtx cx x).atomics = k.atomics := rfl
@[simp] theorem Core.setCtx_latches (k : Core) (cx : CtxId) (x : Context) : (k.setCtx cx x).latches = k.latches := rfl
@[simp] theorem Core.setCtx_bridge (k : Core) (cx : CtxId) (x : Context) : (k.setCtx cx x).bridge = k.bridge := rfl
@[simp] theorem Core.setCtx_running (k : Core) (cx : CtxId) (x : Context) : (k.setCtx cx x).running = k.running := rfl
@[simp] theorem Core.setCtx_selFrom (k : Core) (cx : CtxId) (x : Context) : (k.setCtx cx x).selFrom = k.selFrom := rfl
@[simp] theorem Core.setCtx_selUrgent (k : Core) (cx : CtxId) (x : Context) : (k.setCtx cx x).selUrgent = k.selUrgent := rfl
@[simp] theorem Core.setCtx_lastImg (k : Core) (cx : CtxId) (x : Context) : (k.setCtx cx x).lastImg = k.lastImg := rfl
@[simp] theorem Core.setCtx_badLines (k : Core) (cx : CtxId) (x : Context) : (k.setCtx cx x).badLines = k.badLines := rfl
@[simp] theorem Core.modCtx_lm (k : Core) (cx : CtxId) (f : Context → Context) : (k.modCtx cx f).lm = k.lm := rfl
@[simp] theorem Core.modCtx_lmTags (k : Core) (cx : CtxId) (f : Context → Context) : (k.modCtx cx f).lmTags = k.lmTags := rfl
@[simp] theorem Core.modCtx_istore (k : Core) (cx : CtxId) (f : Context → Context) : (k.modCtx cx f).istore = k.istore := rfl
@[simp] theorem Core.modCtx_acc (k : Core) (cx : CtxId) (f : Context → Context) : (k.modCtx cx f).acc = k.acc := rfl
@[simp] theorem Core.modCtx_plane (k : Core) (cx : CtxId) (f : Context → Context) : (k.modCtx cx f).plane = k.plane := rfl
@[simp] theorem Core.modCtx_shadowPlane (k : Core) (cx : CtxId) (f : Context → Context) : (k.modCtx cx f).shadowPlane = k.shadowPlane := rfl
@[simp] theorem Core.modCtx_load (k : Core) (cx : CtxId) (f : Context → Context) : (k.modCtx cx f).load = k.load := rfl
@[simp] theorem Core.modCtx_mmas (k : Core) (cx : CtxId) (f : Context → Context) : (k.modCtx cx f).mmas = k.mmas := rfl
@[simp] theorem Core.modCtx_mmaNext (k : Core) (cx : CtxId) (f : Context → Context) : (k.modCtx cx f).mmaNext = k.mmaNext := rfl
@[simp] theorem Core.modCtx_accW (k : Core) (cx : CtxId) (f : Context → Context) : (k.modCtx cx f).accW = k.accW := rfl
@[simp] theorem Core.modCtx_accR (k : Core) (cx : CtxId) (f : Context → Context) : (k.modCtx cx f).accR = k.accR := rfl
@[simp] theorem Core.modCtx_accLand (k : Core) (cx : CtxId) (f : Context → Context) : (k.modCtx cx f).accLand = k.accLand := rfl
@[simp] theorem Core.modCtx_divFree (k : Core) (cx : CtxId) (f : Context → Context) : (k.modCtx cx f).divFree = k.divFree := rfl
@[simp] theorem Core.modCtx_divCx (k : Core) (cx : CtxId) (f : Context → Context) : (k.modCtx cx f).divCx = k.divCx := rfl
@[simp] theorem Core.modCtx_divId (k : Core) (cx : CtxId) (f : Context → Context) : (k.modCtx cx f).divId = k.divId := rfl
@[simp] theorem Core.modCtx_evq (k : Core) (cx : CtxId) (f : Context → Context) : (k.modCtx cx f).evq = k.evq := rfl
@[simp] theorem Core.modCtx_evLost (k : Core) (cx : CtxId) (f : Context → Context) : (k.modCtx cx f).evLost = k.evLost := rfl
@[simp] theorem Core.modCtx_evNew (k : Core) (cx : CtxId) (f : Context → Context) : (k.modCtx cx f).evNew = k.evNew := rfl
@[simp] theorem Core.modCtx_drain (k : Core) (cx : CtxId) (f : Context → Context) : (k.modCtx cx f).drain = k.drain := rfl
@[simp] theorem Core.modCtx_heldEvts (k : Core) (cx : CtxId) (f : Context → Context) : (k.modCtx cx f).heldEvts = k.heldEvts := rfl
@[simp] theorem Core.modCtx_drained (k : Core) (cx : CtxId) (f : Context → Context) : (k.modCtx cx f).drained = k.drained := rfl
@[simp] theorem Core.modCtx_evOut (k : Core) (cx : CtxId) (f : Context → Context) : (k.modCtx cx f).evOut = k.evOut := rfl
@[simp] theorem Core.modCtx_issuedC (k : Core) (cx : CtxId) (f : Context → Context) : (k.modCtx cx f).issuedC = k.issuedC := rfl
@[simp] theorem Core.modCtx_issued (k : Core) (cx : CtxId) (f : Context → Context) : (k.modCtx cx f).issued = k.issued := rfl
@[simp] theorem Core.modCtx_atomics (k : Core) (cx : CtxId) (f : Context → Context) : (k.modCtx cx f).atomics = k.atomics := rfl
@[simp] theorem Core.modCtx_latches (k : Core) (cx : CtxId) (f : Context → Context) : (k.modCtx cx f).latches = k.latches := rfl
@[simp] theorem Core.modCtx_bridge (k : Core) (cx : CtxId) (f : Context → Context) : (k.modCtx cx f).bridge = k.bridge := rfl
@[simp] theorem Core.modCtx_running (k : Core) (cx : CtxId) (f : Context → Context) : (k.modCtx cx f).running = k.running := rfl
@[simp] theorem Core.modCtx_selFrom (k : Core) (cx : CtxId) (f : Context → Context) : (k.modCtx cx f).selFrom = k.selFrom := rfl
@[simp] theorem Core.modCtx_selUrgent (k : Core) (cx : CtxId) (f : Context → Context) : (k.modCtx cx f).selUrgent = k.selUrgent := rfl
@[simp] theorem Core.modCtx_lastImg (k : Core) (cx : CtxId) (f : Context → Context) : (k.modCtx cx f).lastImg = k.lastImg := rfl
@[simp] theorem Core.modCtx_badLines (k : Core) (cx : CtxId) (f : Context → Context) : (k.modCtx cx f).badLines = k.badLines := rfl
@[simp] theorem Regs.setV_s (r : Regs) (n : VReg) (w : Vec) : (r.setV n w).s = r.s := rfl
@[simp] theorem Regs.setV_p (r : Regs) (n : VReg) (w : Vec) : (r.setV n w).p = r.p := rfl
@[simp] theorem Regs.setV_q (r : Regs) (n : VReg) (w : Vec) : (r.setV n w).q = r.q := rfl
@[simp] theorem Regs.setV_ag (r : Regs) (n : VReg) (w : Vec) : (r.setV n w).ag = r.ag := rfl
@[simp] theorem Regs.setV_fm (r : Regs) (n : VReg) (w : Vec) : (r.setV n w).fm = r.fm := rfl
@[simp] theorem Regs.setV_vrm (r : Regs) (n : VReg) (w : Vec) : (r.setV n w).vrm = r.vrm := rfl
@[simp] theorem Regs.setV_vflags (r : Regs) (n : VReg) (w : Vec) : (r.setV n w).vflags = r.vflags := rfl
@[simp] theorem Regs.setV_loops (r : Regs) (n : VReg) (w : Vec) : (r.setV n w).loops = r.loops := rfl
@[simp] theorem Regs.setP_s (r : Regs) (k : BitVec 3) (b : Bool) : (r.setP k b).s = r.s := rfl
@[simp] theorem Regs.setP_q (r : Regs) (k : BitVec 3) (b : Bool) : (r.setP k b).q = r.q := rfl
@[simp] theorem Regs.setP_v (r : Regs) (k : BitVec 3) (b : Bool) : (r.setP k b).v = r.v := rfl
@[simp] theorem Regs.setP_ag (r : Regs) (k : BitVec 3) (b : Bool) : (r.setP k b).ag = r.ag := rfl
@[simp] theorem Regs.setP_fm (r : Regs) (k : BitVec 3) (b : Bool) : (r.setP k b).fm = r.fm := rfl
@[simp] theorem Regs.setP_vrm (r : Regs) (k : BitVec 3) (b : Bool) : (r.setP k b).vrm = r.vrm := rfl
@[simp] theorem Regs.setP_vflags (r : Regs) (k : BitVec 3) (b : Bool) : (r.setP k b).vflags = r.vflags := rfl
@[simp] theorem Regs.setP_loops (r : Regs) (k : BitVec 3) (b : Bool) : (r.setP k b).loops = r.loops := rfl
@[simp] theorem Regs.setQ_s (r : Regs) (k : BitVec 3) (w : Mask) : (r.setQ k w).s = r.s := rfl
@[simp] theorem Regs.setQ_p (r : Regs) (k : BitVec 3) (w : Mask) : (r.setQ k w).p = r.p := rfl
@[simp] theorem Regs.setQ_v (r : Regs) (k : BitVec 3) (w : Mask) : (r.setQ k w).v = r.v := rfl
@[simp] theorem Regs.setQ_ag (r : Regs) (k : BitVec 3) (w : Mask) : (r.setQ k w).ag = r.ag := rfl
@[simp] theorem Regs.setQ_fm (r : Regs) (k : BitVec 3) (w : Mask) : (r.setQ k w).fm = r.fm := rfl
@[simp] theorem Regs.setQ_vrm (r : Regs) (k : BitVec 3) (w : Mask) : (r.setQ k w).vrm = r.vrm := rfl
@[simp] theorem Regs.setQ_vflags (r : Regs) (k : BitVec 3) (w : Mask) : (r.setQ k w).vflags = r.vflags := rfl
@[simp] theorem Regs.setQ_loops (r : Regs) (k : BitVec 3) (w : Mask) : (r.setQ k w).loops = r.loops := rfl
@[simp] theorem Regs.setAg_s (r : Regs) (n : BitVec 3) (f : AddrGen → AddrGen) : (r.setAg n f).s = r.s := rfl
@[simp] theorem Regs.setAg_p (r : Regs) (n : BitVec 3) (f : AddrGen → AddrGen) : (r.setAg n f).p = r.p := rfl
@[simp] theorem Regs.setAg_q (r : Regs) (n : BitVec 3) (f : AddrGen → AddrGen) : (r.setAg n f).q = r.q := rfl
@[simp] theorem Regs.setAg_v (r : Regs) (n : BitVec 3) (f : AddrGen → AddrGen) : (r.setAg n f).v = r.v := rfl
@[simp] theorem Regs.setAg_fm (r : Regs) (n : BitVec 3) (f : AddrGen → AddrGen) : (r.setAg n f).fm = r.fm := rfl
@[simp] theorem Regs.setAg_vrm (r : Regs) (n : BitVec 3) (f : AddrGen → AddrGen) : (r.setAg n f).vrm = r.vrm := rfl
@[simp] theorem Regs.setAg_vflags (r : Regs) (n : BitVec 3) (f : AddrGen → AddrGen) : (r.setAg n f).vflags = r.vflags := rfl
@[simp] theorem Regs.setAg_loops (r : Regs) (n : BitVec 3) (f : AddrGen → AddrGen) : (r.setAg n f).loops = r.loops := rfl

/-! ## A supervisor hart -/

@[simp] theorem Hart.wx_pc (h : Hart) (r : BitVec 5) (v : Word) : (h.wx r v).pc = h.pc := by unfold Hart.wx; split <;> rfl
@[simp] theorem Hart.wx_f (h : Hart) (r : BitVec 5) (v : Word) : (h.wx r v).f = h.f := by unfold Hart.wx; split <;> rfl
@[simp] theorem Hart.wx_fflags (h : Hart) (r : BitVec 5) (v : Word) : (h.wx r v).fflags = h.fflags := by unfold Hart.wx; split <;> rfl
@[simp] theorem Hart.wx_frm (h : Hart) (r : BitVec 5) (v : Word) : (h.wx r v).frm = h.frm := by unfold Hart.wx; split <;> rfl
@[simp] theorem Hart.wx_ie (h : Hart) (r : BitVec 5) (v : Word) : (h.wx r v).ie = h.ie := by unfold Hart.wx; split <;> rfl
@[simp] theorem Hart.wx_pie (h : Hart) (r : BitVec 5) (v : Word) : (h.wx r v).pie = h.pie := by unfold Hart.wx; split <;> rfl
@[simp] theorem Hart.wx_fs (h : Hart) (r : BitVec 5) (v : Word) : (h.wx r v).fs = h.fs := by unfold Hart.wx; split <;> rfl
@[simp] theorem Hart.wx_mie (h : Hart) (r : BitVec 5) (v : Word) : (h.wx r v).mie = h.mie := by unfold Hart.wx; split <;> rfl
@[simp] theorem Hart.wx_mtvec (h : Hart) (r : BitVec 5) (v : Word) : (h.wx r v).mtvec = h.mtvec := by unfold Hart.wx; split <;> rfl
@[simp] theorem Hart.wx_mscratch (h : Hart) (r : BitVec 5) (v : Word) : (h.wx r v).mscratch = h.mscratch := by unfold Hart.wx; split <;> rfl
@[simp] theorem Hart.wx_mepc (h : Hart) (r : BitVec 5) (v : Word) : (h.wx r v).mepc = h.mepc := by unfold Hart.wx; split <;> rfl
@[simp] theorem Hart.wx_mcause (h : Hart) (r : BitVec 5) (v : Word) : (h.wx r v).mcause = h.mcause := by unfold Hart.wx; split <;> rfl
@[simp] theorem Hart.wx_mtval (h : Hart) (r : BitVec 5) (v : Word) : (h.wx r v).mtval = h.mtval := by unfold Hart.wx; split <;> rfl
@[simp] theorem Hart.wx_mcycle (h : Hart) (r : BitVec 5) (v : Word) : (h.wx r v).mcycle = h.mcycle := by unfold Hart.wx; split <;> rfl
@[simp] theorem Hart.wx_minstret (h : Hart) (r : BitVec 5) (v : Word) : (h.wx r v).minstret = h.minstret := by unfold Hart.wx; split <;> rfl
@[simp] theorem Hart.wx_ownRes (h : Hart) (r : BitVec 5) (v : Word) : (h.wx r v).ownRes = h.ownRes := by unfold Hart.wx; split <;> rfl
@[simp] theorem Hart.wx_base (h : Hart) (r : BitVec 5) (v : Word) : (h.wx r v).base = h.base := by unfold Hart.wx; split <;> rfl
@[simp] theorem Hart.wx_size (h : Hart) (r : BitVec 5) (v : Word) : (h.wx r v).size = h.size := by unfold Hart.wx; split <;> rfl
@[simp] theorem Hart.wx_own (h : Hart) (r : BitVec 5) (v : Word) : (h.wx r v).own = h.own := by unfold Hart.wx; split <;> rfl
@[simp] theorem Hart.wx_ast (h : Hart) (r : BitVec 5) (v : Word) : (h.wx r v).ast = h.ast := by unfold Hart.wx; split <;> rfl
@[simp] theorem Hart.wx_acc (h : Hart) (r : BitVec 5) (v : Word) : (h.wx r v).acc = h.acc := by unfold Hart.wx; split <;> rfl
@[simp] theorem Hart.wf_pc (h : Hart) (r : BitVec 5) (v : Word × Flags) : (h.wf r v).pc = h.pc := rfl
@[simp] theorem Hart.wf_x (h : Hart) (r : BitVec 5) (v : Word × Flags) : (h.wf r v).x = h.x := rfl
@[simp] theorem Hart.wf_frm (h : Hart) (r : BitVec 5) (v : Word × Flags) : (h.wf r v).frm = h.frm := rfl
@[simp] theorem Hart.wf_ie (h : Hart) (r : BitVec 5) (v : Word × Flags) : (h.wf r v).ie = h.ie := rfl
@[simp] theorem Hart.wf_pie (h : Hart) (r : BitVec 5) (v : Word × Flags) : (h.wf r v).pie = h.pie := rfl
@[simp] theorem Hart.wf_mie (h : Hart) (r : BitVec 5) (v : Word × Flags) : (h.wf r v).mie = h.mie := rfl
@[simp] theorem Hart.wf_mtvec (h : Hart) (r : BitVec 5) (v : Word × Flags) : (h.wf r v).mtvec = h.mtvec := rfl
@[simp] theorem Hart.wf_mscratch (h : Hart) (r : BitVec 5) (v : Word × Flags) : (h.wf r v).mscratch = h.mscratch := rfl
@[simp] theorem Hart.wf_mepc (h : Hart) (r : BitVec 5) (v : Word × Flags) : (h.wf r v).mepc = h.mepc := rfl
@[simp] theorem Hart.wf_mcause (h : Hart) (r : BitVec 5) (v : Word × Flags) : (h.wf r v).mcause = h.mcause := rfl
@[simp] theorem Hart.wf_mtval (h : Hart) (r : BitVec 5) (v : Word × Flags) : (h.wf r v).mtval = h.mtval := rfl
@[simp] theorem Hart.wf_mcycle (h : Hart) (r : BitVec 5) (v : Word × Flags) : (h.wf r v).mcycle = h.mcycle := rfl
@[simp] theorem Hart.wf_minstret (h : Hart) (r : BitVec 5) (v : Word × Flags) : (h.wf r v).minstret = h.minstret := rfl
@[simp] theorem Hart.wf_ownRes (h : Hart) (r : BitVec 5) (v : Word × Flags) : (h.wf r v).ownRes = h.ownRes := rfl
@[simp] theorem Hart.wf_base (h : Hart) (r : BitVec 5) (v : Word × Flags) : (h.wf r v).base = h.base := rfl
@[simp] theorem Hart.wf_size (h : Hart) (r : BitVec 5) (v : Word × Flags) : (h.wf r v).size = h.size := rfl
@[simp] theorem Hart.wf_own (h : Hart) (r : BitVec 5) (v : Word × Flags) : (h.wf r v).own = h.own := rfl
@[simp] theorem Hart.wf_ast (h : Hart) (r : BitVec 5) (v : Word × Flags) : (h.wf r v).ast = h.ast := rfl
@[simp] theorem Hart.wf_acc (h : Hart) (r : BitVec 5) (v : Word × Flags) : (h.wf r v).acc = h.acc := rfl
@[simp] theorem Hart.raise_pc (h : Hart) (v : Flags) : (h.raise v).pc = h.pc := rfl
@[simp] theorem Hart.raise_x (h : Hart) (v : Flags) : (h.raise v).x = h.x := rfl
@[simp] theorem Hart.raise_f (h : Hart) (v : Flags) : (h.raise v).f = h.f := rfl
@[simp] theorem Hart.raise_frm (h : Hart) (v : Flags) : (h.raise v).frm = h.frm := rfl
@[simp] theorem Hart.raise_ie (h : Hart) (v : Flags) : (h.raise v).ie = h.ie := rfl
@[simp] theorem Hart.raise_pie (h : Hart) (v : Flags) : (h.raise v).pie = h.pie := rfl
@[simp] theorem Hart.raise_mie (h : Hart) (v : Flags) : (h.raise v).mie = h.mie := rfl
@[simp] theorem Hart.raise_mtvec (h : Hart) (v : Flags) : (h.raise v).mtvec = h.mtvec := rfl
@[simp] theorem Hart.raise_mscratch (h : Hart) (v : Flags) : (h.raise v).mscratch = h.mscratch := rfl
@[simp] theorem Hart.raise_mepc (h : Hart) (v : Flags) : (h.raise v).mepc = h.mepc := rfl
@[simp] theorem Hart.raise_mcause (h : Hart) (v : Flags) : (h.raise v).mcause = h.mcause := rfl
@[simp] theorem Hart.raise_mtval (h : Hart) (v : Flags) : (h.raise v).mtval = h.mtval := rfl
@[simp] theorem Hart.raise_mcycle (h : Hart) (v : Flags) : (h.raise v).mcycle = h.mcycle := rfl
@[simp] theorem Hart.raise_minstret (h : Hart) (v : Flags) : (h.raise v).minstret = h.minstret := rfl
@[simp] theorem Hart.raise_ownRes (h : Hart) (v : Flags) : (h.raise v).ownRes = h.ownRes := rfl
@[simp] theorem Hart.raise_base (h : Hart) (v : Flags) : (h.raise v).base = h.base := rfl
@[simp] theorem Hart.raise_size (h : Hart) (v : Flags) : (h.raise v).size = h.size := rfl
@[simp] theorem Hart.raise_own (h : Hart) (v : Flags) : (h.raise v).own = h.own := rfl
@[simp] theorem Hart.raise_ast (h : Hart) (v : Flags) : (h.raise v).ast = h.ast := rfl
@[simp] theorem Hart.raise_acc (h : Hart) (v : Flags) : (h.raise v).acc = h.acc := rfl
@[simp] theorem Hart.step_x (h : Hart) (n : Nat) : (h.step n).x = h.x := rfl
@[simp] theorem Hart.step_f (h : Hart) (n : Nat) : (h.step n).f = h.f := rfl
@[simp] theorem Hart.step_fflags (h : Hart) (n : Nat) : (h.step n).fflags = h.fflags := rfl
@[simp] theorem Hart.step_frm (h : Hart) (n : Nat) : (h.step n).frm = h.frm := rfl
@[simp] theorem Hart.step_ie (h : Hart) (n : Nat) : (h.step n).ie = h.ie := rfl
@[simp] theorem Hart.step_pie (h : Hart) (n : Nat) : (h.step n).pie = h.pie := rfl
@[simp] theorem Hart.step_fs (h : Hart) (n : Nat) : (h.step n).fs = h.fs := rfl
@[simp] theorem Hart.step_mie (h : Hart) (n : Nat) : (h.step n).mie = h.mie := rfl
@[simp] theorem Hart.step_mtvec (h : Hart) (n : Nat) : (h.step n).mtvec = h.mtvec := rfl
@[simp] theorem Hart.step_mscratch (h : Hart) (n : Nat) : (h.step n).mscratch = h.mscratch := rfl
@[simp] theorem Hart.step_mepc (h : Hart) (n : Nat) : (h.step n).mepc = h.mepc := rfl
@[simp] theorem Hart.step_mcause (h : Hart) (n : Nat) : (h.step n).mcause = h.mcause := rfl
@[simp] theorem Hart.step_mtval (h : Hart) (n : Nat) : (h.step n).mtval = h.mtval := rfl
@[simp] theorem Hart.step_mcycle (h : Hart) (n : Nat) : (h.step n).mcycle = h.mcycle := rfl
@[simp] theorem Hart.step_minstret (h : Hart) (n : Nat) : (h.step n).minstret = h.minstret := rfl
@[simp] theorem Hart.step_ownRes (h : Hart) (n : Nat) : (h.step n).ownRes = h.ownRes := rfl
@[simp] theorem Hart.step_base (h : Hart) (n : Nat) : (h.step n).base = h.base := rfl
@[simp] theorem Hart.step_size (h : Hart) (n : Nat) : (h.step n).size = h.size := rfl
@[simp] theorem Hart.step_own (h : Hart) (n : Nat) : (h.step n).own = h.own := rfl
@[simp] theorem Hart.step_ast (h : Hart) (n : Nat) : (h.step n).ast = h.ast := rfl
@[simp] theorem Hart.step_acc (h : Hart) (n : Nat) : (h.step n).acc = h.acc := rfl
@[simp] theorem Hart.enter_x (h : Hart) (i : Bool) (n : Nat) (v : Word) : (h.enter i n v).x = h.x := rfl
@[simp] theorem Hart.enter_f (h : Hart) (i : Bool) (n : Nat) (v : Word) : (h.enter i n v).f = h.f := rfl
@[simp] theorem Hart.enter_fflags (h : Hart) (i : Bool) (n : Nat) (v : Word) : (h.enter i n v).fflags = h.fflags := rfl
@[simp] theorem Hart.enter_frm (h : Hart) (i : Bool) (n : Nat) (v : Word) : (h.enter i n v).frm = h.frm := rfl
@[simp] theorem Hart.enter_fs (h : Hart) (i : Bool) (n : Nat) (v : Word) : (h.enter i n v).fs = h.fs := rfl
@[simp] theorem Hart.enter_mie (h : Hart) (i : Bool) (n : Nat) (v : Word) : (h.enter i n v).mie = h.mie := rfl
@[simp] theorem Hart.enter_mtvec (h : Hart) (i : Bool) (n : Nat) (v : Word) : (h.enter i n v).mtvec = h.mtvec := rfl
@[simp] theorem Hart.enter_mscratch (h : Hart) (i : Bool) (n : Nat) (v : Word) : (h.enter i n v).mscratch = h.mscratch := rfl
@[simp] theorem Hart.enter_mcycle (h : Hart) (i : Bool) (n : Nat) (v : Word) : (h.enter i n v).mcycle = h.mcycle := rfl
@[simp] theorem Hart.enter_minstret (h : Hart) (i : Bool) (n : Nat) (v : Word) : (h.enter i n v).minstret = h.minstret := rfl
@[simp] theorem Hart.enter_ownRes (h : Hart) (i : Bool) (n : Nat) (v : Word) : (h.enter i n v).ownRes = h.ownRes := rfl
@[simp] theorem Hart.enter_base (h : Hart) (i : Bool) (n : Nat) (v : Word) : (h.enter i n v).base = h.base := rfl
@[simp] theorem Hart.enter_size (h : Hart) (i : Bool) (n : Nat) (v : Word) : (h.enter i n v).size = h.size := rfl
@[simp] theorem Hart.enter_own (h : Hart) (i : Bool) (n : Nat) (v : Word) : (h.enter i n v).own = h.own := rfl
@[simp] theorem Hart.enter_ast (h : Hart) (i : Bool) (n : Nat) (v : Word) : (h.enter i n v).ast = h.ast := rfl
@[simp] theorem Hart.enter_acc (h : Hart) (i : Bool) (n : Nat) (v : Word) : (h.enter i n v).acc = h.acc := rfl
@[simp] theorem Hart.rx_zero (h : Hart) : h.rx 0 = 0 := rfl

theorem Hart.rx_wx_same (h : Hart) (r : BitVec 5) (v : Word) (e : r ≠ 0) : (h.wx r v).rx r = v := by
  unfold Hart.rx Hart.wx
  rw [if_neg e, if_neg e]
  simp

theorem Hart.rx_wx_other (h : Hart) (r k : BitVec 5) (v : Word) (e : k ≠ r) : (h.wx r v).rx k = h.rx k := by
  have n : r.toNat ≠ k.toNat := fun n => e (BitVec.eq_of_toNat_eq n.symm)
  unfold Hart.wx
  split
  · rfl
  · simp only [Hart.rx]
    split
    · rfl
    · exact Vector.getElem_set_ne _ _ n

/-! ## A read after an update -/

theorem Mach.clusterId_inj (a b : ClusterId) (h : a ≠ b) : b.toNat ≠ a.toNat := fun e => h (BitVec.eq_of_toNat_eq e.symm)

@[simp] theorem Mach.cluster_setCluster_same (m : Mach) (cl : ClusterId) (c : Cluster) :
    (m.setCluster cl c).cluster cl = c := by simp [Mach.cluster, Mach.setCluster]

theorem Mach.cluster_setCluster_other (m : Mach) (cl cl' : ClusterId) (c : Cluster) (h : cl' ≠ cl) :
    (m.setCluster cl c).cluster cl' = m.cluster cl' := by
  simp only [Mach.cluster, Mach.setCluster]
  rw [FMap.find_put_other _ _ _ _ (fun e => h (BitVec.eq_of_toNat_eq e))]

@[simp] theorem Mach.cluster_modCluster_same (m : Mach) (cl : ClusterId) (f : Cluster → Cluster) :
    (m.modCluster cl f).cluster cl = f (m.cluster cl) := Mach.cluster_setCluster_same m cl _

theorem Mach.cluster_modCluster_other (m : Mach) (cl cl' : ClusterId) (f : Cluster → Cluster) (h : cl' ≠ cl) :
    (m.modCluster cl f).cluster cl' = m.cluster cl' := Mach.cluster_setCluster_other m cl cl' _ h

@[simp] theorem Cluster.core_setCore_same (c : Cluster) (co : CoreId) (k : Core) : (c.setCore co k).core co = k := by
  simp [Cluster.core, Cluster.setCore]

theorem Cluster.core_setCore_other (c : Cluster) (co co' : CoreId) (k : Core) (h : co' ≠ co) :
    (c.setCore co k).core co' = c.core co' := by
  simp only [Cluster.core, Cluster.setCore]
  rw [FMap.find_put_other _ _ _ _ (fun e => h (BitVec.eq_of_toNat_eq e))]

@[simp] theorem Core.ctx_setCtx_same (k : Core) (cx : CtxId) (x : Context) : (k.setCtx cx x).ctx cx = x := by
  simp [Core.ctx, Core.setCtx]

theorem Core.ctx_setCtx_other (k : Core) (cx cx' : CtxId) (x : Context) (h : cx' ≠ cx) :
    (k.setCtx cx x).ctx cx' = k.ctx cx' := by
  simp only [Core.ctx, Core.setCtx]
  rw [FMap.find_put_other _ _ _ _ (fun e => h (BitVec.eq_of_toNat_eq e))]

@[simp] theorem Core.ctx_modCtx_same (k : Core) (cx : CtxId) (f : Context → Context) :
    (k.modCtx cx f).ctx cx = f (k.ctx cx) := Core.ctx_setCtx_same k cx _

theorem Core.ctx_modCtx_other (k : Core) (cx cx' : CtxId) (f : Context → Context) (h : cx' ≠ cx) :
    (k.modCtx cx f).ctx cx' = k.ctx cx' := Core.ctx_setCtx_other k cx cx' _ h

@[simp] theorem Mach.core_modCore_same (m : Mach) (cl : ClusterId) (co : CoreId) (f : Core → Core) :
    (m.modCore cl co f).core cl co = f (m.core cl co) := by
  simp [Mach.core, Mach.modCore, Mach.setCore]

theorem Mach.core_modCore_other (m : Mach) (cl cl' : ClusterId) (co co' : CoreId) (f : Core → Core)
    (h : ¬(cl' = cl ∧ co' = co)) : (m.modCore cl co f).core cl' co' = m.core cl' co' := by
  by_cases e : cl' = cl
  · subst e
    simp only [Mach.core, Mach.modCore, Mach.setCore, Mach.cluster_modCluster_same]
    exact Cluster.core_setCore_other _ _ _ _ fun g => h ⟨rfl, g⟩
  · simp only [Mach.core, Mach.modCore, Mach.setCore]
    rw [Mach.cluster_modCluster_other _ _ _ _ e]

@[simp] theorem Mach.ctx_modCtx_same (m : Mach) (r : CtxRef) (f : Context → Context) :
    (m.modCtx r f).ctx r = f (m.ctx r) := by simp [Mach.ctx, Mach.modCtx]

theorem Mach.ctx_modCtx_other (m : Mach) (r r' : CtxRef) (f : Context → Context) (h : r' ≠ r) :
    (m.modCtx r f).ctx r' = m.ctx r' := by
  obtain ⟨cl, co, cx⟩ := r
  obtain ⟨cl', co', cx'⟩ := r'
  by_cases e : cl' = cl ∧ co' = co
  · obtain ⟨rfl, rfl⟩ := e
    simp only [Mach.ctx, Mach.modCtx, Mach.core_modCore_same]
    exact Core.ctx_modCtx_other _ _ _ _ fun g => h (by rw [g])
  · simp only [Mach.ctx, Mach.modCtx]
    rw [Mach.core_modCore_other _ _ _ _ _ _ e]

/-- Register s0 reads 0 whatever is written to it (R38). -/
@[simp] theorem Regs.sreg_zero (r : Regs) : r.sreg 0 = 0 := rfl

theorem Regs.sreg_setS_same (r : Regs) (n : SReg) (w : Word) (h : n ≠ 0) : (r.setS n w).sreg n = w := by
  unfold Regs.sreg Regs.setS
  rw [if_neg h, if_neg h]
  simp

theorem Regs.sreg_setS_other (r : Regs) (n k : SReg) (w : Word) (h : k ≠ n) : (r.setS n w).sreg k = r.sreg k := by
  have e : n.toNat ≠ k.toNat := fun e => h (BitVec.eq_of_toNat_eq e.symm)
  unfold Regs.setS
  split
  · rfl
  · simp only [Regs.sreg]
    split
    · rfl
    · exact Vector.getElem_set_ne _ _ e

end Sys2Proof.Machine
end

