-- ==== Sys2Proof/Laws/Inv.lean ====
section
/-!
SUPPORT. The invariant through the accessors: a lookup answers a part that has it, and an update that keeps it in the part
keeps it in the whole.
-/

namespace Sys2Proof.Machine

theorem Core.reset_ok : Core.reset.ok := ⟨rfl, rfl, by decide⟩

theorem Cluster.reset_ok : Cluster.reset.ok := ⟨(by intro p h; cases h), rfl, by decide⟩

theorem Mach.cluster_ok {m : Mach} (cl : ClusterId) (h : m.ok) : (m.cluster cl).ok := by
  unfold Mach.cluster
  cases e : m.clusters.find cl.toNat with
  | none => exact Cluster.reset_ok
  | some c => exact h.1 _ (FMap.mem_of_find _ _ _ e)

theorem Mach.setCluster_ok {m : Mach} (cl : ClusterId) {c : Cluster} (h : m.ok) (hc : c.ok) :
    (m.setCluster cl c).ok := by
  refine ⟨fun p hp => ?_, h.2⟩
  rcases FMap.mem_put _ _ _ _ hp with e | e
  · rw [e]; exact hc
  · exact h.1 _ e

theorem Mach.modCluster_ok {m : Mach} (cl : ClusterId) (f : Cluster → Cluster) (h : m.ok) (hf : ∀ c : Cluster, c.ok → (f c).ok) :
    (m.modCluster cl f).ok :=
  Mach.setCluster_ok cl h (hf _ (Mach.cluster_ok cl h))

theorem Cluster.core_ok {c : Cluster} (co : CoreId) (h : c.ok) : (c.core co).ok := by
  unfold Cluster.core
  cases e : c.cores.find co.toNat with
  | none => exact Core.reset_ok
  | some k => exact h.1 _ (FMap.mem_of_find _ _ _ e)

theorem Cluster.setCore_ok {c : Cluster} (co : CoreId) {k : Core} (h : c.ok) (hk : k.ok) : (c.setCore co k).ok := by
  refine ⟨fun p hp => ?_, h.2⟩
  rcases FMap.mem_put _ _ _ _ hp with e | e
  · rw [e]; exact hk
  · exact h.1 _ e

theorem Mach.core_ok {m : Mach} (cl : ClusterId) (co : CoreId) (h : m.ok) : (m.core cl co).ok :=
  Cluster.core_ok co (Mach.cluster_ok cl h)

theorem Mach.setCore_ok {m : Mach} (cl : ClusterId) (co : CoreId) {k : Core} (h : m.ok) (hk : k.ok) :
    (m.setCore cl co k).ok :=
  Mach.modCluster_ok cl _ h fun _ hc => Cluster.setCore_ok co hc hk

theorem Mach.modCore_ok {m : Mach} (cl : ClusterId) (co : CoreId) (f : Core → Core) (h : m.ok) (hf : ∀ k : Core, k.ok → (f k).ok) :
    (m.modCore cl co f).ok :=
  Mach.setCore_ok cl co h (hf _ (Mach.core_ok cl co h))

theorem Core.setCtx_ok {k : Core} (cx : CtxId) (x : Context) (h : k.ok) : (k.setCtx cx x).ok := h

theorem Core.modCtx_ok {k : Core} (cx : CtxId) (f : Context → Context) (h : k.ok) : (k.modCtx cx f).ok := h

theorem Mach.modCtx_ok {m : Mach} (r : CtxRef) (f : Context → Context) (h : m.ok) : (m.modCtx r f).ok :=
  Mach.modCore_ok _ _ _ h fun _ hk => Core.modCtx_ok _ _ hk

theorem Mach.modPk_ok {m : Mach} (f : Package → Package) (h : m.ok) (hf : ∀ p : Package, p.ok → (f p).ok) :
    (m.modPk f).ok :=
  ⟨h.1, hf _ h.2⟩

theorem Package.modDom_ok {p : Package} (d : Dom) (f : Domain → Domain) (h : p.ok) : (p.modDom d f).ok := h

theorem Mach.modDom_ok {m : Mach} (d : Dom) (f : Domain → Domain) (h : m.ok) : (m.modDom d f).ok := h

theorem foldl_ok {σ α : Type} {P : σ → Prop} {f : σ → α → σ} (hf : ∀ m a, P m → P (f m a)) (l : List α) {m : σ} (h : P m) :
    P (l.foldl f m) := by
  induction l generalizing m with
  | nil => exact h
  | cons a l ih => exact ih (hf _ _ h)

theorem Cluster.ok_of {c d : Cluster} (h : c.ok) (h1 : d.cores = c.cores) (h2 : d.scratch = c.scratch) (h3 : d.tqCount = c.tqCount) :
    d.ok := by
  unfold Cluster.ok at *; rw [h1, h2, h3]; exact h

theorem State.pre_ok {s : State} (h : s.Inv) : s.pre.ok := by
  unfold State.pre
  cases e : s.iss.before with
  | none => exact h.1
  | some m => exact h.2 _ e

theorem State.modMach_ok {s : State} (f : Mach → Mach) (h : s.Inv) (hf : ∀ m : Mach, m.ok → (f m).ok) :
    (s.modMach f).Inv :=
  ⟨hf _ h.1, h.2⟩

theorem State.modCtx_ok {s : State} (f : Context → Context) (h : s.Inv) :
    (s.modCtx f).Inv :=
  State.modMach_ok _ h fun _ hm => Mach.modCtx_ok _ _ hm

theorem State.modCore_ok {s : State} (f : Core → Core) (h : s.Inv) (hf : ∀ k : Core, k.ok → (f k).ok) :
    (s.modCore f).Inv :=
  State.modMach_ok _ h fun _ hm => Mach.modCore_ok _ _ _ hm hf

/-! ## Vault memory and the supervisor harts' own memories -/

theorem Package.vaultPut_ok {p : Package} (a : Nat) (b : Byte) (h : p.ok) : (p.vaultPut a b).ok :=
  ⟨Memory.wf_put _ _ _ _ h.1, h.2⟩

theorem Package.rekey_ok {p : Package} (key : BitVec 6) (a : Nat) (h : p.ok) : (p.rekey key a).ok := by
  unfold Package.rekey
  dsimp only
  split
  · exact h
  · exact foldl_ok (P := Package.ok) (fun _ _ hp => Package.vaultPut_ok _ _ hp) _ h

theorem Package.vaultWrite_ok {p : Package} (a : Nat) (key : BitVec 6) (l : List Byte) (h : p.ok) :
    (p.vaultWrite a key l).ok :=
  foldl_ok (P := Package.ok) (fun _ _ hp => Package.vaultPut_ok _ _ (Package.rekey_ok _ _ hp)) _ h

theorem Mach.putHart_ok {m : Mach} (cl : ClusterId) {x : Hart} (h : m.ok) (hx : x.own.wf (some 0) = true) :
    (m.putHart cl x).ok := by
  refine ⟨h.1, h.2.1, h.2.2.1, fun p hp => ?_⟩
  rcases FMap.mem_put _ _ _ _ hp with e | e
  · rw [e]; exact hx
  · exact h.2.2.2 _ e

/-- A kernel just loaded stands in canonical form. -/
theorem Hart.loaded_ok (base size : Nat) (entry : Word) (ast : BitVec 16) (kernel : List Byte) :
    (Hart.loaded base size entry ast kernel).own.wf (some 0) = true := Memory.wf_putAll _ _ _ rfl

/-- A store of a hart leaves its registers alone and keeps its own memory in canonical form. -/
theorem Mach.hartWrite_regs {m n : Mach} {cl : ClusterId} {h k : Hart} {va : Word} {l : List Byte}
    (e : m.hartWrite cl h va l = (.ok k, n)) :
    k.x = h.x ∧ k.f = h.f ∧ k.pc = h.pc ∧ (h.own.wf (some 0) = true → k.own.wf (some 0) = true) := by
  unfold Mach.hartWrite at e
  split at e
  · cases e; exact ⟨rfl, rfl, rfl, Memory.wf_putAll _ _ _⟩
  · dsimp only at e
    split at e
    · cases e
    · cases e; exact ⟨rfl, rfl, rfl, id⟩

end Sys2Proof.Machine
end

