-- ==== Sys2Proof/Laws/Ops.lean ====
section
/-!
SUPPORT. One lemma for each shared operation of the slots: what it answers where the slot executes, and where it does
not. The word identities that the statements of the scalar instructions rest on stand at the end.
-/

namespace Sys2Proof.Machine

/-! ## Guards and suppression (R19, R24) -/

theorem State.perform_calm {s : State} (h : s.iss.raises = []) (f : State → State) : s.perform f = f s := by
  simp [State.perform, h]

theorem State.perform_raised {s : State} (h : s.iss.raises ≠ []) (f : State → State) : s.perform f = s := by
  simp [State.perform, h]

theorem State.guarded_runs {s : State} {h : Head} (g : s.pguard h = true) (c : s.iss.raises = [])
    (f : State → State) : s.guarded h f = f s := by
  simp [State.guarded, State.perform, g, c]

theorem State.guarded_false {s : State} {h : Head} (g : s.pguard h = false) (f : State → State) :
    s.guarded h f = s := by
  simp [State.guarded, g]

theorem State.checkedSlot_true {s : State} {h : Head} (g : s.pguard h = true) (f : State → State) :
    s.checkedSlot h f = f s := by
  simp [State.checkedSlot, g]

theorem State.checkedSlot_false {s : State} {h : Head} (g : s.pguard h = false) (f : State → State) :
    s.checkedSlot h f = s := by
  simp [State.checkedSlot, g]

theorem scalarOp_runs {s : State} {h : Head} (g : s.pguard h = true) (c : s.iss.raises = [])
    (f : Word → Word → Word) (lat : Nat) (d a b : SReg) :
    scalarOp f lat h d a b s = s.scalar lat d (f (s.sreg a) (s.sreg b)) :=
  State.guarded_runs g c _

theorem scalarUn_runs {s : State} {h : Head} (g : s.pguard h = true) (c : s.iss.raises = []) (f : Word → Word)
    (d a : SReg) : scalarUn f h d a s = s.scalar 1 d (f (s.sreg a)) :=
  State.guarded_runs g c _

/-! ## The divider (R74) -/

theorem divide_free {s : State} {h : Head} (g : s.pguard h = true) (c : s.iss.raises = [])
    (hf : (s.pre.core s.iss.cl s.iss.co).divFree ≤ s.now) (h1 : s.iss.divides = false) (f : Word → Word → Word)
    (d a b : SReg) :
    divide f h d a b s =
      (State.scalar { s with iss := { s.iss with divides := true } } 18 d (f (s.sreg a) (s.sreg b))).modCore
        fun k => { k with divFree := s.now + 18, divCx := s.iss.cx, divId := s.mach.nextId } := by
  unfold divide
  rw [if_pos g]
  refine (if_neg (Nat.not_lt.mpr hf)).trans ?_
  rw [if_neg (by simp [h1])]
  exact State.perform_calm (s := { s with iss := { s.iss with divides := true } }) c _

theorem divide_held {s : State} {h : Head} (g : s.pguard h = true)
    (hf : s.now < (s.pre.core s.iss.cl s.iss.co).divFree) (f : Word → Word → Word) (d a b : SReg) :
    divide f h d a b s =
      State.raise { s with iss := { s.iss with divides := true } } 0x08
        (divBusy ((s.pre.core s.iss.cl s.iss.co).divFree - s.now)) := by
  unfold divide
  rw [if_pos g]
  exact if_pos hf

theorem divide_second {s : State} {h : Head} (g : s.pguard h = true)
    (hf : (s.pre.core s.iss.cl s.iss.co).divFree ≤ s.now) (h1 : s.iss.divides = true) (f : Word → Word → Word)
    (d a b : SReg) :
    divide f h d a b s = State.raise { s with iss := { s.iss with divides := true } } 0x08 (divBusy 18) := by
  unfold divide
  rw [if_pos g]
  refine (if_neg (Nat.not_lt.mpr hf)).trans ?_
  rw [if_pos h1]

/-! ## Word identities -/

theorem shl_eq_mul (x : Word) (n : Nat) : x <<< n = BitVec.ofNat 64 (x.toNat * 2 ^ n) := by
  apply BitVec.eq_of_toNat_eq
  simp [BitVec.toNat_shiftLeft, Nat.shiftLeft_eq]

theorem shr_eq_div (x : Word) (n : Nat) : x >>> n = BitVec.ofNat 64 (x.toNat / 2 ^ n) := by
  apply BitVec.eq_of_toNat_eq
  rw [BitVec.toNat_ushiftRight, Nat.shiftRight_eq_div_pow, BitVec.toNat_ofNat, Nat.mod_eq_of_lt]
  exact lt_of_le_of_lt (Nat.div_le_self _ _) x.isLt

theorem sra_eq_div (x : Word) (n : Nat) : x.sshiftRight n = BitVec.ofInt 64 (x.toInt / 2 ^ n) := by
  simp [BitVec.sshiftRight, Int.shiftRight_eq_div_pow]

theorem mulh_eq_div (x y : Word) :
    (x.signExtend 128 * y.signExtend 128).extractLsb' 64 64 = BitVec.ofInt 64 (x.toInt * y.toInt / 2 ^ 64) := by
  have e : x.signExtend 128 * y.signExtend 128 = BitVec.ofInt 128 (x.toInt * y.toInt) := by
    rw [BitVec.signExtend, BitVec.signExtend, ← BitVec.ofInt_mul]
  rw [e]
  apply BitVec.eq_of_toNat_eq
  rw [BitVec.extractLsb'_toNat, BitVec.toNat_ofInt, BitVec.toNat_ofInt, Nat.shiftRight_eq_div_pow]
  generalize x.toInt * y.toInt = z
  omega

theorem tmod_eq_sub (x y : Int) : x.tmod y = x - x.tdiv y * y := by
  have h := Int.mul_tdiv_add_tmod x y
  rw [Int.mul_comm] at h
  omega

/-- The places before the first that a test meets. -/
theorem takeWhile_first (f : Nat → Bool) (l : Nat) : ∀ k, ∃ n, n ≤ l ∧ (∀ i, i < n → f (k + i) = false) ∧
    (n < l → f (k + n) = true) ∧ (((List.range' k l).map f).takeWhile (fun b => !b)).length = n := by
  induction l with
  | zero => exact fun k => ⟨0, le_refl _, by omega, by omega, rfl⟩
  | succ l ih =>
    intro k
    cases hk : f k with
    | true => exact ⟨0, by omega, by omega, fun _ => by simpa using hk, by simp [List.range'_succ, hk]⟩
    | false =>
      obtain ⟨n, h1, h2, h3, h4⟩ := ih (k + 1)
      refine ⟨n + 1, by omega, fun i hi => ?_, fun h => ?_, by simp [List.range'_succ, hk, h4]⟩
      · cases i with
        | zero => simpa using hk
        | succ i => rw [← h2 i (by omega)]; congr 1; omega
      · rw [← h3 (by omega)]; congr 1; omega

/-! ## The fields of a word (R14) -/

theorem Fields.ofWord_toWord (f : Fields) : Fields.ofWord f.toWord = f := by
  obtain ⟨st, g, op, d, a, b, x⟩ := f
  simp only [Fields.ofWord, Fields.toWord, Fields.mk.injEq]
  refine ⟨?_, ?_, ?_, ?_, ?_, ?_, ?_⟩
  · rw [BitVec.getLsbD_append, BitVec.getLsbD_append, BitVec.getLsbD_append, BitVec.getLsbD_append, BitVec.getLsbD_append,
      BitVec.getLsbD_append]
    simp
  all_goals
    apply BitVec.eq_of_getLsbD_eq
    intro i hi
    simp only [BitVec.getLsbD_extractLsb', BitVec.getLsbD_append]
    grind

/-! ## The checks of local accesses (R116) -/

/-- A fold whose steps all answer a value answers none for the empty list alone. -/
theorem foldl_keeps_some {α β : Type} {g : Option α → β → Option α} (h : ∀ o f, g o f ≠ none) (l : List β)
    (o : Option α) : l.foldl g o = none ↔ l = [] ∧ o = none := by
  induction l generalizing o with
  | nil => simp
  | cons f l ih => simp [ih, h]

/-- An access passes exactly when each of its bytes does (R116). -/
theorem accessFault_eq_none {m : Mach} {x : Context} {k : AccessKind} {f : Bool} {accs : List (List Nat)} :
    accessFault m x k f accs = none ↔
      ∀ bs ∈ accs, ∀ b, bs.head? = some b → ∀ a ∈ bs, byteFault m x k f (region b) a = none := by
  unfold accessFault
  rw [foldl_keeps_some]
  · simp only [and_true, List.flatMap_eq_nil_iff]
    refine forall₂_congr fun bs _ => ?_
    cases bs with
    | nil => simp
    | cons b l => simp [List.filterMap_eq_nil_iff]
  · intro o f
    cases o with
    | none => simp
    | some g => by_cases h : f.1 < g.1 <;> simp [h]

/-- A byte of LM in a claim passes every check (R116, R117). -/
theorem byteFault_claimed {m : Mach} {x : Context} {k : AccessKind} {f : Bool} {a : Nat} {w : Window}
    (hw : w ∈ x.lmWin) (hc : w.w = true) (h1 : w.base ≤ a / 256) (h2 : a / 256 ≤ w.limit) (ha : a ≤ 0x1FFFFF) :
    byteFault m x k f .lm a = none := by
  have hr : region a = .lm := by unfold region; simp [ha]
  have h3 : x.lmWin.any (fun w => w.has (a / 256)) = true :=
    List.any_eq_true.mpr ⟨w, hw, by simp [Window.has, h1, h2]⟩
  have h4 : x.lmWin.any (fun w => w.w && w.has (a / 256)) = true :=
    List.any_eq_true.mpr ⟨w, hw, by simp [Window.has, hc, h1, h2]⟩
  simp [byteFault, hr, h3, h4]

end Sys2Proof.Machine
end

