-- ==== Sys2Proof/Tests/Slice0.lean ====
section
/-!
SUPPORT. The model's own tests: ill-formed terms that the well-formedness check refuses, words written out from the
encodings of the specification, single steps with results worked out by hand from the rules named, and, for every
statement with hypotheses, concrete states and operands that meet them.
-/

namespace Sys2Proof.Tests
open Sys2Proof Sys2Proof.Machine
set_option Elab.async false

/-! ## Small states -/

/-- No stop bit, and the guard that always executes (p0 or q0). -/
abbrev h0 : Head := ⟨false, 0⟩

/-- The guard that never executes (p1 or q1). -/
abbrev h1 : Head := ⟨false, 1⟩

/-- The next state of an outcome. -/
def nextOf (o : Host.Outcome State Fault Refusal) : Option State :=
  match o with
  | .next s => some s
  | .fault _ => none
  | .refused _ => none

/-- The reset machine with its context 0 of core 0 of cluster 0 changed; no bundle has begun. -/
def withCtx (f : Context → Context) : State := State.reset.modCtx f

/-- A context with values in scalar registers. -/
def withS (l : List (Nat × Nat)) (x : Context) : Context :=
  { x with regs := l.foldl (fun r p => r.setS (BitVec.ofNat 6 p.1) (BitVec.ofNat 64 p.2)) x.regs }

/-- A context with values in vector registers. -/
def withV (l : List (Nat × Nat)) (x : Context) : Context :=
  { x with regs := l.foldl (fun r p => r.setV (BitVec.ofNat 5 p.1) (BitVec.ofNat 2048 p.2)) x.regs }

/-- A context with one claim of LM lines 0 to 15, one of scratchpad lines 0 to 15, and every tile. -/
def owner (x : Context) : Context :=
  { x with lmWin := [⟨0, 15, true⟩], spWin := [⟨0, 15, true⟩], tiles := BitVec.allOnes 32 }

/-- Scalar registers s0 to s63. -/
def regS (l : List (Nat × Nat)) : State := withCtx (withS l)

/-- The results in flight of the issuing context: register, cycle of landing, value. -/
def results (o : Option State) : List (RegDest × Nat × Nat) :=
  (o.map fun t => (t.mach.ctx t.ref).inflight.map fun x => (x.dest, x.due, x.val.toNat)).getD []

/-- One element of the result in flight, with the flags. -/
def lane (w i : Nat) (o : Option State) : Option (Nat × Nat) :=
  match o with
  | some t => (t.mach.ctx t.ref).inflight.head?.map fun x => (elem w x.val i, x.flags.toNat)
  | none => none

/-- The effects in the gating buffer. -/
def gate (o : Option State) : List Effect := (o.map fun t => (t.mach.ctx t.ref).gate.map Entry.eff).getD []

/-- The traps that the bundle has raised: slots, cause and detail. -/
def raised (o : Option State) : List (Nat × Nat × Nat) :=
  (o.map fun t => t.iss.raises.map fun r => (r.mask.toNat, r.cause.toNat, r.detail.toNat)).getD []

/-- What a slot does in a state. -/
def does (i : Instr) (s : State) : Option State := nextOf (exec i s)

/-- A part of the issuing context after a slot. -/
def ctxOf {α : Type} (f : Context → α) (o : Option State) : Option α := o.map fun t => f (t.mach.ctx t.ref)

/-! ## Ill-formed terms are refused, one for each check -/

theorem test_wf_jr_s63 : (Instr.jr h0 63).wf = false ∧ (Instr.jr h0 62).wf = true := by decide
theorem test_wf_fmt_empty : (Instr.fmt h0 0 0).wf = false := by decide
theorem test_wf_fmt_wide : (Instr.fmt h0 0 (0b111#3 ++ 0b111#3 ++ 1#1 ++ 0#10)).wf = false := by decide
theorem test_wf_fmt_special3 : (Instr.fmt h0 0 (0b011#3 ++ 0b010#3 ++ 1#1 ++ 0#7 ++ 3#2 ++ 0#1)).wf = false := by decide
theorem test_wf_fmt_special2 : (Instr.fmt h0 0 (0b001#3 ++ 0b010#3 ++ 1#1 ++ 0#7 ++ 2#2 ++ 0#1)).wf = false := by decide
theorem test_wf_cmp_pair0 : (Instr.cmp h0 .eq 0 1 2).wf = false := by decide
theorem test_wf_cmpi_pair6 : (Instr.cmpi h0 .eq 6 1 2).wf = false := by decide
theorem test_wf_pand_pair7 : (Instr.pand h0 7 1 2).wf = false := by decide
theorem test_wf_por_pair0 : (Instr.por h0 0 1 2).wf = false := by decide
theorem test_wf_pxor_pair0 : (Instr.pxor h0 0 1 2).wf = false := by decide
theorem test_wf_pandn_pair0 : (Instr.pandn h0 0 1 2).wf = false := by decide
theorem test_wf_movp_pair6 : (Instr.movp h0 6 1 2).wf = false := by decide
theorem test_wf_movl_level6 : (Instr.movl h0 1 6).wf = false ∧ (Instr.movlCount h0 1 7).wf = false := by decide
theorem test_wf_cpy_record0 : (Instr.cpy h0 1 0 2 0).wf = false ∧ (Instr.cpy h0 1 2 0 0).wf = false := by decide
theorem test_wf_famo_order : (Instr.famoAdd h0 1 .com false 2 3).wf = false ∧
    (Instr.famoMin h0 0 .qnt false 2 3).wf = false ∧ (Instr.famoMax h0 1 .spec false 2 0).wf = false ∧
    (Instr.famoAnd h0 1 .com false 2 3).wf = false ∧ (Instr.famoOr h0 0 .spec false 2 0).wf = false ∧
    (Instr.famoXor h0 0 .spec false 2 0).wf = false ∧ (Instr.famoSwap h0 0 .com false 2 3).wf = false := by decide
theorem test_wf_famo_cas_odd : (Instr.famoCas h0 1 .unp false 2 3).wf = false := by decide
theorem test_wf_txt_pair0 : (Instr.txtOut h0 1 0 2).wf = false ∧ (Instr.txtTok h0 1 0 2).wf = false := by decide
theorem test_wf_sio_pair0 : (Instr.sioRd h0 0 1).wf = false ∧ (Instr.sioWr h0 0 true 1).wf = false := by decide
theorem test_wf_net_group0 : (Instr.netSend h0 0 false 1).wf = false ∧ (Instr.netWrite h0 0 false 1).wf = false ∧
    (Instr.netRead h0 0 1).wf = false := by decide
theorem test_wf_shift_float : (Instr.vshl h0 .f32 1 2 (.vec 3)).wf = false ∧
    (Instr.vshr h0 .bf16 1 2 (.vec 3)).wf = false := by decide
theorem test_wf_vcmp_pair0 : (Instr.vcmp h0 .i8 .eq 0 2 (.vec 3)).wf = false := by decide
theorem test_wf_viota_float : (Instr.viota h0 .f16 1 2).wf = false := by decide
theorem test_wf_vmsk_pair0 : (Instr.vmskAnd h0 0 1 2).wf = false ∧ (Instr.vmskOr h0 0 1 2).wf = false ∧
    (Instr.vmskXor h0 0 1 2).wf = false ∧ (Instr.vmskNot h0 0 1).wf = false := by decide
theorem test_wf_agset_field : (Instr.agsetStride h0 0 1 2).wf = false ∧ (Instr.agsetStride h0 7 1 2).wf = false := by
  decide
theorem test_wf_amo_order : (Instr.amoAdd h0 1 .com false 2 3).wf = false ∧
    (Instr.amoMin h0 0 .qnt false 2 3).wf = false ∧ (Instr.amoMax h0 1 .rel false 2 3).wf = false ∧
    (Instr.amoAnd h0 0 .ar false 2 3).wf = false ∧ (Instr.amoOr h0 0 .spec false 2 3).wf = false ∧
    (Instr.amoXor h0 1 .com false 2 3).wf = false ∧ (Instr.amoSwap h0 0 .com false 2 3).wf = false := by decide
theorem test_wf_acas_order : (Instr.acas h0 1 .com false 2 3).wf = false := by decide
theorem test_wf_ald_order : (Instr.ald h0 1 2 true .rel).wf = false := by decide
theorem test_wf_ast_order : (Instr.ast h0 1 2 true .acq).wf = false := by decide
theorem test_wf_fence_none : (Instr.fence h0 0 .core).wf = false := by decide
theorem test_wf_half_narrow : (Instr.ard h0 false 1 true 2 3 .bf16).wf = false ∧
    (Instr.awr h0 2 true 1 3 .f16).wf = false := by decide

/-! ## Words written out from the encodings of the specification: S, G, opcode and the fields of the layout -/

theorem test_word_add : decodeWord (0#1 ++ 2#4 ++ 0x11#7 ++ 5#6 ++ 6#6 ++ 7#6 ++ 0#2) = .ok (.sub ⟨false, 2⟩ 5 6 7) ∧
    decodeWord 0x1101461C = .ok (.add ⟨false, 2⟩ 5 6 7) := by decide
theorem test_word_shri : decodeWord (0#1 ++ 0#4 ++ 0x18#7 ++ 4#6 ++ 9#6 ++ 0b01000011#8) = .ok (.shri h0 4 9 3) := by
  decide
theorem test_word_cmp : decodeWord (1#1 ++ 0#4 ++ 0x1F#7 ++ 0b010#3 ++ 3#3 ++ 9#6 ++ 8#6 ++ 0#2) =
    .ok (.cmp ⟨true, 0⟩ .lt 3 9 8) := by decide
theorem test_word_branch : decodeWord (0#1 ++ 4#4 ++ 0x01#7 ++ 0x7FFFF#19 ++ 0#1) = .ok (.brN ⟨false, 4⟩ 0x7FFFF) := by
  decide
theorem test_word_loopi : decodeWord (0#1 ++ 0#4 ++ 0x05#7 ++ 7#6 ++ 100#14) = .ok (.loopi h0 7 100) := by decide
theorem test_word_vector :
    decodeWord (0#1 ++ 3#4 ++ 0x40#7 ++ 1#1 ++ 9#5 ++ 1#1 ++ 10#5 ++ 1#1 ++ 11#5 ++ 1#2) =
      .ok (.vadd ⟨false, 3⟩ .n8 9 10 (.scal 11)) := by decide
theorem test_word_reduce : decodeWord 0x0501C304 = .ok (.vredMax h0 .f32 7 3) := by decide
theorem test_word_atomic : decodeWord 0x03103518 = .ok (.famoAdd h0 0 .com true 5 6) := by decide
theorem test_word_matrix : decodeWord 0x0728A518 = .ok (.mma h0 .bf16 2 5 6) ∧
    decodeWord 0x07082400 = .ok (.mld h0 .bf16 4) := by decide
theorem test_word_ports : decodeWord 0x03900815 = .ok (.sioWr h0 4 true 1) ∧
    decodeWord 0x03A00C11 = .ok (.netWrite h0 3 true 0) ∧ decodeWord 0x0385080C = .ok (.txtOut h0 20 4 3) := by decide
theorem test_word_pool : decodeWord 0x03250581 = .ok (.poolPubAfter h0 20 5) := by decide
theorem test_word_fence : decodeWord (0#1 ++ 0#4 ++ 0x6E#7 ++ 0#12 ++ 0b00011100#8) = .ok (.fence h0 0b00011 .package) := by
  decide
theorem test_word_reserved : decodeWord (0#1 ++ 0#4 ++ 0x0E#7 ++ 0#20) = .error .reservedOpcode ∧
    decodeWord (0#1 ++ 0#4 ++ 0x10#7 ++ 0#18 ++ 1#2) = .error .reservedField := by decide

/-! ## Scalar slots (R70 to R80), by hand -/

theorem test_add_wraps : results (does (.add h0 5 6 7) (regS [(6, 2 ^ 64 - 1), (7, 2)])) = [(.s 5, 1, 1)] := by
  decide +kernel
theorem test_sub_borrows : results (does (.sub h0 5 6 6) (regS [(6, 9)])) = [(.s 5, 1, 0)] ∧
    results (does (.sub h0 5 6 7) (regS [(6, 0), (7, 1)])) = [(.s 5, 1, 2 ^ 64 - 1)] := by decide +kernel
theorem test_andn_order : results (does (.andn h0 5 6 7) (regS [(6, 0b1100), (7, 0b1010)])) = [(.s 5, 1, 0b0100)] := by
  decide +kernel
theorem test_shl_amount : results (does (.shl h0 5 6 7) (regS [(6, 3), (7, 65)])) = [(.s 5, 1, 6)] := by decide +kernel
theorem test_sra_sign : results (does (.sra h0 5 6 7) (regS [(6, 2 ^ 63), (7, 63)])) = [(.s 5, 1, 2 ^ 64 - 1)] := by
  decide +kernel
theorem test_shr_zero_fill : results (does (.shr h0 5 6 7) (regS [(6, 2 ^ 63), (7, 63)])) = [(.s 5, 1, 1)] := by
  decide +kernel
theorem test_min_signed : results (does (.min h0 5 6 7) (regS [(6, 2 ^ 64 - 1), (7, 1)])) = [(.s 5, 1, 2 ^ 64 - 1)] := by
  decide +kernel
theorem test_minn_natural : results (does (.minn h0 5 6 7) (regS [(6, 2 ^ 64 - 1), (7, 1)])) = [(.s 5, 1, 1)] := by
  decide +kernel
theorem test_addi_signed : results (does (.addi h0 5 6 0xFF) (regS [(6, 5)])) = [(.s 5, 1, 4)] := by decide +kernel
theorem test_andi_natural : results (does (.andi h0 5 6 0xFF) (regS [(6, 0x1234)])) = [(.s 5, 1, 0x34)] := by
  decide +kernel
theorem test_lis_appends : results (does (.lis h0 1 0x200) (regS [(1, 1)])) = [(.s 1, 1, 0x4200)] := by decide +kernel
theorem test_li_signed : results (does (.li h0 1 0x3FFF) (regS [])) = [(.s 1, 1, 2 ^ 64 - 1)] := by decide +kernel
theorem test_mulh_signs : results (does (.mulh h0 5 6 7) (regS [(6, 2 ^ 64 - 1), (7, 2 ^ 64 - 1)])) = [(.s 5, 3, 0)] := by
  decide +kernel
theorem test_mulhn_natural : results (does (.mulhn h0 5 6 7) (regS [(6, 2 ^ 64 - 1), (7, 2 ^ 64 - 1)])) =
    [(.s 5, 3, 2 ^ 64 - 2)] := by decide +kernel
theorem test_div_truncates : results (does (.div h0 5 6 7) (regS [(6, 2 ^ 64 - 7), (7, 2)])) =
    [(.s 5, 18, 2 ^ 64 - 3)] := by decide +kernel
theorem test_rem_sign : results (does (.rem h0 5 6 7) (regS [(6, 2 ^ 64 - 7), (7, 2)])) = [(.s 5, 18, 2 ^ 64 - 1)] := by
  decide +kernel
theorem test_divn_zero : results (does (.divn h0 5 6 7) (regS [(6, 9)])) = [(.s 5, 18, 2 ^ 64 - 1)] := by decide +kernel
theorem test_clz_zero : results (does (.clz h0 5 6) (regS [])) = [(.s 5, 1, 64)] ∧
    results (does (.clz h0 5 6) (regS [(6, 1)])) = [(.s 5, 1, 63)] := by decide +kernel
theorem test_ctz_top : results (does (.ctz h0 5 6) (regS [(6, 2 ^ 63)])) = [(.s 5, 1, 63)] := by decide +kernel
theorem test_popc : results (does (.popc h0 5 6) (regS [(6, 0xF0F)])) = [(.s 5, 1, 8)] := by decide +kernel
theorem test_cmp_tst : results (does (.cmp h0 .tst 3 6 7) (regS [(6, 4), (7, 6)])) = [(.p 3, 1, 1)] := by decide +kernel
theorem test_cmpi_natural : results (does (.cmpi h0 .ltn 3 6 0x80) (regS [(6, 0x7F)])) = [(.p 3, 1, 1)] ∧
    results (does (.cmpi h0 .lt 3 6 0x80) (regS [(6, 0)])) = [(.p 3, 1, 0)] := by decide +kernel
theorem test_pandn_complement : results (does (.pandn h0 3 0 1) (regS [])) = [(.p 3, 1, 1)] := by decide +kernel
theorem test_movp_bit : results (does (.movp h0 3 6 63) (regS [(6, 2 ^ 63)])) = [(.p 3, 1, 1)] := by decide +kernel
theorem test_movl_depth : results (does (.movlCount h0 5 1) (withCtx fun x =>
    { x with regs := { x.regs with loops := [⟨1, 2, 0, 0⟩, ⟨3, 4, 0, 0⟩] } })) = [(.s 5, 1, 4)] ∧
    results (does (.movl h0 5 0) (regS [])) = [(.s 5, 1, 0)] := by decide +kernel
theorem test_s0_discards : results (does (.li h0 0 7) (regS [])) = [(.s 0, 1, 7)] ∧
    Regs.reset.land (.s 0) 7 0 = Regs.reset := by decide +kernel
theorem test_guard_false : does (.li h1 5 7) (regS []) = some (regS []) := by decide +kernel

/-! ## Control slots (R58 to R69) -/

theorem test_call_link : results (does (.call h0 2) { regS [] with iss.after := 12 }) = [(.s 63, 1, 12)] := by
  decide +kernel
theorem test_call_link_past_end : results (does (.call h0 2) { regS [] with iss.after := 0x40000 }) = [(.s 63, 1, 0x40000)] := by
  decide +kernel
theorem test_branch_untaken_hint : ctxOf Context.nextIssue (does (.brT h1 2) (regS [])) = some 4 := by decide +kernel
theorem test_loop_depth : raised (does (.loopi h0 0 1) (withCtx fun x =>
    { x with regs := { x.regs with loops := List.replicate 6 ⟨0, 1, 0, 0x3FFFF⟩ } })) = [(1, 3, 1)] := by decide +kernel
theorem test_loop_caps_count : (ctxOf (fun x => x.regs.loops.map LoopLevel.count)
    (does (.loop h0 6 0) (regS [(6, 70000)]))) = some [65535] := by decide +kernel
theorem test_lbrk_empty : raised (does (.lbrk h0) (regS [])) = [(1, 3, 2)] := by decide +kernel
theorem test_trap_record : (does (.trap h0 0x12345) (regS [])).map (fun t => (t.mach.cluster 0).tqCount) = some 1 ∧
    raised (does (.trap h0 0x12345) (regS [])) = [(1, 0x0D, 0x12345)] := by decide +kernel
theorem test_yield_at : ctxOf Context.wait (does (.yieldAt h0 6) (regS [(6, 500)])) = some (.at 500) := by decide +kernel
theorem test_exit_ends : ctxOf Context.run (does (.exit h0) (regS [])) = some .ended := by decide +kernel
theorem test_capo_acq_later : raised (does (.capoAcq h0 3) (regS [])) = [(1, 0x0C, 1)] := by decide +kernel
theorem test_fmt_descriptor : results (does (.fmt h0 5 0x8C09) (regS [])) = [(.fm 5, 4, 0x46048)] := by decide +kernel

/-! ## Memory slots (R150 to R162) -/

/-- A context that owns LM lines 0 to 15. -/
def mem (l : List (Nat × Nat)) : State := withCtx fun x => owner (withS l x)

theorem test_load_lanes : (ctxOf (fun x => x.loads.map Load.lanes) (does (.ldzH h0 5 (.sreg 6) 0x3F) (mem [(6, 258)]))) =
    some [[(0, 256), (1, 257)]] := by decide +kernel
theorem test_load_misaligned : raised (does (.ldzW h0 5 (.sreg 6) 0) (mem [(6, 258)])) =
    [(1, 0x14, 3 * 2 ^ 62 + 258 * 16 + 1)] := by decide +kernel
theorem test_load_outside : raised (does (.ldzB h0 5 (.sreg 6) 0) (mem [(6, 4096)])) = [(1, 0x0A, 2 ^ 32 + 4096)] := by
  decide +kernel
theorem test_store_bytes : gate (does (.stH h0 5 (.sreg 6) 1) (mem [(5, 0xABCD), (6, 8)])) =
    [.store .lm [(10, 0xCD), (11, 0xAB)]] := by decide +kernel
theorem test_store_scratchpad : gate (does (.stB h0 5 (.sreg 6) 0) (mem [(5, 7), (6, 0x40000010)])) =
    [.store .sp [(16, 7)]] := by decide +kernel
theorem test_vst_masked : gate (does (.vst ⟨false, 2⟩ 3 (.sreg 6) 0) (withCtx fun x =>
    let y := owner (withV [(3, 0x030201)] (withS [(6, 256)] x))
    { y with regs := y.regs.setQ 1 5 })) = [.store .lm [(256, 1), (258, 3)]] := by decide +kernel
theorem test_vldg_stride : (ctxOf (fun x => x.loads.map fun l => l.lanes.take 5)
    (does (.vldg h0 3 6 7 .word) (mem [(6, 64), (7, 8)]))) = some [[(0, 64), (1, 65), (2, 66), (3, 67), (4, 72)]] := by
  decide +kernel
theorem test_amo_due : (does (.amoAdd h0 3 .unp false 6 7) (mem [(6, 16), (7, 1)])).map (fun t =>
    (t.mach.core 0 0).atomics.map AtomicDue.due) = some [2] ∧
    ctxOf Context.unrestartable (does (.amoAdd h0 3 .unp false 6 7) (mem [(6, 16), (7, 1)])) = some true := by
  decide +kernel
theorem test_agset_stride : results (does (.agsetStride h0 3 2 6) (regS [(6, 40)])) = [(.agStride 2 2, 1, 40)] := by
  decide +kernel

/-! ## Vector slots (R96 to R114) -/

/-- A context with vector and scalar registers. -/
def vecs (v s : List (Nat × Nat)) : State := withCtx fun x => withV v (withS s x)

theorem test_vadd_float : lane 32 0 (does (.vadd h0 .f32 1 2 (.vec 3)) (vecs [(2, 0x3F800000), (3, 0x40000000)] [])) =
    some (0x40400000, 0) := by decide +kernel
theorem test_vadd_wraps : lane 8 0 (does (.vadd h0 .i8 1 2 (.scal 3)) (vecs [(2, 0xFF)] [(3, 0x102)])) = some (1, 0) := by
  decide +kernel
theorem test_vsub_zero_sign : lane 32 0 (does (.vsub h0 .f32 1 2 (.vec 2)) (vecs [(2, 0x3F800000)] [])) = some (0, 0) := by
  decide +kernel
theorem test_vmul_inexact : lane 16 0 (does (.vmul h0 .bf16 1 2 (.vec 2)) (vecs [(2, 0x3F81)] [])) =
    some (0x3F82, 1) := by decide +kernel
theorem test_vmax_natural : lane 8 0 (does (.vmax h0 .n8 1 2 (.vec 3)) (vecs [(2, 0xFF), (3, 1)] [])) = some (0xFF, 0) ∧
    lane 8 0 (does (.vmax h0 .i8 1 2 (.vec 3)) (vecs [(2, 0xFF), (3, 1)] [])) = some (1, 0) := by decide +kernel
theorem test_vshr_full_width : lane 8 0 (does (.vshr h0 .i8 1 2 (.scal 3)) (vecs [(2, 0x80)] [(3, 8)])) = some (0xFF, 0) ∧
    lane 8 0 (does (.vshr h0 .n8 1 2 (.scal 3)) (vecs [(2, 0x80)] [(3, 8)])) = some (0, 0) := by decide +kernel
theorem test_vcmp_nan : lane 1 0 (does (.vcmp h0 .f32 .ne 3 2 (.vec 2)) (vecs [(2, 0x7FC00000)] [])) = some (1, 0) := by
  decide +kernel
theorem test_vcvt_narrows : lane 16 0 (does (.vcvt h0 (.elem .bf16 .f32) 1 2) (vecs [(2, 0x3F800000)] [])) =
    some (0x3F80, 0) := by decide +kernel
theorem test_vred_sum : results (does (.vredSum h0 .n8 5 2) (vecs [(2, 0x0302FF)] [])) = [(.s 5, 8, 4)] := by
  decide +kernel
theorem test_vslide_down : lane 8 0 (does (.vslide h0 .i8 1 2 3) (vecs [(2, 0x332211)] [(3, 2)])) = some (0x33, 0) := by
  decide +kernel
theorem test_vunpk_interleaves : lane 32 0 (does (.vunpk h0 .i16 1 2 3) (vecs [(2, 0xAAAA), (3, 0xBBBB)] [])) =
    some (0xBBBBAAAA, 0) := by decide +kernel
theorem test_vmsk_ffs : results (does (.vmskFfs h0 5 2) (withCtx fun x => { x with regs := x.regs.setQ 1 0x30 })) =
    [(.s 5, 8, 4)] := by decide +kernel
theorem test_vext_sign : results (does (.vext h0 .i8 5 3 2) (vecs [(2, 0x8000)] [(3, 1)])) =
    [(.s 5, 3, 2 ^ 64 - 128)] := by decide +kernel

/-! ## Matrix, engine and transfer slots -/

theorem test_mma_no_tile : raised (does (.mma h0 .bf16 7 5 6) (regS [(6, 1)])) = [(1, 0x0A, 5 * 2 ^ 32 + 7)] := by
  decide +kernel
theorem test_aclr_due : (does (.aclr h0 2 5 6) (withCtx fun x => owner (withS [(5, 3), (6, 4)] x))).map (fun t =>
    (t.mach.core 0 0).accW.map fun w => (w.due, w.op)) = some [(2, .clr 0 4 3)] := by decide +kernel
theorem test_cpy_records : (gate (does (.cpy h0 16 1 3 5) (regS [(8, 11), (24, 12), (16, 9)]))).map (fun e => match e with
    | .cmd (.cpy t d s ch _) => (t.toNat, (d.headD 0).toNat, (s.headD 0).toNat, ch.toNat)
    | _ => (0, 0, 0, 0)) = [(9, 11, 12, 5)] := by decide +kernel
theorem test_pool_unpin : gate (does (.poolUnpin h0 5) (regS [(5, 99)])) = [.cmd (.pool .unpin 99 0 false)] := by
  decide +kernel
theorem test_evt_irq_low : raised (does (.evtIrq h0 5) (regS [(5, 0)])) = [(1, 0x0A, 3 * 2 ^ 32 + 0x70000000)] := by
  decide +kernel
theorem test_brg_pop_tier : raised (does (.brgPop h0 5) (regS [])) = [(1, 5, 3)] := by decide +kernel
theorem test_xrcv_empty : raised (does (.xrcvVector h0 5 3) (regS [])) = [(1, 6, 11)] := by decide +kernel
theorem test_xsnd_time : (does (.xsndScalar h0 7 5) (regS [(5, 42)])).map (fun t =>
    (t.mach.cluster 0).arrivals.map fun a => (a.due, a.dst, a.val.toNat)) = some [(11, 7, 42)] := by decide +kernel

/-! ## Concrete states that meet the hypotheses of the statements about slots, clause by clause -/

/-- A partition of every cluster of the package. -/
def whole : Partition :=
  { defn := { x0 := 0, x1 := 3, y0 := 0, y1 := 3, tiers := 3, places := [], dirs := [], tlb := 64, walks := 16, ports := 0,
              eps := [], spaces := [], apAst := 0, apBase := 0, pfAst := 0, pfBase := 0 },
    tdisp := false, retired := false }

/-- An image with one section of two nops at 0 on core 0 of cluster 0, and nothing else. -/
def image0 : Image :=
  { num := 1, part := 0, ast := 0, clPol := 0, imPol := 0, home := 0,
    decl := { acts := [], gangs := [], pools := [], queues := [], scopes := [], chans := [],
              code := [(0, 0, [0x80000000, 0x80000000])], data := [], consts := [] },
    place := [(0, 0, 0)], digest := 0, version := 0, started := false, stopped := false, retired := false }

/-- The reset machine with context 0 bound to that image, and its two bundles in the instruction store. -/
def bound0 (f : Context → Context) : State :=
  ((State.reset.modCtx fun x => f { x with img := some 1, run := .running }).modCore fun k =>
    { k with istore := Memory.putAll (some 0xFF) [] (codeCells 0 [0x80000000, 0x80000000]) }).modMach fun m =>
    m.modPk fun p => { p with images := [image0] }

/-- A context with loop levels. -/
def withLoops (l : List LoopLevel) (x : Context) : Context := { x with regs := { x.regs with loops := l } }

theorem witness_ScalarArithmetic : Spec.Runs (regS [(6, 2 ^ 64 - 1), (7, 63)]) h0 := by unfold Spec.Runs; decide +kernel
theorem witness_ScalarImmediates : Spec.Runs (regS [(6, 2 ^ 64 - 1)]) h0 := by unfold Spec.Runs; decide +kernel
theorem witness_Multiplication : Spec.Runs (regS [(6, 2 ^ 63), (7, 2 ^ 64 - 1)]) h0 := by unfold Spec.Runs; decide +kernel

theorem witness_Division :
    let s := regS [(6, 2 ^ 63), (7, 2 ^ 64 - 1), (8, 0)]
    let held := s.modCore fun k => { k with divFree := 1 }
    let second := { s with iss := { s.iss with divides := true } }
    Spec.Runs s h0 ∧ (s.pre.core 0 0).divFree ≤ s.now ∧ s.iss.divides = false ∧ s.sreg 8 = 0 ∧
    ((s.sreg 6).toInt = -2 ^ 63 ∧ (s.sreg 7).toInt = -1) ∧
    (s.sreg 7 ≠ 0 ∧ ¬((s.sreg 7).toInt = -2 ^ 63 ∧ (s.sreg 7).toInt = -1)) ∧
    (Spec.Runs held h0 ∧ held.now < (held.pre.core 0 0).divFree) ∧
    (Spec.Runs second h0 ∧ (second.pre.core 0 0).divFree ≤ second.now ∧ second.iss.divides = true) := by
  unfold Spec.Runs; decide +kernel

theorem witness_BitCounts :
    Spec.Runs (regS [(6, 2 ^ 63)]) h0 ∧ Spec.Runs (regS []) h0 ∧ (regS []).sreg 6 = 0 := by
  unfold Spec.Runs; decide +kernel
theorem witness_Comparisons : Spec.Runs (regS [(6, 2 ^ 63), (7, 1)]) h0 := by unfold Spec.Runs; decide +kernel
theorem witness_PredicateLogic : Spec.Runs (regS [(6, 1)]) h0 := by unfold Spec.Runs; decide +kernel

theorem witness_LoopFields :
    let s := withCtx (withLoops (List.replicate 6 ⟨2, 65535, 0, 4⟩))
    Spec.Runs s h0 ∧ s.regs.loops[(5 : BitVec 3).toNat]? = some ⟨2, 65535, 0, 4⟩ ∧
    s.regs.loops.length ≤ (6 : BitVec 3).toNat := by
  unfold Spec.Runs; decide +kernel

theorem witness_SystemRegisters :
    let u := regS [(6, 0x8E1D0), (7, 1)]
    let s := bound0 (withS [(6, 31)])
    let own := s.modMach fun m => m.modPk fun p =>
      { p with chans := [(3, { Channel.reset with owner := some ⟨0, 0, 0⟩, img := some 1, done := 7 })] }
    let upper := ((withCtx fun x => { x with img := some 1 }).modMach fun m =>
      (m.modCtx ⟨16, 0, 0⟩ fun x => { x with img := some 1, run := .running }).modPk fun p =>
        { p with parts := [(0, whole)] }).modMach fun m =>
          m.modDom (domOf 16) fun d => { d with gated := false }
    Spec.Runs u h0 ∧ u.pre.bridgeOk u.ref = false ∧ descValid ((u.sreg 6).extractLsb' 0 20) = true ∧
    descValid ((u.sreg 7).extractLsb' 0 20) = false ∧
    (Spec.Runs own h0 ∧ (own.pre.pk.chan 0 3).owner ≠ none ∧ (own.pre.pk.chan 0 3).img ≠ none ∧
      (own.pre.pk.chan 0 3).img = own.preCtx.img) ∧
    (Spec.Runs upper h0 ∧ upper.pre.bridgeOk upper.ref = true) ∧ (1 : BitVec 3) ≠ 0 := by
  unfold Spec.Runs; decide +kernel

theorem witness_ControlSlots :
    let s := bound0 (withS [(6, 4), (63, 0x3FFFC)])
    let inside := bound0 (withLoops [⟨0, 1, 0, 0⟩])
    let full := bound0 (fun x => withS [(6, 70000)] (withLoops (List.replicate 6 ⟨0, 1, 0, 4⟩) x))
    Spec.Calm s ∧ s.pguard h0 = true ∧ s.pguard h1 = false ∧ s.regs.loops = [] ∧
    s.pre.validTarget s.ref 4 = true ∧ s.pre.validTarget s.ref 0x3FFFC = false ∧
    (Spec.Calm inside ∧ ∃ l ∈ inside.regs.loops, (4 : Int) < l.start.toNat ∨ (l.stop.toNat : Int) < 4) ∧
    (inside.regs.loops = [⟨0, 1, 0, 0⟩] ∧ (0 : PC).toNat < (inside.pre.core 0 0).bundleAfter 4 0) ∧
    (Spec.Runs full h0 ∧ min (full.sreg 6).toNat 65535 ≠ 0 ∧ 6 ≤ full.regs.loops.length) ∧
    min (s.sreg 7).toNat 65535 = 0 := by
  unfold Spec.Runs Spec.Calm; decide +kernel

theorem witness_LoopSteps :
    let s := (bound0 (withLoops [⟨0, 1, 0, 4⟩, ⟨0, 2, 0, 4⟩])).modCtx fun x => { x with stepAt := some 4 }
    let x := s.mach.ctx ⟨0, 0, 0⟩
    x.stepAt = some 4 ∧ x.regs.loops = [⟨0, 1, 0, 4⟩] ++ [⟨0, 2, 0, 4⟩] ∧ [(⟨0, 1, 0, 4⟩ : LoopLevel)].length < 6 ∧
    (∀ l ∈ [(⟨0, 1, 0, 4⟩ : LoopLevel)], l.stop = 4 ∧ l.count.toNat ≤ l.index.toNat + 1) ∧
    (⟨0, 2, 0, 4⟩ : LoopLevel).stop = 4 ∧
    (⟨0, 2, 0, 4⟩ : LoopLevel).index.toNat + 1 < (⟨0, 2, 0, 4⟩ : LoopLevel).count.toNat := by
  decide +kernel

theorem witness_LoopSteps_pops :
    let s := (bound0 (withLoops (List.replicate 6 ⟨65534, 65535, 0, 4⟩))).modCtx fun x => { x with stepAt := some 4 }
    let x := s.mach.ctx ⟨0, 0, 0⟩
    x.stepAt = some 4 ∧ x.regs.loops = List.replicate 6 ⟨65534, 65535, 0, 4⟩ ++ [] ∧
    (∀ l ∈ List.replicate 6 (⟨65534, 65535, 0, 4⟩ : LoopLevel), l.stop = 4 ∧ l.count.toNat ≤ l.index.toNat + 1) := by
  decide +kernel

theorem witness_CommitPoints :
    let s := (withCtx id).modCore fun k => { k with running := some 0 }
    Spec.Runs s h0 ∧ (s.mach.core 0 0).running = some s.ref.cx := by
  unfold Spec.Runs; decide +kernel

theorem witness_SoftwareTrap :
    let s := regS []
    let l : LoopLevel := ⟨0, 2, 0, 0⟩
    let body := withCtx (withLoops [l])
    s.pguard h1 = false ∧ Spec.Runs s h0 ∧ s.preCtx.policy = 0 ∧ s.preCtx.gang = none ∧ s.regs.loops = [] ∧
    (Spec.Runs body h0 ∧ body.preCtx.policy = 0 ∧ body.preCtx.gang = none ∧ body.regs.loops = l :: [] ∧
      l.stop = body.iss.baddr ∧ l.index.toNat + 1 < l.count.toNat) ∧
    (fieldsOf (.nop h0)).isSome = true := by
  unfold Spec.Runs; decide +kernel

theorem witness_CapoSlots :
    let s := withCtx fun x => { x with capo := 3, first := true }
    Spec.Runs s h0 ∧ s.preCtx.first = true ∧ s.preCtx.capo.toNat < (4 : BitVec 4).toNat ∧
    (3 : BitVec 4).toNat ≤ s.preCtx.capo.toNat ∧ (Spec.Runs (regS []) h0 ∧ (regS []).preCtx.first = false) := by
  unfold Spec.Runs; decide +kernel

theorem witness_AccessChecks :
    let m := (mem []).mach
    let x := m.ctx ⟨0, 0, 0⟩
    accessFault m x .write false [span 4088 8] = none ∧ accessFault m x .write false [span 4089 8] = some (4096, 1) ∧
    accessFault m x .load false [span 0x40000000 8] = none ∧ accessFault m x .load false [span 0x1FFFFF 1] ≠ none ∧
    AccessKind.write.writes = true ∧ AccessKind.load.lmOnly = false := by
  decide +kernel

/-- A check that passes, one that fails, and an aligned and a misaligned address, at the last bytes of the windows. -/
theorem witness_ScalarMemory_loads :
    let s := mem [(6, 4088), (7, 4090), (8, 4096), (9, 0x40000FF8)]
    let a (b : Base) (o : BitVec 6) : Nat := (s.baseAddr b + BitVec.ofInt 32 (o.toInt * 8)).toNat
    Spec.Runs s h0 ∧ accessFault s.pre s.preCtx .load false [span (a (.sreg 6) 0) 8] = none ∧ a (.sreg 6) 0 % 8 = 0 ∧
    accessFault s.pre s.preCtx .load false [span (a (.sreg 8) 0) 8] = some (4096, 1) ∧
    accessFault s.pre s.preCtx .load false [span (a (.sreg 7) 0x3F) 8] = none ∧ a (.sreg 7) 0x3F % 8 ≠ 0 ∧
    accessFault s.pre s.preCtx .load false [span (a (.sreg 9) 0) 8] = none := by
  unfold Spec.Runs; decide +kernel

theorem witness_ScalarMemory_stores :
    let s := (mem [(5, 1023), (6, 4088), (7, 4082), (8, 4096), (9, 0x40000FF8), (10, 0x70000000)]).modMach fun m =>
      m.modPk fun p => { p with parts := [(0, whole)] }
    let a (b : Base) : Nat := (s.baseAddr b).toNat
    Spec.Runs s h0 ∧ accessFault s.pre s.preCtx .write false [span (a (.sreg 6)) 8] = none ∧ a (.sreg 6) % 8 = 0 ∧
    a (.sreg 6) ≤ 0x1FFFFF ∧ accessFault s.pre s.preCtx .write false [span (a (.sreg 9)) 8] = none ∧
    0x40000000 ≤ a (.sreg 9) ∧ a (.sreg 9) ≤ 0x41FFFFFF ∧
    accessFault s.pre s.preCtx .write true [span (a (.sreg 10)) 8] = none ∧ 0x70000000 ≤ a (.sreg 10) ∧
    a (.sreg 10) ≤ 0x7001FFFF ∧ accessFault s.pre s.preCtx .write false [span (a (.sreg 8)) 8] = some (4096, 1) ∧
    accessFault s.pre s.preCtx .write false [span (a (.sreg 7)) 8] = none ∧ a (.sreg 7) % 8 ≠ 0 := by
  unfold Spec.Runs; decide +kernel

theorem witness_VectorMemory :
    let s := mem [(6, 3840), (7, 3841), (8, 3842), (9, 1), (10, 0x40000000)]
    let at0 (a : Nat) : List Nat := (List.range 256).map (a + ·)
    Spec.Calm s ∧ s.mguard h0 = BitVec.allOnes 256 ∧ s.mguard h1 = 0 ∧ s.pguard h0 = true ∧
    accessFault s.pre s.preCtx .load false [at0 (s.sreg 6).toNat] = none ∧ (s.sreg 6).toNat % 2 = 0 ∧
    accessFault s.pre s.preCtx .write false [at0 (s.sreg 10).toNat] = none ∧
    (∀ p ∈ at0 (s.sreg 10).toNat, (spaceOf p).1 = .sp) ∧
    accessFault s.pre s.preCtx .load false [at0 (s.sreg 8).toNat] = some (4096, 1) ∧
    accessFault s.pre s.preCtx .load false [at0 3585] = none ∧ (3585 : Nat) % 2 ≠ 0 ∧
    accessFault s.pre s.preCtx .loadLM false ((List.range 128).map fun i => span (1 + i * 2) 2) = none ∧
    accessFault s.pre s.preCtx .writeLM false ((List.range 64).map fun i => span (i * 4) 4) = none := by
  unfold Spec.Calm; decide +kernel

theorem witness_LocalAtomics :
    let s := mem [(6, 4088), (7, 4090), (8, 4096), (9, 0x40000FF8)]
    Spec.Runs s h0 ∧ accessFault s.pre s.preCtx .write false [span (s.sreg 6).toNat 8] = none ∧
    (s.sreg 6).toNat % 8 = 0 ∧ accessFault s.pre s.preCtx .write false [span (s.sreg 9).toNat 8] = none ∧
    Ord.unp ≠ Ord.rel ∧ (if Ord.com = .com ∨ Ord.com = .qnt ∨ Ord.com = .rel then none else some (3 : SReg)) = none ∧
    (if Ord.unp = .com ∨ Ord.unp = .qnt ∨ Ord.unp = .rel then none else some (3 : SReg)) = some 3 ∧
    accessFault s.pre s.preCtx .write false [span (s.sreg 8).toNat 8] = some (4096, 1) ∧
    accessFault s.pre s.preCtx .write false [span 4084 8] = none ∧ (4084 : Nat) % 8 ≠ 0 := by
  unfold Spec.Runs; decide +kernel

theorem witness_FencePoint :
    let e : Entry := ⟨3, .scalar, .store .lm [(0, 1)], 0, 0, 0⟩
    let s := (withCtx fun x => { x with gate := [e] }).modMach fun m => m.modPk fun p =>
      { p with outs := [⟨9, ⟨0, 0, 0⟩, .st, [.anywhere]⟩] }
    Spec.Runs s h0 ∧ (∃ o ∈ s.mach.pk.outs, o.ctx = s.ref ∧ kindIn 0b00001 o.kind = true) ∧
    e ∈ (s.mach.ctx s.ref).gate ∧ e.eff.fenceKind = some .st ∧ kindIn 0b00001 .st = true := by
  unfold Spec.Runs; decide +kernel

theorem witness_CommandSlots : Spec.Runs (regS [(5, 1)]) h0 := by unfold Spec.Runs; decide +kernel

theorem witness_PortCommands :
    let s := (bound0 (withS [(5, 0x400000), (6, 0x3FF0000), (7, 0x700)])).modMach fun m => m.modPk fun p =>
      { p with parts := [(0, whole)] }
    Spec.Runs s h0 ∧ s.pre.eventTarget s.ref 0 = true ∧ s.pre.eventTarget s.ref 7 = false ∧
    s.pre.pk.clusterIn s.preCtx.part 0 = true ∧ 64 ≤ ((s.sreg 5).extractLsb' 16 10 : BitVec 10).toNat ∧
    (Spec.Runs (regS []) h0 ∧ (regS []).pre.pk.clusterIn 0 0 = false) ∧
    ((s.sreg 8).extractLsb' 16 10 : BitVec 10).toNat < 64 := by
  unfold Spec.Runs; decide +kernel

/-- A machine whose context 0 of core 0 of cluster 16 is issuing, with its opposite bound to the same image. -/
def upper0 (b : Bridge) (g : List Entry) : State :=
  let parts : FMap Partition := [(0, whole)]
  let m := (((Mach.reset.modCtx ⟨16, 0, 0⟩ fun x => { x with img := some 1, run := .running }).modCtx ⟨0, 0, 0⟩ fun x =>
    { x with img := some 1, run := .running }).modCtx ⟨16, 0, 1⟩ fun x => { x with gate := g }).modPk fun p =>
      { p with parts := parts }
  { mach := ((m.modDom (domOf 0) fun d => { d with gated := false }).modDom (domOf 16) fun d =>
      { d with gated := false }).modCore 16 0 fun k => { k with bridge := b },
    iss := { Issue.idle with cl := 16 } }

theorem witness_BridgeAndTimedTransfers_bridge :
    let s := upper0 ⟨List.replicate 16 7, 16, 16, 15, [], []⟩ []
    let shared := upper0 ⟨[7], 1, 1, 0, [], []⟩ [⟨0, .command, .cmd .brgPop, 0, 0, 0⟩]
    let low := { s with iss := { s.iss with cl := 0 } }
    let drained := upper0 Bridge.reset []
    Spec.Runs s h0 ∧ s.iss.cl.getLsbD 4 = true ∧ s.pre.bridgeOk s.ref = true ∧
    (s.pre.core 16 0).bridge.u < (s.pre.core 16 0).bridge.consHeld ∧
    (s.pre.core 16 0).bridge.fifo[(s.pre.core 16 0).bridge.u]? = some 7 ∧
    (∀ c ∈ ctxIds, c ≠ s.iss.cx → ((s.pre.core 16 0).ctx c).gate = []) ∧
    (Spec.Runs shared h0 ∧ shared.pre.bridgeOk shared.ref = true ∧
      ∃ c ∈ ctxIds, c ≠ shared.iss.cx ∧ ∃ e ∈ ((shared.pre.core 16 0).ctx c).gate, e.eff = .cmd .brgPop) ∧
    (Spec.Runs drained h0 ∧ drained.pre.bridgeOk drained.ref = true ∧
      (drained.pre.core 16 0).bridge.consHeld ≤ (drained.pre.core 16 0).bridge.u) ∧
    (Spec.Runs low h0 ∧ low.iss.cl.getLsbD 4 = false ∧ low.pre.bridgeOk low.ref = true) ∧
    (Spec.Runs (regS []) h0 ∧ (regS []).pre.bridgeOk (regS []).ref = false) := by
  unfold Spec.Runs; decide +kernel

theorem witness_BridgeAndTimedTransfers_timed :
    let s := regS []
    let full := s.modCore fun k => { k with latches := [(7, (true, 5))] }
    Spec.Runs s h0 ∧ s.preCtx.gang = none ∧ (s.pre.core 0 0).latches.find (7 : CoreId).toNat = none ∧
    (Spec.Runs full h0 ∧ (full.pre.core 0 0).latches.find (7 : CoreId).toNat = some (true, 5)) ∧
    (withCtx fun x => { x with gang := some 0 }).preCtx.gang ≠ none := by
  unfold Spec.Runs; decide +kernel

theorem witness_VectorResults :
    Spec.Calm (regS []) ∧ ((regS []).raise 3 0).iss.raises ≠ [] := by
  unfold Spec.Calm; decide +kernel
theorem witness_VectorArithmetic : Spec.Calm (vecs [(2, 0xFF800001)] []) ∧ vtyFloat .f32 = some (ftyFmt .f32) ∧
    vtyFloat .n8 = none := by
  unfold Spec.Calm; decide +kernel
theorem witness_VectorLogicAndMoves_logic : Spec.Calm (vecs [(2, 0xFF)] []) ∧ vtyNat .n8 = true ∧ vtyNat .i8 = false := by
  unfold Spec.Calm; decide +kernel
theorem witness_VectorCompares : Spec.Calm (vecs [(2, 0x7FC00000)] []) ∧ vtyFloat .i8 = none ∧
    vtyFloat .f32 = some (ftyFmt .f32) ∧ ((ftyFmt .f32).unpack 0x7FC00000).isNan = true ∧
    ((ftyFmt .f32).unpack 0x7F800000).isNan = false := by
  unfold Spec.Calm; decide +kernel
theorem witness_ConversionsAndUnits : Spec.Calm (vecs [] []) := by unfold Spec.Calm; decide +kernel
theorem witness_IntegerSums : Spec.Calm (vecs [(2, 0xFF)] []) ∧ vtyFloat .n8 = none := by unfold Spec.Calm; decide +kernel
theorem witness_VectorLogicAndMoves_moves :
    let s := vecs [] [(3, 2 ^ 64 - 1)]
    let some1 := withCtx fun x => { x with regs := x.regs.setQ 1 1 }
    Spec.Calm s ∧ elemOn 8 (s.mguard h0) ((s.sreg 3).toNat % 256) = true ∧
    elemOn 8 (some1.mguard ⟨false, 2⟩) 255 = false ∧ elemOn 8 (some1.mguard ⟨false, 2⟩) 0 = true ∧ Spec.Calm some1 := by
  unfold Spec.Calm; decide +kernel

theorem witness_PlaneSlots :
    let s := withCtx fun x => { withS [(4, 0), (5, 0x100), (6, 1)] x with lmWin := [⟨0, 63, true⟩], tiles := 1 }
    let none1 := regS []
    let busy := s.modCore fun k => { k with load := some ⟨⟨0, 0, 0, 0⟩, 0, 0, 64, 64, 0, 0, 0⟩ }
    let used := s.modCore fun k => { k with shadowPlane := { k.shadowPlane with useUntil := 2 } }
    Spec.Runs s h0 ∧ ¬(s.now + 2 ≤ (s.pre.core 0 0).shadowPlane.useUntil) ∧ (s.pre.core 0 0).load = none ∧
    s.preCtx.tiles ≠ 0 ∧ (s.sreg 4).toNat % 256 = 0 ∧ (s.sreg 6).toNat % 2 ^ 32 % 256 ≠ 0 ∧
    kindScaled .i8 0 = false ∧ planeLines .i8 = 64 ∧
    (Spec.Runs none1 h0 ∧ none1.preCtx.tiles = 0) ∧
    (Spec.Runs busy h0 ∧ (busy.pre.core 0 0).load = some ⟨⟨0, 0, 0, 0⟩, 0, 0, 64, 64, 0, 0, 0⟩ ∧ busy.now < 0 + 2 + 64) ∧
    (Spec.Runs used h0 ∧ used.now + 2 ≤ (used.pre.core 0 0).shadowPlane.useUntil) := by
  unfold Spec.Runs; decide +kernel

/-- The 64 lines of an i8 plane at 0 lie in a claim of lines 0 to 63; a plane at line 1 reaches past it. -/
theorem witness_PlaneSlots_windows (m : Mach) :
    let x : Context := { Context.reset with lmWin := [⟨0, 63, true⟩] }
    let lines (b : Nat) : List (List Nat) := (List.range 64).map fun j => span (b + j * 256) 256
    accessFault m x .loadLM false (lines 0) = none ∧ accessFault m x .loadLM false (lines 256) ≠ none := by
  refine ⟨accessFault_eq_none.mpr fun bs h b hb a ha => ?_, fun h => ?_⟩
  · obtain ⟨j, hj, rfl⟩ := List.mem_map.mp h
    rw [List.mem_range] at hj
    have hr : region b = .lm := by
      obtain ⟨i, hi, rfl⟩ := List.mem_map.mp (List.mem_of_mem_head? hb)
      rw [List.mem_range] at hi
      exact if_pos (by omega)
    obtain ⟨i, hi, rfl⟩ := List.mem_map.mp ha
    rw [List.mem_range] at hi
    exact hr ▸ byteFault_claimed (List.mem_singleton.mpr rfl) rfl (by simp) (by simp only []; omega) (by omega)
  · have h := accessFault_eq_none.mp h (span (256 + 63 * 256) 256) (by simp only [List.mem_map, List.mem_range]; exact ⟨63, by omega, rfl⟩)
      16384 rfl 16384 (by simp only [span, List.mem_map, List.mem_range]; exact ⟨0, by omega, rfl⟩)
    revert h
    simp [byteFault, region, Window.has]

theorem witness_AccumulatorSlots :
    let s := mem [(5, 0), (6, 0x7F01), (7, 128), (8, 129), (9, 0x7F02), (10, 1), (11, 0)]
    let due := s.modCore fun k => { k with accW := [⟨⟨0, 0, 0, 0⟩, 2, 3, .nrm 127 0⟩] }
    let busy := s.modCore fun k => { k with mmaNext := 1 }
    Spec.Runs s h0 ∧ s.preCtx.tiles.getLsbD (31 : Tile).toNat = true ∧
    (s.pre.core 0 0).rowConflict [(2, 3, 127)] = none ∧
    (Spec.Runs due h0 ∧ (due.pre.core 0 0).rowConflict [(2, 3, 127)] = some (2, 3, 127)) ∧
    ((regS []).preCtx.tiles.getLsbD 3 = false ∧ ((regS []).pre.core 0 0).rowConflict [(2, 3, 127)] = none) ∧
    (Spec.Runs busy h0 ∧ busy.now < (busy.pre.core 0 0).mmaNext) ∧ (s.pre.core 0 0).mmaNext ≤ s.now ∧
    (s.sreg 11).toNat % 256 = 0 ∧ (s.sreg 6).toNat % 256 ≠ 0 ∧ (s.sreg 6).toNat / 256 % 128 = 127 ∧
    accessFault s.pre s.preCtx .loadLM false [span 0 (actRow .bf16 0)] = none ∧
    kindDepth (.fm 2) 0x46040 ≠ kindDepth (s.pre.core 0 0).plane.kind (s.pre.core 0 0).plane.desc ∧
    kindDepth .bf16 0 = kindDepth (s.pre.core 0 0).plane.kind (s.pre.core 0 0).plane.desc ∧
    128 < (s.sreg 8).toNat % 256 ∧ 128 < 127 + (s.sreg 9).toNat % 256 ∧ 1 % actRow .bf16 0 ≠ 0 := by
  unfold Spec.Runs; decide +kernel

/-! ## Concrete states for the statements about steps, traps and the events of a core -/

theorem witness_DecodeEncode : encode (.add h0 5 6 7) = some 0x0101461C := by decide
theorem witness_EncodeDecode : decodeWord 0x0101461C = .ok (.add h0 5 6 7) := by decide

/-- A bundle whose last slot is of a reserved opcode, and an image that holds such a slot. -/
theorem witness_ReservedOpcodes :
    ([0, 0, 0, 0, 0, 0, 0, 0xFFFFFFFF] : List SlotWord)[7]? = some 0xFFFFFFFF ∧
    (0xFFFFFFFF : SlotWord).extractLsb' 20 7 = 0x7F ∧
    ∃ c ∈ ({ image0.decl with code := [(0, 0, [0xFFFFFFFF])] } : ImageDecl).code, (0xFFFFFFFF : SlotWord) ∈ c.2.2 := by
  decide +kernel

/-- Context 0 about to issue the one-slot bundle li s1, 4. -/
def ready0 : State := State.reset.withFetchWord 32 0x01904004

theorem witness_StepRunsDecoded :
    let s := ready0
    s.mach.todo = .issue 0 0 :: [] ∧ s.mach.issuing 0 0 = some 0 ∧
    (s.mach.core 0 0).fetchError 0 ((s.mach.core 0 0).frame 0 8).1.length = none ∧
    (refusal ((s.mach.core 0 0).frame 0 8).1 ((s.mach.core 0 0).frame 0 8).2).2 = 0 ∧
    (s.mach.ctx ⟨0, 0, 0⟩).count ≤ (s.mach.ctx ⟨0, 0, 0⟩).budget ∧
    ((s.mach.core 0 0).frame 0 8).1[0]? = some 0x01904004 := by decide +kernel

theorem witness_StepRunsDecoded_event :
    let s := State.reset.modMach fun m => { m with todo := [.event (.ifset 0 1023)] }
    s.mach.todo = .event (.ifset 0 1023) :: [] := by decide +kernel

theorem test_step_issues : ((nextOf (step ready0)).map fun t => results (some { t with iss := Issue.idle })) =
    some [(.s 1, 1, 4)] := by decide +kernel

theorem reset_inv : State.reset.Inv :=
  ⟨⟨by simp [State.reset, Mach.reset], by decide, by simp [State.reset, Mach.reset, Package.reset]⟩, by
    simp [State.reset, Issue.idle]⟩

theorem witness_StepKeepsInv : State.reset.Inv ∧ ∃ t, step State.reset = .next t := ⟨reset_inv, _, rfl⟩

theorem witness_EntryInGate :
    let s := regS []
    s.iss.commit = false ∧ ({ s with iss := { s.iss with commit := true } } : State).iss.commit = true := by decide +kernel

theorem witness_SlotsKeepMemory :
    let s := mem [(5, 7), (6, 8)]
    (fieldsOf (.stB h0 5 (.sreg 6) 0)).isSome = true ∧ (does (.stB h0 5 (.sreg 6) 0) s).map (fun t => t.iss.raises) =
      some s.iss.raises := by decide +kernel
theorem witness_SlotsKeepRegisters :
    let s := regS [(6, 3)]
    (fieldsOf (.loop h0 6 0)).isSome = true ∧ (does (.loop h0 6 0) s).map (fun t => t.iss.raises) =
      some s.iss.raises := by decide +kernel

theorem witness_FalseGuardNullifies :
    (fieldsOf (.add h1 5 6 7)).isSome = true ∧ maskGuarded 0x10 = false ∧ (regS []).regs.pred 1 = false := by
  decide +kernel

theorem witness_Suppression :
    let s := (regS []).raise 0x0A 0
    (fieldsOf (.div h0 5 6 7)).isSome = true ∧ s.iss.raises ≠ [] := by decide +kernel

theorem witness_TrapRecords :
    (Mach.reset.cluster 0).tqCount < 32 ∧
    32 ≤ ((Mach.reset.modCluster 0 fun c => { c with tqCount := 32 }).cluster 0).tqCount := by decide +kernel

/-- A result that lands in cycle 0. -/
def due0 (d : RegDest) : InFlight := ⟨0, 0, d, 7, BitVec.allOnes 256, 1, true, 0, 0, 0⟩

theorem witness_Landings :
    let s := withCtx fun x => { x with inflight := [due0 (.s 63), { due0 (.v 31) with due := 1 }] }
    (s.mach.ctx ⟨0, 0, 0⟩).inflight.filter (fun y => decide (y.due ≤ s.mach.cyc 0) && y.ready) = [due0 (.s 63)] := by
  decide +kernel

theorem witness_DrainStoresBytes :
    let d : DrainItem := ⟨0, ⟨3, .scalar, .store .lm [(0x1FFFFF, 1), (0, 0)], 0, 0, 0⟩, 0, [], none, 0, 0⟩
    let s := State.reset.modCore fun k => { k with drain := [d], drained := 1, lm := [(0, 9)] }
    let k := s.mach.core 0 0
    k.drain = d :: [] ∧ d.entry.eff = .store .lm [(0x1FFFFF, 1), (0, 0)] ∧ k.drained < 2 ∧ d.since ≤ s.mach.cyc 0 ∧
    k.lm.wf (some 0) = true ∧ ([((0x1FFFFF : Nat), (1 : Byte)), (0, 0)].map Prod.fst).Nodup := by decide +kernel

/-- A waiting context. -/
def waits (w : WaitCond) (x : Context) : Context := { x with run := .waiting, wait := w, budget := 1 }

theorem witness_SchedulingEvents_release :
    let s := withCtx (waits (.at 0))
    let x := s.mach.ctx ⟨0, 0, 0⟩
    let asks := ((withCtx (waits .now)).modCore fun k =>
      { k with istore := Memory.putAll (some 0xFF) [] (codeCells 0 [0x80D00006]) })
    let y := asks.mach.ctx ⟨0, 0, 0⟩
    (x.run = .waiting ∧ x.dueAt s.mach.pk.fret = some 0 ∧ x.capoReq = none ∧ (s.mach.core 0 0).capoNeed x ≤ x.capo) ∧
    (y.run = .waiting ∧ y.dueAt asks.mach.pk.fret = some 0 ∧ y.capoReq = none ∧ y.capoGrantAt = none ∧
      y.capo < (asks.mach.core 0 0).capoNeed y) := by decide +kernel

/-- Two released contexts, the second of higher priority; the first urgent. -/
def two : State :=
  let m := Mach.reset.modCluster 0 fun c => { c with cyc := 5 }
  let m := m.modCtx ⟨0, 0, 0⟩ fun x => { x with run := .released, urgent := true, prio := 1 }
  { State.reset with mach := m.modCtx ⟨0, 0, 1⟩ fun x => { x with run := .released, prio := 7 } }

theorem witness_SchedulingEvents_selection :
    let s := two
    let k := s.mach.core 0 0
    let x := k.ctx 1
    k.running = none ∧ k.selFrom ≤ s.mach.cyc 0 ∧ (1, x) ∈ k.candidates (s.mach.cyc 0) ∧
    ∀ p ∈ k.candidates (s.mach.cyc 0), p.1 ≠ 1 → p.2.prio < x.prio ∨ p.2.prio = x.prio ∧ (x.relTime < p.2.relTime ∨
      x.relTime = p.2.relTime ∧ 1 < p.1) := by decide +kernel

theorem witness_SchedulingEvents_preemption :
    let m := two.mach.modCtx ⟨0, 0, 2⟩ fun x => { x with run := .running, steppedBody := true }
    let s : State := { two with mach := m.modCore 0 0 fun k => { k with running := some 2, issued := true } }
    let k := s.mach.core 0 0
    let x := k.ctx 2
    k.running = some 2 ∧ k.issued = true ∧ x.steppedBody = true ∧ x.gang = none ∧ k.preempter x.prio (s.mach.cyc 0) = true
    := by decide +kernel

theorem witness_SchedulingEvents_budget :
    let m := (withCtx fun x => { x with count := 1 }).mach
    let s : State := ⟨m, { Issue.idle with before := some m }⟩
    s.iss.before.isSome = true ∧ s.ref = ⟨0, 0, 0⟩ ∧ s.preCtx.budget < s.preCtx.count := by decide +kernel

theorem witness_SchedulingEvents_gang :
    let g : Gang := ⟨[(0, 0), (7, 0)], 0, 0, 0, false, 0, [], [], [], some 1⟩
    let m := (Mach.reset.modCtx ⟨0, 0, 0⟩ fun x => { x with run := .released }).modCtx ⟨0, 7, 0⟩ fun x =>
      { x with run := .released }
    let s : State := { State.reset with mach := m.modCluster 0 fun c => { c with gangs := [(63, g)] } }
    (s.mach.cluster 0).gangs.find (63 : BitVec 6).toNat = some g ∧ s.mach.gangReady 0 g = true ∧
    (g.members.map Prod.fst).Nodup := by decide +kernel

/-- A tag-checked load of two bytes across a line boundary, expecting a tag of 5. -/
def load5 : Load := ⟨0, .lm, 0, 0, [(0, 255), (1, 256)], .raw, some 5, false, [], false, [], 0, 0, 0⟩

theorem witness_CoreSampleEvents :
    let s (tags : FMap (BitVec 16)) := (withCtx fun x => { x with loads := [load5] }).modCore fun k =>
      { k with lmTags := tags }
    let good := s [(0, 5), (1, 5)]
    let bad := s [(0, 5)]
    let b : BankWrite := ⟨0, 0, 0, 0, [(0x1FFFFFF, 1)], none, none⟩
    let bank := State.reset.modMach fun m => m.modCluster 0 fun c => { c with bank := [b] }
    let area := (withCtx fun x => { x with evtArea := some (256, 16), evtK := 15 }).modCore fun k => { k with evq := [⟨7, 0⟩, ⟨8, 1⟩] }
    let none1 := State.reset.modCore fun k => { k with evq := [⟨7, 0⟩] }
    let a : Arrival := ⟨0, 7, 0, true, 9, 0, 0⟩
    let arrive := State.reset.modMach fun m => m.modCluster 0 fun c => { c with arrivals := [a, { a with due := 1 }] }
    ((good.mach.ctx ⟨0, 0, 0⟩).loads = [load5] ∧ load5.tag = some 5 ∧ load5.tagDone = false ∧
      load5.memAt ≤ good.mach.cyc 0 ∧ ∀ n ∈ load5.lines, (good.mach.core 0 0).tag n = 5) ∧
    (load5.lines.find? fun n => (bad.mach.core 0 0).tag n != 5) = some 1 ∧
    ((bank.mach.cluster 0).bank = [b] ∧ b.due ≤ (bank.mach.cluster 0).cyc ∧ b.atomic = none ∧
      (bank.mach.cluster 0).scratch.wf (some 0) = true ∧ (b.bytes.map Prod.fst).Nodup) ∧
    ((area.mach.core 0 0).evq = [⟨7, 0⟩, ⟨8, 1⟩] ∧ (area.mach.core 0 0).issuedC = false ∧ (area.mach.core 0 0).drained = 0 ∧
      ((area.mach.core 0 0).ctx ((7 : BitVec 128).extractLsb' 32 3)).evtArea = some (256, 16) ∧
      ((area.mach.core 0 0).ctx ((7 : BitVec 128).extractLsb' 32 3)).bindId = 0 ∧
      (area.mach.core 0 0).lm.wf (some 0) = true) ∧
    ((none1.mach.core 0 0).evq = [⟨7, 0⟩] ∧ (none1.mach.core 0 0).issuedC = false ∧ (none1.mach.core 0 0).drained = 0 ∧
      ((none1.mach.core 0 0).ctx 0).evtArea = none) ∧
    (arrive.mach.cluster 0).arrivals.filter (fun x => x.dst == 0 && decide (x.due ≤ (arrive.mach.cluster 0).cyc)) =
      [a] := by decide +kernel

/-- Row 0 of an i8 mma in cycle 2 of its plane. -/
def mma0 (rows : FMap (Option (List Byte × List Byte))) : Mma :=
  ⟨⟨0, 0, 0, 0⟩, 31, 127, 1, .i8, 0, 0, 0, 1, Plane.reset false, rows⟩

theorem witness_MatrixUnitEvents :
    let at2 (n : Nat) (f : Core → Core) := (State.reset.modMach fun m => m.modCluster 0 fun c => { c with cyc := n }).modCore f
    let x := mma0 []
    let y := mma0 [(0, some ([1], []))]
    let sample := at2 2 fun k => { k with mmas := [x] }
    let commit := at2 24 fun k => { k with mmas := [y] }
    let l : PlaneLoad := ⟨⟨0, 0, 0, 0⟩, 0, 0, 64, 64, 0, 0, 16384⟩
    let w (op : AccWriteOp) : AccWrite := ⟨⟨0, 0, 0, 0⟩, 2, 31, op⟩
    let a : AccRead := ⟨⟨0, 0, 0, 0⟩, 2, 31, 127, .header, 0⟩
    ((sample.mach.core 0 0).mmas = [x] ∧ 0 < x.g ∧ 0 < x.m ∧ sample.mach.cyc 0 = x.org.issued + 2 + x.g * 0 ∧
      (sample.mach.core 0 0).badLines = []) ∧
    ((commit.mach.core 0 0).mmas = [y] ∧ commit.mach.cyc 0 = y.org.issued + 24 + y.g * 0 ∧
      (commit.mach.core 0 0).badLines = [] ∧ y.rows.find 0 = some (some ([1], []))) ∧
    (∀ j, j < 128 → mantMin ≤ ((AccRow.reset.m.toList).getD j 0).toInt + (0 : Int) ∧
      ((AccRow.reset.m.toList).getD j 0).toInt + (0 : Int) ≤ mantMax) ∧
    ((at2 65 fun k => { k with load := some l }).mach.core 0 0).load = some l ∧
    ((at2 66 fun k => { k with load := some l }).mach.core 0 0).load = some l ∧ l.org.issued + 2 + l.p ≤ 66 ∧
    (∀ op ∈ [AccWriteOp.clr 127 1 0, .nrm 127 9, .awr 127 .f32 true 0],
      ((at2 2 fun k => { k with accW := [w op] }).mach.core 0 0).accW = [w op] ∧ (w op).due ≤ 2) ∧
    (((at2 2 fun k => { k with accR := [a] }).mach.core 0 0).accR = [a] ∧ a.due ≤ 2) ∧ a.op = .header := by
  decide +kernel

theorem witness_ErrorAndInterruptEvents :
    let ask := State.reset.modMach fun m => m.modCluster 0 fun c => { c with freezeReq := true }
    let irq (n : Nat) (g : Option Nat) := State.reset.modMach fun m => (m.modCluster 31 fun c => { c with cyc := 1 }).modCluster 0
      fun c => { c with irqs := [⟨31, n, 1023, none, g⟩] }
    let claim := State.reset.modMach fun m => m.modCluster 0 fun c =>
      { c with ifpend := 1#1024 <<< 1023, ifen := BitVec.allOnes 1024 }
    let one := State.reset.modMach fun m => m.modCluster 0 fun c => { c with tqCount := 1 }
    (ask.mach.cluster 0).freezeReq = true ∧ (State.reset.mach.cluster 0).freezeReq = false ∧
    ((irq 0 none).mach.cluster 0).irqs = [⟨31, 0, 1023, none, none⟩] ∧ 0 < (irq 0 none).mach.cyc (BitVec.ofNat 5 31) ∧
    ((irq 1 none).mach.cluster 0).irqs = [⟨31, 1, 1023, none, none⟩] ∧ ¬(1 < (irq 1 none).mach.cyc (BitVec.ofNat 5 31)) ∧
    ((irq 9 (some 0)).mach.cluster 0).irqs = [⟨31, 9, 1023, none, some 0⟩] ∧ 0 ≤ (irq 9 (some 0)).mach.pk.fret ∧
    ((claim.mach.cluster 0).ifpend &&& (claim.mach.cluster 0).ifen).getLsbD 1023 = true ∧
    (∀ j, j < 1023 → ((claim.mach.cluster 0).ifpend &&& (claim.mach.cluster 0).ifen).getLsbD j = false) ∧
    (State.reset.mach.cluster 0).ifpend &&& (State.reset.mach.cluster 0).ifen = 0 ∧
    (State.reset.mach.cluster 0).tqCount = 0 ∧ (one.mach.cluster 0).tqCount ≠ 0 ∧
    (State.reset.mach.bridge 0 7).waiting = [] := by decide +kernel

/-- The digest that FIPS 180-4's published example gives for "abc". -/
theorem test_sha384_abc : sha384 [0x61, 0x62, 0x63] =
    0xCB00753F45A35E8BB5A03D699AC65007272C32AB0EDED1631A8B605A43FF5BED8086072BA1E7CC2358BAECA134C825A7 := by decide +kernel

/-! ## Concrete states for the statements about the package -/

/-- The reset machine with something outside the clusters changed. -/
def withPk (f : Package → Package) : State := State.reset.modMach fun m => m.modPk f

/-- The reset machine with a domain changed. -/
def withDom (d : Dom) (f : Domain → Domain) : State := State.reset.modMach fun m => m.modDom d f

/-- Tier L of quadrant 0. -/
abbrev low0 : Dom := .tier false 0

theorem witness_DomainEvents_capo :
    let r : CapoReq := ⟨0, 0, ⟨0, 0, 0⟩, 15⟩
    let ask (b : BitVec 9) := withDom low0 fun x => { x with capo := [r], budget := b, lb := 0 }
    let room (d : Domain) : Int := (d.budget.toNat : Int) - 32 * d.lb.toNat
    let want (d : Domain) : Int :=
      ((d.granted - ((d.returned.filter fun p => decide (p.1 < 0)).map Prod.snd).sum : Nat) : Int) - 0 + 15
    (State.reset.mach.dom low0).capo = [] ∧
    (((ask 14).mach.dom low0).capo = [r] ∧ room ((ask 14).mach.dom low0) < want ((ask 14).mach.dom low0)) ∧
    (((ask 15).mach.dom low0).capo = [r] ∧ want ((ask 15).mach.dom low0) ≤ room ((ask 15).mach.dom low0)) := by
  decide +kernel

theorem witness_DomainEvents_halts :
    let change := withDom low0 fun x => { x with target := some (60, 15), gated := false }
    let stands := withDom low0 fun x => { x with target := some (60, 15), halted := true, haltEnd := some 0 }
    let x := State.reset.mach.dom low0
    ((change.mach.dom low0).target.isSome = true ∧ (change.mach.dom low0).halted = false ∧
      (change.mach.dom low0).transTo = none) ∧
    (x.throttled = false ∧ x.transTo = none ∧ x.halted = false ∧ (36, 8) = (x.fcur, x.vcur)) ∧
    ((withDom low0 fun x => { x with throttled := true }).mach.dom low0).throttled = true ∧
    ((stands.mach.dom low0).halted = true ∧ (stands.mach.dom low0).haltEnd = some 0 ∧
      (stands.mach.dom low0).target = some (60, 15) ∧ (stands.mach.dom low0).transTo = none ∧
      (stands.mach.dom low0).held = none) := by decide +kernel

theorem witness_DomainEvents_gating :
    let hot := withDom low0 fun x => { x with tripped := true, temp := 102 }
    let base := withDom (.base 0) fun x => { x with tripped := true, temp := 102 }
    let gate := withDom low0 fun x => { x with gated := false, gatePend := true }
    let x := State.reset.mach.dom low0
    (domIsBase low0 = false ∧ (gate.mach.dom low0).gated = false ∧ (gate.mach.dom low0).waking = false ∧
      (gate.mach.dom low0).tripped = false) ∧
    (x.gated = true ∧ x.tripped = false) ∧
    ((hot.mach.dom low0).tripped = true ∧ (hot.mach.dom low0).temp.toNat + 3 ≤ (hot.mach.dom low0).thr.toNat) ∧
    (domIsBase (.base 0) = true ∧ (base.mach.dom (.base 0)).tripped = true ∧
      (base.mach.dom (.base 0)).temp.toNat + 3 ≤ (base.mach.dom (.base 0)).thr.toNat) ∧
    ((gate.mach.dom low0).gatePend = true ∧ (∀ r ∈ tierCtxs low0, (gate.mach.ctx r).bound = false) ∧
      ∀ cl ∈ clustersOf low0, ∀ co ∈ coreIds, gate.mach.bridgeQuiet cl co = true) := by decide +kernel

theorem witness_DomainEvents_sensor :
    let woken := withDom low0 fun x => { x with waking := true, wakeEnd := some 0 }
    let x := State.reset.mach.dom low0
    ((woken.mach.dom low0).wakeEnd = some 0 ∧ 0 ≤ woken.mach.pk.fret) ∧
    115 ≤ (115 : BitVec 8).toNat ∧ (114 : BitVec 8).toNat < 115 ∧ x.lastTrans = none ∧
    x.thr.toNat ≤ (105 : BitVec 8).toNat ∧ (104 : BitVec 8).toNat < x.thr.toNat := by decide +kernel

/-- A page of 1 MiB at 0, mapped to the start of vault memory for AST 0 of partition 0, and pinned or not. -/
def page0 (pin : Bool) : TlbEntry := ⟨0, 0, 0, 20, 0, 0, false, false, false, pin, true, true, true⟩

theorem witness_TranslationEvents :
    let s (pin : Bool) := withPk fun p => { p with tlbs := [(0, [page0 pin])] }
    let v : Word := 12
    let hit (e : TlbEntry) : Bool := e.ast == v.extractLsb' 48 16 && decide (e.vbase < 4096) && decide (0 < e.vbase + 2 ^ e.log2)
    let f : FaultHeld := ⟨0, 0, 511, 0, .copy 0 3, 4096⟩
    let held := withPk fun p => { p.modChan 0 3 fun c => { c with stall := some (.waitReply 1 4096) } with faults := [f] }
    let key := withPk fun p => { p with keys := [(63, ⟨some 0, true, true, 0, 0⟩)], vaultKey := [(0, (63, 0))] }
    (∀ e ∈ (s false).mach.pk.allTlbs, hit e = true → e.pin = false) ∧
    ((∃ e ∈ (s true).mach.pk.allTlbs, hit e = true ∧ e.pin = true) ∧ v.getLsbD 7 = false) ∧
    State.reset.mach.pk.faultNamed 0 = none ∧
    held.mach.pk.faultNamed 511 = some f ∧ held.mach.pk.stallOf f.stream = some (.waitReply 1 4096) ∧
    ((key.mach.pk.keySlot 63).revoking = true ∧ (key.mach.pk.keySlot 63).ready ≤ key.mach.pk.fret ∧
      key.mach.pk.byteKey 15 = some (63, (key.mach.pk.keySlot 63).gen) ∧ key.mach.pk.aheads = []) := by decide +kernel

theorem witness_RootEvents :
    let locked := withPk fun p => { p with parts := [(7, { whole with tdisp := true })] }
    let other := withPk fun p => { p with parts := [(6, { whole with defn := { whole.defn with eps := [9] } })] }
    let free := withPk fun p => { p with parts := [(6, { whole with retired := true }), (7, whole)],
                                         keys := [(63, ⟨some 7, false, false, 0, 0⟩)], images := [] }
    let t : TextEngine := { TextEngine.reset with slots := [(0, { TextSlot.reset with state := 2, ep := 5 })] }
    let bound := withPk fun p => { p with text := [(0, t)] }
    let failed := withPk fun p => { p with boot := some false }
    let wired := withPk fun p => { p with parts := [(6, { whole with defn := { whole.defn with ports := 128 } })] }
    let used := withPk fun p => { p with text := [(0, t)], peers := [⟨5, 0, 1, 1, false⟩] }
    ((locked.mach.pk.parts.find (7 : BitVec 3).toNat).any Partition.tdisp = true) ∧
    (∃ q ∈ other.mach.pk.parts, q.1 ≠ 7 ∧ q.2.retired = false ∧ (9 : BitVec 16) ∈ q.2.defn.eps) ∧
    ((free.mach.pk.parts.find 7).any Partition.tdisp = false ∧ ∀ q ∈ free.mach.pk.parts, q.1 ≠ 7 → q.2.retired = true) ∧
    (free.mach.pk.parts.find 7 = some whole ∧ (∀ i ∈ free.mach.pk.images, i.part = 7 → i.retired = true) ∧
      (free.mach.pk.keySlot 63).part = some 7 ∧ free.mach.pk.clusterIn 7 31 = true) ∧
    (bound.mach.pk.peerEp (.tok 0) = some 5 ∧ bound.mach.pk.peers = []) ∧
    State.reset.mach.pk.peerEp (.tok 0) = none ∧
    (used.mach.pk.peerEp (.tok 0) = some 5 ∧ ∃ x ∈ used.mach.pk.peers, x.ep = 5 ∧ x.index = used.mach.pk.peerSel (.tok 0)) ∧
    failed.mach.pk.boot = some false ∧ free.mach.pk.boot ≠ some false ∧ sharesFit [whole.defn] = true ∧
    (∃ q ∈ wired.mach.pk.parts, q.1 ≠ 7 ∧ q.2.retired = false ∧ (128 : BitVec 8) &&& q.2.defn.ports ≠ 0) ∧
    sharesFit ({ whole.defn with tlb := 16321 } :: [whole.defn]) = false ∧
    physPlace (2 ^ 40 + 0x300000) = .block (.transl 0) 0 ∧ (∀ n ∈ [0, 2 ^ 40 + 0x20C000, 2 ^ 41, 2 ^ 42 - 1],
      (match physPlace n with
        | .block _ _ => false
        | .vault _ | .host _ | .nothing => true) = true) := by decide +kernel

/-- The origin of commands of context 0 of core 0 of cluster 0, of image 1 in partition 0. -/
def origin0 : CmdOrigin := ⟨⟨0, 0, 0⟩, 0, 0, some 1, 0, 0⟩

/-- A layout of one element of 8 bytes. -/
def layout0 : Layout := ⟨0, 0, 8, 0, 0, 0, false, []⟩

/-- A copy that is first in its channel. -/
def copy0 (launched : Bool) (t : Word) (pos : Nat) : CopyCmd :=
  ⟨origin0, 1, layout0, layout0, t, 0, 0, 0, [], 5, launched, pos, 0, [], [], [], []⟩

/-- A far atomic that has arrived. -/
def far0 (o : Ord) : FarAtomic := ⟨7, origin0, .add, o, 8, 0xFFFF8, 1, 0, none, [], 0, 0, true, none, none⟩

/-- A pool of two slots of 4,096 bytes. -/
def pool0 : Pool :=
  { handle := 3, img := 1, part := 0, n := 2, k := 1, size := 4096, va := 0, writer := ⟨0, 0, 0⟩, opened := true, latest := 1, gen := 4,
    pubtime := 0, held := 0x7F, pend := false, pch := 0, pid := 0, pres := none, porg := none, peff := 0, pseen := none,
    spoil := false, mem := [], pins := [], releases := [] }

/-- A message that has arrived. -/
def msg0 (m : Msg) : PathMsg := ⟨origin0, 0, m, none, [], true, 0, none, false⟩

/-- A resident queue with a place for two entries. -/
def queue0 : Queue := ⟨3, 1, 0, 0, 0, 2, 0, true, [], 1, [], []⟩

/-- A finish scope. -/
def scope0 : Scope := ⟨9, 1, 0, 0, none, true, 0, []⟩

theorem witness_EngineEvents_copies :
    let s (k : CopyCmd) := withPk fun p => p.modChan 0 3 fun c => { c with cmds := [k] }
    let may := copy0 false 0 0
    let late := copy0 false 1 0
    let past := copy0 true 0 1
    (((s may).mach.pk.chan 0 3).cmds = [may] ∧ may.launched = false ∧ (s may).mach.mayLaunch 0 may = true) ∧
    (((s late).mach.pk.chan 0 3).cmds = [late] ∧ late.launched = false ∧ (s late).mach.mayLaunch 0 late = false) ∧
    (((s past).mach.pk.chan 0 3).cmds = [past] ∧ past.launched = true ∧ past.dst.count ≤ past.pos ∧
      past.id = ((s past).mach.pk.chan 0 3).done + 1 ∧ ((s past).mach.pk.chan 0 3).ended = []) := by decide +kernel

theorem witness_EngineEvents_fars :
    let s (f : FarAtomic) := withPk fun p => { p with fars := [f], tlbs := [(0, [page0 false])], parts := [(0, whole)] }
    let w := far0 .unp
    let r := far0 .spec
    let m := ((s w).mach.translate w.agent .write w.addr.toNat w.n).2
    ((s w).mach.pk.fars.find? (fun f => f.id == 7) = some w ∧ w.stall = none ∧ w.armed = true ∧
      w.ready ≤ (s w).mach.pk.fret ∧ (s w).mach.farWaits w = false ∧ w.ord ≠ .spec ∧
      (s w).mach.translate w.agent .write w.addr.toNat w.n = (.ok 0xFFFF8 (page0 false), m) ∧
      (m.translate w.agent .read w.addr.toNat w.n).1 = .ok 0xFFFF8 (page0 false)) ∧
    ((s r).mach.pk.fars.find? (fun f => f.id == 7) = some r ∧ r.ord = .spec ∧
      ((s r).mach.translate r.agent .read r.addr.toNat r.n).1 = .ok 0xFFFF8 (page0 false)) ∧
    (w.res = none ∧ (w.n = 4 ∨ w.n = 8) ∧ 0xFFFF8 % w.n = 0 ∧ physPlace 0xFFFF8 = .vault 0 ∧
      m.pk.blockOpen 0xFFFF8 (page0 false).key = true ∧ m.pk.vaultBad = [] ∧ m.pk.vault.wf (some 0) = true) := by
  decide +kernel

theorem witness_EngineEvents_pools :
    let s (p : Pool) (op : PoolOp) (a : Word) := withPk fun k =>
      { (k.modChan 0 2 fun c => { c with owner := some ⟨0, 0, 0⟩, img := some 1 }) with
        path := [msg0 (.pool op a 0 false)], pools := [p] }
    let ready (p : Pool) (op : PoolOp) (a : Word) : Bool :=
      decide ((s p op a).mach.pk.path = [msg0 (.pool op a 0 false)]) && p.inQuad 0 && decide (p.handle = poolHandle op a) &&
        decide (p.part = origin0.part ∧ some p.img = origin0.img ∧ p.pend = false ∧ p.releases = []) &&
        decide ((s p op a).mach.poolKind origin0 op a 0 false = none)
    let held := { pool0 with held := 0 }
    let after : Word := 2 ^ 61 + 3 * 2 ^ 48 + 1
    ready pool0 .gen 3 = true ∧ ready pool0 .unpin 3 = true ∧
    (ready { pool0 with latest := 0x7F } .pin 3 = true) ∧ (ready pool0 .pin 3 = true ∧ pool0.latest ≠ 0x7F) ∧
    (ready held .acqw 3 = true ∧ held.held ≠ 0x7F) ∧
    (ready pool0 .acqw 3 = true ∧ pool0.held = 0x7F ∧ pool0.pincnt 0 = 0 ∧ 0 ≠ pool0.latest.toNat) ∧
    ready held .pub 3 = true ∧
    (ready held .pubAfter after = true ∧
      2 ^ 47 ≤ (((s held .pubAfter after).mach.pk.chan 0 (after.extractLsb' 60 4)).done - after.setWidth 48).toNat) := by
  decide +kernel

theorem witness_EngineEvents_queues :
    let s (m : Msg) (x : Queue) := withPk fun p => { p with path := [msg0 m], queues := [x] }
    let e : QEntry := ⟨[], 0, none⟩
    let full := { queue0 with entries := [e] }
    let push : Msg := .qpush 3 (List.replicate 64 7)
    let sc := withPk fun p => { p with path := [msg0 (.scope true 9)], scopes := [scope0] }
    let w : QWait := ⟨⟨0, 0, 0⟩, 0⟩
    let y := { queue0 with waits := [w], entries := [e] }
    let t := withPk fun p => { p with queues := [y] }
    ((s push full).mach.pk.path = [msg0 push] ∧ (s push full).mach.pk.queues = [full] ∧
      (3 : Word).setWidth 12 = full.handle ∧ (3 : Word).getLsbD 20 = false ∧ full.entries.length < full.occ ∧
      full.quad = 0 ∧ some full.img = origin0.img ∧ full.resident = true ∧ full.waits = [] ∧ full.delivers = []) ∧
    ((s (.qpop 3 0) full).mach.pk.path = [msg0 (.qpop 3 0)] ∧ full.entries = e :: [] ∧ e.scope = none) ∧
    (s (.qcount 3 0) queue0).mach.pk.path = [msg0 (.qcount 3 0)] ∧
    (sc.mach.pk.path = [msg0 (.scope true 9)] ∧ sc.mach.pk.queues = [] ∧ sc.mach.pk.scopes = [scope0] ∧ scope0.k = 9 ∧
      scope0.part = origin0.part ∧ some scope0.img = origin0.img ∧ scope0.waits = []) ∧
    (t.mach.pk.path = [] ∧ t.mach.pk.scopes = [] ∧ t.mach.pk.queues = [y] ∧ y.waits = [w] ∧ y.entries = [e] ∧
      y.delivers = []) := by decide +kernel

theorem witness_EngineEvents_messages :
    let past := withCtx fun x => { x with taskEnds := [⟨9, 0⟩] }
    let q := withCtx fun x => { x with waitMsg := true, wait := .q 3 none }
    let sc := withCtx fun x => { x with waitMsg := true, wait := .sc 9 none }
    ((past.mach.core 0 0).drain = [] ∧ (past.mach.ctx ⟨0, 0, 0⟩).taskEnds = [⟨9, 0⟩]) ∧
    ((q.mach.core 0 0).drainedOut 0 = true ∧ (q.mach.ctx ⟨0, 0, 0⟩).waitMsg = true ∧
      (q.mach.ctx ⟨0, 0, 0⟩).taskEnds = [] ∧ (q.mach.ctx ⟨0, 0, 0⟩).wait = .q 3 none) ∧
    ((sc.mach.core 0 0).drainedOut 0 = true ∧ (sc.mach.ctx ⟨0, 0, 0⟩).waitMsg = true ∧
      (sc.mach.ctx ⟨0, 0, 0⟩).taskEnds = [] ∧ (sc.mach.ctx ⟨0, 0, 0⟩).wait = .sc 9 none) := by decide +kernel

/-- A context that an image declares. -/
def act0 (f : FirstRel) : ActDecl :=
  { icore := 0, cx := 7, prio := 7, urgent := false, entry := 0, first := f, retry := some 3, policy := some 0, events := none,
    capo := some 0, budget := 100, lm := [⟨0, 15, true⟩], sp := [⟨0, 15, true⟩], tiles := [(31, 1)], gate := some (64, 32, 16) }

/-- An image of one context with code and data on one core, a queue and a scope. -/
def image1 (f : FirstRel) : Image :=
  { image0 with
    decl := { image0.decl with
      acts := [act0 f], queues := [⟨3, 2, 0⟩], scopes := [⟨9, none⟩], data := [(0, 0, [1, 2])] } }

/-- A publication of partition 0 under check: its image at 0, its placement table at 4096. -/
def publication0 : Publication := ⟨none, 0, 0, 4096, 0⟩

/-- Nothing is mapped. -/
def check0 : State := withPk fun p =>
  { p.modAdm 0 fun a => { a with state := 1, check := some publication0 } with parts := [(0, whole)] }

/-- A header is mapped whose image is its first 24 bytes. -/
def check1 : State := check0.modMach fun m => m.modPk fun p =>
  { p with tlbs := [(464, [page0 false])],
           vault := Memory.putAll (some 0) [] (cellsAt 0 [0x55, 0x4D, 0x53, 0x49, 0, 0, 0, 0, 24]) }

theorem witness_AdmissionEvents_publication :
    let busy := withPk fun p => p.modAdm 7 fun a => { a with state := 1 }
    (busy.mach.pk.admBlock 7).state = 1 ∧ (State.reset.mach.pk.admBlock 7).state ≠ 1 ∧
    ((check0.mach.pk.admBlock 0).check = some publication0 ∧ publication0.ready ≤ check0.mach.pk.fret ∧
      (check0.mach.readImage 0 0 0).1 = none) ∧
    (check1.mach.pk.admBlock 0).check = some publication0 := by decide +kernel

/-- Reads of a mapped header leave the machine as it is, so the reads of the image and of the table start from it. -/
theorem witness_AdmissionEvents_reads :
    (check1.mach.readImage 0 0 0).2 = check1.mach ∧ (check1.mach.readImage 0 0 0).1.any headerOk = true ∧
    (check1.mach.readImage 0 0 0).1.map List.length = some 120 := by
  decide +kernel

theorem witness_AdmissionEvents_table : (check1.mach.loaderRead 0 0 4096 512).1.isSome = true := by decide +kernel

theorem witness_AdmissionEvents_commands :
    let i := image1 .now
    let s (k : SeqKind) := (withPk fun p =>
      { p with seq := [⟨k, 0, 1, false, 0, false, none⟩], images := [i], parts := [(0, whole)] }).modMach fun m =>
        m.modDom (domOf 0) fun d => { d with gated := false }
    (∀ k ∈ [SeqKind.clear, .load, .openIt, .bind], (s k).mach.pk.seq = [⟨k, 0, 1, false, 0, false, none⟩] ∧
      (s k).mach.pk.image 0 1 = some i) ∧
    ((s .clear).mach.wakeFor i).mayClear i (((s .clear).mach.wakeFor i).matrixWork i) = true ∧
    (∀ a ∈ i.decl.acts, (∀ w ∈ a.lm, w.w = true) ∧ a.hasTile 31 = true) ∧
    ((∀ p ∈ i.coresAt, (s .load).mach.sramHeld p.1 = false) ∧ i.decl.consts = [] ∧
      i.decl.code = [(0, 0, [0x80000000, 0x80000000])] ∧ i.decl.data = [(0, 0, [1, 2])]) ∧
    (i.decl.pools = [] ∧ i.decl.queues[0]? = some ⟨3, 2, 0⟩) ∧
    ((∀ d ∈ i.doms, (((s .bind).mach.wakeFor i).dom d).away = false) ∧ i.refs.Nodup ∧
      i.decl.acts[0]? = some (act0 .now)) := by decide +kernel

theorem witness_AdmissionEvents_admcmd :
    let s (f : FirstRel) := withPk fun p => { p with images := [image1 f] }
    (∀ f ∈ [FirstRel.now, .at 100, .q 3],
      (s f).mach.pk.image 0 1 = some (image1 f) ∧ (image1 f).retired = false ∧ (s f).mach.pk.seqPending (image1 f) = false ∧
      (image1 f).stopped = false ∧ (image1 f).started = false ∧ (s f).mach.pk.queueTraffic 0 1 = false ∧
      (image1 f).refs.Nodup) ∧
    ({ image1 .now with started := true } : Image).started = true := by decide +kernel

/-- A bound slot of a text engine of partition 0. -/
def engine0 (cmds : List TextCmd) : TextEngine :=
  { TextEngine.reset with epart := 0, assigned := true, cmds := cmds, slots := [(15, { TextSlot.reset with valid := true, state := 2, ep := 5 })] }

/-- A txt command of slot 15. -/
def text0 (tok : Bool) (p0 p1 : Word) : TextCmd := ⟨origin0, tok, none, p0, p1, 15, true, [], 5, 0, none, 0, []⟩

theorem witness_TextEvents :
    let check := withPk fun p => p.modText 0 fun t => t.modSlot 15 fun y => { y with state := 1 }
    let k : Packet := ⟨5, 1, 2, 0, 0, 0, []⟩
    let taken := withPk fun p => { p with text := [(0, engine0 [])] }
    let full := withPk fun p => { p with text := [(0, engine0 [])],
                                         peers := [⟨5, 4095, 1, 2, false⟩] }
    ((check.mach.pk.textSlot 0 15).state = 1 ∧ (check.mach.pk.textSlot 0 15).ready ≤ check.mach.pk.fret) ∧
    (State.reset.mach.pk.tokeniserOf k.ep = none) ∧ taken.mach.pk.tokeniserOf k.ep = some (0, 15) ∧
    (taken.mach.pk.senderIndex k.ep k.fa k.rep).1 = some 0 ∧ (full.mach.pk.senderIndex k.ep k.fa k.rep).1 = some 4095 :=
  by decide +kernel

/-- A sender without an index finds none where every index of the endpoint is assigned. -/
theorem no_free_index {p : Package} {ep rep : BitVec 16} {fa : BitVec 128} (h1 : ∀ x ∈ p.peers, x.fa ≠ fa)
    (h2 : ∀ i : BitVec 12, ∃ x ∈ p.peers, x.ep = ep ∧ x.index = i) : (p.senderIndex ep fa rep).1 = none := by
  have a : p.peers.find? (fun x => x.ep == ep && x.fa == fa && x.rep == rep) = none :=
    List.find?_eq_none.mpr fun x hx => by simp [h1 x hx]
  have b : ((List.range 4096).map (BitVec.ofNat 12)).find? (fun i => (p.peerAt ep i).isNone) = none :=
    List.find?_eq_none.mpr fun i _ => by
      obtain ⟨x, hx, he, hi⟩ := h2 i
      have : (p.peerAt ep i).isSome = true := List.find?_isSome.mpr ⟨x, hx, by simp [he, hi]⟩
      cases h : p.peerAt ep i <;> simp_all
  unfold Package.senderIndex
  rw [a]
  dsimp only
  rw [b]

/-- Every index of endpoint 5 assigned. -/
def fullPeers (n : Nat) : List Peer := (List.range n).map fun i => ⟨5, BitVec.ofNat 12 i, 0, 0, false⟩

theorem mem_fullPeers {n : Nat} {x : Peer} :
    x ∈ fullPeers n ↔ ∃ i, i < n ∧ (⟨5, BitVec.ofNat 12 i, 0, 0, false⟩ : Peer) = x := by
  simp [fullPeers]

theorem witness_TextEvents_refused (p : Package) (n : Nat) (h : 4096 ≤ n) :
    (({ p with peers := fullPeers n } : Package).senderIndex 5 1 2).1 = none := by
  refine no_free_index (fun x hx => ?_) fun i => ?_
  · obtain ⟨i, -, rfl⟩ := mem_fullPeers.mp hx
    simp only [ne_eq]; decide
  · exact ⟨⟨5, i, 0, 0, false⟩, mem_fullPeers.mpr ⟨i.toNat, by omega, by rw [BitVec.ofNat_toNat, BitVec.setWidth_eq]⟩,
      rfl, rfl⟩

theorem witness_TextEvents_commands :
    let s (e : Nat) (k : TextCmd) := withPk fun p =>
      { p with text := [(e, engine0 [k])], parts := [(0, whole)], peers := [⟨5, 4095, 1, 2, false⟩],
               tlbs := [(8 * (40 + e), [page0 false])] }
    let tok := text0 true 0 (2 ^ 48)
    let t := s 0 tok
    let v := t.mach.readVocab 0 15
    let b := v.2.readVirt (tok.agent 0) 0 0 0
    let out := text0 false 0 (4095 * 2 ^ 32)
    let u := s 15 out
    let w := u.mach.readVocab 15 15
    (t.mach.textNext 0 = some tok ∧ (t.mach.pk.textSlot 0 15).stall = none ∧ v.1 = .done ⟨[]⟩ ∧ b.1 = .done [] ∧
      ((⟨[]⟩ : Vocab).ids []).length ≤ paramTop tok.p1 ∧ (b.2.writeVirt (tok.agent 0) 0 []).1 = .done ()) ∧
    (u.mach.textNext 15 = some out ∧ (u.mach.pk.textSlot 15 15).stall = none ∧
      (out.p1.extractLsb' 32 16 : BitVec 16).toNat < 4096 ∧
      u.mach.pk.peerAt ((u.mach.pk.textEngine 15).slot 15).ep 4095 = some ⟨5, 4095, 1, 2, false⟩ ∧
      (u.mach.pk.textEngine 15).states.length < 1024 ∧ w.1 = .done ⟨[]⟩ ∧
      (w.2.readVirt (out.agent 15) 0 0 (4 * paramTop out.p0)).1 = .done []) ∧
    (out.final = true ∧ (u.mach.pk.textEngine 15).state 15 0 = none) := by decide +kernel

/-- A drive of two blocks of 512 bytes with a volatile cache. -/
def drive0 : Drive := ⟨⟨0, 0, false, true, 2⟩, [], [], [], 0⟩

/-- A storage or network command of channel 0 of partition 0. -/
def port0 (o : Option SioOp) (n : Option NetOp) (p : List Word) : PortCmd :=
  ⟨origin0, 1, o, n, p, false, [], 5, 0, if o = some .flush then some 0 else none, false, []⟩

theorem witness_PortEvents :
    let check := withPk fun p => p.modPort .net 31 fun c => { c with state := 1 }
    let s (x : PortCmd) := State.reset.modMach fun m => { m with
      delays := [0], pk := { m.pk with sio := [(0, { PortChan.reset with valid := true, state := 2, cmds := [x] })],
                                       drives := [drive0], tlbs := [(448, [page0 false])], parts := [(0, whole)] } }
    let wr := port0 (some .wr) none [0, 1]
    let rd := port0 (some .rd) none [0, 1]
    let fl := port0 (some .flush) none [0, 0]
    ((check.mach.pk.port .net 31).state = 1 ∧ (check.mach.pk.port .net 31).checkAt ≤ check.mach.pk.fret) ∧
    (∀ x ∈ [wr, rd, fl], (s x).mach.portNext ((s x).mach.pk.sioChan 0) = some x ∧
      ((s x).mach.pk.sioChan 0).stall = none ∧ (s x).mach.pk.driveOf ((s x).mach.pk.sioChan 0) = some drive0 ∧
      (s x).mach.choice.1 % 2 = 0) ∧
    paramVa 1 + (paramTop 1 + 1) ≤ drive0.ns.blocks ∧
    ((s wr).mach.choice.2.readVirt (wr.agent .sio 0) 0 0 512).1 = .done (List.replicate 512 0) ∧
    fl.mark = some 0 ∧
    ((withPk fun p => { p with drives := [drive0] }).mach.pk.drives[0]? = some drive0) := by decide +kernel

theorem witness_PortEvents_drive : drive0.ok ∧ drive0.ns.cache = true ∧ ({ drive0.ns with cache := false } : NsDef).cache = false :=
  ⟨⟨by decide, by decide⟩, by decide, by decide⟩

/-- Reading a block that nothing has written draws free bytes; they are written to the buffer whatever they are. -/
theorem witness_PortEvents_read :
    let m := (withPk fun p => { p with tlbs := [(448, [page0 false])], parts := [(0, whole)] }).mach
    let a : Agent := (port0 (some .rd) none [0, 1]).agent .sio 0
    ∀ b : Byte, (m.writeVirt a 0 [b]).1 = .done () := by
  intro m a b
  rfl

theorem witness_PortEvents_network :
    let x (o : NetOp) := port0 none (some o) [0, 4095 * 2 ^ 32, 0, 0]
    let c (o : NetOp) := { PortChan.reset with valid := true, state := 2, r08 := 5, cmds := [x o] }
    let s (o : NetOp) := State.reset.modMach fun m => { m with
      delays := [0], pk := { m.pk with net := [(0, c o)], peers := [⟨5, 4095, 1, 2, false⟩],
                                       tlbs := [(456, [page0 false])], parts := [(0, whole)] } }
    let m := (s .send).mach.pk
    let r : Package := { m with keys := [(0, ⟨none, false, true, 0, 0⟩)] }
    (∀ o ∈ [NetOp.send, .write, .read], (s o).mach.portNext ((s o).mach.pk.netChan 0) = some (x o) ∧
      ((s o).mach.pk.netChan 0).stall = none ∧ (s o).mach.pk.peerAt 5 4095 = some ⟨5, 4095, 1, 2, false⟩ ∧
      (x o).mark = none ∧ (s o).mach.choice.1 % 2 = 0 ∧
      ((s o).mach.choice.2.readVirt ((x o).agent .net 0) 0 0 0).1 = .done [] ∧
      ((s o).mach.choice.2.writeVirt ((x o).agent .net 0) 0 []).1 = .done ()) ∧
    (m.netOf 5 = some 0 ∧ (m.keySlot (m.netChan 0).domain).revoked = false ∧ (m.senderIndex 5 1 2).1 ≠ none) ∧
    (r.netOf 5 = some 0 ∧ (r.keySlot (r.netChan 0).domain).revoked = true) := by decide +kernel

theorem witness_PortEvents_host :
    let s (d : Option (List Byte)) := withPk fun p =>
      { p with parts := [(0, whole)], hostQ := [(0, [⟨⟨0, false, 4088, 8⟩, d⟩])], tlbs := [(464, [page0 false])] }
    let a : Agent := ⟨.host 0, 0, 0, none, false⟩
    let d : List Byte := List.replicate 8 1
    ((s none).mach.pk.hostList 0 = [⟨⟨0, false, 4088, 8⟩, none⟩] ∧ (s none).mach.pk.hostStall.find 0 = none ∧
      (s none).mach.pk.parts.find 0 = some whole ∧ whole.retired = false ∧ (4088 : Nat) / 4096 = (4088 + 8 - 1) / 4096 ∧
      ((s none).mach.translate a .read 4088 8).1 = .ok 4088 (page0 false) ∧
      (((s none).mach.translate a .read 4088 8).2.physRead (page0 false) 4088 8).1 = some (List.replicate 8 0)) ∧
    ((s (some d)).mach.pk.hostList 0 = [⟨⟨0, false, 4088, 8⟩, some d⟩] ∧
      ((s (some d)).mach.translate a .write 4088 d.length).1 = .ok 4088 (page0 false)) := by decide +kernel

/-! ## Further clauses -/

/-- A gang member's trap, and levels that ignore: stepping in an outer level, popping past the last, and in neither. -/
theorem witness_SoftwareTrap_levels :
    let l : LoopLevel := ⟨0, 2, 0, 0⟩
    let l1 : LoopLevel := ⟨0, 1, 0, 0⟩
    let taken (s : State) : Trap :=
      { ctx := s.ref, cause := 0x0D, mask := 1, baddr := s.iss.baddr, detail := 0xFFFFF, pos := .issue s.iss.after,
        issued := s.now, img := s.preCtx.img, part := s.preCtx.part }
    let s (g : List LoopLevel) := withCtx fun x => withLoops g { x with inflight := [⟨0, 0, .s 1, 7, 0, 0, true, 0, 0, 0⟩] }
    let ignores (s : State) : Prop :=
      (contain (s.mach.ctx s.ref).gang.isSome (.issue s.iss.after) (s.mach.levels (taken s)) 0x0D).2.1 = .ignore
    Spec.Runs (withCtx fun x => { x with gang := some 63 }) h0 ∧
    ignores (s []) ∧ (∀ k ∈ [l1], k.stop = 0 ∧ k.count.toNat ≤ k.index.toNat + 1) ∧
    (ignores (s [l1, l]) ∧ ((s [l1, l]).mach.ctx ⟨0, 0, 0⟩).regs.loops = [l1] ++ l :: [] ∧ l.stop = 0 ∧
      l.index.toNat + 1 < l.count.toNat) ∧
    (ignores (s (List.replicate 6 l1)) ∧ ((s (List.replicate 6 l1)).mach.ctx ⟨0, 0, 0⟩).regs.loops =
      List.replicate 6 l1 ++ []) := by
  unfold Spec.Runs; decide +kernel

theorem witness_WholeBundleTraps :
    let store : Instr := .stB h0 5 (.sreg 6) 0
    let vstore : Instr := .vst h0 5 (.sreg 6) 0
    let cmd : Instr := .poolUnpin h0 5
    let s (a b c : Nat) := withCtx fun x => { x with gateMax := (a, b, c) }
    let most (s : State) (g : GKind) : Nat := match g with
      | .scalar => s.preCtx.gateMax.1
      | .vector => s.preCtx.gateMax.2.1
      | .command => s.preCtx.gateMax.2.2
    let enters (s : State) (is : List (Nat × Instr)) (g : GKind) : List Nat :=
      (is.filter fun p => entryKind p.2 == some g && !s.nullified p.2).map Prod.fst
    let exceeds (s : State) (is : List (Nat × Instr)) (g : GKind) : Bool :=
      enters s is g != [] && decide (most s g < (enters s is g).length)
    let is := [(0, store), (3, vstore), (7, cmd)]
    let heavy := withCtx fun x => { x with charges := [(0, 10 ^ 9)] }
    let dom := heavy.pre.dom (domOf 0)
    (s 0 0 0).preCtx.gate = [] ∧ ((s 0 0 0).pre.core 0 0).drain = [] ∧
    exceeds (s 0 0 0) is .scalar = true ∧ (exceeds (s 1 0 0) is .scalar = false ∧ exceeds (s 1 0 0) is .vector = true) ∧
    (exceeds (s 1 1 0) is .scalar = false ∧ exceeds (s 1 1 0) is .vector = false ∧ exceeds (s 1 1 0) is .command = true) ∧
    (exceeds (s 1 1 1) is .scalar = false ∧ exceeds (s 1 1 1) is .vector = false ∧ exceeds (s 1 1 1) is .command = false) ∧
    (dom.lb.toNat + heavy.preCtx.capo.toNat) * dom.wl.toNat <
      ((heavy.preCtx.charges.filter fun p => decide (heavy.now < p.1 + 512)).map Prod.snd).sum + heavy.bundleCharge [] := by
  decide +kernel

theorem witness_Rollback :
    let r : InFlight := ⟨0, 4, .s 5, 1, BitVec.allOnes 256, 0, true, 2, 0, 0⟩
    let q : InFlight := { r with due := 5, id := 1 }
    let marks : Context := { Context.reset with marking := true, run := .running, inflight := [r] }
    let h : Shadow := ⟨Regs.reset, 8, 6, [r, q], [], true, none⟩
    let m := (withCtx fun x => { x with shadow := some h, run := .running, policy := 1, retry := 1, gate :=
      [⟨0, .command, .cmd .brgPop, 0, 0, 0⟩] }).mach
    let runs := m.modCore 0 0 fun k => { k with running := some 0, bridge := { k.bridge with u := 1 } }
    let t : Trap := { ctx := ⟨0, 0, 0⟩, cause := 0x0A, mask := 1, baddr := 0, detail := 0, pos := .issue 4, issued := 0,
                      img := none, part := 0 }
    (marks.gang = none ∧ marks.marking = true ∧ marks.bound = true) ∧
    (∀ f ∈ h.inflight, 4 ≤ f.due) ∧ (h.inflight = [r, q] ∧ r.due < q.due ∧ q.due < 6 ∧ r.ready = true ∧ q.ready = true) ∧
    (m.ctx ⟨0, 0, 0⟩).shadow = some h ∧ (m.core 0 0).running ≠ some 0 ∧
    ((runs.ctx ⟨0, 0, 0⟩).shadow = some h ∧ (runs.core 0 0).running = some 0) ∧
    contain (m.ctx t.ctx).gang.isSome t.pos (m.levels t) t.cause = (.context, .retry, 0x0A) := by
  decide +kernel

/-- Formats of every kind: the fixed ones, and descriptors without a sign, without an exponent and with each rule for
NaN and infinity. -/
theorem witness_FloatRounding :
    let uns := descFmt (2#3 ++ 3#3 ++ 0#1 ++ 0#13)
    let fixed := descFmt (0#3 ++ 7#3 ++ 1#1 ++ 0#13)
    let fn := descFmt (4#3 ++ 3#3 ++ 1#1 ++ 0#7 ++ 1#2 ++ 0#4)
    let none1 := descFmt (3#3 ++ 0#3 ++ 1#1 ++ 0#7 ++ 2#2 ++ 0#4)
    (Spec.IsFormat uns ∧ uns.s = false ∧ uns.sp = .none) ∧ (Spec.IsFormat fixed ∧ fixed.e = 0) ∧
    (Spec.IsFormat fn ∧ fn.sp = .fn ∧ fn.unpack (2 ^ 7 - 1) = .nan false) ∧
    (Spec.IsFormat none1 ∧ none1.sp = .ieee ∧ none1.m = 0) ∧
    (Spec.IsFormat (ftyFmt .f32) ∧ (ftyFmt .f32).sp = .ieee ∧ (ftyFmt .f32).s = true ∧
      ∃ m e, (ftyFmt .f32).unpack 1 = .fin false m e) :=
  ⟨⟨.inr ⟨_, by decide, rfl⟩, by decide, by decide⟩, ⟨.inr ⟨_, by decide, rfl⟩, by decide⟩,
    ⟨.inr ⟨_, by decide, rfl⟩, by decide, by decide⟩, ⟨.inr ⟨_, by decide, rfl⟩, by decide, by decide⟩,
    ⟨.inl ⟨.f32, rfl⟩, by decide, by decide, _, _, rfl⟩⟩

/-- A NaN, an infinity, a value that is a whole number and one that is a power of two, of f32. -/
theorem witness_ConversionsAndUnits_values :
    let f := ftyFmt .f32
    (f.unpack 0x7F800001).isNan = true ∧ f.unpack 0xFF800000 = .inf true ∧ f.unpack 0x40000000 = .fin false 8388608 (-22) ∧
    Spec.val (.fin false 8388608 (-22)) = ((2 : ℤ) : ℚ) ∧ ((8388608 : ℕ) : ℚ) * 2 ^ (-22 : ℤ) = 2 ^ (1 : ℤ) ∧
    (f.unpack 0x3F800000 = .fin false 8388608 (-23) ∧ ((8388608 : ℕ) : ℚ) * 2 ^ (-23 : ℤ) = 2 ^ (0 : ℤ)) := by
  refine ⟨by decide, by decide, by decide, ?_, ?_, by decide, ?_⟩ <;> norm_num [Spec.val, signedMant]

/-- Two results due in one cycle: of two bundles in one register, and a write of vflags before another result. -/
theorem witness_Landings_two :
    let x := due0 (.v 31)
    let y := { due0 (.v 31) with id := 1, issued := 1 }
    let f := { due0 .vflags with id := 1 }
    let s (l : List InFlight) := withCtx fun x => { x with inflight := l }
    let due (s : State) := (s.mach.ctx ⟨0, 0, 0⟩).inflight.filter fun y => decide (y.due ≤ s.mach.cyc 0) && y.ready
    due (s [x, y]) = [x, y] ∧ x.id < y.id ∧ x.dest = y.dest ∧ x.issued ≠ y.issued ∧
    (due (s [x, f]) = [x, f] ∧ x.id < f.id ∧ f.dest = .vflags ∧ x.dest ≠ .vflags) := by decide +kernel

/-- Row commits: nothing to add, and a term that no exponent up to 32,767 takes in; renormalisation both ways. -/
theorem witness_MatrixUnitEvents_commit :
    let top : AccRow := { AccRow.reset with e := 32767 }
    let big (_ : Nat) : List Machine.Dyadic := [⟨2 ^ 62, 32767⟩]
    let mant (r : AccRow) (j : Nat) : Int := ((r.m.toList).getD j 0).toInt
    let sum (r : AccRow) (t : Nat → List Machine.Dyadic) (s j : Nat) : Int := rneShift (mant r j) s +
      ((t j).map fun t => t.truncAt (r.e.toInt + s)).sum
    (∀ j, j < 128 → -(2 ^ 62) ≤ sum AccRow.reset (fun _ => []) 0 j ∧ sum AccRow.reset (fun _ => []) 0 j ≤ 2 ^ 62 - 1) ∧
    2 ^ 62 - 1 < sum top big 0 127 ∧ top.e.toInt + (0 : Nat) = 32767 ∧
    ((0 : BitVec 16).toInt < top.e.toInt ∧ AccRow.reset.e.toInt ≤ (9 : BitVec 16).toInt) := by decide +kernel

theorem witness_MatrixUnitEvents_terms :
    let p : Plane := { Plane.reset false with sparse := true, metas := [(0, 1)] }
    let sel (k j : Nat) : Nat := (((p.metas.find ((128 * (k / 4) + j) / 256)).getD 0).extractLsb'
      (8 * ((128 * (k / 4) + j) % 256)) 8).toNat
    (p.sparse = true ∧ sel 0 0 / 4 % 4 = 0) ∧ (sel 1 0 / 4 % 4 ≠ 1 ∧ sel 1 0 % 4 = 1) ∧
    (sel 2 0 / 4 % 4 ≠ 2 ∧ sel 2 0 % 4 ≠ 2) ∧ (Plane.reset true).sparse = false ∧
    (Spec.Finite (.fin true 1 0) ∧ ¬Spec.Finite (.inf true)) ∧ ([.inf true] : List Machine.Num)[0]? = some (.inf true) := by
  refine ⟨by decide +kernel, by decide +kernel, by decide +kernel, rfl, ⟨⟨_, _, _, rfl⟩, ?_⟩, rfl⟩
  rintro ⟨_, _, _, h⟩
  cases h

theorem witness_AccumulatorSlots_windows :
    let s := mem [(5, 16384), (6, 0x7F01)]
    (accessFault s.pre s.preCtx .loadLM false [span 16384 (actRow .bf16 0)]).isSome = true ∧
    (s.pre.core 0 0).rowConflict [(24, 0, 127)] = none ∧ (s.pre.core 0 0).mmaNext ≤ s.now ∧
    (s.sreg 6).toNat % 256 ≠ 0 := by decide +kernel

theorem witness_DomainEvents_throttle :
    let s (b : Bool) (l t : Nat) := (withDom low0 fun x => { x with throttled := b, lastTrans := some l }).modMach fun m =>
      m.modPk fun p => { p with fret := t }
    let x (b : Bool) (l t : Nat) := (s b l t).mach.dom low0
    let soon := withDom low0 fun x => { x with gateSoon := true }
    let busy := (withCtx fun x => { x with run := .waiting }).modMach fun m => m.modDom low0 fun x => { x with gatePend := true }
    let starts := withDom low0 fun x => { x with target := some (60, 15), transTo := some false }
    (∀ b ∈ [true, false], (x b 5 1800004).lastTrans = some 5 ∧ (s b 5 1800004).mach.pk.fret ≤ 5 + 1799999 ∧
      5 + 1800000 ≤ (s b 5 1800005).mach.pk.fret ∧ (x b 5 1800005).transTo = none ∧ (x b 5 1800005).halted = false ∧
      (x b 5 1800005).throttled = b) ∧
    ((x true 5 0).thr.toNat ≤ (105 : BitVec 8).toNat ∧ (104 : BitVec 8).toNat < (x true 5 0).thr.toNat ∧
      (102 : BitVec 8).toNat + 3 ≤ (x true 5 0).thr.toNat ∧ (x true 5 0).thr.toNat < (103 : BitVec 8).toNat + 3) ∧
    ((soon.mach.dom low0).gateSoon = true ∧ soon.mach.mayGate low0 = true) ∧
    ((busy.mach.dom low0).gatePend = true ∧ busy.mach.mayGate low0 = false) ∧
    ((starts.mach.dom low0).target.isSome = true ∧ (starts.mach.dom low0).halted = false ∧
      (starts.mach.dom low0).transTo = some false) := by decide +kernel

theorem witness_TranslationEvents_writers :
    let f : FaultHeld := ⟨0, 0, 511, 31, .copy 31 3, 4096⟩
    let pd := { whole with defn := { whole.defn with x1 := 0, y1 := 0, tiers := 1 } }
    let s := withPk fun p => { p.modChan 31 3 fun c => { c with stall := some (.waitReply 1 4096) } with
      faults := [f], parts := [(7, pd), (6, whole)] }
    s.mach.pk.faultNamed (31 * 2 ^ 19 + 511) = some f ∧ s.mach.pk.clusterIn 7 f.service = false ∧ s.mach.pk.clusterIn 6 f.service = true ∧
    ((1023 : BitVec 10).toNat / 128 = (7 : BitVec 3).toNat ∧ (895 : BitVec 10).toNat / 128 ≠ (7 : BitVec 3).toNat) ∧
    s.mach.pk.boot ≠ some false := by decide +kernel

/-- A Clear that waits for the matrix work of its image's core, and a command that waits behind the stream. -/
theorem witness_AdmissionEvents_waits :
    let i := image1 .now
    let s := ((withPk fun p => { p with seq := [⟨.clear, 0, 1, false, 0, false, none⟩], images := [i], parts := [(0, whole)] }).modMach
      fun m => m.modDom (domOf 0) fun d => { d with gated := false }).modCore fun k => { k with accW := [⟨⟨0, 0, 0, 0⟩, 2, 31, .nrm 0 0⟩] }
    let held := withPk fun p => { p with images := [i], admWait := [(.stop, 0, 1)] }
    ((∀ d ∈ i.doms, ((s.mach.wakeFor i).dom d).away = false) ∧
      (s.mach.wakeFor i).mayClear i ((s.mach.wakeFor i).matrixWork i) = false) ∧
    s.mach.pk.seqPending i = true ∧ (held.mach.pk.image 0 1 = some i ∧ held.mach.pk.seqPending i = false ∧
      ∃ w ∈ held.mach.pk.admWait, held.mach.pk.admittedAfter i w.2.1 w.2.2 = false) ∧
    (∀ r ∈ i.refs, ((s.mach.wakeFor i).trailing r) = false) ∧
    ((check1.modMach fun m => m.modPk fun p => p.modAdm 0 fun a => { a with check := some { publication0 with image :=
      (check1.mach.readImage 0 0 0).1 } }).mach.pk.admBlock 0).check.isSome = true := by decide +kernel

/-- A binding with a request in process. -/
theorem witness_TextEvents_unbind :
    let k : Packet := ⟨5, 1, 2, 0, 0, 0, []⟩
    let s := withPk fun p => p.modText 0 fun t => t.modSlot 15 fun y => { y with inbound := [⟨0, 0, k⟩] }
    (s.mach.pk.textSlot 0 15).inbound ≠ [] ∧ (text0 true 0 0).ids = none ∧ (text0 true 0 0).put = 0 := by decide +kernel

/-- Host accesses through BAR0, past an aperture, and traffic whose sender finds no index (`no_free_index`). -/
theorem witness_PortEvents_bar0 :
    let s (f : HostFn) (b : Bool) (off : BitVec 48) (n : Nat) (d : Option (List Byte)) := withPk fun p =>
      { p with parts := [(0, whole)], hostQ := [(f.toNat, [⟨⟨f, b, off, n⟩, d⟩])] }
    let r := s 8 true 0x10 8 none
    let w := s 0 true 8 0 (some [7, 0])
    let far := s 7 false (2 ^ 36) 0 (some [1])
    let refused := withPk fun p => { p with net := [(0, { PortChan.reset with state := 2, r08 := 5 })], peers := [] }
    ((8 : HostFn).toNat ≤ 8 ∧ r.mach.pk.dead = false ∧ r.mach.pk.hostList 8 = [⟨⟨8, true, 0x10, 8⟩, none⟩] ∧
      (r.mach.reg (.admission 0) 0x10).1 = 8) ∧
    (w.mach.pk.hostList 0 = [⟨⟨0, true, 8, 0⟩, some [7, 0]⟩] ∧ (w.mach.reg (.admission 0) 8).1 = 2) ∧
    (far.mach.pk.hostList 7 = [⟨⟨7, false, 2 ^ 36, 0⟩, some [1]⟩] ∧ 2 ^ 36 < (2 ^ 36 : BitVec 48).toNat + 1) ∧
    refused.mach.pk.netOf 5 = some 0 := by decide +kernel

/-- The kinds of R116: past LM, outside every window, in a read grant, an interrupt file of no partition and one read; of
two accesses the lower failing byte counts. -/
theorem witness_AccessChecks_kinds :
    let m := (withPk fun p => { p with parts := [(0, whole)] }).mach
    let x : Context := { Context.reset with lmWin := [⟨0, 0, false⟩, ⟨8191, 8191, true⟩] }
    let fault (m : Mach) (k : AccessKind) (form : Bool) (l : List (List Nat)) := accessFault m x k form l
    fault m .load false [span 0x1FFFFC 8] = some (0x200000, 0) ∧ fault m .load false [span 255 2] = some (256, 1) ∧
    fault m .write false [span 248 8] = some (248, 2) ∧ fault m .write true [span 0x70000000 8] = none ∧
    fault m .load false [span 0x7001F000 8] = some (0x7001F000, 4) ∧
    fault Mach.reset .write true [span 0x70000000 8] = some (0x70000000, 3) ∧
    fault m .loadLM false [span 0x40000000 1] = some (0x40000000, 1) ∧
    fault m .load false [span 0x200000 1, span 0x300 1] = some (0x300, 1) := by decide +kernel

/-- A bundle of a domain whose energy table is loaded: an add, a vmul on 32-bit elements and a nullified slot. -/
theorem test_bundle_charge :
    let s := State.reset.modMach fun m => m.modDom (domOf 0) fun d =>
      { d with vcur := 8, detab := [(56, 3), (248, 7), (712, 100), (840, 1000)] }
    s.bundleCharge [.add h0 5 6 7, .vmul h0 .f32 1 2 (.vec 3), .sub h1 5 6 7] = 3 * 100 + 3 + 7 + 1000 := by
  decide +kernel

/-- Masks without a lane and with the first lane alone; a bundle that has raised a trap and one that has not. -/
theorem witness_WholeBundleTraps_charge :
    let s := withCtx fun x => { x with regs := x.regs.setQ 1 1 }
    let on (s : State) (h : Head) (e : Nat) := (s.mguard h).getLsbD (ewBytes .word * e)
    s.mguard h1 = 0 ∧ (on s ⟨false, 2⟩ 0 = true ∧ ∀ e, e < 64 → on s h1 e = false) ∧
    (fieldsOf (.add h0 5 6 7)).isSome = true ∧ s.iss.raises = [] ∧ (s.raise 3 0).iss.raises ≠ [] := by decide +kernel

/-- An entry of each kind at the head of the drain, and a channel bound to the context or to none. -/
theorem witness_DrainStoresBytes_kinds :
    let d (e : Effect) : DrainItem := ⟨0, ⟨3, .command, e, 0, 0, 0⟩, 0, [], some 1, 0, 0⟩
    let s (cl : ClusterId) (e : Effect) : State := State.reset.modMach fun m => m.modCore cl 0 fun k => { k with drain := [d e] }
    let a : Atomic := { kind := .store, n := 8, space := .lm, addr := 0, val := 1, exp := 0, res := none, cx := 0, baddr := 0,
                        slot := 0, eff := none }
    let cpy : Effect := .cmd (.cpy 0 [1, 0, 0, 0] [1, 0, 0, 0] 15 0)
    let own (n : Nat) := (s 0 cpy).modMach fun m => m.modPk fun p => p.modChan 0 15 fun c =>
      { c with owner := some ⟨0, 0, 0⟩, img := some 1, cmds := List.replicate n (copy0 false 0 0) }
    let full := (s 15 (.cmd (.brgPush 7))).modMach fun m => m.modCore 31 0 fun k =>
      { k with bridge := { k.bridge with fifo := List.replicate 16 7 } }
    (∀ e ∈ [Effect.store .sp [(0x1FFFFFF, 1)], .atomic a, .atomic { a with space := .sp }, .irq 31 1023, cpy],
      ((s 0 e).mach.core 0 0).drain = d e :: [] ∧ ((s 0 e).mach.core 0 0).drained < 2 ∧ (d e).since ≤ (s 0 e).mach.cyc 0) ∧
    ((s 0 cpy).mach.pk.chan 0 15).owner ≠ some ⟨0, 0, 0⟩ ∧
    (∀ n ∈ [15, 16], ((own n).mach.pk.chan 0 15).owner = some ⟨0, 0, 0⟩ ∧ ((own n).mach.pk.chan 0 15).img = some 1 ∧
      ((own n).mach.pk.chan 0 15).cmds.length = n) ∧
    ((full.mach.core 15 0).drain = d (.cmd (.brgPush 7)) :: [] ∧ (15 : ClusterId).getLsbD 4 = false ∧
      full.mach.free? [] = true ∧ (full.mach.core (15 ||| 16) 0).bridge.waiting = [] ∧
      16 ≤ (full.mach.core (15 ||| 16) 0).bridge.fifo.length ∧ (s 0 cpy).mach.bridge 0 0 = Bridge.reset) ∧
    (((s 31 (.cmd .brgPop)).mach.core 31 0).drain = d (.cmd .brgPop) :: [] ∧ (31 : ClusterId).getLsbD 4 = true) := by
  decide +kernel

/-- Rows of ard: invalid, zero, and of the least mantissa. -/
theorem witness_MatrixUnitEvents_read :
    let bad : AccRow := { AccRow.reset with v := true }
    let least : AccRow := { AccRow.reset with m := AccRow.reset.m.set 127 (BitVec.ofInt 64 (-(2 ^ 62))) }
    let mant (r : AccRow) (j : Nat) : Int := ((r.m.toList).getD j 0).toInt
    bad.v = true ∧ (AccRow.reset.v = false ∧ mant AccRow.reset 0 = 0) ∧ (least.v = false ∧ mant least 127 = -(2 ^ 62)) := by
  decide +kernel

/-- A context with a trap found at a sample, and the trap that waits. -/
theorem witness_Suppression_waits :
    let q : Trap := { ctx := ⟨0, 0, 0⟩, cause := 0x04, mask := 1, baddr := 0, detail := 0, pos := .sample, issued := 0,
                      img := none, part := 0 }
    let s := State.reset.modMach fun m => m.modCluster 0 fun c => { c with pend := [q] }
    Spec.Runs s h0 ∧ (s.mach.cluster 0).pend = [q] ∧ q.pos ≠ .target ∧
    (∃ q ∈ (s.pre.cluster s.iss.cl).pend, q.ctx = s.ref) ∧
    ¬((regS []).preCtx.gang ≠ none ∨ ∃ q ∈ ((regS []).pre.cluster 0).pend, q.ctx = (regS []).ref) := by
  unfold Spec.Runs; decide +kernel

/-- The bundle past the instruction store is refused: too short, and a reserved opcode in slot 0 (R17, R23). -/
theorem test_past_store : (Core.reset.bundleAt 0x40000) = ([0xFFFFFFFF], true) ∧
    refusal [0xFFFFFFFF] true = (1, 0b10001) ∧ (Core.reset.frame 0x3FFFC 8).1 = [0xFFFFFFFF] := by decide +kernel

/-- Three results due in one cycle, in the order of their issue. -/
theorem witness_Landings_many :
    let l : List InFlight := [due0 (.s 1), { due0 .vflags with id := 1 }, { due0 (.s 1) with id := 2, issued := 1 }]
    let s := withCtx fun x => { x with inflight := l }
    (s.mach.ctx ⟨0, 0, 0⟩).inflight.filter (fun z => decide (z.due ≤ s.mach.cyc 0) && z.ready) = l ∧
    l.Pairwise (fun x y => x.id < y.id) ∧
    (∃ x ∈ l, l.any fun y => decide (x.id < y.id ∧ y.dest = x.dest ∧ y.issued ≠ x.issued)) := by decide +kernel

/-- Levels returned in this tick and before it. -/
theorem witness_DomainEvents_returned :
    let s := (withDom low0 fun x => { x with returned := [(6, 2), (7, 3)] }).modMach fun m => m.modPk fun p => { p with fret := 7 }
    ((s.mach.dom low0).returned.filter fun p => decide (p.1 < s.mach.pk.fret)) = [(6, 2)] ∧ (s.mach.dom low0).capo = [] ∧
    (∀ cl ∈ clustersOf low0, (s.mach.cluster cl).ending = []) ∧
    (withPk fun p => { p with boot := some false }).mach.pk.boot = some false := by decide +kernel

/-- A task end behind the task's last entry, and one that waits for it. -/
theorem witness_EngineEvents_taskEnd :
    let s (n : Nat) := (withCtx fun x => { x with taskEnds := [⟨9, 5⟩], waitMsg := true }).modCore fun k =>
      { k with drain := [⟨0, ⟨3, .scalar, .store .lm [], n, 0, 0⟩, n, [], none, 0, 0⟩] }
    let x (n : Nat) := (s n).mach.ctx ⟨0, 0, 0⟩
    ((x 6).taskEnds = [⟨9, 5⟩] ∧ ∀ d ∈ ((s 6).mach.core 0 0).drain, d.cx = 0 → 5 < d.entry.issued) ∧
    ((x 5).taskEnds = [⟨9, 5⟩] ∧ (x 5).taskEnds ≠ [] ∧ ∃ d ∈ ((s 5).mach.core 0 0).drain, d.cx = 0 ∧ d.entry.issued ≤ 5) := by
  decide +kernel

/-- Transfers under way: a storage read and a network send, each with a byte left, or read. -/
theorem witness_PortEvents_begun :
    let goes (x : PortCmd) : PortCmd := { x with begun := true, data := [7] }
    let rd := goes (port0 (some .rd) none [0, 1])
    let wr := goes (port0 (some .wr) none [0, 1])
    let send := goes (port0 none (some .send) [0, 4095 * 2 ^ 32 + 1, 0, 0])
    let s (x : PortCmd) := withPk fun p => { p with
      sio := [(0, { PortChan.reset with valid := true, state := 2, cmds := [x] })], drives := [drive0],
      tlbs := [(448, [page0 false])], parts := [(0, whole)] }
    let n := withPk fun p => { p with
      net := [(0, { PortChan.reset with valid := true, state := 2, r08 := 5, cmds := [send] })],
      peers := [⟨5, 4095, 1, 2, false⟩], tlbs := [(456, [page0 false])], parts := [(0, whole)] }
    (∀ x ∈ [rd, wr], (s x).mach.portNext ((s x).mach.pk.sioChan 0) = some x ∧ ((s x).mach.pk.sioChan 0).stall = none ∧
      (s x).mach.pk.driveOf ((s x).mach.pk.sioChan 0) = some drive0 ∧ x.begun = true) ∧
    paramVa 1 + (paramTop 1 + 1) ≤ drive0.ns.blocks ∧
    ((s rd).mach.writeVirt (rd.agent .sio 0) 511 [7]).1 = .done () ∧
    ((s wr).mach.readVirt (wr.agent .sio 0) 1 0 511).1 = .done (List.replicate 511 0) ∧
    (n.mach.portNext (n.mach.pk.netChan 0) = some send ∧ n.mach.pk.peerAt 5 4095 = some ⟨5, 4095, 1, 2, false⟩ ∧
      (n.mach.readVirt (send.agent .net 0) 1 0 0).1 = .done []) := by decide +kernel

/-- Reserved offsets of BAR0, and accesses at another width than their register's. -/
theorem witness_PortEvents_reserved :
    let r (off i : Nat) := (Block.admission 7).regAt (off + i)
    (∀ i, i < 8 → r 0xFF8 i = none) ∧ (r 0 0 = some (0, 8) ∧ r 0 0 ≠ some (0, 4) ∧ r 0 3 ≠ none) := by decide +kernel

/-- A tokenising command whose source was read in part before its stream stalled. -/
theorem witness_TextEvents_got :
    let k : TextCmd := { text0 true (2 ^ 49) (2 ^ 48) with got := [7] }
    let t := withPk fun p => { p with text := [(0, engine0 [k])], parts := [(0, whole)], tlbs := [(320, [page0 false])] }
    let v := t.mach.readVocab 0 15
    t.mach.textNext 0 = some k ∧ k.ids = none ∧ k.put = 0 ∧ v.1 = .done ⟨[]⟩ ∧
    (v.2.readVirt (k.agent 0) (paramVa k.p0 + 1) 0 (paramTop k.p0 - 1)).1 = .done [0] := by decide +kernel

/-- Const mappings that a range meets, and a table write after a failed boot. -/
theorem witness_TranslationEvents_const :
    let s := withPk fun p => { p with constMaps := [(1, page0 false)] }
    let f := withPk fun p => { p with boot := some false }
    s.mach.pk.constMaps ≠ [] ∧ (∀ e ∈ s.mach.pk.allTlbs, e.pin = false) ∧ f.mach.pk.boot = some false := by decide +kernel

/-! ## Samples, targets and atomics -/

/-- A load of two bytes of a line, one of which an earlier store of its context forwards, before its sample and at it. -/
theorem witness_ScalarMemory_sample :
    let e : Entry := ⟨3, .scalar, .store .lm [(8, 9)], 0, 0, 0⟩
    let l (at' : Nat) : Load := ⟨0, .lm, 0, at', [(0, 7), (255, 8)], .sext 8, none, false, [], false, [], 1, 0, 0⟩
    let s (at' : Nat) := withCtx fun x => { x with loads := [l at'], gate := [e] }
    let k := (s 0).mach.core 0 0
    (∀ t ∈ [0, 1], ((s t).mach.ctx ⟨0, 0, 0⟩).loads = [l t] ∧ (∀ c : CtxId, c ≠ 0 → ((s t).mach.ctx ⟨0, 0, c⟩).loads = []) ∧
      (l t).fwdAt ≤ (s t).mach.cyc 0 ∧ ((l t).lanes.map Prod.fst).Nodup ∧ ∀ p ∈ (l t).lanes, p.1 < 256) ∧
    (l 1).fwdDone = false ∧ (s 1).mach.cyc 0 < (l 1).memAt ∧ (l 0).memAt ≤ (s 0).mach.cyc 0 ∧
    (s 0).mach.badByte 0 0 .lm ((l 0).lanes.map Prod.snd) = none ∧ e.issued < (l 0).issued ∧ k.drain = [] ∧
    Spec.LastIs [((8 : Nat), (9 : Byte))] 8 9 := by
  refine ⟨by decide +kernel, by decide +kernel, by decide +kernel, by decide +kernel, by decide +kernel, by decide +kernel,
    by decide +kernel, [], [], rfl, by simp⟩

/-- A byte load sampled where its context's earlier store still waits in the gate, and memory holds another value: 0x89, signed. -/
theorem test_sample_forwards :
    let e : Entry := ⟨3, .scalar, .store .lm [(8, 0x89)], 0, 0, 0⟩
    let f : InFlight := { due0 (.s 5) with id := 7, ready := false }
    let l : Load := ⟨7, .lm, 0, 0, [(0, 8)], .sext 8, none, false, [], false, [], 1, 0, 0⟩
    let s := (withCtx fun x => { x with loads := [l], gate := [e], inflight := [f] }).modCore fun k => { k with lm := [(8, 3)] }
    (((s.sampleLoads 0 0).mach.ctx ⟨0, 0, 0⟩).inflight.map fun x => (x.ready, x.val.toNat)) = [(true, 2 ^ 64 - 0x77)] := by
  decide +kernel

/-- A context whose next bundle is an invalid target, at its cycle and before it, alone and in a gang. -/
theorem witness_ControlSlots_target :
    let b : BadTarget := ⟨0x3FFFF, 0x100, 7, 0⟩
    let s (g : Option (BitVec 6)) (n : Nat) := (withCtx fun x => { x with badTarget := some b, gang := g, nextIssue := n }).modCore
      fun k => { k with running := some 0 }
    (∀ g ∈ [none, some 63], ∀ n ∈ [0, 1], ((s g n).mach.ctx ⟨0, 0, 0⟩).badTarget = some b ∧ ((s g n).mach.core 0 0).running = some 0 ∧
      ((s g n).mach.ctx ⟨0, 0, 0⟩).gang = g ∧ (((s g n).mach.ctx ⟨0, 0, 0⟩).nextIssue ≤ (s g n).mach.cyc 0 ↔ n = 0)) := by
  decide +kernel

/-- An atomic on 8 bytes in LM, and one on 4 in the scratchpad, that perform now. -/
theorem witness_LocalAtomics_performs :
    let a (sp : Space) (n addr : Nat) : Atomic := ⟨.rmw .max, n, sp, addr, 2, 0, some 9, 7, 0, 0, some 4⟩
    let s := State.reset.modCore fun k => { k with atomics := [⟨0, 0, a .lm 8 0x1FFFF8, 0⟩], lm := [(0x1FFFFF, 0x80)] }
    let k := s.mach.core 0 0
    let b : BankWrite := ⟨0, 0, 0, 7, [], some (a .sp 4 0x1FFFFFC), some 4⟩
    let t := State.reset.modMach fun m => m.modCluster 0 fun c => { c with bank := [b], scratch := [(0x1FFFFFF, 0x80)] }
    (k.atomics = [⟨0, 0, a .lm 8 0x1FFFF8, 0⟩] ∧ k.lm.wf (some 0) = true ∧
      s.mach.badByte 0 0 .lm (span 0x1FFFF8 8) = none ∧
      Spec.Holds (fun i => (k.lm.byte (some 0) (0x1FFFF8 + i)).getD 0) 8 (2 ^ 63)) ∧
    ((t.mach.cluster 0).bank = [b] ∧ b.due ≤ (t.mach.cluster 0).cyc ∧ (t.mach.cluster 0).scratch.wf (some 0) = true ∧
      t.mach.badByte 0 0 .sp (span 0x1FFFFFC 4) = none ∧
      Spec.Holds (fun i => ((t.mach.cluster 0).scratch.byte (some 0) (0x1FFFFFC + i)).getD 0) 4 (2 ^ 31)) ∧
    Spec.LastIs [((5 : Nat), (1 : Byte)), (5, 2)] 5 2 := by
  unfold Spec.Holds
  refine ⟨by decide +kernel, by decide +kernel, [(5, 1)], [], rfl, by simp⟩

/-- The signed maximum of the most negative number and 2, and the sum that wraps (R159). -/
theorem test_applyOp : applyOp .max 8 (2 ^ 63) 2 0 = 2 ∧ applyOp .min 4 (2 ^ 31) 2 0 = 2 ^ 31 ∧
    applyOp .add 4 (2 ^ 32 - 1) 2 0 = 1 ∧ applyOp .cas 4 5 6 5 = 6 ∧ applyOp .cas 4 5 6 4 = 5 := by decide +kernel

/-- Atomics of LM in the cycle in which they perform: the old number comes back extended by its sign. -/
theorem test_atomic_performs :
    let a : Atomic := ⟨.rmw .swap, 4, .lm, 4, 7, 0, some 9, 0, 0, 0, none⟩
    let f : InFlight := { due0 (.s 5) with id := 9, ready := false }
    let s := (withCtx fun x => { x with inflight := [f] }).modCore fun k => { k with atomics := [⟨0, 0, a, 0⟩], lm := [(7, 0x80)] }
    let t := s.performAtomics 0 0
    ((t.mach.ctx ⟨0, 0, 0⟩).inflight.map fun x => x.val.toNat) = [2 ^ 64 - 2 ^ 31] ∧ (t.mach.core 0 0).lm = [(4, 7)] := by
  decide +kernel

/-! ## The hand-over of commands -/

/-- Each command's entry at the head of the drain, with what its reasons ask and without it. -/
theorem witness_DrainStoresBytes_commands :
    let d (e : Effect) : DrainItem := ⟨0, ⟨3, .command, e, 0, 0, 0⟩, 0, [], some 1, 0, 0⟩
    let s (e : Effect) : State := ((withPk fun p => { p with
        parts := [(0, whole)], queues := [queue0], scopes := [scope0],
        text := [(0, { TextEngine.reset with epart := 0, assigned := true, slots := [(15, { TextSlot.reset with state := 2, img := 1 })] })],
        sio := [(3, { PortChan.reset with valid := true, state := 2, owner := some ⟨0, 0, 0⟩, img := some 1 })],
        net := [(3, { PortChan.reset with valid := true, state := 2, owner := some ⟨0, 0, 0⟩, img := some 1 })] }).modCtx fun x =>
      { x with lmWin := [⟨0, 0, true⟩] }).modCore fun k => { k with drain := [d e] }
    let line (align n : Nat) (w : Word) : Bool :=
      let a := w.toNat % 2 ^ 32
      decide (a % align = 0) && decide (a + n ≤ 0x200000) && (span a n).all fun b =>
        ((s (.irq 0 0)).mach.ctx ⟨0, 0, 0⟩).lmWin.any fun v => v.w && v.has (b / 256)
    let port (u : ChanUnit) := (s (.irq 0 0)).mach.pk.port u (0#3 ++ 3#2)
    let o := (d (.irq 0 0)).origin 0 0
    (∀ e ∈ [Effect.cmd (.famo .add .unp 8 4 1 0 none), .cmd (.pool .gen 3 0 false), .cmd (.qpush 3 []), .cmd (.evtIrq 31 1023),
        .cmd (.evtPost 127 7 1), .cmd (.txt true none 0 0 15), .cmd (.sio .rd 0 0 false 3), .cmd (.net .send [0, 1, 0, 0] false 3),
        .irq 31 1023],
      ((s e).mach.core 0 0).drain = d e :: [] ∧ ((s e).mach.core 0 0).drained < 2 ∧ (d e).since ≤ (s e).mach.cyc 0 ∧
      (s e).mach.free? (d e).holds = true ∧ ((s e).mach.core 0 0).heldEvts = [] ∧ (s e).mach.pk.clusterIn (d e).part 31 = true) ∧
    State.reset.mach.pk.clusterIn 0 31 = false ∧ (4 % 8 ≠ 0 ∧ 8 % 8 = 0) ∧
    (line 8 8 248 = true ∧ line 8 8 256 = false ∧ line 16 16 240 = true ∧ line 256 72 0 = true ∧ line 256 72 256 = false) ∧
    ((s (.irq 0 0)).mach.pk.queueOf o.part o.img 3 ≠ none ∧ (s (.irq 0 0)).mach.pk.queueOf o.part o.img 4 = none ∧
      (s (.irq 0 0)).mach.pk.scopeOf o.part o.img 9 ≠ none ∧ (s (.irq 0 0)).mach.pk.scopeOf o.part o.img 8 = none) ∧
    (((s (.irq 0 0)).mach.pk.textSlot 0 15).state = 2 ∧ ((s (.irq 0 0)).mach.pk.textEngine 0).part = some o.part ∧
      some ((s (.irq 0 0)).mach.pk.textSlot 0 15).img = o.img ∧ ((s (.irq 0 0)).mach.pk.textSlot 0 14).state ≠ 2) ∧
    (∀ u ∈ [ChanUnit.sio, .net], (port u).state = 2 ∧ (port u).owner = some o.ctx ∧ (port u).img = o.img ∧
      (port u).cmds.length < 64) ∧
    (State.reset.mach.pk.port .sio 3).state ≠ 2 ∧
    ((511 % 512 ≠ 0 ∧ 510 % 4 ≠ 0) ∧ (((s (.irq 0 0)).mach.pk.driveOf (port .sio)).map fun d => d.ns.blocks).getD 0 < 1) := by
  decide +kernel

/-- A held event, and a channel whose share is full. -/
theorem witness_DrainStoresBytes_waits :
    let d : DrainItem := ⟨0, ⟨3, .command, .cmd (.evtPost 127 7 1), 0, 0, 0⟩, 0, [5], some 1, 0, 0⟩
    let f : FencePoint := ⟨5, ⟨0, 0, 0⟩, .core, [9], none, false⟩
    let s := (withPk fun p => { p with fences := [f] }).modCore fun k => { k with drain := [d] }
    let full : PortChan := { PortChan.reset with cmds := List.replicate 64 (port0 (some .rd) none [0, 1]) }
    (s.mach.core 0 0).drain = [d] ∧ s.mach.free? d.holds = false ∧ 64 ≤ full.cmds.length := by decide +kernel

/-! ## Text -/

/-- A vocabulary image of two buckets, (0, 0) of rank 5 merging to 7 and an empty one, and one special string "A" of ID 9. -/
def vocab0 : Vocab :=
  let at' := fun (l : List (Nat × Nat)) => (List.range 232).map fun i => BitVec.ofNat 8 ((l.lookup i).getD 0)
  ⟨at' [(8, 2), (12, 1), (14, 1), (40, 128), (48, 160), (136, 5), (140, 7), (144, 255), (145, 255), (146, 255), (147, 255),
    (160, 9), (164, 1), (168, 65)]⟩

theorem witness_TextEvents_vocab :
    let at' (l r i : Nat) := vocab0.bucket (((l * 0x9E3779B1 + r * 0x85EBCA77) % 2 ^ 32 + i) % vocab0.buckets)
    (0 < vocab0.buckets ∧ (at' 0 0 0).left ≠ 0xFFFFFFFF ∧ (at' 0 0 0).left = 0 ∧ (at' 0 0 0).right = 0) ∧
    (1 < vocab0.buckets ∧ ((at' 0 2 0).left ≠ 0xFFFFFFFF ∧ ¬((at' 0 2 0).left = 0 ∧ (at' 0 2 0).right = 2)) ∧
      (at' 0 2 1).left = 0xFFFFFFFF) ∧
    vocab0.merge 0 0 = some (5, 7) ∧ vocab0.merge 0 2 = none ∧ 0 < vocab0.chunk ∧
    (vocab0.specialAt [66, 65] = none ∧ vocab0.specialAt [65] = some (9, 1) ∧ vocab0.specialAt [] = none) := by
  decide +kernel

/-- Two pairs that tie, of which the leftmost merges, and then none; a special string ends a span (R296). -/
theorem test_tokenise : vocab0.mergeAll 3 [0, 0, 0] = [7, 0] ∧ vocab0.ids [66, 65] = [(0, 0), (9, 1)] := by decide +kernel

/-- The example of R299: E2 82 is held, and AC completes it. -/
theorem test_held_tail : heldTail [0x61, 0xE2, 0x82] = [0xE2, 0x82] ∧ heldTail [0xE2, 0x82, 0xAC, 0x20] = [] := by decide +kernel

theorem witness_TextEvents_utf8 :
    Spec.WellFormed [0xE2, 0x82, 0xAC] ∧ Spec.WellFormed [0xF4, 0x8F, 0xBF, 0xBF] ∧ Spec.WellFormed [0xC3, 0xA9] := by
  refine ⟨.inr (.inl ⟨_, _, _, rfl, by decide⟩), .inr (.inr ⟨_, _, _, _, rfl, by decide⟩), .inl ⟨_, _, rfl, by decide⟩⟩

/-- Bytes past a message's 8,192: with a sequence across the boundary, and with none. -/
theorem witness_TextEvents_boundary :
    let x : List Byte := List.replicate 8191 0
    let flat : List Byte := List.replicate 8193 0
    (8192 < (x ++ [0xC3, 0xA9] ++ []).length ∧ x.length < 8192 ∧ 8192 < x.length + ([0xC3, 0xA9] : List Byte).length) ∧
    8192 < flat.length ∧ ∀ x w y, flat = x ++ w ++ y → ¬Spec.WellFormed w := by
  refine ⟨⟨?_, ?_, ?_⟩, ?_, fun x w y h hw => ?_⟩
  iterate 4
    simp only [List.append_nil, List.length_append, List.length_replicate, List.length_cons, List.length_nil]
    omega
  have zero : ∀ b ∈ w, b = 0 := fun b hb =>
    List.eq_of_mem_replicate (h ▸ List.mem_append_left _ (List.mem_append_right _ hb) : b ∈ List.replicate 8193 (0 : Byte))
  obtain ⟨a, b, rfl, h1, -⟩ | ⟨a, b, c, rfl, h1, -⟩ | ⟨a, b, c, d, rfl, h1, -⟩ := hw <;>
    simp [zero a (by simp)] at h1

/-! ## Accesses translated ahead, and fault areas -/

theorem witness_TranslationEvents_ahead :
    let f : FarAtomic := { far0 .unp with loc := some ⟨9, 0xFFFF8, page0 false⟩ }
    let s := withPk fun p => { p with fars := [f], parts := [(0, whole)], keys := [(0, ⟨some 0, true, true, 0, 0⟩)] }
    (∃ x ∈ s.mach.pk.aheads, x.page.key = 0 ∧ x.page.ast = (12 : Word).extractLsb' 48 16) ∧
    (fltCluster 3 7 = 31 ∧ s.mach.pk.clusterIn 0 31 = true ∧ (some 30 : Option ClusterId) ≠ some (fltCluster 3 7)) ∧
    (s.mach.pk.fars.find? (fun f => f.id == 7) = some f ∧ f.stall = none ∧ f.armed = true ∧ f.ready ≤ s.mach.pk.fret ∧
      s.mach.farWaits f = false ∧ (s.mach.dom (domOf 0)).tripped = false) := by decide +kernel

/-- The kernel of another cluster of the partition writes no entry of fltbase (R239). -/
theorem test_fltbase :
    let m := (withPk fun p => { p with parts := [(0, whole)] }).mach
    (m.writeTransl (some ⟨0, some 30⟩) 3 0x138 (2 ^ 64 - 1)).pk.fltbase = m.pk.fltbase ∧
    (m.writeTransl (some ⟨0, some 31⟩) 3 0x138 (2 ^ 64 - 1)).pk.fltbase.find 31 = some 0x3FFFFF00001 := by decide +kernel

/-- A division discarded by a rollback holds the divider for its eighteen cycles; one captured frees it (R55, R74). -/
theorem test_divider :
    let k : Core := { Core.reset with divFree := 17, divCx := 0, divId := 3 }
    let with' (l : List InFlight) : Core := { k with ctxs := [(0, { k.ctx 0 with inflight := l })] }
    ((with' []).freeDivider 0).divFree = 17 ∧ ((with' [{ due0 (.s 5) with id := 3 }]).freeDivider 0).divFree = 0 := by
  decide +kernel

/-! ## AES-256-XTS: FIPS 197's example of SubBytes, the inverses, and vector 10 that IEEE 1619 publishes -/

theorem test_aes_inverses :
    let s := (List.range 16).map (BitVec.ofNat 8)
    aesSub 0x53 = 0xED ∧ (∀ a ∈ [0x00, 0x01, 0x53, 0xFF], aesUnsub (aesSub a) = a) ∧
    aesMix [14, 11, 13, 9] (aesMix [2, 3, 1, 1] s) = s ∧ aesShift 3 (aesShift 1 s) = s := by decide +kernel

theorem test_xts :
    let key := (bytesOfNat 32 0x2718281828459045235360287471352662497757247093699959574966967627).reverse ++
      (bytesOfNat 32 0x3141592653589793238462643383279502884197169399375105820974944592).reverse
    xtsSeal key 0xFF 0 ((List.range 16).map (BitVec.ofNat 8)) = (bytesOfNat 16 0x1C3B3A102F770386E4836C99E370CF9B).reverse := by
  decide +kernel

/-! ## Supervisor cores: words written out from the RISC-V encodings, and steps -/

theorem test_hart_words :
    decode32 0x00500093 = some (.opImm .add false 1 0 5) ∧ decode32 0x022081B3 = some (.op .mul false 3 1 2) ∧
    decode32 0xFE000EE3 = some (.branch 0 0 0 (2 ^ 64 - 4)) ∧ decode32 0x1005A52F = some (.lr false 10 11) ∧
    decode32 0x30529073 = some (.csr 1 0 5 0x305) ∧ decode32 0x00000073 = some .ecall ∧ decode32 0xFFFFFFFF = none := by
  decide +kernel

theorem test_hart_short_words :
    decode16 0x7139 = some (.opImm .add false 2 2 (2 ^ 64 - 64)) ∧ decode16 0xE406 = some (.store 3 2 1 8) ∧
    decode16 0x8082 = some (.jalr 0 1 0) ∧ decode16 0 = none := by decide +kernel

theorem test_hart_alu :
    HartAlu.run .mulhu false (2 ^ 64 - 1) (2 ^ 64 - 1) = 2 ^ 64 - 2 ∧ HartAlu.run .div false 7 0 = 2 ^ 64 - 1 ∧
    HartAlu.run .div false (2 ^ 63) (2 ^ 64 - 1) = 2 ^ 63 ∧ HartAlu.run .sra true (2 ^ 31) 4 = 0xFFFFFFFFF8000000 := by
  decide +kernel

/-- 1 / 3 and the root of 2 in binary64, rounded to nearest even. -/
theorem test_hart_float :
    let h : Hart := { Hart.loaded 0 0 0 0 [] with f := ((Vector.replicate 32 0).set 1 0x3FF0000000000000).set 2 0x4008000000000000 }
    let g := { h with f := h.f.set 2 0x4000000000000000 }
    ((h.compute (.fop .div true 3 1 2 0)).map fun x => x.rf 3) = some 0x3FD5555555555555 ∧
    ((g.compute (.fsqrt true 3 2 0)).map fun x => x.rf 3) = some 0x3FF6A09E667F3BCD := by decide +kernel

/-- A hart whose memory at 0x1000 holds addi x1, x0, 5, and whose handler stands at 0x2000. -/
def hart0 : Hart :=
  { Hart.loaded 0x1000 16 0x1000 0 [0x93, 0x00, 0x50, 0x00] with mtvec := 0x2001, mie := 0x800 }

/-- The machine with it as the supervisor core of cluster 31, an identity pending and enabled there. -/
def withHart (ie : Bool) : State := (withPk fun p => { p with harts := [(31, { hart0 with ie := ie })] }).modMach fun m =>
  m.modCluster 31 fun c => { c with ifpend := 2, ifen := 2 }

theorem witness_ErrorAndInterruptEvents_hart :
    (∀ ie ∈ [true, false], (withHart ie).mach.pk.harts.find (31 : ClusterId).toNat = some { hart0 with ie := ie } ∧
      ((withHart ie).mach.cluster 31).externalInterrupt = true ∧ hart0.mie.getLsbD 11 = true) ∧
    hart0.holds hart0.pc 4 = true ∧ hart0.base + hart0.size ≤ 2 ^ 64 ∧
    natOfBytes (hart0.own.bytes 0 hart0.pc.toNat 4) = (0x00500093 : BitVec 32).toNat ∧ (0x00500093 : BitVec 32).toNat % 4 = 3 ∧
    decode32 0x00500093 = some (.opImm .add false 1 0 5) := by decide +kernel

/-- The interrupt is taken by its vector; without MIE the instruction executes. -/
theorem test_hart_steps :
    let after (ie : Bool) := ((withHart ie).mach.hartStep 31).pk.harts.find 31
    (after true).map (fun h => (h.pc, h.mepc, h.rx 1)) = some (0x202C, 0x1000, 0) ∧
    (after false).map (fun h => (h.pc, h.mepc, h.rx 1)) = some (0x1004, 0, 5) := by decide +kernel

end Sys2Proof.Tests
end

section
namespace Sys2Proof

/-! ## Words, fields and concatenations -/

/-- A concatenation is a word when its parts are the parts of the word. -/
theorem append_eq_iff {n m : Nat} (x : BitVec n) (y : BitVec m) (z : BitVec (n + m)) :
    x ++ y = z ↔ x = z.extractLsb' m n ∧ y = z.extractLsb' 0 m := by
  constructor
  · rintro rfl
    exact ⟨BitVec.extractLsb'_append_eq_left.symm, BitVec.extractLsb'_append_eq_right.symm⟩
  · rintro ⟨rfl, rfl⟩
    exact BitVec.extractLsb'_append_extractLsb'

/-- A register field of six bits, cut where the encoding tables cut it. -/
@[simp] theorem append_eq_field :
    (∀ (x : BitVec 1) (y : BitVec 5) (z : BitVec 6), x ++ y = z ↔ x = z.extractLsb' 5 1 ∧ y = z.extractLsb' 0 5) ∧
    (∀ (x : BitVec 2) (y : BitVec 4) (z : BitVec 6), x ++ y = z ↔ x = z.extractLsb' 4 2 ∧ y = z.extractLsb' 0 4) ∧
    (∀ (x : BitVec 3) (y : BitVec 3) (z : BitVec 6), x ++ y = z ↔ x = z.extractLsb' 3 3 ∧ y = z.extractLsb' 0 3) ∧
    (∀ (x : BitVec 4) (y : BitVec 2) (z : BitVec 6), x ++ y = z ↔ x = z.extractLsb' 2 4 ∧ y = z.extractLsb' 0 2) ∧
    (∀ (x : BitVec 5) (y : BitVec 1) (z : BitVec 6), x ++ y = z ↔ x = z.extractLsb' 1 5 ∧ y = z.extractLsb' 0 1) :=
  ⟨append_eq_iff, append_eq_iff, append_eq_iff, append_eq_iff, append_eq_iff⟩

/-- A code of two to four bits, cut in two. -/
@[simp] theorem append_eq_code :
    (∀ (x : BitVec 1) (y : BitVec 1) (z : BitVec 2), x ++ y = z ↔ x = z.extractLsb' 1 1 ∧ y = z.extractLsb' 0 1) ∧
    (∀ (x : BitVec 1) (y : BitVec 2) (z : BitVec 3), x ++ y = z ↔ x = z.extractLsb' 2 1 ∧ y = z.extractLsb' 0 2) ∧
    (∀ (x : BitVec 2) (y : BitVec 1) (z : BitVec 3), x ++ y = z ↔ x = z.extractLsb' 1 2 ∧ y = z.extractLsb' 0 1) ∧
    (∀ (x : BitVec 1) (y : BitVec 3) (z : BitVec 4), x ++ y = z ↔ x = z.extractLsb' 3 1 ∧ y = z.extractLsb' 0 3) ∧
    (∀ (x : BitVec 3) (y : BitVec 1) (z : BitVec 4), x ++ y = z ↔ x = z.extractLsb' 1 3 ∧ y = z.extractLsb' 0 1) :=
  ⟨append_eq_iff, append_eq_iff, append_eq_iff, append_eq_iff, append_eq_iff⟩

/-- An immediate of 8, 14 or 20 bits, cut where the encoding tables cut it. -/
@[simp] theorem append_eq_imm :
    (∀ (x : BitVec 2) (y : BitVec 6) (z : BitVec 8), x ++ y = z ↔ x = z.extractLsb' 6 2 ∧ y = z.extractLsb' 0 6) ∧
    (∀ (x : BitVec 5) (y : BitVec 3) (z : BitVec 8), x ++ y = z ↔ x = z.extractLsb' 3 5 ∧ y = z.extractLsb' 0 3) ∧
    (∀ (x : BitVec 2) (y : BitVec 12) (z : BitVec 14), x ++ y = z ↔ x = z.extractLsb' 12 2 ∧ y = z.extractLsb' 0 12) ∧
    (∀ (x : BitVec 6) (y : BitVec 8) (z : BitVec 14), x ++ y = z ↔ x = z.extractLsb' 8 6 ∧ y = z.extractLsb' 0 8) ∧
    (∀ (x : BitVec 8) (y : BitVec 6) (z : BitVec 14), x ++ y = z ↔ x = z.extractLsb' 6 8 ∧ y = z.extractLsb' 0 6) ∧
    (∀ (x : BitVec 10) (y : BitVec 4) (z : BitVec 14), x ++ y = z ↔ x = z.extractLsb' 4 10 ∧ y = z.extractLsb' 0 4) ∧
    (∀ (x : BitVec 3) (y : BitVec 17) (z : BitVec 20), x ++ y = z ↔ x = z.extractLsb' 17 3 ∧ y = z.extractLsb' 0 17) ∧
    (∀ (x : BitVec 12) (y : BitVec 5) (z : BitVec 17), x ++ y = z ↔ x = z.extractLsb' 5 12 ∧ y = z.extractLsb' 0 5) ∧
    (∀ (x : BitVec 17) (y : BitVec 3) (z : BitVec 20), x ++ y = z ↔ x = z.extractLsb' 3 17 ∧ y = z.extractLsb' 0 3) ∧
    (∀ (x : BitVec 19) (y : BitVec 1) (z : BitVec 20), x ++ y = z ↔ x = z.extractLsb' 1 19 ∧ y = z.extractLsb' 0 1) :=
  ⟨append_eq_iff, append_eq_iff, append_eq_iff, append_eq_iff, append_eq_iff, append_eq_iff, append_eq_iff,
    append_eq_iff, append_eq_iff, append_eq_iff⟩

/-- A slot word or an immediate, cut into its fields (R14, R15). -/
@[simp] theorem append_eq_word :
    (∀ (x : BitVec 1) (y : BitVec 4) (z : BitVec 5), x ++ y = z ↔ x = z.extractLsb' 4 1 ∧ y = z.extractLsb' 0 4) ∧
    (∀ (x : BitVec 5) (y : BitVec 7) (z : BitVec 12), x ++ y = z ↔ x = z.extractLsb' 7 5 ∧ y = z.extractLsb' 0 7) ∧
    (∀ (x : BitVec 6) (y : BitVec 2) (z : BitVec 8), x ++ y = z ↔ x = z.extractLsb' 2 6 ∧ y = z.extractLsb' 0 2) ∧
    (∀ (x : BitVec 6) (y : BitVec 6) (z : BitVec 12), x ++ y = z ↔ x = z.extractLsb' 6 6 ∧ y = z.extractLsb' 0 6) ∧
    (∀ (x : BitVec 12) (y : BitVec 2) (z : BitVec 14), x ++ y = z ↔ x = z.extractLsb' 2 12 ∧ y = z.extractLsb' 0 2) ∧
    (∀ (x : BitVec 12) (y : BitVec 6) (z : BitVec 18), x ++ y = z ↔ x = z.extractLsb' 6 12 ∧ y = z.extractLsb' 0 6) ∧
    (∀ (x : BitVec 18) (y : BitVec 2) (z : BitVec 20), x ++ y = z ↔ x = z.extractLsb' 2 18 ∧ y = z.extractLsb' 0 2) ∧
    (∀ (x : BitVec 18) (y : BitVec 6) (z : BitVec 24), x ++ y = z ↔ x = z.extractLsb' 6 18 ∧ y = z.extractLsb' 0 6) ∧
    (∀ (x : BitVec 24) (y : BitVec 6) (z : BitVec 30), x ++ y = z ↔ x = z.extractLsb' 6 24 ∧ y = z.extractLsb' 0 6) ∧
    (∀ (x : BitVec 30) (y : BitVec 2) (z : BitVec 32), x ++ y = z ↔ x = z.extractLsb' 2 30 ∧ y = z.extractLsb' 0 2) :=
  ⟨append_eq_iff, append_eq_iff, append_eq_iff, append_eq_iff, append_eq_iff, append_eq_iff, append_eq_iff,
    append_eq_iff, append_eq_iff, append_eq_iff⟩

/-- Bits of bits of a word are bits of the word. -/
@[simp] theorem extractLsb'_extractLsb' {w : Nat} (x : BitVec w) (s l s' l' : Nat) (h : s' + l' ≤ l) :
    (x.extractLsb' s l).extractLsb' s' l' = x.extractLsb' (s + s') l' := by
  ext i hi
  simp only [BitVec.getElem_extractLsb', BitVec.getLsbD_extractLsb']
  simp [show s' + i < l by omega, Nat.add_assoc]

/-- A single bit names the Boolean that it holds. -/
theorem ofBool_eq_iff (x : BitVec 1) (b : Bool) : BitVec.ofBool b = x ↔ b = (x == 1#1) := by
  revert x b; decide

/-- The fields of a word. -/
theorem Fields.toWord_eq_iff (f : Fields) (w : SlotWord) : f.toWord = w ↔ f = Fields.ofWord w := by
  obtain ⟨stop, guard, op, d, a, b, x⟩ := f
  simp only [Fields.toWord, Fields.ofWord, BitVec.getLsbD_eq_extractLsb', Fields.mk.injEq,
    append_eq_word, ofBool_eq_iff, extractLsb'_extractLsb', Nat.reduceAdd, Nat.reduceLeDiff, and_assoc]

/-- Fields with a head: the fields of a word that they are. -/
@[simp] theorem mk_eq_iff (f : Fields) (h : Head) (op : BitVec 7) (d a b : BitVec 6) (x : BitVec 2) :
    mk h op d a b x = f ↔ h = f.head ∧ op = f.op ∧ d = f.d ∧ a = f.a ∧ b = f.b ∧ x = f.x := by
  obtain ⟨stop, guard, op, d, a, b, x⟩ := f
  obtain ⟨stop', guard'⟩ := h
  simp [mk, Fields.head, and_assoc]

/-- i20 of layout D, written field by field (R15). -/
@[simp] theorem Fields.eq_i20_iff (f : Fields) (z : BitVec 20) :
    (z.extractLsb' 14 6 = f.d ∧ z.extractLsb' 8 6 = f.a ∧ z.extractLsb' 2 6 = f.b ∧ z.extractLsb' 0 2 = f.x) ↔
      z = f.i20 := by
  rw [eq_comm (a := z)]
  simp only [Fields.i20, append_eq_word, extractLsb'_extractLsb', Nat.reduceAdd, Nat.reduceLeDiff, and_assoc]
  simp only [eq_comm]

/-- i14 of layout C, written field by field (R15). -/
@[simp] theorem Fields.eq_i14_iff (f : Fields) (z : BitVec 14) :
    (z.extractLsb' 8 6 = f.a ∧ z.extractLsb' 2 6 = f.b ∧ z.extractLsb' 0 2 = f.x) ↔ z = f.i14 := by
  rw [eq_comm (a := z)]
  simp only [Fields.i14, append_eq_word, extractLsb'_extractLsb', Nat.reduceAdd, Nat.reduceLeDiff, and_assoc]
  simp only [eq_comm]

/-- i8 of layout B, written field by field (R15). -/
@[simp] theorem Fields.eq_i8_iff (f : Fields) (z : BitVec 8) :
    (z.extractLsb' 2 6 = f.b ∧ z.extractLsb' 0 2 = f.x) ↔ z = f.i8 := by
  rw [eq_comm (a := z)]
  simp only [Fields.i8, append_eq_word]
  simp only [eq_comm]

@[simp] theorem Fields.i20_eq_zero (f : Fields) : f.i20 = 0#20 ↔ f.d = 0#6 ∧ f.a = 0#6 ∧ f.b = 0#6 ∧ f.x = 0#2 := by
  simp only [eq_comm (a := f.i20), ← f.eq_i20_iff, BitVec.extractLsb'_zero, eq_comm]

@[simp] theorem Fields.i14_eq_zero (f : Fields) : f.i14 = 0#14 ↔ f.a = 0#6 ∧ f.b = 0#6 ∧ f.x = 0#2 := by
  simp only [eq_comm (a := f.i14), ← f.eq_i14_iff, BitVec.extractLsb'_zero, eq_comm]

@[simp] theorem Fields.i8_eq_zero (f : Fields) : f.i8 = 0#8 ↔ f.b = 0#6 ∧ f.x = 0#2 := by
  simp only [eq_comm (a := f.i8), ← f.eq_i8_iff, BitVec.extractLsb'_zero, eq_comm]

/-! ## Codes: each reading of a code answers exactly the value with that code -/

@[simp] theorem Cond.ofCode_eq_some (c : BitVec 3) (k : Cond) : Cond.ofCode c = some k ↔ k.code = c := by
  cases k <;> revert c <;> decide

@[simp] theorem VCond.ofCode_eq (c : BitVec 2) (k : VCond) : VCond.ofCode c = k ↔ k.code = c := by
  cases k <;> revert c <;> decide

@[simp] theorem FTy.ofCode_eq_some (x : BitVec 2) (t : FTy) : FTy.ofCode x = some t ↔ t.code = x := by
  cases t <;> revert x <;> decide

@[simp] theorem EW.ofCode_eq_some (x : BitVec 2) (w : EW) : EW.ofCode x = some w ↔ w.code = x := by
  cases w <;> revert x <;> decide

@[simp] theorem FScope.ofCode_eq_some (c : BitVec 3) (s : FScope) : FScope.ofCode c = some s ↔ s.code = c := by
  cases s <;> revert c <;> decide

@[simp] theorem Ord.ofCode_eq (c : BitVec 3) (o : Ord) : Ord.ofCode c = o ↔ o.code = c := by
  cases o <;> revert c <;> decide

@[simp] theorem ETy.ofCode_eq_some (c : BitVec 3) (t : ETy) : ETy.ofCode c = some t ↔ t.code = c := by
  cases t <;> revert c <;> decide

@[simp] theorem VTy.ofCode_eq_some (c : BitVec 3) (n : Bool) (t : VTy) :
    VTy.ofCode c n = some t ↔ t.code = c ∧ t.nat = n := by
  cases t <;> revert c n <;> decide

@[simp] theorem VSrc.code_ofCode (b : BitVec 6) : (VSrc.ofCode b).code = b := by
  revert b; decide

@[simp] theorem VSrc.ofCode_eq (b : BitVec 6) (v : VSrc) : VSrc.ofCode b = v ↔ v.code = b := by
  constructor
  · rintro rfl
    exact VSrc.code_ofCode b
  · rintro rfl
    cases v with
    | vec r => revert r; decide
    | scal r => revert r; decide

theorem MKind.code_of_ofCode (c : BitVec 4) : ∀ k ∈ MKind.ofCode c, k.code = c := by
  revert c; decide

@[simp] theorem MKind.ofCode_eq_some (c : BitVec 4) (k : MKind) : MKind.ofCode c = some k ↔ k.code = c := by
  refine ⟨MKind.code_of_ofCode c k, ?_⟩
  rintro rfl
  cases k with
  | fm f => revert f; decide
  | f16 | bf16 | i8 => rfl

theorem Base.code_of_ofCode (a : BitVec 6) : ∀ b ∈ Base.ofCode a, b.code = a := by
  revert a; decide

@[simp] theorem Base.ofCode_eq_some (a : BitVec 6) (b : Base) : Base.ofCode a = some b ↔ b.code = a := by
  refine ⟨Base.code_of_ofCode a b, ?_⟩
  rintro rfl
  cases b with
  | sreg r => revert r; decide
  | gen n => revert n; decide

theorem SysSel.code_of_ofCode (i : BitVec 8) : ∀ s ∈ SysSel.ofCode i, s.code = i := by
  revert i; decide +kernel

@[simp] theorem SysSel.ofCode_eq_some (i : BitVec 8) (s : SysSel) : SysSel.ofCode i = some s ↔ s.code = i := by
  refine ⟨SysSel.code_of_ofCode i s, ?_⟩
  rintro rfl
  cases s with
  | done ch | nextid ch | sdone ch | ndone ch => revert ch; decide
  | _ => rfl

/-! ## The codes that lie across the fields of a slot word -/

theorem ofBool_getLsbD {w : Nat} (x : BitVec w) (i : Nat) : BitVec.ofBool (x.getLsbD i) = x.extractLsb' i 1 := by
  rw [ofBool_eq_iff, BitVec.getLsbD_eq_extractLsb']

theorem ofBool_top (r : BitVec 6) : BitVec.ofBool (top r) = r.extractLsb' 5 1 := ofBool_getLsbD r 5

theorem eq_top_iff (b : Bool) (r : BitVec 6) : b = top r ↔ BitVec.ofBool b = r.extractLsb' 5 1 := by
  rw [top, BitVec.getLsbD_eq_extractLsb', ofBool_eq_iff]

/-- The element type and its reading (R16): t = {d[5], x} and a[5]. -/
@[simp] theorem Fields.vty_eq_some (f : Fields) (t : VTy) :
    f.vty = some t ↔ t.code.extractLsb' 2 1 = f.d.extractLsb' 5 1 ∧ BitVec.ofBool t.nat = f.a.extractLsb' 5 1 ∧
      t.code.extractLsb' 0 2 = f.x := by
  rw [Fields.vty, VTy.ofCode_eq_some, eq_comm, eq_top_iff, Fields.t, append_eq_iff, ofBool_top]
  tauto

/-- The element type where a[5] selects no reading (R16). -/
@[simp] theorem Fields.ety_eq_some (f : Fields) (t : ETy) :
    f.ety = some t ↔ t.code.extractLsb' 2 1 = f.d.extractLsb' 5 1 ∧ t.code.extractLsb' 0 2 = f.x := by
  rw [Fields.ety, ETy.ofCode_eq_some, eq_comm, Fields.t, append_eq_iff, ofBool_top]
  tauto

/-- The operand kind of a matrix slot (R127): {d[5], x, a[5]}. -/
@[simp] theorem Fields.kind_eq_some (f : Fields) (k : MKind) :
    f.kind = some k ↔ k.code.extractLsb' 3 1 = f.d.extractLsb' 5 1 ∧ k.code.extractLsb' 0 1 = f.a.extractLsb' 5 1 ∧
      k.code.extractLsb' 1 2 = f.x := by
  rw [Fields.kind, MKind.ofCode_eq_some, eq_comm, append_eq_iff, append_eq_iff, ofBool_top, ofBool_top,
    extractLsb'_extractLsb' _ _ _ _ _ (by decide), extractLsb'_extractLsb' _ _ _ _ _ (by decide)]
  tauto

/-- The ordering of an atomic (R159): {d[5:4], a[5]}. -/
@[simp] theorem Fields.ord_eq (f : Fields) (o : Ord) :
    f.ord = o ↔ o.code.extractLsb' 1 2 = f.d.extractLsb' 4 2 ∧ o.code.extractLsb' 0 1 = f.a.extractLsb' 5 1 := by
  rw [Fields.ord, Ord.ofCode_eq, eq_comm, append_eq_iff, ofBool_top, hi2]
  tauto

/-- The ordering, written over the fields of an atomic (R159). -/
theorem Fields.eq_ord_iff (f : Fields) (o : Ord) (l : BitVec 4) (rest : Prop) :
    (o.code.extractLsb' 1 2 = f.d.extractLsb' 4 2 ∧ l = f.d.extractLsb' 0 4 ∧
      o.code.extractLsb' 0 1 = f.a.extractLsb' 5 1 ∧ rest) ↔ o = f.ord ∧ l = f.d.extractLsb' 0 4 ∧ rest := by
  rw [eq_comm (a := o), Fields.ord_eq]
  tauto

theorem Ord.code_eq_iff (o : Ord) (c : BitVec 3) : o.code = c ↔ o = Ord.ofCode c := by
  rw [eq_comm (a := o), Ord.ofCode_eq]

/-- The low bits of an immediate stand in the field x. -/
@[simp] theorem Fields.i20_bit0 (f : Fields) : f.i20.extractLsb' 0 1 = f.x.extractLsb' 0 1 := by
  obtain ⟨-, -, -, hx⟩ := (f.eq_i20_iff f.i20).mpr rfl
  rw [← hx, extractLsb'_extractLsb' _ _ _ _ _ (by decide)]

theorem Fields.i8_low (f : Fields) : f.i8.extractLsb' 0 2 = f.x := ((f.eq_i8_iff f.i8).mpr rfl).2

theorem Fields.t_eq_iff (f : Fields) (c : BitVec 3) :
    f.t = c ↔ c.extractLsb' 2 1 = f.d.extractLsb' 5 1 ∧ c.extractLsb' 0 2 = f.x := by
  rw [Fields.t, append_eq_iff, ofBool_top]
  tauto

/-- i8 as its fields (R15). -/
theorem Fields.i8_eq_iff (f : Fields) (z : BitVec 8) :
    f.i8 = z ↔ f.b = z.extractLsb' 2 6 ∧ f.x = z.extractLsb' 0 2 := by
  rw [eq_comm, ← f.eq_i8_iff, eq_comm, eq_comm (a := f.x)]

/-- The operation of an atomic (R159): {b[5], x}. -/
theorem Fields.aop_eq_iff (f : Fields) (c : BitVec 3) :
    f.aop = c ↔ f.b.extractLsb' 5 1 = c.extractLsb' 2 1 ∧ f.x = c.extractLsb' 0 2 := by
  rw [Fields.aop, append_eq_iff, ofBool_top]

@[simp] theorem Fields.ord_code (f : Fields) :
    f.ord.code.extractLsb' 1 2 = f.d.extractLsb' 4 2 ∧ f.ord.code.extractLsb' 0 1 = f.a.extractLsb' 5 1 :=
  (f.ord_eq f.ord).mp rfl

@[simp] theorem Ord.code_ofCode (c : BitVec 3) : (Ord.ofCode c).code = c := (Ord.ofCode_eq c _).mp rfl

@[simp] theorem VCond.code_ofCode (c : BitVec 2) : (VCond.ofCode c).code = c := (VCond.ofCode_eq c _).mp rfl

theorem VTy.code_ne_six (t : VTy) : t.code ≠ 6#3 := by cases t <;> decide

/-! ## Bits of a field that the decoder tests apart and the encoder writes together -/

theorem hi3_eq_zero_iff (r : BitVec 6) :
    r.extractLsb' 3 3 = 0#3 ↔ r.extractLsb' 5 1 = 0#1 ∧ r.extractLsb' 3 2 = 0#2 := by
  revert r; decide

theorem hi3_eq_seven_iff (r : BitVec 6) :
    r.extractLsb' 3 3 = 7#3 ↔ r.extractLsb' 5 1 = 1#1 ∧ r.extractLsb' 3 2 = 3#2 := by
  revert r; decide

theorem hi4_eq_zero_iff (r : BitVec 6) :
    r.extractLsb' 2 4 = 0#4 ↔ r.extractLsb' 3 3 = 0#3 ∧ r.extractLsb' 2 1 = 0#1 := by
  revert r; decide

theorem hi5_eq_iff (z : BitVec 8) (c : BitVec 5) :
    z.extractLsb' 3 5 = c ↔ z.extractLsb' 4 4 = c.extractLsb' 1 4 ∧ z.extractLsb' 3 1 = c.extractLsb' 0 1 := by
  have h := append_eq_iff (z.extractLsb' 4 4) (z.extractLsb' 3 1) c
  rwa [BitVec.extractLsb'_append_extractLsb'_eq_extractLsb' (by rfl)] at h

/-- Words with the same high and the same low bits. -/
theorem eq_of_parts {n m : Nat} {r c : BitVec (n + m)} (hh : r.extractLsb' m n = c.extractLsb' m n)
    (hl : r.extractLsb' 0 m = c.extractLsb' 0 m) : r = c := by
  rw [← BitVec.extractLsb'_append_extractLsb' (x := r), (append_eq_iff _ _ c).mpr ⟨hh, hl⟩]

theorem eq_of_top_of_lo5 {r c : BitVec 6} (hh : r.extractLsb' 5 1 = c.extractLsb' 5 1)
    (hl : r.extractLsb' 0 5 = c.extractLsb' 0 5) : r = c := eq_of_parts (n := 1) hh hl

theorem eq_of_hi5_of_bit0 {r c : BitVec 6} (hh : r.extractLsb' 1 5 = c.extractLsb' 1 5)
    (hl : r.extractLsb' 0 1 = c.extractLsb' 0 1) : r = c := eq_of_parts (n := 5) hh hl

@[simp] theorem not_eq_one_iff (x : BitVec 1) : ¬ x = 1#1 ↔ x = 0#1 := by
  revert x; decide

@[simp] theorem chk_eq_ok (c : Bool) (i j : Instr) : chk c i = .ok j ↔ c = true ∧ i = j := by
  cases c <;> simp [chk]

@[simp] theorem rf_eq_ok (o : Option Instr) (i : Instr) : rf o = .ok i ↔ o = some i := by
  cases o <;> simp [rf]

@[simp] theorem ofBool_beq_one (x : BitVec 1) : BitVec.ofBool (x == 1#1) = x := by
  revert x; decide

/-- A constant is put on the right, where a fact about a field rewrites the field. -/
theorem ofNat_eq_iff {w : Nat} (n : Nat) (x : BitVec w) : BitVec.ofNat w n = x ↔ x = BitVec.ofNat w n := eq_comm

/-- The number that the decoder matches on, as a word. -/
theorem toNat_eq_iff {w : Nat} (x : BitVec w) (n : Nat) (h : n < 2 ^ w) : x.toNat = n ↔ x = BitVec.ofNat w n := by
  rw [BitVec.toNat_eq_nat, and_iff_right h]

/-- The bits of i8 above the field x stand in the field b (R15). -/
theorem Fields.i8_hi (f : Fields) (s l : Nat) (hs : 2 ≤ s) (hl : s + l ≤ 8) :
    f.i8.extractLsb' s l = f.b.extractLsb' (s - 2) l := by
  obtain ⟨hb, -⟩ := (f.eq_i8_iff f.i8).mpr rfl
  rw [← hb, extractLsb'_extractLsb' _ _ _ _ _ (by omega), Nat.add_sub_cancel' hs]

/-- The parts of a type code and of an immediate, read back. -/
@[simp] theorem extract_append_code :
    (∀ (x : BitVec 1) (y : BitVec 2), (x ++ y).extractLsb' 2 1 = x ∧ (x ++ y).extractLsb' 0 2 = y) ∧
    (∀ (x : BitVec 6) (y : BitVec 2), (x ++ y).extractLsb' 2 6 = x ∧ (x ++ y).extractLsb' 0 2 = y) :=
  ⟨fun _ _ => ⟨BitVec.extractLsb'_append_eq_left, BitVec.extractLsb'_append_eq_right⟩,
    fun _ _ => ⟨BitVec.extractLsb'_append_eq_left, BitVec.extractLsb'_append_eq_right⟩⟩

/-! ## The bits of a slot word that the decoder's own cuts read -/

@[simp] theorem top_eq (r : BitVec 6) : top r = (r.extractLsb' 5 1 == 1#1) := BitVec.getLsbD_eq_extractLsb' r 5
@[simp] theorem hi2_eq (r : BitVec 6) : hi2 r = r.extractLsb' 4 2 := rfl
@[simp] theorem hi3_eq (r : BitVec 6) : hi3 r = r.extractLsb' 3 3 := rfl
@[simp] theorem lo3_eq (r : BitVec 6) : lo3 r = r.extractLsb' 0 3 := rfl
@[simp] theorem lo4_eq (r : BitVec 6) : lo4 r = r.extractLsb' 0 4 := rfl
@[simp] theorem lo5_eq (r : BitVec 6) : lo5 r = r.extractLsb' 0 5 := rfl

theorem eq_three_iff (x : BitVec 2) : x = 3#2 ↔ ¬x = 0#2 ∧ ¬x = 1#2 ∧ ¬x = 2#2 := by
  revert x; decide

theorem Fields.b_eq_iff_top (f : Fields) (c : BitVec 6) :
    f.b = c ↔ f.b.extractLsb' 5 1 = c.extractLsb' 5 1 ∧ f.b.extractLsb' 0 5 = c.extractLsb' 0 5 :=
  ⟨fun h => h ▸ ⟨rfl, rfl⟩, fun h => eq_of_top_of_lo5 h.1 h.2⟩

theorem Fields.b_eq_iff_bit0 (f : Fields) (c : BitVec 6) :
    f.b = c ↔ f.b.extractLsb' 1 5 = c.extractLsb' 1 5 ∧ f.b.extractLsb' 0 1 = c.extractLsb' 0 1 :=
  ⟨fun h => h ▸ ⟨rfl, rfl⟩, fun h => eq_of_hi5_of_bit0 h.1 h.2⟩

theorem Fields.aop_eq_ofNat_iff (f : Fields) (n : Nat) :
    f.aop = BitVec.ofNat 3 n ↔ f.b.extractLsb' 5 1 = BitVec.ofNat 1 (n / 4) ∧ f.x = BitVec.ofNat 2 n := by
  have hhi : (BitVec.ofNat 3 n).extractLsb' 2 1 = BitVec.ofNat 1 (n / 4) := by
    apply BitVec.eq_of_toNat_eq
    simp only [BitVec.extractLsb'_toNat, BitVec.toNat_ofNat, Nat.shiftRight_eq_div_pow]
    omega
  have hlo : (BitVec.ofNat 3 n).extractLsb' 0 2 = BitVec.ofNat 2 n := by
    apply BitVec.eq_of_toNat_eq
    simp only [BitVec.extractLsb'_toNat, BitVec.toNat_ofNat, Nat.shiftRight_zero]
    omega
  rw [f.aop_eq_iff, hhi, hlo]

/-- The last operation of famo: the code that is none of the seven others (R159). -/
theorem top_x_eq_seven (b : BitVec 1) (x : BitVec 2) :
    b = 1#1 ∧ x = 3#2 ↔ ¬(b = 0#1 ∧ x = 0#2) ∧ ¬(b = 0#1 ∧ x = 1#2) ∧ ¬(b = 0#1 ∧ x = 2#2) ∧ ¬(b = 0#1 ∧ x = 3#2) ∧
      ¬(b = 1#1 ∧ x = 0#2) ∧ ¬(b = 1#1 ∧ x = 1#2) ∧ ¬(b = 1#1 ∧ x = 2#2) := by
  revert b x; decide

/-! ## Each class reads only well-formed instructions, and those whose fields it was given -/

/-- What a reading of fields may answer: well-formed instructions whose fields these are. -/
def Reads (f : Fields) (r : Except DecodeError Instr) : Prop :=
  ∀ i, r = .ok i → i.wf = true ∧ fieldsOf i = some f

@[simp] theorem reads_error (f : Fields) (e : DecodeError) : Reads f (.error e) := by
  intro i h; cases h

@[simp] theorem reads_ok (f : Fields) (i : Instr) : Reads f (.ok i) ↔ i.wf = true ∧ fieldsOf i = some f := by
  simp [Reads]

@[simp] theorem reads_chk (f : Fields) (c : Bool) (i : Instr) :
    Reads f (chk c i) ↔ (c = true → Reads f (.ok i)) := by
  cases c <;> simp [chk, reads_error]

@[simp] theorem reads_rf_none (f : Fields) : Reads f (rf none) := reads_error f _

@[simp] theorem reads_rf_some (f : Fields) (i : Instr) : Reads f (rf (some i)) ↔ i.wf = true ∧ fieldsOf i = some f :=
  reads_ok f i

@[simp] theorem reads_rf_map {α : Type} (f : Fields) (o : Option α) (g : α → Instr) :
    Reads f (rf (o.map g)) ↔ ∀ t, o = some t → Reads f (.ok (g t)) := by
  cases o <;> simp [rf, reads_error]

@[simp] theorem reads_rf_bind {α : Type} (f : Fields) (o : Option α) (g : α → Option Instr) :
    Reads f (rf (o.bind g)) ↔ ∀ t, o = some t → Reads f (rf (g t)) := by
  cases o <;> simp [rf, reads_error]

@[simp] theorem reads_rf_ite (f : Fields) (c : Prop) [Decidable c] (o p : Option Instr) :
    Reads f (rf (if c then o else p)) ↔ (c → Reads f (rf o)) ∧ (¬c → Reads f (rf p)) := by
  split <;> simp [*]

@[simp] theorem reads_ite (f : Fields) (c : Prop) [Decidable c] (r q : Except DecodeError Instr) :
    Reads f (if c then r else q) ↔ (c → Reads f r) ∧ (¬c → Reads f q) := by
  split <;> simp [*]

@[simp] theorem reads_ok_ite (f : Fields) (c : Prop) [Decidable c] (i j : Instr) :
    Reads f (.ok (if c then i else j)) ↔ (c → Reads f (.ok i)) ∧ (¬c → Reads f (.ok j)) := by
  split <;> simp [*]

/-- Opcode 0x4F: the codes 6 of the destination and of the source tell the three forms apart (R106). -/
theorem decodeVectorA_reads_vcvt (f : Fields) (hop : f.op = 0x4F#7) : Reads f (decodeVectorA f) := by
  simp only [decodeVectorA, hop, BitVec.reduceToNat, beq_iff_eq, lo3_eq]
  split
  case isTrue ht =>
    obtain ⟨hd, hx⟩ := (f.t_eq_iff _).mp ht
    simp +contextual [fieldsOf, Instr.wf, CvtForm.dcode, CvtForm.dnat, CvtForm.hi, CvtForm.scode, hop, ← hd, ← hx,
      BitVec.getElem_eq_extractLsb']
  case isFalse =>
    split
    · simp +contextual [fieldsOf, Instr.wf, CvtForm.dcode, CvtForm.dnat, CvtForm.hi, CvtForm.scode,
        BitVec.getElem_eq_extractLsb', Fields.t, *]
    · simp +contextual [fieldsOf, Instr.wf, CvtForm.dcode, CvtForm.dnat, CvtForm.hi, CvtForm.scode, hop,
        BitVec.getElem_eq_extractLsb']

/-! Each class below: split on the opcode, carry `Reads` through the checks, split on a form's selector, turn the numbers
that were matched into words, and compare the fields that the encoder writes. -/

theorem decodeControl_reads (f : Fields) : Reads f (decodeControl f) := by
  unfold decodeControl
  split
  all_goals try simp only [reads_chk, reads_ok_ite, reads_ite]
  all_goals try split
  all_goals simp (disch := decide) only [toNat_eq_iff, imp_false] at *
  all_goals simp +contextual [Instr.wf, fieldsOf, BitVec.getElem_eq_extractLsb', *]

theorem decodeScalar_reads (f : Fields) : Reads f (decodeScalar f) := by
  unfold decodeScalar
  split
  all_goals try simp only [reads_chk, reads_ok_ite, reads_rf_map, reads_rf_ite]
  all_goals try split
  all_goals simp (disch := decide) only [toNat_eq_iff, imp_false, Fields.i8_eq_iff] at *
  all_goals simp +contextual [Instr.wf, fieldsOf, ofNat_eq_iff, BitVec.getElem_eq_extractLsb', eq_three_iff,
    hi5_eq_iff, *]

theorem decodeEngine_reads (f : Fields) : Reads f (decodeEngine f) := by
  unfold decodeEngine
  split
  all_goals try simp only [reads_chk]
  all_goals try split
  all_goals simp (disch := decide) only [toNat_eq_iff, imp_false, Fields.aop_eq_ofNat_iff, Nat.reduceDiv,
    BitVec.reduceOfNat] at *
  all_goals simp +contextual [Instr.wf, fieldsOf, ofNat_eq_iff, BitVec.getElem_eq_extractLsb', Fields.b_eq_iff_top,
    hi4_eq_zero_iff, top_x_eq_seven, *]

theorem decodeVectorA_reads (f : Fields) : Reads f (decodeVectorA f) := by
  by_cases hcvt : f.op = 0x4F#7
  · exact decodeVectorA_reads_vcvt f hcvt
  unfold decodeVectorA
  split
  all_goals try simp only [reads_ok_ite, reads_rf_map, reads_rf_bind, reads_rf_ite, reads_ite]
  all_goals try split
  all_goals simp (disch := decide) only [toNat_eq_iff, imp_false] at *
  case h_16 => exact absurd ‹f.op = 79#7› hcvt
  all_goals simp +contextual [Instr.wf, fieldsOf, ofNat_eq_iff, BitVec.getElem_eq_extractLsb', Fields.b_eq_iff_bit0, *]

theorem decodeVectorB_reads (f : Fields) : Reads f (decodeVectorB f) := by
  unfold decodeVectorB
  split
  all_goals try simp only [reads_ok_ite, reads_rf_map, reads_rf_bind, reads_rf_ite]
  all_goals try split
  all_goals simp (disch := decide) only [toNat_eq_iff, imp_false, append_eq_code, ofBool_top] at *
  all_goals simp +contextual [Instr.wf, fieldsOf, ofNat_eq_iff, hi3_eq_zero_iff, *]

theorem decodeMemory_reads (f : Fields) : Reads f (decodeMemory f) := by
  unfold decodeMemory
  split
  all_goals try simp only [reads_chk, reads_ok_ite, reads_rf_map, reads_rf_bind, reads_rf_ite, reads_ite]
  all_goals try split
  all_goals simp (disch := decide) only [toNat_eq_iff, imp_false, Fields.aop_eq_ofNat_iff, Nat.reduceDiv,
    BitVec.reduceOfNat] at *
  all_goals simp +contextual [Instr.wf, fieldsOf, ofNat_eq_iff, BitVec.getElem_eq_extractLsb', eq_three_iff,
    Fields.i8_low, Fields.i8_hi, -Fields.eq_i8_iff, *]

theorem decodeMatrix_reads (f : Fields) : Reads f (decodeMatrix f) := by
  unfold decodeMatrix
  split
  all_goals try simp only [reads_chk, reads_ok_ite, reads_rf_map, reads_rf_bind, reads_rf_ite]
  all_goals try split
  all_goals simp (disch := decide) only [toNat_eq_iff, imp_false] at *
  all_goals simp +contextual [Instr.wf, fieldsOf, ofNat_eq_iff, Fields.b_eq_iff_top, *]

/-! ## Each class reads back the fields that an instruction writes -/

/-- A code of a floating point type in three bits (R106). -/
theorem float_code_bits (c : BitVec 2) :
    (0#1 ++ c : BitVec 3) ≠ 6#3 ∧ (0#1 ++ c : BitVec 3).getLsbD 2 = false ∧ (0#1 ++ c : BitVec 3).extractLsb' 0 2 = c := by
  revert c; decide

/-- A reading in b[5:3] of vcvt (R106). -/
theorem reading_bits (n : Bool) :
    (0#2 ++ BitVec.ofBool n : BitVec 3).extractLsb' 1 2 = 0#2 ∧ (0#2 ++ BitVec.ofBool n : BitVec 3).getLsbD 0 = n := by
  revert n; decide

/-- The three forms of vcvt: the codes 6 of the destination and of the source tell them apart (R106). -/
theorem decodeVectorA_vcvt (f : Fields) (form : CvtForm) (hop : f.op = 0x4F#7)
    (hd : form.dcode.extractLsb' 2 1 = f.d.extractLsb' 5 1) (hx : form.dcode.extractLsb' 0 2 = f.x)
    (hn : BitVec.ofBool form.dnat = f.a.extractLsb' 5 1) (hhi : form.hi = hi3 f.b) (hs : form.scode = lo3 f.b) :
    decodeVectorA f = .ok (.vcvt f.head form (lo5 f.d) (lo5 f.a)) := by
  have ht : f.t = form.dcode := (f.t_eq_iff _).mpr ⟨hd, hx⟩
  have hta : top f.a = form.dnat := ((eq_top_iff _ _).mpr hn).symm
  simp only [decodeVectorA, hop, ht, hta, ← hhi, ← hs, BitVec.reduceToNat]
  cases form with
  | elem dst src =>
    have hv : f.vty = some dst := (f.vty_eq_some _).mpr ⟨hd, hn, hx⟩
    simp only [CvtForm.dcode, CvtForm.scode, CvtForm.hi, hv, reading_bits]
    simp [VTy.code_ne_six]
  | toNarrow n src =>
    simp only [CvtForm.dcode, CvtForm.scode, CvtForm.hi, CvtForm.dnat, float_code_bits]
    simp
  | fromNarrow dst n =>
    have hne := (float_code_bits dst.code).1
    have hfx : FTy.ofCode f.x = some dst := by
      rw [FTy.ofCode_eq_some, ← hx]
      exact (float_code_bits dst.code).2.2.symm
    simp only [CvtForm.dcode, CvtForm.scode, CvtForm.hi, CvtForm.dnat, float_code_bits, hfx]
    simp [hne]

/-! The table of the encoder's fields is read once below opcode 0x40 and once from it on, each time with the classes that
can hold the opcode: `hc` drops the instructions of the other half. -/

theorem decodeFields_of_fieldsOf_low (f : Fields) (i : Instr) (hc : f.op.toNat < 0x40) (h : fieldsOf i = some f)
    (hw : i.wf = true) : decodeFields f = .ok i := by
  cases i
  all_goals
    simp only [fieldsOf, reduceCtorEq, Option.some.injEq, mk_eq_iff, Fields.eq_i20_iff, Fields.eq_i14_iff,
      Fields.eq_i8_iff, append_eq_imm, append_eq_word, append_eq_field, append_eq_code, extractLsb'_extractLsb',
      ofNat_eq_iff, and_assoc, Fields.eq_ord_iff, Ord.code_eq_iff, ofBool_eq_iff, Nat.reduceAdd, Nat.reduceLeDiff,
      Fields.i20_bit0, Fields.i8_low, hi4_eq_zero_iff, hi5_eq_iff] at h
  all_goals obtain ⟨rfl, hop, h⟩ := h
  all_goals simp only [hop, BitVec.reduceToNat, Nat.reduceLT] at hc
  all_goals simp only [Instr.wf, h, Bool.and_eq_true, bne_iff_ne, ne_eq] at hw
  all_goals
    simp [decodeFields, hop, h, hw, decodeControl, decodeScalar, decodeEngine, Fields.aop, BitVec.getElem_eq_extractLsb']

theorem decodeFields_of_fieldsOf_high (f : Fields) (i : Instr) (hc : 0x40 ≤ f.op.toNat) (h : fieldsOf i = some f)
    (hw : i.wf = true) : decodeFields f = .ok i := by
  cases i
  all_goals
    simp only [fieldsOf, reduceCtorEq, Option.some.injEq, mk_eq_iff, Fields.eq_i20_iff, Fields.eq_i14_iff,
      Fields.eq_i8_iff, append_eq_imm, append_eq_word, append_eq_field, append_eq_code, extractLsb'_extractLsb',
      ofNat_eq_iff, and_assoc, Fields.eq_ord_iff, Ord.code_eq_iff, ofBool_eq_iff, Nat.reduceAdd, Nat.reduceLeDiff,
      Fields.i20_bit0, Fields.i8_low, hi3_eq_zero_iff] at h
  all_goals obtain ⟨rfl, hop, h⟩ := h
  all_goals simp only [hop, BitVec.reduceToNat, Nat.reduceLeDiff] at hc
  all_goals
    simp only [Instr.wf, h, Bool.and_eq_true, bne_iff_ne, ne_eq, Bool.or_eq_true, Bool.not_eq_eq_eq_not, Bool.not_true,
      beq_eq_false_iff_ne, beq_iff_eq, not_eq_one_iff, hi3_eq_zero_iff, hi3_eq_seven_iff] at hw
  case vcvt form d a =>
    obtain ⟨hd, rfl, hn, rfl, hhi, hs, hx⟩ := h
    simp only [decodeFields, hop]
    exact decodeVectorA_vcvt f form hop hd hx ((ofBool_eq_iff _ _).mpr hn) hhi hs
  all_goals
    simp [decodeFields, hop, h, hw, decodeVectorA, decodeVectorB, decodeMemory, decodeMatrix, hi3_eq_zero_iff,
      hi3_eq_seven_iff, Fields.aop, Option.bind_eq_some_iff, BitVec.getElem_eq_extractLsb']

theorem decodeFields_reads (f : Fields) : Reads f (decodeFields f) := by
  unfold decodeFields
  split
  · exact decodeControl_reads f
  · exact decodeScalar_reads f
  · exact decodeScalar_reads f
  · exact decodeEngine_reads f
  · exact decodeVectorA_reads f
  · exact decodeVectorB_reads f
  · exact decodeMemory_reads f
  · exact decodeMatrix_reads f

theorem decodeFields_of_fieldsOf (f : Fields) (i : Instr) (h : fieldsOf i = some f) (hw : i.wf = true) :
    decodeFields f = .ok i :=
  (Nat.lt_or_ge f.op.toNat 0x40).elim (decodeFields_of_fieldsOf_low f i · h hw)
    (decodeFields_of_fieldsOf_high f i · h hw)

/-- A well-formed instruction's word is that of its fields. -/
theorem encode_eq_some_iff (i : Instr) (w : SlotWord) :
    encode i = some w ↔ i.wf = true ∧ fieldsOf i = some (Fields.ofWord w) := by
  simp [encode, Fields.toWord_eq_iff]

/-- Settles O35: the word's fields are the instruction's, and each class reads them back. -/
theorem decodeEncode : Obligations.DecodeEncode := by
  intro i w h
  obtain ⟨hwf, hf⟩ := (encode_eq_some_iff i w).mp h
  exact decodeFields_of_fieldsOf _ i hf hwf

/-- Settles O36: what each class reads is well-formed and has the fields that were read. -/
theorem encodeDecode : Obligations.EncodeDecode := by
  intro w i h
  have hread := decodeFields_reads (Fields.ofWord w) i h
  exact ⟨hread.1, (encode_eq_some_iff i w).mpr hread⟩

end Sys2Proof

end

section
namespace Sys2Proof

/-! ## The sample words -/

/-- Settles O34: each word is closed, and the decoder evaluates to the instruction written for it. -/
theorem decodeSampleWords : Obligations.DecodeSampleWords := by
  unfold Obligations.DecodeSampleWords
  intro h
  and_intros <;> rfl

end Sys2Proof

end

section
namespace Sys2Proof

open Machine

/-! ## A step that issues -/

theorem runSlots_cons_of_next {n : Nat} {i : Instr} {s t : State} (rest : List (Nat × Instr))
    (h : exec i { s with iss := { s.iss with slot := BitVec.ofNat 3 n } } = .next t) :
    runSlots ((n, i) :: rest) s = runSlots rest t := by
  rw [runSlots, h]

theorem mem_decoded (ws : List SlotWord) (n : Nat) (i : Instr) :
    (n, i) ∈ decoded ws ↔ ∃ w, ws[n]? = some w ∧ decodeWord w = .ok i := by
  simp only [decoded, List.mem_filterMap, List.mem_mapIdx, List.getElem?_eq_some_iff]
  constructor
  · rintro ⟨p, ⟨m, hm, rfl⟩, hp⟩
    split at hp
    case h_1 j hw =>
      simp only [Option.some.injEq, Prod.mk.injEq] at hp
      obtain ⟨rfl, rfl⟩ := hp
      exact ⟨ws[m], ⟨hm, rfl⟩, hw⟩
    case h_2 => simp at hp
  · rintro ⟨w, ⟨hn, rfl⟩, hw⟩
    exact ⟨(n, ws[n]), ⟨n, hn, rfl⟩, by simp only [hw]⟩

/-- The slots of a bundle stand one after the other from its address (R17). -/
theorem Machine.Core.frame_getElem? (k : Core) (fuel : Nat) :
    ∀ (a n : Nat) (w : SlotWord), (k.frame a fuel).1[n]? = some w → w = k.slotWord (a + 4 * n) := by
  induction fuel with
  | zero => intro a n w h; simp [Core.frame] at h
  | succ fuel ih =>
    intro a n w h
    simp only [Core.frame] at h
    split at h
    case isTrue => simp at h
    case isFalse =>
      cases n with
      | zero => split at h <;> simp_all
      | succ n =>
        split at h
        case isTrue => simp at h
        case isFalse =>
          have hrest := ih (a + 4) n w (by simpa using h)
          rwa [Nat.add_assoc, Nat.add_comm 4, ← Nat.mul_succ] at hrest

/-- Past the end of the instruction store stands a one-slot bundle (log entry 37). -/
theorem Machine.Core.bundleAt_cases (k : Core) (a : Nat) : (a ≤ 0x3FFFC → k.bundleAt a = k.frame a 8) ∧
    (0x3FFFC < a → k.bundleAt a = ([BitVec.allOnes 32], true)) :=
  ⟨fun h => if_neg (Nat.not_lt.mpr h), fun h => if_pos h⟩

/-- The checks of the whole bundle read the machine before it and leave it. -/
theorem Machine.State.wholeChecks_before {s : State} {m : Mach} (h : s.iss.before = some m)
    (is : List (Nat × Instr)) : (s.wholeChecks is).iss.before = some m := by
  simp only [State.wholeChecks]
  split <;> split <;> simp [State.raiseMask, State.pre, h]

/-- A bundle in good lines that passes the refusal checks within its budget begins with its decoded slots (R165). -/
theorem Machine.State.begin_of_passes (s : State) {cl : ClusterId} {co : CoreId} {cx : CtxId}
    (hcx : s.mach.issuing cl co = some cx) :
    let x := s.mach.ctx ⟨cl, co, cx⟩
    let fr := (s.mach.core cl co).bundleAt x.pc.toNat
    (s.mach.core cl co).fetchError x.pc.toNat fr.1.length = none → (refusal fr.1 fr.2).2 = 0 → x.count ≤ x.budget →
      s.begin cl co = some (((s.frameOf cl co cx (BitVec.ofNat 19 (x.pc.toNat + 4 * fr.1.length))).advance
        fr.1).wholeChecks (decoded fr.1), decoded fr.1) := by
  intro x fr herr href hbudget
  simp only [State.begin, hcx]
  simp [x, fr, herr, href, Nat.not_lt.mpr hbudget]

/-- Settles O38. -/
theorem stepRunsDecoded : Obligations.StepRunsDecoded := by
  refine ⟨fun _ => rfl, fun _ _ rest _ _ => runSlots_cons_of_next rest, mem_decoded,
    fun k a fuel => k.frame_getElem? fuel a, Core.bundleAt_cases, fun s => ⟨?_, ?_⟩⟩
  · intro i rest hev
    simp [step, hev, State.pop]
  · intro cl co rest cx hjob hcx u x fr is herr href hbudget v
    have hpop : s.pop = u := by simp [State.pop, u, hjob]
    have hbegin : u.begin cl co = some (v, is) := u.begin_of_passes hcx herr href hbudget
    refine ⟨fun t ht => ?_, State.wholeChecks_before rfl is⟩
    simp only [step, hjob, hpop, State.issue, hbegin, ht]

end Sys2Proof

end

section
namespace Sys2Proof

open Machine

/-! ## A false predicate guard -/

/-- Every predicated slot is one conditional on its guard, whose other branch is the state as it was (R19). -/
theorem Machine.State.next_of_pguard_false {s : State} {h : Head} (hp : s.pguard h = false) (t : State) :
    (Host.Outcome.next (if s.pguard h = true then t else s) : Host.Outcome State Fault Refusal) = .next s :=
  congrArg _ (if_neg (Bool.eq_false_iff.mp hp))

/-- Settles O45: a slot under a mask is none of these, nop does nothing, br.t is left out, and every other slot unfolds
to one conditional on its guard. -/
theorem falseGuardNullifies : Obligations.FalseGuardNullifies := by
  intro i f s hf hmask hguard hbrT
  have hp : s.pguard f.head = false := hguard
  cases i
  all_goals simp only [fieldsOf, reduceCtorEq, Option.some.injEq, mk_eq_iff] at hf
  all_goals obtain ⟨rfl, hop, -⟩ := hf
  all_goals rw [← hop] at hmask
  case nop => rfl
  case brT off => exact absurd rfl (hbrT _ off)
  case vadd | vsub | vmul | vfma | vfnma | vmin | vmax | vabs | vneg | vand | vor | vxor | vshl | vshr | vcmp | vsel |
      vcvt | vredSum | vredMax | vredMin | vbcast | vext | vins | vperm | vslide | viota | vrcp | vrsq | vexp2 | vlog2 |
      vmov | vmskAnd | vmskOr | vmskXor | vmskNot | vmskPopc | vmskFfs | vpack | vunpk | vscale | vld | vldT | vst |
      vldg | vstg | vgath | vscat => exact absurd hmask (by decide)
  all_goals exact State.next_of_pguard_false hp _

end Sys2Proof

end

section
namespace Sys2Proof

open Machine

/-! ## A suppressed bundle -/

/-- From one state a slot adds traps to the bundle's list, and where it adds none it leaves the machine (R24). -/
def OnlyRaises (s t : State) : Prop := ∃ l, t.iss.raises = s.iss.raises ++ l ∧ (l = [] → t.mach = s.mach)

theorem OnlyRaises.refl (s : State) : OnlyRaises s s := ⟨[], (List.append_nil _).symm, fun _ => rfl⟩

theorem OnlyRaises.raise (s : State) (cause : BitVec 8) (detail : Word) : OnlyRaises s (s.raise cause detail) :=
  ⟨[_], rfl, nofun⟩

theorem OnlyRaises.ite {s t u : State} {c : Prop} [Decidable c] (ht : OnlyRaises s t) (hu : OnlyRaises s u) :
    OnlyRaises s (if c then t else u) := by
  split
  · exact ht
  · exact hu

theorem OnlyRaises.checkedSlot {s : State} {h : Head} {f : State → State} (hf : OnlyRaises s (f s)) :
    OnlyRaises s (s.checkedSlot h f) := .ite hf (.refl s)

section Suppressed
variable {s : State} (hs : s.iss.raises ≠ [])
include hs

theorem perform_of_raises (f : State → State) : s.perform f = s := by
  simp [State.perform, hs]

theorem OnlyRaises.perform (f : State → State) : OnlyRaises s (s.perform f) := by
  rw [perform_of_raises hs]
  exact .refl s

theorem OnlyRaises.guarded (h : Head) (f : State → State) : OnlyRaises s (s.guarded h f) := .ite (.perform hs f) (.refl s)

theorem OnlyRaises.checked (k : AccessKind) (irqOk : Bool) (accs : List (List Nat)) (mis : Option (Nat × Nat))
    (f : State → State) : OnlyRaises s (s.checked k irqOk accs mis f) := by
  unfold State.checked
  split
  · exact .raise ..
  · split
    · exact .raise ..
    · exact .perform hs f

theorem OnlyRaises.matrixChecked (h : Head) (busy : Option Nat) (writes : List AccSlot) (tileOk : Bool) (tile : Nat)
    (accs : List (List Nat)) (operand : Option Word) (f : State → State) :
    OnlyRaises s (s.matrixChecked h busy writes tileOk tile accs operand f) := by
  refine .checkedSlot ?_
  split
  · exact .raise ..
  split
  · exact .raise ..
  refine .ite (.raise ..) ?_
  split
  · exact .raise ..
  split
  · exact .raise ..
  · exact .perform hs f

theorem OnlyRaises.transfer (a : Int) (lat : Nat) (f : State → State) : OnlyRaises s (s.transfer a lat f) :=
  .ite (.raise ..) (.perform hs _)

theorem OnlyRaises.branch (hint : Bool) (h : Head) (off : BitVec 19) : OnlyRaises s (branch hint h off s) :=
  .ite (.transfer hs ..) (.ite (.perform hs _) (.refl s))

theorem OnlyRaises.startLoop (h : Head) (b n : Nat) : OnlyRaises s (startLoop h b n s) :=
  .checkedSlot (.ite (.perform hs _) (.ite (.raise ..) (.ite (.raise ..) (.perform hs _))))

theorem OnlyRaises.receive (vec : Bool) (h : Head) (d : RegDest) (i : CoreId) : OnlyRaises s (receive vec h d i s) := by
  refine .ite ?_ (.refl s)
  dsimp only
  split
  · exact .raise ..
  · exact .ite (.perform hs _) (.raise ..)

/-- A division claims the divider for the later slots of its bundle also where it is suppressed. -/
theorem OnlyRaises.divide (f : Word → Word → Word) (h : Head) (d a b : SReg) : OnlyRaises s (divide f h d a b s) :=
  .ite (.ite (.raise { s with iss := { s.iss with divides := true } } ..)
    (.ite (.raise { s with iss := { s.iss with divides := true } } ..)
      (.perform (s := { s with iss := { s.iss with divides := true } }) hs _))) (.refl s)

end Suppressed

/-- Every slot of a suppressed bundle only raises (R24). -/
theorem exec_onlyRaises (i : Instr) {s : State} (hi : (fieldsOf i).isSome = true) (hs : s.iss.raises ≠ []) :
    ∃ t, exec i s = .next t ∧ OnlyRaises s t := by
  cases i
  case brT | brN => exact ⟨_, rfl, .branch hs ..⟩
  case nop => exact ⟨_, rfl, .refl s⟩
  case call | jr | ret => exact ⟨_, rfl, .ite (.transfer hs ..) (.refl s)⟩
  case loop | loopi => exact ⟨_, rfl, .startLoop hs ..⟩
  case lbrk =>
    refine ⟨_, rfl, .checkedSlot ?_⟩
    split
    · exact .raise ..
    · exact .perform hs _
  case trap => exact ⟨_, rfl, .ite (.raise ..) (.refl s)⟩
  case fmtr => exact ⟨_, rfl, .ite (.ite (.perform hs _) (.raise ..)) (.refl s)⟩
  case capoAcq => exact ⟨_, rfl, .ite (.ite (.raise ..) (.ite (.raise ..) (.perform hs _))) (.refl s)⟩
  case brgPush => exact ⟨_, rfl, .ite (.ite (.raise ..) (.perform hs _)) (.refl s)⟩
  case brgPop =>
    exact ⟨_, rfl, .ite (.ite (.raise ..) (.ite (.raise ..) (.ite (.raise ..) (.perform hs _)))) (.refl s)⟩
  case xrcvScalar | xrcvVector => exact ⟨_, rfl, .receive hs ..⟩
  case evtPost => exact ⟨_, rfl, .checkedSlot (.ite (.perform hs _) (.raise ..))⟩
  case evtIrq => exact ⟨_, rfl, .checkedSlot (.ite (.raise ..) (.ite (.raise ..) (.perform hs _)))⟩
  case div | divn | rem | remn => exact ⟨_, rfl, .divide hs ..⟩
  case vext => exact ⟨_, rfl, .ite (.perform hs _) (.refl s)⟩
  case ldsB | ldsH | ldsW | ldsD | ldzB | ldzH | ldzW | stB | stH | stW | stD | ldt | amoAdd | amoMin | amoMax | amoAnd |
      amoOr | amoXor | amoSwap | acas | ald | ast => exact ⟨_, rfl, .checkedSlot (.checked hs ..)⟩
  case vld | vldT | vst | vldg | vstg | vgath | vscat => exact ⟨_, rfl, .checked hs ..⟩
  case mld | mldSp | mswp | mma | aclr | ard | awr | aexp | anrm => exact ⟨_, rfl, .matrixChecked hs ..⟩
  case vadd | vsub | vmul | vfma | vfnma | vmin | vmax | vabs | vneg | vand | vor | vxor | vshl | vshr | vcmp | vsel |
      vcvt | vredSum | vredMax | vredMin | vbcast | vins | vperm | vslide | viota | vrcp | vrsq | vexp2 | vlog2 | vmov |
      vmskAnd | vmskOr | vmskXor | vmskNot | vmskPopc | vmskFfs | vpack | vunpk | vscale => exact ⟨_, rfl, .perform hs _⟩
  case yieldNow | yieldAt | yieldQ | yieldSc | exit | rmark | fmt | capoRel | add | sub | and | or | xor | andn | shl |
      shr | sra | addi | shli | shri | srai | li | lis | mul | mulh | mulhn | min | max | minn | maxn | clz | ctz | popc |
      cmp | cmpi | pand | por | pxor | pandn | movp | movl | movlCount | rdsys | wrsysVflags | wrsysVrm | andi | cpy |
      famoAdd | famoMin | famoMax | famoAnd | famoOr | famoXor | famoSwap | famoCas | poolAcqw | poolPub | poolPin |
      poolUnpin | poolGen | poolPubAfter | qopPush | qopPop | qopCount | scopeOpen | scopeClose | xsndScalar |
      xsndVector | txtOut | txtTok | sioRd | sioWr | sioFlush | netSend | netWrite | netRead | agsetBase | agsetStride |
      fence => exact ⟨_, rfl, .guarded hs ..⟩
  all_goals cases hi

/-! ## The trap of a bundle -/

/-- The lowest of a cause and the causes of some raises. -/
def lowestCause (c : BitVec 8) (rs : List Raise) : BitVec 8 :=
  rs.foldl (fun c x => if x.cause.toNat < c.toNat then x.cause else c) c

theorem lowestCause_le (rs : List Raise) (c : BitVec 8) :
    (lowestCause c rs).toNat ≤ c.toNat ∧ ∀ q ∈ rs, (lowestCause c rs).toNat ≤ q.cause.toNat := by
  induction rs generalizing c with
  | nil => simp [lowestCause]
  | cons x rs ih =>
    obtain ⟨hc, hrs⟩ := ih (if x.cause.toNat < c.toNat then x.cause else c)
    rw [lowestCause, List.foldl_cons, ← lowestCause]
    refine ⟨?_, List.forall_mem_cons.mpr ⟨?_, hrs⟩⟩
    · split_ifs at hc ⊢ <;> omega
    · split_ifs at hc ⊢ <;> omega

theorem lowestCause_mem (rs : List Raise) (c : BitVec 8) :
    lowestCause c rs = c ∨ ∃ q ∈ rs, q.cause = lowestCause c rs := by
  induction rs generalizing c with
  | nil => exact .inl rfl
  | cons x rs ih =>
    rw [lowestCause, List.foldl_cons, ← lowestCause]
    rcases ih (if x.cause.toNat < c.toNat then x.cause else c) with h | ⟨q, hq, h⟩
    · split at h
      · exact .inr ⟨x, List.mem_cons_self, by simp [*]⟩
      · exact .inl (by simp [*])
    · exact .inr ⟨q, List.mem_cons_of_mem _ hq, h⟩

/-- The mask that collects some raises has the bits of each. -/
theorem getLsbD_foldl_mask (rs : List Raise) (k : BitVec 8) (n : Nat) :
    (rs.foldl (fun k x => k ||| x.mask) k).getLsbD n = true ↔
      k.getLsbD n = true ∨ ∃ q ∈ rs, q.mask.getLsbD n = true := by
  induction rs generalizing k with
  | nil => simp
  | cons x rs ih => simp [ih, or_assoc]


/-- The first of some raises with a cause that one of them has. -/
theorem exists_first_of_cause {rs : List Raise} {c : BitVec 8} (h : ∃ q ∈ rs, q.cause = c) :
    ∃ r first rest, rs = first ++ r :: rest ∧ r.cause = c ∧ (∀ q ∈ first, q.cause ≠ c) ∧
      (rs.filter fun x => x.cause == c).head? = some r := by
  obtain ⟨q, hq, hqc⟩ := h
  obtain ⟨r, hr⟩ := Option.isSome_iff_exists.mp
    ((List.find?_isSome (p := fun x : Raise => x.cause == c)).mpr ⟨q, hq, beq_iff_eq.mpr hqc⟩)
  obtain ⟨hrc, first, rest, hrs, hfirst⟩ := List.find?_eq_some_iff_append.mp hr
  exact ⟨r, first, rest, hrs, beq_iff_eq.mp hrc, fun q hq => by simpa using hfirst q hq, by rw [List.head?_filter, hr]⟩

theorem Machine.Issue.trap_cons (iss : Issue) (m : Mach) (x : Raise) (xs : List Raise) :
    iss.trap m (x :: xs) =
      let hit := (x :: xs).filter fun q => q.cause == lowestCause x.cause xs
      some
        { ctx := ⟨iss.cl, iss.co, iss.cx⟩, cause := lowestCause x.cause xs,
          mask := hit.foldl (fun k q => k ||| q.mask) 0, baddr := iss.baddr,
          detail := (hit.head?.map Raise.detail).getD 0, pos := .issue iss.after, issued := m.cyc iss.cl,
          img := (m.ctx ⟨iss.cl, iss.co, iss.cx⟩).img, part := (m.ctx ⟨iss.cl, iss.co, iss.cx⟩).part } := rfl

/-- The trap that a bundle takes (R24): the lowest cause, the slots that raised it, the first one's detail. -/
theorem Machine.Issue.trap_eq_some (iss : Issue) (m : Mach) {rs : List Raise} (hrs : rs ≠ []) :
    ∃ r first rest mask, rs = first ++ r :: rest ∧ (∀ q ∈ rs, r.cause.toNat ≤ q.cause.toNat) ∧
      (∀ q ∈ first, q.cause ≠ r.cause) ∧
      (∀ n, mask.getLsbD n = true ↔ ∃ q ∈ rs, q.cause = r.cause ∧ q.mask.getLsbD n = true) ∧
      iss.trap m rs = some
        { ctx := ⟨iss.cl, iss.co, iss.cx⟩, cause := r.cause, mask := mask, baddr := iss.baddr, detail := r.detail,
          pos := .issue iss.after, issued := m.cyc iss.cl, img := (m.ctx ⟨iss.cl, iss.co, iss.cx⟩).img,
          part := (m.ctx ⟨iss.cl, iss.co, iss.cx⟩).part } := by
  obtain ⟨x, xs, rfl⟩ := List.exists_cons_of_ne_nil hrs
  obtain ⟨hx, hxs⟩ := lowestCause_le xs x.cause
  have hmem : ∃ q ∈ x :: xs, q.cause = lowestCause x.cause xs := by
    rcases lowestCause_mem xs x.cause with h | ⟨q, hq, h⟩
    · exact ⟨x, List.mem_cons_self, h.symm⟩
    · exact ⟨q, List.mem_cons_of_mem _ hq, h⟩
  obtain ⟨r, first, rest, hsplit, hrc, hfirst, hhead⟩ := exists_first_of_cause hmem
  refine ⟨r, first, rest, ((x :: xs).filter fun q => q.cause == r.cause).foldl (fun k q => k ||| q.mask) 0, hsplit,
    hrc ▸ List.forall_mem_cons.mpr ⟨hx, hxs⟩, hrc ▸ hfirst, fun n => ?_, ?_⟩
  · simp [getLsbD_foldl_mask, and_assoc]
  · rw [Issue.trap_cons, ← hrc]
    rw [← hrc] at hhead
    simp only [hhead, Option.map_some, Option.getD_some]

/-- Settles O46: a suppressed slot only raises, and a raise puts the bundle's trap on the machine before it. -/
theorem suppression : Obligations.Suppression := by
  refine ⟨fun i s hi hs => ?_, fun s cause detail => ?_⟩
  · obtain ⟨t, ht, l, hl, hmach⟩ := exec_onlyRaises i hi hs
    exact ⟨t, l, ht, hl, hmach⟩
  · intro t
    obtain ⟨r, first, rest, mask, hsplit, hlow, hfirst, hmask, htrap⟩ :=
      s.iss.trap_eq_some s.pre (rs := t.iss.raises) (by simp [t, State.raise, State.raiseMask])
    refine ⟨rfl, rfl, r, first, rest, mask, hsplit, hlow, hfirst, fun n _ => hmask n, ?_⟩
    intro taken waits
    have hmach : t.mach = s.pre.trapAtIssue taken := by
      simp only [t, State.raise, State.raiseMask] at htrap ⊢
      simp only [htrap]
      rfl
    have hwaits : ((s.pre.ctx taken.ctx).gang.isSome ||
        (s.pre.cluster taken.ctx.cl).pend.any fun q => q.ctx == taken.ctx) = true ↔ waits := by
      simp [waits, taken, State.ref, State.preCtx, Option.isSome_iff_ne_none]
    rw [hmach]
    exact ⟨fun h => if_neg (mt hwaits.mp h), fun h => if_pos (hwaits.mpr h)⟩

end Sys2Proof

end

section
namespace Sys2Proof

open Machine

/-! ## Reserved opcodes: what each class refuses for its opcode (R27, R30 to R37) -/

@[simp] theorem chk_ne_reservedOpcode (c : Bool) (i : Instr) : chk c i ≠ .error .reservedOpcode := by
  cases c <;> simp [chk]

@[simp] theorem rf_ne_reservedOpcode (o : Option Instr) : rf o ≠ .error .reservedOpcode := by
  cases o <;> simp [rf]

/-! An assigned opcode answers an instruction or a reserved field; only the row past a class's table answers a reserved
opcode. -/

theorem decodeControl_eq_reservedOpcode_iff (f : Fields) :
    decodeControl f = .error .reservedOpcode ↔ 0x0D < f.op.toNat := by
  unfold decodeControl
  split
  case h_15 => simp only [true_iff, imp_false] at *; omega
  all_goals try split
  all_goals simp [*]

theorem decodeScalar_eq_reservedOpcode_iff (f : Fields) :
    decodeScalar f = .error .reservedOpcode ↔ f.op.toNat < 0x10 ∨ 0x26 < f.op.toNat := by
  unfold decodeScalar
  split
  case h_24 => simp only [true_iff, imp_false] at *; omega
  all_goals try split
  all_goals simp [*]

theorem decodeEngine_eq_reservedOpcode_iff (f : Fields) :
    decodeEngine f = .error .reservedOpcode ↔ f.op.toNat < 0x30 ∨ 0x3B < f.op.toNat := by
  unfold decodeEngine
  split
  case h_13 => simp only [true_iff, imp_false] at *; omega
  all_goals try split
  all_goals simp [*]

theorem decodeVectorA_eq_reservedOpcode_iff (f : Fields) :
    decodeVectorA f = .error .reservedOpcode ↔ f.op.toNat < 0x40 ∨ 0x4F < f.op.toNat := by
  unfold decodeVectorA
  split
  case h_17 => simp only [true_iff, imp_false] at *; omega
  case h_16 hop => -- vcvt: each of its three readings answers no reserved opcode (R106)
    simp only [apply_ite (· = Except.error DecodeError.reservedOpcode)]
    simp [hop]
  all_goals simp [*]

theorem decodeVectorB_eq_reservedOpcode_iff (f : Fields) :
    decodeVectorB f = .error .reservedOpcode ↔ f.op.toNat < 0x50 ∨ 0x5D < f.op.toNat := by
  unfold decodeVectorB
  split
  case h_15 => simp only [true_iff, imp_false] at *; omega
  all_goals try split
  all_goals simp [*]

theorem decodeMemory_eq_reservedOpcode_iff (f : Fields) :
    decodeMemory f = .error .reservedOpcode ↔ f.op.toNat < 0x60 ∨ 0x6E < f.op.toNat := by
  unfold decodeMemory
  split
  case h_16 => simp only [true_iff, imp_false] at *; omega
  all_goals try split
  all_goals simp [*]

theorem decodeMatrix_eq_reservedOpcode_iff (f : Fields) :
    decodeMatrix f = .error .reservedOpcode ↔ f.op.toNat < 0x70 ∨ 0x77 < f.op.toNat := by
  unfold decodeMatrix
  split
  case h_9 => simp only [true_iff, imp_false] at *; omega
  all_goals simp [*]

/-- The high three bits of the opcode choose the class; what lies past its table is the rule's list (R37). -/
theorem decodeFields_eq_reservedOpcode_iff (f : Fields) :
    decodeFields f = .error .reservedOpcode ↔ reservedOp f.op = true := by
  have hlt : f.op.toNat < 128 := f.op.isLt
  have hhi : (f.op.extractLsb' 4 3).toNat = f.op.toNat / 16 := by
    simp only [BitVec.extractLsb'_toNat, Nat.shiftRight_eq_div_pow]
    omega
  simp only [decodeFields, hhi, reservedOp, Bool.or_eq_true, Bool.and_eq_true, beq_iff_eq, decide_eq_true_eq]
  split
  · rw [decodeControl_eq_reservedOpcode_iff]; omega
  · rw [decodeScalar_eq_reservedOpcode_iff]; omega
  · rw [decodeScalar_eq_reservedOpcode_iff]; omega
  · rw [decodeEngine_eq_reservedOpcode_iff]; omega
  · rw [decodeVectorA_eq_reservedOpcode_iff]; omega
  · rw [decodeVectorB_eq_reservedOpcode_iff]; omega
  · rw [decodeMemory_eq_reservedOpcode_iff]; omega
  · simp only [decodeMatrix_eq_reservedOpcode_iff, imp_false] at *; omega

theorem decodeWord_eq_reservedOpcode_iff (w : SlotWord) :
    decodeWord w = .error .reservedOpcode ↔ reservedOp (w.extractLsb' 20 7) = true :=
  decodeFields_eq_reservedOpcode_iff (Fields.ofWord w)

/-! ## The refusal of a bundle with a reserved opcode (R22, R23) -/

/-- The slots of the words that pass a test are the places where such a word stands. -/
theorem mem_slots_filter (ws : List SlotWord) (p : Nat × SlotWord → Bool) (n : Nat) :
    n ∈ ((ws.mapIdx fun i w => (i, w)).filter p).map Prod.fst ↔ ∃ w, ws[n]? = some w ∧ p (n, w) = true := by
  simp only [List.mem_map, List.mem_filter, List.mem_mapIdx, List.getElem?_eq_some_iff]
  constructor
  · rintro ⟨_, ⟨⟨m, hm, rfl⟩, hp⟩, rfl⟩
    exact ⟨ws[m], ⟨hm, rfl⟩, hp⟩
  · rintro ⟨_, ⟨hn, rfl⟩, hp⟩
    exact ⟨(n, ws[n]), ⟨⟨n, hn, rfl⟩, hp⟩, rfl⟩

/-- A slot's bit stands in the mask exactly when the slot is listed. -/
theorem getLsbD_slotMask (l : List Nat) {n : Nat} (hn : n < 8) : (slotMask l).getLsbD n = decide (n ∈ l) := by
  have hfold : ∀ m : BitVec 8,
      (l.foldl (fun m i => m ||| (1#8 <<< i)) m).getLsbD n = (m.getLsbD n || decide (n ∈ l)) := by
    induction l with
    | nil => simp
    | cons i l ih =>
      intro m
      have hbit : (1#8 <<< i).getLsbD n = decide (n = i) := by
        rw [← BitVec.twoPow_eq, BitVec.getLsbD_twoPow, Bool.eq_iff_iff]
        simp only [Bool.and_eq_true, decide_eq_true_eq]
        omega
      simp [ih, hbit, Bool.or_assoc]
  simpa [slotMask] using hfold 0

/-- The refusal does not read the guard: RO is detail bit 4, and the slot's bit is set (R23, R37). -/
theorem refusal_of_reservedOpcode {ws : List SlotWord} {n : Nat} {w : SlotWord} (hw : ws[n]? = some w)
    (hro : decodeWord w = .error .reservedOpcode) (term : Bool) :
    (refusal ws term).2.getLsbD 4 = true ∧ (n < 8 → (refusal ws term).1.getLsbD n = true) := by
  have hslot (p : Nat × SlotWord → Bool) (hp : p (n, w) = true) := (mem_slots_filter ws p n).mpr ⟨w, hw, hp⟩
  constructor
  · simp only [refusal, BitVec.getLsbD_or]
    rw [List.isEmpty_eq_false_iff_exists_mem.mpr ⟨n, hslot _ (by simp only [hro]; rfl)⟩]
    simp
  · intro hn
    simp only [refusal, BitVec.getLsbD_or, getLsbD_slotMask _ hn, List.mem_append, Bool.or_eq_true, decide_eq_true_eq]
    exact .inl (.inl (.inl (.inl (hslot _ (by simp only [hro]; rfl)))))

theorem refusal_ne_zero_of_reservedOpcode {ws : List SlotWord} {w : SlotWord} (hw : w ∈ ws)
    (hro : decodeWord w = .error .reservedOpcode) (term : Bool) : (refusal ws term).2 ≠ 0 := by
  obtain ⟨n, hn⟩ := List.mem_iff_getElem?.mp hw
  intro hzero
  simpa [hzero] using (refusal_of_reservedOpcode hn hro term).1

/-! ## Admission examines every word of an image's code (R23) -/

/-- A bundle and the words after it are the words that were cut. -/
theorem cutBundle_append (n : Nat) (ws : List SlotWord) : (cutBundle n ws).1 ++ (cutBundle n ws).2.2 = ws := by
  induction n generalizing ws with
  | zero => rfl
  | succ n ih =>
    cases ws with
    | nil => rfl
    | cons w ws =>
      rw [cutBundle]
      split
      · rfl
      · simp [ih]

theorem cutBundle_rest_length_le (n : Nat) (w : SlotWord) (ws : List SlotWord) :
    (cutBundle (n + 1) (w :: ws)).2.2.length ≤ ws.length := by
  rw [cutBundle]
  split
  · exact le_rfl
  · have hcut := congrArg List.length (cutBundle_append n ws)
    simp only [List.length_append] at hcut
    show (cutBundle n ws).2.2.length ≤ ws.length
    omega

/-- Framing loses no word: each lies in one of the bundles (R17). -/
theorem exists_mem_bundlesOf (n : Nat) (ws : List SlotWord) (hn : ws.length ≤ n) :
    ∀ w ∈ ws, ∃ b ∈ bundlesOf n ws, w ∈ b.1 := by
  induction n generalizing ws with
  | zero => simp [List.length_eq_zero_iff.mp (Nat.le_zero.mp hn)]
  | succ n ih =>
    cases ws with
    | nil => simp
    | cons v ws =>
      intro w hw
      rw [← cutBundle_append 8 (v :: ws), List.mem_append] at hw
      rw [bundlesOf]
      obtain hfirst | hrest := hw
      · exact ⟨_, List.mem_cons_self, hfirst⟩
      · have hlen := (cutBundle_rest_length_le 7 v ws).trans (Nat.le_of_succ_le_succ hn)
        obtain ⟨b, hb, hwb⟩ := ih _ hlen w hrest
        exact ⟨b, List.mem_cons_of_mem _ hb, hwb⟩

/-- A section that admission accepts holds no word of a reserved opcode (R23). -/
theorem sectionOk_no_reservedOpcode {org : Nat} {ws : List SlotWord} (h : sectionOk org ws = true) :
    ∀ w ∈ ws, decodeWord w ≠ .error .reservedOpcode := by
  intro w hw hro
  simp only [sectionOk, Bool.and_eq_true, List.all_eq_true, beq_iff_eq] at h
  obtain ⟨⟨-, hpass⟩, -⟩ := h
  obtain ⟨b, hb, hwb⟩ := exists_mem_bundlesOf _ ws le_rfl w hw
  exact refusal_ne_zero_of_reservedOpcode hwb hro b.2 (hpass b hb)

theorem check10_sectionOk {d : ImageDecl} (h : check10 d = true) : ∀ c ∈ d.code, sectionOk c.2.1 c.2.2 = true := by
  simp only [check10, Bool.and_eq_true, List.all_eq_true] at h
  obtain ⟨⟨⟨-, hsections⟩, -⟩, -⟩ := h
  exact hsections

/-- No image passes the checks without passing the last of them, that of its code. -/
theorem Machine.Mach.check10_of_checkImage {m : Mach} {part : BitVec 3} {ast : BitVec 16} {d : ImageDecl}
    {hs : List (BitVec 16)} (h : (m.checkImage part ast d hs).1 = none) : check10 d = true := by
  simp only [Mach.checkImage] at h
  repeat' split at h
  all_goals cases h
  simpa using ‹¬(!check10 d) = true›

/-- Settles O37: each class refuses for its opcode what lies past its table, framing puts every word of an image's code
into a bundle, and a bundle with such a word fails the refusal check of admission. -/
theorem reservedOpcodes : Obligations.ReservedOpcodes := by
  unfold Obligations.ReservedOpcodes
  intro reserved
  have hlist : ∀ op : BitVec 7, reservedOp op = true ↔ op ∈ reserved := by decide
  have hword : ∀ w : SlotWord, decodeWord w = .error .reservedOpcode ↔ w.extractLsb' 20 7 ∈ reserved := fun w =>
    (decodeWord_eq_reservedOpcode_iff w).trans (hlist _)
  refine ⟨rfl, hword, ?_, ?_, rfl, by decide⟩
  · intro ws term n w hn hw hop
    obtain ⟨hdetail, hmask⟩ := refusal_of_reservedOpcode hw ((hword w).mpr hop) term
    exact ⟨hdetail, hmask hn⟩
  · intro m part ast d place c hc w hw hop hpass
    have hsection := check10_sectionOk (Mach.check10_of_checkImage hpass) c hc
    exact sectionOk_no_reservedOpcode hsection w hw ((hword w).mpr hop)

end Sys2Proof

end

section
namespace Sys2Proof

open Machine

/-! ## What an update of the machine leaves alone -/

theorem Machine.Mach.cluster_modCore_same (m : Mach) (cl : ClusterId) (co : CoreId) (f : Core → Core) :
    (m.modCore cl co f).cluster cl = (m.cluster cl).setCore co (f (m.core cl co)) :=
  Mach.cluster_modCluster_same ..

theorem Machine.Mach.cluster_modCore_other (m : Mach) {cl cl' : ClusterId} (co : CoreId) (f : Core → Core)
    (h : cl' ≠ cl) : (m.modCore cl co f).cluster cl' = m.cluster cl' :=
  Mach.cluster_modCluster_other _ _ _ _ h

/-- A core after an update of one core: that core's update, or the core as it was. -/
theorem Machine.Mach.core_modCore_cases (m : Mach) (cl cl' : ClusterId) (co co' : CoreId) (f : Core → Core) :
    (cl' = cl ∧ co' = co ∧ (m.modCore cl co f).core cl' co' = f (m.core cl' co')) ∨
      (m.modCore cl co f).core cl' co' = m.core cl' co' := by
  by_cases h : cl' = cl ∧ co' = co
  · obtain ⟨rfl, rfl⟩ := h
    exact .inl ⟨rfl, rfl, Mach.core_modCore_same ..⟩
  · exact .inr (Mach.core_modCore_other _ _ _ _ _ _ h)

/-- A context after an update of one core. -/
theorem Machine.Mach.ctx_modCore_cases (m : Mach) (cl : ClusterId) (co : CoreId) (f : Core → Core) (r : CtxRef) :
    (r.cl = cl ∧ r.co = co ∧ (m.modCore cl co f).ctx r = (f (m.core cl co)).ctx r.cx) ∨
      (m.modCore cl co f).ctx r = m.ctx r := by
  obtain ⟨hcl, hco, h⟩ | h := m.core_modCore_cases cl r.cl co r.co f
  · exact .inl ⟨hcl, hco, by rw [Mach.ctx, h, hcl, hco]⟩
  · exact .inr (by rw [Mach.ctx, h, Mach.ctx])

/-- An update of a cluster that keeps its cores keeps every core. -/
theorem Machine.Mach.core_modCluster_of_cores (m : Mach) (cl : ClusterId) {f : Cluster → Cluster}
    (h : ∀ c, (f c).cores = c.cores) (cl' : ClusterId) (co : CoreId) :
    (m.modCluster cl f).core cl' co = m.core cl' co := by
  by_cases e : cl' = cl
  · subst e
    simp only [Mach.core, Cluster.core, Mach.cluster_modCluster_same, h]
  · rw [Mach.core, Mach.cluster_modCluster_other _ _ _ _ e, Mach.core]

theorem Machine.Mach.ctx_modCluster_of_cores (m : Mach) (cl : ClusterId) {f : Cluster → Cluster}
    (h : ∀ c, (f c).cores = c.cores) (r : CtxRef) : (m.modCluster cl f).ctx r = m.ctx r := by
  rw [Mach.ctx, Mach.core_modCluster_of_cores m cl h, Mach.ctx]

/-! ## Memory -/

theorem Spec.SameMemory.refl (m : Mach) : Spec.SameMemory m m :=
  ⟨fun _ _ => ⟨rfl, rfl, rfl, rfl⟩, fun _ => ⟨rfl, rfl⟩, rfl, rfl⟩

theorem Spec.SameMemory.trans {m n t : Mach} (h : Spec.SameMemory m n) (g : Spec.SameMemory n t) :
    Spec.SameMemory m t := by
  obtain ⟨hcore, hcluster, hvault, hdrives⟩ := h
  obtain ⟨gcore, gcluster, gvault, gdrives⟩ := g
  refine ⟨fun cl co => ?_, fun cl => ?_, gvault.trans hvault, gdrives.trans hdrives⟩
  · obtain ⟨h1, h2, h3, h4⟩ := hcore cl co
    obtain ⟨g1, g2, g3, g4⟩ := gcore cl co
    exact ⟨g1.trans h1, g2.trans h2, g3.trans h3, g4.trans h4⟩
  · obtain ⟨h1, h2⟩ := hcluster cl
    obtain ⟨g1, g2⟩ := gcluster cl
    exact ⟨g1.trans h1, g2.trans h2⟩

/-- An update of a core that keeps its memories keeps every memory. -/
theorem Spec.SameMemory.modCore (m : Mach) (cl : ClusterId) (co : CoreId) {f : Core → Core}
    (h : ∀ k, (f k).lm = k.lm ∧ (f k).lmTags = k.lmTags ∧ (f k).istore = k.istore ∧ (f k).acc = k.acc) :
    Spec.SameMemory m (m.modCore cl co f) := by
  refine ⟨fun cl' co' => ?_, fun cl' => ?_, rfl, rfl⟩
  · obtain ⟨-, -, e⟩ | e := m.core_modCore_cases cl cl' co co' f
    · exact e ▸ h _
    · exact e ▸ ⟨rfl, rfl, rfl, rfl⟩
  · by_cases e : cl' = cl
    · subst e; rw [Mach.cluster_modCore_same]; exact ⟨rfl, rfl⟩
    · rw [Mach.cluster_modCore_other _ _ _ e]; exact ⟨rfl, rfl⟩

theorem Spec.SameMemory.modCtx (m : Mach) (r : CtxRef) (f : Context → Context) : Spec.SameMemory m (m.modCtx r f) :=
  .modCore m _ _ fun _ => ⟨rfl, rfl, rfl, rfl⟩

theorem Spec.SameMemory.modCluster (m : Mach) (cl : ClusterId) {f : Cluster → Cluster}
    (h : ∀ c, (f c).cores = c.cores ∧ (f c).scratch = c.scratch ∧ (f c).spTags = c.spTags) :
    Spec.SameMemory m (m.modCluster cl f) := by
  refine ⟨fun cl' co' => ?_, fun cl' => ?_, rfl, rfl⟩
  · rw [Mach.core_modCluster_of_cores m cl fun c => (h c).1]
    exact ⟨rfl, rfl, rfl, rfl⟩
  · by_cases e : cl' = cl
    · subst e; rw [Mach.cluster_modCluster_same]; exact (h _).2
    · rw [Mach.cluster_modCluster_other _ _ _ _ e]; exact ⟨rfl, rfl⟩

/-! ## The control state of the clusters -/

theorem Spec.SameBlocks.refl (m : Mach) : Spec.SameBlocks m m := fun _ => by and_intros <;> rfl

theorem Spec.SameBlocks.trans {m n t : Mach} (h : Spec.SameBlocks m n) (g : Spec.SameBlocks n t) :
    Spec.SameBlocks m t := fun cl => by
  have hcl := h cl
  have gcl := g cl
  simp only at hcl gcl ⊢
  simp only [gcl, hcl, and_self]

theorem Spec.SameBlocks.modCore (m : Mach) (cl : ClusterId) (co : CoreId) (f : Core → Core) :
    Spec.SameBlocks m (m.modCore cl co f) := fun cl' => by
  by_cases e : cl' = cl
  · subst e; rw [Mach.cluster_modCore_same]; and_intros <;> rfl
  · rw [Mach.cluster_modCore_other _ _ _ e]; and_intros <;> rfl

/-- An update of the other parts of a cluster (bank, ports and arrivals among them) keeps the control state. -/
theorem Spec.SameBlocks.modCluster (m : Mach) (cl : ClusterId) {f : Cluster → Cluster}
    (h : ∀ c, f c = { c with bank := (f c).bank, arrivals := (f c).arrivals }) :
    Spec.SameBlocks m (m.modCluster cl f) := fun cl' => by
  by_cases e : cl' = cl
  · subst e; rw [Mach.cluster_modCluster_same, h]; and_intros <;> rfl
  · rw [Mach.cluster_modCluster_other _ _ _ _ e]; and_intros <;> rfl

/-! ## Commits -/

/-- An entry commits (R49): outside the clusters it counts as outstanding and may place a fence, and the core's drain
takes it, to perform from the next cycle on. -/
theorem Machine.Mach.commitEntry_eq (m : Mach) (r : CtxRef) (own : List (Nat × BitVec 5)) (e : Entry) :
    ∃ (n : Mach) (d : DrainItem), n.clusters = m.clusters ∧ n.pk.vault = m.pk.vault ∧ n.pk.drives = m.pk.drives ∧
      d.entry = e ∧ d.cx = r.cx ∧ d.since = m.cyc r.cl + 1 ∧
      m.commitEntry r own e = n.modCore r.cl r.co fun k => { k with drain := k.drain ++ [d] } := by
  unfold Mach.commitEntry
  cases e.eff.impliedFence <;> cases e.eff.fenceKind
  all_goals
    refine ⟨_, _, ?_, ?_, ?_, ?_, ?_, ?_, rfl⟩
    all_goals rfl

theorem Machine.State.gatePush_eq (s : State) (k : GKind) (e : Effect) :
    s.gatePush k e =
      let en : Entry := ⟨s.mach.nextId, k, e, s.now, s.iss.baddr, s.iss.slot⟩
      if s.iss.commit then { s with mach := s.mach.fresh.2.commitEntry s.ref s.iss.fences en }
      else { s with mach := s.mach.fresh.2.modCtx s.ref fun x => { x with gate := x.gate ++ [en] } } := rfl

/-! ## What an issue keeps of a context, a core and the machine -/

/-- The registers of a context but its loop stack, and the loop stack too unless `l` frees it, and its energy
accumulator. -/
structure Machine.Context.Kept (l : Prop) (x y : Context) : Prop where
  regs : y.regs = { x.regs with loops := y.regs.loops }
  loops : ¬l → y.regs.loops = x.regs.loops
  energy : y.energy = x.energy

theorem Machine.Context.Kept.of_regs {l : Prop} {x y : Context} (hr : y.regs = x.regs) (he : y.energy = x.energy) :
    Context.Kept l x y := ⟨by rw [hr], fun _ => by rw [hr], he⟩

theorem Machine.Context.Kept.refl (l : Prop) (x : Context) : Context.Kept l x x := .of_regs rfl rfl

theorem Machine.Context.Kept.trans {l : Prop} {x y z : Context} (h : Context.Kept l x y) (g : Context.Kept l y z) :
    Context.Kept l x z :=
  ⟨g.regs.trans (by rw [h.regs]), fun n => (g.loops n).trans (h.loops n), g.energy.trans h.energy⟩

/-- The memories of a core, and what `Context.Kept` says of its contexts. -/
structure Machine.Core.Kept (L : CtxId → Prop) (k t : Core) : Prop where
  memory : t.lm = k.lm ∧ t.lmTags = k.lmTags ∧ t.istore = k.istore ∧ t.acc = k.acc
  ctx : ∀ cx, Context.Kept (L cx) (k.ctx cx) (t.ctx cx)

theorem Machine.Core.Kept.of_ctxs {L : CtxId → Prop} {k t : Core} (hc : t.ctxs = k.ctxs)
    (h : t.lm = k.lm ∧ t.lmTags = k.lmTags ∧ t.istore = k.istore ∧ t.acc = k.acc) : Core.Kept L k t :=
  ⟨h, fun cx => by
    have e : t.ctx cx = k.ctx cx := by rw [Core.ctx, hc, Core.ctx]
    exact e ▸ .refl _ _⟩

theorem Machine.Core.Kept.modCtx {L : CtxId → Prop} (k : Core) (cx : CtxId) {f : Context → Context}
    (h : Context.Kept (L cx) (k.ctx cx) (f (k.ctx cx))) : Core.Kept L k (k.modCtx cx f) := by
  refine ⟨⟨rfl, rfl, rfl, rfl⟩, fun c => ?_⟩
  by_cases e : c = cx
  · subst e; rw [Core.ctx_modCtx_same]; exact h
  · rw [Core.ctx_modCtx_other _ _ _ _ e]; exact .refl _ _

theorem Machine.Core.Kept.trans {L : CtxId → Prop} {k n t : Core} (h : Core.Kept L k n) (g : Core.Kept L n t) :
    Core.Kept L k t := by
  obtain ⟨h1, h2, h3, h4⟩ := h.memory
  obtain ⟨g1, g2, g3, g4⟩ := g.memory
  exact ⟨⟨g1.trans h1, g2.trans h2, g3.trans h3, g4.trans h4⟩, fun cx => (h.ctx cx).trans (g.ctx cx)⟩

/-- What the issue of a slot keeps of the machine (R44, R48, R18): every memory, the control state of the clusters, and
the registers of every context, with the loop stacks of those that `L` does not name. -/
structure Machine.Mach.Kept (L : CtxRef → Prop) (m t : Mach) : Prop where
  memory : Spec.SameMemory m t
  blocks : Spec.SameBlocks m t
  ctx : ∀ r, Context.Kept (L r) (m.ctx r) (t.ctx r)

namespace Machine.Mach.Kept

variable {L : CtxRef → Prop}

theorem refl (m : Mach) : Mach.Kept L m m := ⟨.refl m, .refl m, fun _ => .refl _ _⟩

theorem trans {m n t : Mach} (h : Mach.Kept L m n) (g : Mach.Kept L n t) : Mach.Kept L m t :=
  ⟨h.memory.trans g.memory, h.blocks.trans g.blocks, fun r => (h.ctx r).trans (g.ctx r)⟩

theorem sameRegs {m t : Mach} (h : Mach.Kept (fun _ => False) m t) : Spec.SameRegs m t := fun r => by
  rw [(h.ctx r).regs, (h.ctx r).loops id]

/-- An update outside the clusters that keeps the vaults and the drives. -/
theorem of_clusters {m t : Mach} (hc : t.clusters = m.clusters := by rfl) (hv : t.pk.vault = m.pk.vault := by rfl)
    (hd : t.pk.drives = m.pk.drives := by rfl) : Mach.Kept L m t := by
  have hcl : ∀ cl, t.cluster cl = m.cluster cl := fun cl => by rw [Mach.cluster, hc, Mach.cluster]
  have hco : ∀ cl co, t.core cl co = m.core cl co := fun cl co => by rw [Mach.core, hcl, Mach.core]
  refine ⟨⟨fun cl co => ?_, fun cl => ?_, hv, hd⟩, fun cl => ?_, fun r => ?_⟩
  · rw [hco]; exact ⟨rfl, rfl, rfl, rfl⟩
  · rw [hcl]; exact ⟨rfl, rfl⟩
  · rw [hcl]; and_intros <;> rfl
  · have e : t.ctx r = m.ctx r := by rw [Mach.ctx, hco, Mach.ctx]
    exact e ▸ .refl _ _

theorem modPk (m : Mach) {f : Package → Package} (hv : (f m.pk).vault = m.pk.vault := by rfl)
    (hd : (f m.pk).drives = m.pk.drives := by rfl) : Mach.Kept L m (m.modPk f) := of_clusters rfl hv hd

theorem modDom (m : Mach) (d : Dom) (f : Domain → Domain) : Mach.Kept L m (m.modDom d f) := modPk m

theorem modCore (m : Mach) (cl : ClusterId) (co : CoreId) {f : Core → Core}
    (h : ∀ k, Core.Kept (fun cx => L ⟨cl, co, cx⟩) k (f k) := by exact fun _ => .of_ctxs rfl ⟨rfl, rfl, rfl, rfl⟩) :
    Mach.Kept L m (m.modCore cl co f) := by
  refine ⟨.modCore m cl co fun k => (h k).memory, .modCore m cl co f, fun r => ?_⟩
  obtain ⟨rfl, rfl, e⟩ | e := m.ctx_modCore_cases cl co f r
  · rw [e]; exact (h _).ctx r.cx
  · rw [e]; exact .refl _ _

theorem modCtx (m : Mach) (r : CtxRef) {f : Context → Context}
    (h : ∀ x, Context.Kept (L r) x (f x) := by exact fun _ => .of_regs rfl rfl) :
    Mach.Kept L m (m.modCtx r f) := modCore m _ _ fun k => .modCtx k r.cx (h _)

theorem modCluster (m : Mach) (cl : ClusterId) {f : Cluster → Cluster}
    (h : ∀ c, f c = { c with bank := (f c).bank, arrivals := (f c).arrivals } := by exact fun _ => rfl) :
    Mach.Kept L m (m.modCluster cl f) := by
  have hcores : ∀ c, (f c).cores = c.cores := fun c => by rw [h]
  refine ⟨.modCluster m cl fun c => ⟨hcores c, by rw [h], by rw [h]⟩, .modCluster m cl h, fun r => ?_⟩
  rw [Mach.ctx_modCluster_of_cores m cl hcores]
  exact .refl _ _

theorem then_modCore {m : Mach} {s : State} {f : Core → Core} (h : Mach.Kept L m s.mach)
    (hf : ∀ k, Core.Kept (fun cx => L ⟨s.iss.cl, s.iss.co, cx⟩) k (f k) := by
      exact fun _ => .of_ctxs rfl ⟨rfl, rfl, rfl, rfl⟩) : Mach.Kept L m (s.modCore f).mach := h.trans (modCore _ _ _ hf)

theorem then_modCtx {m : Mach} {s : State} {f : Context → Context} (h : Mach.Kept L m s.mach)
    (hf : ∀ x, Context.Kept (L s.ref) x (f x) := by exact fun _ => .of_regs rfl rfl) :
    Mach.Kept L m (s.modCtx f).mach := h.trans (modCtx _ _ hf)

theorem then_modCluster {m : Mach} {s : State} {cl : ClusterId} {f : Cluster → Cluster} (h : Mach.Kept L m s.mach)
    (hf : ∀ c, f c = { c with bank := (f c).bank, arrivals := (f c).arrivals } := by exact fun _ => rfl) :
    Mach.Kept L m (s.modMach fun n => n.modCluster cl f).mach := h.trans (modCluster _ _ hf)

theorem foldl {α : Type} {f : Mach → α → Mach} (h : ∀ m a, Mach.Kept L m (f m a)) (l : List α) (m : Mach) :
    Mach.Kept L m (l.foldl f m) := by
  induction l generalizing m with
  | nil => exact refl m
  | cons a l ih => exact (h m a).trans (ih _)

/-! ### Results in flight and entries of the gating buffer -/

theorem addInflight (m : Mach) (r : CtxRef) (l : List InFlight) :
    Mach.Kept L m (m.fresh.2.modCtx r fun x => { x with inflight := x.inflight ++ l }) :=
  (of_clusters : Mach.Kept L m m.fresh.2).trans (modCtx _ _)

theorem result (s : State) (lat : Nat) (d : RegDest) (val : Vec) (en : Mask) (fl : Flags) :
    Mach.Kept L s.mach (s.result lat d val en fl).mach := addInflight ..

theorem await (s : State) (lat : Nat) (d : RegDest) (en : Mask) : Mach.Kept L s.mach (s.await lat d en).2.mach :=
  addInflight ..

theorem placeFence (m : Mach) (r : CtxRef) (kinds : BitVec 5) (sc : FScope) (only : Bool) :
    Mach.Kept L m (m.placeFence r kinds sc only).2 := of_clusters

theorem commitEntry (m : Mach) (r : CtxRef) (own : List (Nat × BitVec 5)) (e : Entry) :
    Mach.Kept L m (m.commitEntry r own e) := by
  obtain ⟨n, d, hn, hv, hd, -, -, -, h⟩ := m.commitEntry_eq r own e
  rw [h]
  exact (of_clusters hn hv hd).trans (modCore n _ _)

theorem gatePush (s : State) (k : GKind) (e : Effect) : Mach.Kept L s.mach (s.gatePush k e).mach := by
  have hfresh : Mach.Kept L s.mach s.mach.fresh.2 := of_clusters
  rw [State.gatePush_eq]
  split
  · exact hfresh.trans (commitEntry ..)
  · exact hfresh.trans (modCtx _ _)

theorem commitAll (m : Mach) (r : CtxRef) (own : List (Nat × BitVec 5)) : Mach.Kept L m (m.commitAll r own) :=
  .trans (modCtx m r)
    (foldl (fun m e => commitEntry m r own e) (m.ctx r).gate _)

theorem commitPoint (s : State) : Mach.Kept L s.mach s.commitPoint.mach :=
  (commitAll s.mach s.ref s.iss.fences).trans (modCtx _ _)

end Machine.Mach.Kept

end Sys2Proof

end

section
namespace Sys2Proof

open Machine

/-! ## A result and an entry -/

/-- Settles O41: a result in flight is one entry of the issuing context, and keeps all else. -/
theorem resultInFlight : Obligations.ResultInFlight := by
  intro s lat d val en fl t
  have hkept : Mach.Kept (fun _ => False) s.mach t.mach := .result ..
  refine ⟨rfl, rfl, ?_, fun r hr => ?_, hkept.sameRegs, hkept.memory, hkept.blocks⟩
  · exact congrArg Context.inflight (Mach.ctx_modCtx_same ..)
  · exact Mach.ctx_modCtx_other _ _ _ _ hr

/-- An entry that commits leaves the gating buffer of every context and every other drain alone. -/
theorem Machine.Mach.commitEntry_drains (m : Mach) (r : CtxRef) (own : List (Nat × BitVec 5)) (e : Entry) :
    (∀ q, ((m.commitEntry r own e).ctx q) = m.ctx q) ∧ ∃ d, d.entry = e ∧ d.cx = r.cx ∧ d.since = m.cyc r.cl + 1 ∧
      ((m.commitEntry r own e).core r.cl r.co).drain = (m.core r.cl r.co).drain ++ [d] := by
  obtain ⟨n, d, hn, -, -, hentry, hcx, hsince, h⟩ := m.commitEntry_eq r own e
  have hcore : ∀ cl co, n.core cl co = m.core cl co := fun cl co => by
    rw [Mach.core, Mach.cluster, hn, ← Mach.cluster, ← Mach.core]
  refine ⟨fun q => ?_, d, hentry, hcx, hsince, ?_⟩
  · rw [h, Mach.ctx, Mach.ctx, ← hcore]
    obtain ⟨-, -, e⟩ | e := n.core_modCore_cases r.cl q.cl r.co q.co _
    · rw [e]; rfl
    · rw [e]
  · rw [h, Mach.core_modCore_same, hcore]

theorem Machine.Mach.drain_modCtx (m : Mach) (r : CtxRef) (f : Context → Context) (cl : ClusterId) (co : CoreId) :
    ((m.modCtx r f).core cl co).drain = (m.core cl co).drain := by
  obtain ⟨-, -, e⟩ | e := m.core_modCore_cases r.cl cl r.co co fun k => k.modCtx r.cx f
  · exact (congrArg Core.drain e).trans rfl
  · exact congrArg Core.drain e

/-- Settles O42: an entry stands last in the buffer, or in the drain behind a commit point of its bundle. -/
theorem entryInGate : Obligations.EntryInGate := by
  intro s k e t entry
  have hkept : Mach.Kept (fun _ => False) s.mach t.mach := .gatePush ..
  have ht : t = _ := s.gatePush_eq k e
  refine ⟨?_, fun hc => ?_, fun hc => ?_, hkept.sameRegs, hkept.memory, hkept.blocks⟩
  · rw [ht]; split <;> rfl
  · rw [ht, if_neg (by simp [hc])]
    exact ⟨congrArg Context.gate (Mach.ctx_modCtx_same ..), fun cl co => Mach.drain_modCtx s.mach.fresh.2 ..⟩
  · rw [ht, if_pos hc]
    obtain ⟨hctx, d, hentry, hcx, hsince, hdrain⟩ := s.mach.fresh.2.commitEntry_drains s.ref s.iss.fences entry
    exact ⟨congrArg Context.gate (hctx _), d, hdrain, hentry, hcx, hsince⟩

end Sys2Proof

end

section
namespace Sys2Proof

open Machine

/-! ## The end of an activity -/

theorem Machine.Context.endTask_kept (l : Prop) (x : Context) (cyc : Nat) : Context.Kept l x (x.endTask cyc) := by
  unfold Context.endTask
  split <;> exact .of_regs rfl rfl

theorem Machine.Core.leave_kept (L : CtxId → Prop) (k : Core) (cx : CtxId) (cyc : Nat) :
    Core.Kept L k (k.leave cx cyc) := by
  unfold Core.leave
  split <;> exact .of_ctxs rfl ⟨rfl, rfl, rfl, rfl⟩

/-- An exit clears the loop stack of its context, and keeps every other register (R65). -/
theorem Machine.Mach.Kept.exit {L : CtxRef → Prop} (m : Mach) {r : CtxRef} (hr : L r) (t : Nat) :
    Mach.Kept L m (m.endCtx r false t) := by
  have hstop : Mach.Kept L m (m.stopCtx r false) := by
    have hcore : ∀ n : Mach, Mach.Kept L m n → Mach.Kept L m (match (m.ctx r).gang with | none => n | some _ => n) :=
      fun n h => by split <;> exact h
    refine hcore _ (modCore m _ _ fun k => ?_)
    refine .trans (.trans (.of_ctxs (t := k.dropPops r.cx) rfl ⟨rfl, rfl, rfl, rfl⟩) (Core.leave_kept _ _ _ _))
      (.modCtx _ _ ?_)
    exact ⟨rfl, fun h => absurd hr h, (Context.endTask_kept (L r) _ _).energy⟩
  have hlevel : Mach.Kept L (m.stopCtx r false) ((m.stopCtx r false).dropLevel r) :=
    (modDom _ _ _).trans (modCtx _ _)
  exact (hstop.trans hlevel).trans .of_clusters

/-! ## What a slot keeps -/

/-- A slot that raises no trap keeps what `Mach.Kept` names. -/
structure SlotKeeps (L : CtxRef → Prop) (s t : State) : Prop where
  kept : t.iss.raises = s.iss.raises → Mach.Kept L s.mach t.mach

namespace SlotKeeps

variable {L : CtxRef → Prop} {s : State}

theorem of_kept {t : State} (h : Mach.Kept L s.mach t.mach) : SlotKeeps L s t := ⟨fun _ => h⟩

theorem refl (s : State) : SlotKeeps L s s := of_kept (.refl _)

theorem raise (s : State) (cause : BitVec 8) (detail : Word) : SlotKeeps L s (s.raise cause detail) :=
  ⟨fun h => by simp [State.raise, State.raiseMask] at h⟩

theorem ite {t u : State} {c : Prop} [Decidable c] (ht : SlotKeeps L s t) (hu : SlotKeeps L s u) :
    SlotKeeps L s (if c then t else u) := by
  split
  · exact ht
  · exact hu

theorem checkedSlot {h : Head} {f : State → State} (hf : SlotKeeps L s (f s)) : SlotKeeps L s (s.checkedSlot h f) :=
  ite hf (refl s)

theorem perform {f : State → State} (hf : Mach.Kept L s.mach (f s).mach) : SlotKeeps L s (s.perform f) :=
  ite (of_kept hf) (refl s)

theorem guarded {h : Head} {f : State → State} (hf : Mach.Kept L s.mach (f s).mach) : SlotKeeps L s (s.guarded h f) :=
  ite (perform hf) (refl s)

theorem checked {k : AccessKind} {irqOk : Bool} {accs : List (List Nat)} {mis : Option (Nat × Nat)}
    {f : State → State} (hf : Mach.Kept L s.mach (f s).mach) : SlotKeeps L s (s.checked k irqOk accs mis f) := by
  unfold State.checked
  split
  · exact raise ..
  · split
    · exact raise ..
    · exact perform hf

theorem matrixChecked {h : Head} {busy : Option Nat} {writes : List AccSlot} {tileOk : Bool} {tile : Nat}
    {accs : List (List Nat)} {operand : Option Word} {f : State → State} (hf : Mach.Kept L s.mach (f s).mach) :
    SlotKeeps L s (s.matrixChecked h busy writes tileOk tile accs operand f) := by
  refine checkedSlot ?_
  split
  · exact raise ..
  split
  · exact raise ..
  refine ite (raise ..) ?_
  split
  · exact raise ..
  split
  · exact raise ..
  · exact perform hf

end SlotKeeps

/-! ## The shared operations of the slots -/

namespace Machine.Mach.Kept

variable {L : CtxRef → Prop}

theorem goto (s : State) (a : PC) (lat : Nat) : Mach.Kept L s.mach (s.goto a lat).mach := modCtx _ _

theorem loadBytes (s : State) (lat : Nat) (d : RegDest) (en : Mask) (lanes : List (Nat × Nat)) (ext : LoadExt)
    (tag : Option (BitVec 16)) : Mach.Kept L s.mach (s.loadBytes lat d en lanes ext tag).mach := by
  unfold State.loadBytes
  cases lanes with
  | nil => exact refl _
  | cons p lanes => exact then_modCtx (await s lat d en)

theorem pushVector (s : State) (h : Head) (space : Space) (bytes : List (Nat × Byte)) :
    Mach.Kept L s.mach (s.pushVector h space bytes).mach := by
  unfold State.pushVector
  split
  · exact refl _
  · exact gatePush ..

theorem setLevel (s : State) (level : BitVec 4) : Mach.Kept L s.mach (s.setLevel level).mach := by
  refine then_modCtx (s := s.modMach fun m => m.returnLevels s.iss.cl m.pk.fret _) ?_
  exact modDom ..

theorem noRestart (s : State) : Mach.Kept L s.mach s.noRestart.mach := modCtx _ _

theorem accWrite (s : State) (t : Tile) (op : AccWriteOp) : Mach.Kept L s.mach (s.accWrite t op).mach :=
  then_modCore (noRestart s)

end Machine.Mach.Kept

namespace SlotKeeps

variable {L : CtxRef → Prop} {s : State}

theorem transfer {a : Int} {lat : Nat} {f : State → State} (hf : Mach.Kept L s.mach (f s).mach) :
    SlotKeeps L s (s.transfer a lat f) := by
  refine ite (raise ..) (perform ?_)
  dsimp only
  split
  · exact hf.trans (.goto ..)
  · exact .then_modCtx (hf.trans (.goto ..))

theorem branch (hint : Bool) (h : Head) (off : BitVec 19) : SlotKeeps L s (branch hint h off s) :=
  ite (transfer (.refl _)) (ite (perform (.then_modCtx (.refl _))) (refl s))

theorem startLoop (hs : L s.ref) (h : Head) (b n : Nat) : SlotKeeps L s (startLoop h b n s) := by
  refine checkedSlot (ite (perform (.goto ..)) (ite (raise ..) (ite (raise ..) (perform ?_))))
  exact .then_modCtx (.refl _) fun _ => ⟨rfl, fun h => absurd hs h, rfl⟩

theorem yieldOn (h : Head) (cond : State → WaitCond) (msg : Bool) (rel : State → Nat) :
    SlotKeeps L s (yieldOn h cond msg rel s) := by
  refine guarded (.then_modCore (.then_modCtx (.commitPoint s) fun x => ?_) fun k => Core.leave_kept _ k _ _)
  exact (Context.endTask_kept _ x _).trans (.of_regs rfl rfl)

theorem receive (vec : Bool) (h : Head) (d : RegDest) (i : CoreId) : SlotKeeps L s (receive vec h d i s) := by
  refine ite ?_ (refl s)
  dsimp only
  split
  · exact raise ..
  · exact ite (perform (.result ..)) (raise ..)

/-- A division claims the divider for the later slots of its bundle, which no other part of the state shows. -/
theorem divide (f : Word → Word → Word) (h : Head) (d a b : SReg) : SlotKeeps L s (divide f h d a b s) := by
  have hclaim : ∀ t, SlotKeeps L { s with iss := { s.iss with divides := true } } t → SlotKeeps L s t :=
    fun _ h => ⟨h.kept⟩
  exact ite (hclaim _ (ite (raise ..) (ite (raise ..) (perform (.then_modCore (.result ..)))))) (refl s)

theorem sendTo (vec : Bool) (h : Head) (j : CoreId) (val : State → Vec) : SlotKeeps L s (sendTo vec h j val s) := by
  refine guarded ?_
  dsimp only
  split
  · exact .then_modCluster (.refl _)
  · exact .then_modCtx (.then_modCluster (.refl _))

theorem scalarStore (h : Head) (d : SReg) (b : Base) (off : Int) (n : Nat) :
    SlotKeeps L s (s.scalarStore h d b off n) := by
  refine checkedSlot (checked ?_)
  split
  · exact .gatePush ..
  · exact .gatePush ..

theorem atomic (h : Head) (kind : AKind) (acc : AccessKind) (o : Ord) (w : Bool) (addr val exp : Word)
    (dest : Option SReg) : SlotKeeps L s (s.atomic h kind acc o w addr val exp dest) := by
  refine checkedSlot (checked ?_)
  have hregion : Mach.Kept L s.mach (s.modCtx fun x => { x with unrestartable := true }).mach := .noRestart s
  dsimp only
  split
  · exact (hregion.trans (.commitPoint _)).trans .of_clusters
  · split
    · refine .then_modCore ?_
      cases dest with
      | none => exact hregion
      | some d => exact hregion.trans (.await ..)
    · refine .then_modCluster ?_
      cases dest with
      | none => exact hregion
      | some d => exact hregion.trans (.await ..)

theorem loadPlane (sparse : Bool) (h : Head) (k : MKind) (a : BitVec 5) : SlotKeeps L s (loadPlane sparse h k a s) := by
  unfold Machine.loadPlane
  exact matrixChecked (.then_modCore (.refl _))

theorem accRead (h : Head) (t : Tile) (b : BitVec 5) (lat : Nat) (d : RegDest) (op : AccReadOp) :
    SlotKeeps L s (s.accRead h t b lat d op) := by
  unfold State.accRead
  exact matrixChecked (.then_modCore (.await s lat d _))

end SlotKeeps

/-- The loop stack that an instruction may change is that of the issuing context, under loop, loopi, lbrk and exit
(R40, R42, R62, R65). -/
def ChangesLoops (i : Instr) (s : State) (r : CtxRef) : Prop :=
  r = s.ref ∧ ((∃ h a b, i = .loop h a b) ∨ (∃ h b n, i = .loopi h b n) ∨ (∃ h, i = .lbrk h) ∨ ∃ h, i = .exit h)

/-- What every slot keeps at its issue (R44, R48, R54). -/
theorem exec_slotKeeps (i : Instr) (s : State) (hi : (fieldsOf i).isSome = true) :
    ∃ t, exec i s = .next t ∧ SlotKeeps (ChangesLoops i s) s t := by
  cases i
  case nop => exact ⟨_, rfl, .refl s⟩
  case brT | brN => exact ⟨_, rfl, .branch ..⟩
  case call => exact ⟨_, rfl, .ite (.transfer (.result ..)) (.refl s)⟩
  case jr | ret => exact ⟨_, rfl, .ite (.transfer (.refl _)) (.refl s)⟩
  case loop h a b => exact ⟨_, rfl, .startLoop ⟨rfl, .inl ⟨h, a, b, rfl⟩⟩ ..⟩
  case loopi h b n => exact ⟨_, rfl, .startLoop ⟨rfl, .inr (.inl ⟨h, b, n, rfl⟩)⟩ ..⟩
  case lbrk h =>
    have hs : ChangesLoops (.lbrk h) s s.ref := ⟨rfl, .inr (.inr (.inl ⟨h, rfl⟩))⟩
    refine ⟨_, rfl, .checkedSlot ?_⟩
    split
    · exact .raise ..
    · refine .perform (.trans ?_ (.goto ..))
      exact .then_modCtx (.refl _) fun _ => ⟨rfl, fun h => absurd hs h, rfl⟩
  case yieldNow | yieldAt | yieldQ | yieldSc => exact ⟨_, rfl, .yieldOn ..⟩
  case exit h =>
    exact ⟨_, rfl, .guarded (.trans (.commitPoint s) (.exit _ ⟨rfl, .inr (.inr (.inr ⟨h, rfl⟩))⟩ _))⟩
  case rmark => exact ⟨_, rfl, .guarded (.commitPoint s)⟩
  case fence h kinds scope =>
    exact ⟨_, rfl, .guarded (.trans (.placeFence s.mach s.ref kinds scope false) (.commitPoint
      ⟨_, { s.iss with fences := s.iss.fences ++ [(s.mach.nextId, kinds)] }⟩))⟩
  case trap => exact ⟨_, rfl, .ite (.raise ..) (.refl s)⟩
  case fmtr => exact ⟨_, rfl, .ite (.ite (.perform (.result ..)) (.raise ..)) (.refl s)⟩
  case capoAcq => exact ⟨_, rfl, .ite (.ite (.raise ..) (.ite (.raise ..) (.perform (.setLevel ..)))) (.refl s)⟩
  case capoRel => exact ⟨_, rfl, .guarded (.setLevel ..)⟩
  case div | divn | rem | remn => exact ⟨_, rfl, .divide ..⟩
  case add | sub | and | or | xor | andn | shl | shr | sra | addi | shli | shri | srai | li | lis | mul | mulh | mulhn |
      min | max | minn | maxn | clz | ctz | popc | cmp | cmpi | pand | por | pxor | pandn | movp | movl | movlCount |
      rdsys | wrsysVflags | wrsysVrm | andi | fmt | agsetBase | agsetStride => exact ⟨_, rfl, .guarded (.result ..)⟩
  case cpy | famoAdd | famoMin | famoMax | famoAnd | famoOr | famoXor | famoSwap | famoCas | poolAcqw | poolPub |
      poolPin | poolUnpin | poolGen | poolPubAfter | qopPush | qopPop | qopCount | scopeOpen | scopeClose | txtOut |
      txtTok | sioRd | sioWr | sioFlush | netSend | netWrite | netRead => exact ⟨_, rfl, .guarded (.gatePush ..)⟩
  case evtPost => exact ⟨_, rfl, .checkedSlot (.ite (.perform (.gatePush ..)) (.raise ..))⟩
  case evtIrq => exact ⟨_, rfl, .checkedSlot (.ite (.raise ..) (.ite (.raise ..) (.perform (.gatePush ..))))⟩
  case brgPush => exact ⟨_, rfl, .ite (.ite (.raise ..) (.perform (.gatePush ..))) (.refl s)⟩
  case brgPop =>
    refine ⟨_, rfl, .ite (.ite (.raise ..) (.ite (.raise ..) (.ite (.raise ..) (.perform ?_)))) (.refl s)⟩
    exact .trans (.then_modCore (.result ..)) (.gatePush ..)
  case xsndScalar | xsndVector => exact ⟨_, rfl, .sendTo ..⟩
  case xrcvScalar | xrcvVector => exact ⟨_, rfl, .receive ..⟩
  case ldsB | ldsH | ldsW | ldsD | ldzB | ldzH | ldzW | ldt => exact ⟨_, rfl, .checkedSlot (.checked (.loadBytes ..))⟩
  case stB | stH | stW | stD => exact ⟨_, rfl, .scalarStore ..⟩
  case vld | vldT | vldg | vgath => exact ⟨_, rfl, .checked (.loadBytes ..)⟩
  case vst | vstg | vscat => exact ⟨_, rfl, .checked (.pushVector ..)⟩
  case amoAdd | amoMin | amoMax | amoAnd | amoOr | amoXor | amoSwap | acas | ald | ast => exact ⟨_, rfl, .atomic ..⟩
  case mld | mldSp => exact ⟨_, rfl, .loadPlane ..⟩
  case mswp => exact ⟨_, rfl, .matrixChecked (.then_modCore (.refl _))⟩
  case mma =>
    refine ⟨_, rfl, .matrixChecked ?_⟩
    refine .then_modCore (.noRestart s) fun c => ?_
    split <;> exact .of_ctxs rfl ⟨rfl, rfl, rfl, rfl⟩
  case aclr | awr | anrm => exact ⟨_, rfl, .matrixChecked (.accWrite ..)⟩
  case ard | aexp => exact ⟨_, rfl, .accRead ..⟩
  case vext => exact ⟨_, rfl, .ite (.perform (.result ..)) (.refl s)⟩
  case vadd | vsub | vmul | vfma | vfnma | vmin | vmax | vabs | vneg | vand | vor | vxor | vshl | vshr | vcmp | vsel |
      vcvt | vredSum | vredMax | vredMin | vbcast | vins | vperm | vslide | viota | vrcp | vrsq | vexp2 | vlog2 | vmov |
      vmskAnd | vmskOr | vmskXor | vmskNot | vmskPopc | vmskFfs | vpack | vunpk | vscale =>
    exact ⟨_, rfl, .ite (.of_kept (.result ..)) (.refl s)⟩
  all_goals cases hi

/-- A slot that raises no trap keeps what `Mach.Kept` names. -/
theorem kept_of_exec {i : Instr} {s t : State} (hi : (fieldsOf i).isSome = true) (ht : exec i s = .next t)
    (hr : t.iss.raises = s.iss.raises) : Mach.Kept (ChangesLoops i s) s.mach t.mach := by
  obtain ⟨u, hu, hkept⟩ := exec_slotKeeps i s hi
  obtain rfl : t = u := by simpa [ht] using hu
  exact hkept.kept hr

/-- Settles O43: the memories and blocks that a slot keeps. -/
theorem slotsKeepMemory : Obligations.SlotsKeepMemory := by
  intro i s t hi ht hr
  have hkept := kept_of_exec hi ht hr
  exact ⟨hkept.memory, hkept.blocks⟩

/-- Settles O44: the registers that a slot keeps; only the four of `ChangesLoops` change a loop stack. -/
theorem slotsKeepRegisters : Obligations.SlotsKeepRegisters := by
  intro i s t r hi ht hr g g'
  have hkept := (kept_of_exec hi ht hr).ctx r
  refine ⟨hkept.regs, hkept.energy, ?_⟩
  by_cases hloops : ChangesLoops i s r
  · exact .inr hloops
  · exact .inl (hkept.loops hloops)

end Sys2Proof

end

section
namespace Sys2Proof

open Machine

/-! ## The loop levels that end at a bundle (R41) -/

/-- Levels in their last iteration pop, and the next level outward steps. -/
theorem stepLevels_append (e : PC) {last : List LoopLevel} (outer : List LoopLevel) {n : Nat} (hn : last.length ≤ n)
    (h : ∀ l ∈ last, l.stop = e ∧ l.count.toNat ≤ l.index.toNat + 1) :
    stepLevels e n (last ++ outer) = stepLevels e (n - last.length) outer := by
  induction last generalizing n with
  | nil => rfl
  | cons l last ih =>
    obtain ⟨n, rfl⟩ : ∃ k, n = k + 1 := ⟨n - 1, by simp at hn; omega⟩
    obtain ⟨⟨hstop, hcount⟩, hlast⟩ := List.forall_mem_cons.mp h
    simp only [List.cons_append, stepLevels, hstop, stepLevel, Nat.not_lt.mpr hcount, ne_eq, not_true, if_false,
      List.length_cons, Nat.add_sub_add_right]
    exact ih (by simpa using hn) hlast

/-- A level with iterations left keeps its place and selects its body start. -/
theorem stepLevels_cons (e : PC) {l : LoopLevel} (rest : List LoopLevel) {n : Nat} (hn : n ≠ 0) (hstop : l.stop = e)
    (h : l.index.toNat + 1 < l.count.toNat) :
    stepLevels e n (l :: rest) = ({ l with index := l.index + 1 } :: rest, some l.start) := by
  obtain ⟨n, rfl⟩ := Nat.exists_eq_succ_of_ne_zero hn
  simp [stepLevels, stepLevel, hstop, h]

/-- Levels that end elsewhere do not step. -/
theorem stepLevels_of_stop_ne (e : PC) {ls : List LoopLevel} (n : Nat) (h : ∀ l rest, ls = l :: rest → l.stop ≠ e) :
    stepLevels e n ls = (ls, none) := by
  cases n with
  | zero => rfl
  | succ n => cases ls with
    | nil => rfl
    | cons l rest => simp [stepLevels, h l rest rfl]

/-- The event of a context whose levels are to step is an update of that context. -/
theorem exec_loopLevelStep_of_stepLevels {cl : ClusterId} {co : CoreId} {cx : CtxId} {s : State} {e : PC}
    {ls : List LoopLevel} {pc : Option PC} (h : (s.mach.ctx ⟨cl, co, cx⟩).stepAt = some e)
    (hls : stepLevels e 6 (s.mach.ctx ⟨cl, co, cx⟩).regs.loops = (ls, pc)) :
    exec (.loopLevelStep cl co cx) s = .next (s.modMach fun m => m.modCtx ⟨cl, co, cx⟩ fun x =>
      { x with regs := { x.regs with loops := ls }, stepAt := none,
               pc := pc.getD (BitVec.ofNat 19 ((s.mach.core cl co).bundleEnd e.toNat)),
               steppedBody := pc.isSome && ls.length == (s.mach.ctx ⟨cl, co, cx⟩).regs.loops.length }) := by
  change ((s.mach.core cl co).ctx cx).stepAt = some e at h
  change stepLevels e 6 ((s.mach.core cl co).ctx cx).regs.loops = (ls, pc) at hls
  simp only [exec, execLoopLevelStep, State.modMach, Mach.modCtx, Mach.modCore, h, hls]
  rfl

/-- Settles O11: the levels in their last iteration pop, and the first that does not decides what follows. -/
theorem loopSteps : Obligations.LoopSteps := by
  intro cl co cx s e last outer r x k hstep hloops hlen hlast stepped
  have hpop : stepLevels e 6 x.regs.loops = stepLevels e (6 - last.length) outer := by
    rw [hloops]; exact stepLevels_append e outer hlen hlast
  constructor
  · rintro l rest rfl hstop hcount hlt
    have hls := hpop.trans (stepLevels_cons e rest (Nat.sub_ne_zero_of_lt hlt) hstop hcount)
    rw [exec_loopLevelStep_of_stepLevels hstep hls]
    have hkept : (last.length == 0) = (rest.length + 1 == x.regs.loops.length) := by
      rw [Bool.eq_iff_iff, beq_iff_eq, beq_iff_eq, hloops]
      simp
    simp only [stepped, hkept]
    rfl
  · intro hne
    exact exec_loopLevelStep_of_stepLevels hstep (hpop.trans (stepLevels_of_stop_ne e _ hne))

end Sys2Proof

end

section
namespace Sys2Proof

open Machine

/-! ## A register after a landing (R44, R96) -/

theorem Machine.Regs.vreg_setV_same (g : Regs) (n : VReg) (w : Vec) : (g.setV n w).vreg n = w := by
  simp [Regs.vreg, Regs.setV]

theorem Machine.Regs.vreg_setV_other (g : Regs) {n k : VReg} (w : Vec) (h : k ≠ n) : (g.setV n w).vreg k = g.vreg k :=
  Vector.getElem_set_ne n.isLt k.isLt fun e => h (BitVec.eq_of_toNat_eq e.symm)

theorem Machine.Regs.maskEven_setQ_same (g : Regs) {k : BitVec 3} (w : Mask) (h : k ≠ 0) :
    (g.setQ k w).maskEven k = w := by
  rw [Regs.maskEven, if_neg h]
  exact Vector.getElem_set_self k.isLt

/-- The bit that stands for a predicate pair. -/
theorem getLsbD_predBit (k j : BitVec 3) : (1#8 <<< k.toNat).getLsbD j.toNat = decide (j = k) := by
  revert k j; decide

theorem Machine.Regs.getLsbD_setP (g : Regs) (k j : BitVec 3) (b : Bool) :
    (g.setP k b).p.getLsbD j.toNat = if j = k then b else g.p.getLsbD j.toNat := by
  have hj : j.toNat < 8 := j.isLt
  cases b <;> by_cases h : j = k <;>
    simp only [Regs.setP, h, if_true, if_false, Bool.false_eq_true, BitVec.getLsbD_or, BitVec.getLsbD_and,
      BitVec.getLsbD_not, getLsbD_predBit, hj, decide_true, decide_false, Bool.or_true, Bool.or_false, Bool.not_true,
      Bool.not_false, Bool.and_false, Bool.and_true]

/-- A pair that no loop level supplies reads what was written to it (R20, R41). -/
theorem Machine.Regs.predEven_setP_same (g : Regs) {k : BitVec 3} (b : Bool) (h0 : k ≠ 0) (h6 : k ≠ 6) (h7 : k ≠ 7) :
    (g.setP k b).predEven k = b := by
  rw [Regs.predEven, if_neg h0, if_neg h6, if_neg h7, Regs.getLsbD_setP, if_pos rfl]

theorem Machine.Regs.predEven_setP_other (g : Regs) {k j : BitVec 3} (b : Bool) (h : j ≠ k) :
    (g.setP k b).predEven j = g.predEven j := by
  simp only [Regs.predEven, Regs.getLsbD_setP, if_neg h]
  rfl

theorem getLsbD_byte_shiftLeft (n i : Nat) :
    ((0xFF#2048) <<< (8 * n)).getLsbD i = (decide (i < 2048) && decide (i / 8 = n)) := by
  have h255 : (255 : Nat) = 2 ^ 8 - 1 := rfl
  rw [BitVec.getLsbD_shiftLeft, BitVec.getLsbD_ofNat, h255, Nat.testBit_two_pow_sub_one, Bool.eq_iff_iff]
  simp only [Bool.and_eq_true, Bool.not_eq_true', decide_eq_true_eq, decide_eq_false_iff_not]
  omega

/-- Each bit of a mask governs one byte lane. -/
theorem getLsbD_maskExpand (q : Mask) {i : Nat} (hi : i < 2048) : (maskExpand q).getLsbD i = q.getLsbD (i / 8) := by
  have hfold : ∀ (l : List Nat) (v : Vec),
      (l.foldl (fun v j => if q.getLsbD j then v ||| ((0xFF#2048) <<< (8 * j)) else v) v).getLsbD i =
        (v.getLsbD i || decide (i / 8 ∈ l) && q.getLsbD (i / 8)) := by
    intro l
    induction l with
    | nil => simp
    | cons j l ih =>
      intro v
      have hbit : (if q.getLsbD j then v ||| ((0xFF#2048) <<< (8 * j)) else v).getLsbD i =
          (v.getLsbD i || decide (i / 8 = j) && q.getLsbD (i / 8)) := by
        by_cases hj : i / 8 = j
        · subst hj
          split <;> simp only [BitVec.getLsbD_or, getLsbD_byte_shiftLeft, *] <;> simp
        · split <;> simp only [BitVec.getLsbD_or, getLsbD_byte_shiftLeft, hj] <;> simp
      rw [List.foldl_cons, ih, hbit, Bool.or_assoc, ← Bool.and_or_distrib_right, ← Bool.decide_or]
      simp only [List.mem_cons]
  have hlane : i / 8 < 256 := by omega
  unfold maskExpand
  split
  · next h => rw [h, BitVec.getLsbD_allOnes, BitVec.getLsbD_allOnes]; simp [hi, hlane]
  · rw [hfold]; simp [hlane]

/-- Byte lane `j` of a merged vector is the new value's where the lane is enabled (R96). -/
theorem vecByte_vecMerge (old new : Vec) (q : Mask) {j : Nat} (hj : j < 256) :
    vecByte (vecMerge old new q) j = if q.getLsbD j then vecByte new j else vecByte old j := by
  apply BitVec.eq_of_getLsbD_eq
  intro b hb
  have hi : 8 * j + b < 2048 := by omega
  have hlane : (8 * j + b) / 8 = j := by omega
  cases hq : q.getLsbD j <;>
    simp only [vecByte, vecMerge, BitVec.getLsbD_extractLsb', BitVec.getLsbD_or, BitVec.getLsbD_and, BitVec.getLsbD_not,
      getLsbD_maskExpand q hi, hlane, hq, hi, if_true, if_false, Bool.false_eq_true, decide_true, Bool.not_true,
      Bool.not_false, Bool.and_true, Bool.and_false, Bool.or_false, Bool.false_or]

theorem Machine.Regs.ag_setAg (g : Regs) (n j : BitVec 3) (f : AddrGen → AddrGen) :
    (g.setAg n f).ag[j.toNat]'j.isLt = if j = n then f (g.ag[j.toNat]'j.isLt) else g.ag[j.toNat]'j.isLt := by
  by_cases h : j = n
  · subst h; simp [Regs.setAg]
  · rw [if_neg h]
    exact Vector.getElem_set_ne n.isLt j.isLt fun e => h (BitVec.eq_of_toNat_eq e.symm)

/-- A landing in a stride writes that stride of that generator, and no base (R156). -/
theorem Machine.Regs.ag_land_agStride (g : Regs) (n l j : BitVec 3) (val : Vec) (en : Mask) {i : Nat} (hi : i < 6) :
    let a := g.ag[j.toNat]'j.isLt
    let b := (g.land (.agStride n l) val en).ag[j.toNat]'j.isLt
    b.base = a.base ∧ b.stride[i] = if j = n ∧ i = l.toNat then val.setWidth 32 else a.stride[i] := by
  dsimp only [Regs.land]
  rw [Regs.ag_setAg]
  by_cases hj : j = n
  · rw [if_pos hj]
    by_cases hl : l.toNat < 6
    · rw [dif_pos hl]
      refine ⟨rfl, ?_⟩
      by_cases hil : i = l.toNat
      · subst hil; simp [hj]
      · simp [hil, Vector.getElem_set_ne _ _ (Ne.symm hil)]
    · rw [dif_neg hl]
      exact ⟨rfl, (if_neg fun h : j = n ∧ i = l.toNat => hl (h.2 ▸ hi)).symm⟩
  · rw [if_neg hj]
    exact ⟨rfl, (if_neg fun h : j = n ∧ i = l.toNat => hj h.1).symm⟩

/-! ## The order of the landings of one cycle (R47) -/

theorem insertBy_eq_append {α : Type} {before : α → α → Bool} {x : α} {l : List α} (h : ∀ y ∈ l, before x y = false) :
    insertBy before x l = l ++ [x] := by
  induction l with
  | nil => rfl
  | cons y l ih =>
    obtain ⟨hy, hl⟩ := List.forall_mem_cons.mp h
    simp [insertBy, hy, ih hl]

/-- A list whose elements stand in order is as sorting leaves it. -/
theorem sortBy_eq_self {α : Type} {before : α → α → Bool} {l : List α}
    (h : l.Pairwise fun a b => before b a = false) : sortBy before l = l := by
  have hfold : ∀ l acc : List α, (acc ++ l).Pairwise (fun a b => before b a = false) →
      l.foldl (fun acc x => insertBy before x acc) acc = acc ++ l := by
    intro l
    induction l with
    | nil => simp
    | cons x l ih =>
      intro acc hp
      have hx : ∀ y ∈ acc, before x y = false := fun y hy =>
        (List.pairwise_append.mp hp).2.2 y hy x List.mem_cons_self
      rw [List.foldl_cons, insertBy_eq_append hx, ih _ (by simpa using hp)]
      simp
  exact hfold l [] h

theorem collisionOf_of_none {x : InFlight} (cx : CtxId) (fret : BitVec 40) (due : List InFlight)
    (h : collisionReg x.dest = none) : collisionOf cx fret due x = [] := by
  simp [collisionOf, h]

theorem collisionOf_of_some {x : InFlight} {n : BitVec 32} (cx : CtxId) (fret : BitVec 40) (due : List InFlight)
    (h : collisionReg x.dest = some n) : collisionOf cx fret due x =
      if due.any (fun y => decide (x.id < y.id ∧ y.dest = x.dest ∧ y.issued ≠ x.issued)) = true then
        [⟨0, 0x01, cx, x.slot, x.baddr, fret, n, false⟩] else [] := by
  have hany : (fun y : InFlight => y.dest == x.dest && decide (x.id < y.id) && y.issued != x.issued) =
      fun y => decide (x.id < y.id ∧ y.dest = x.dest ∧ y.issued ≠ x.issued) := by
    funext y
    rw [Bool.eq_iff_iff]
    simp only [Bool.and_eq_true, beq_iff_eq, bne_iff_ne, decide_eq_true_eq]
    tauto
  simp only [collisionOf, h, hany]
  rfl

/-- Of two results the earlier-issued one alone can queue the event (R47). -/
theorem collisionOf_pair {x y : InFlight} (cx : CtxId) (fret : BitVec 40) (h : x.id < y.id) :
    [x, y].flatMap (collisionOf cx fret [x, y]) = collisionOf cx fret [y] x := by
  have hy : collisionOf cx fret [x, y] y = [] := by
    cases hd : collisionReg y.dest with
    | none => exact collisionOf_of_none _ _ _ hd
    | some n => rw [collisionOf_of_some _ _ _ hd]; simp [Nat.le_of_lt h]
  have hx : collisionOf cx fret [x, y] x = collisionOf cx fret [y] x := by
    cases hd : collisionReg x.dest with
    | none => rw [collisionOf_of_none _ _ _ hd, collisionOf_of_none _ _ _ hd]
    | some n => rw [collisionOf_of_some _ _ _ hd, collisionOf_of_some _ _ _ hd]; simp
  simp [hx, hy]

/-! ## RESULT_LANDS -/

/-- A change of a core that leaves its other contexts leaves every other context of the machine. -/
theorem Machine.Mach.ctx_modCore_other_ctx (m : Mach) {cl : ClusterId} {co : CoreId} {cx : CtxId} {f : Core → Core}
    (hf : ∀ k cx', cx' ≠ cx → (f k).ctx cx' = k.ctx cx') {q : CtxRef} (hq : q ≠ ⟨cl, co, cx⟩) :
    (m.modCore cl co f).ctx q = m.ctx q := by
  obtain ⟨hcl, hco, e⟩ | e := m.ctx_modCore_cases cl co f q
  · have hcx : q.cx ≠ cx := fun h => hq (by rw [← hcl, ← hco, ← h])
    rw [e, hf _ _ hcx, ← hcl, ← hco]
    rfl
  · exact e

/-- The results due, in the order of their issue, land; no other context, memory or register block changes. -/
theorem exec_resultLands_of_due (cl : ClusterId) (co : CoreId) (cx : CtxId) {s : State} {l : List InFlight} :
    let r : CtxRef := ⟨cl, co, cx⟩
    let cyc := s.mach.cyc cl
    (s.mach.ctx r).inflight.filter (fun y => decide (y.due ≤ cyc) && y.ready) = l →
    l.Pairwise (fun x y => x.id < y.id) →
    ∃ t, exec (.resultLands cl co cx) s = .next t ∧
      (t.mach.ctx r).regs = (landingOrder l).foldl Regs.landResult (s.mach.ctx r).regs ∧
      (t.mach.ctx r).inflight = (s.mach.ctx r).inflight.filter (fun y => decide (cyc < y.due)) ∧
      (t.mach.core cl co).evNew = (s.mach.core cl co).evNew ++ l.flatMap (collisionOf cx s.mach.fret40 l) ∧
      (∀ q, q ≠ r → t.mach.ctx q = s.mach.ctx q) ∧ Spec.SameMemory s.mach t.mach ∧ Spec.SameBlocks s.mach t.mach := by
  intro r cyc hdue hids
  have hsort : sortBy (fun a b => decide (a.id < b.id)) l = l :=
    sortBy_eq_self (hids.imp fun h => by simpa using Nat.le_of_lt h)
  change ((s.mach.core cl co).ctx cx).inflight.filter (fun y => decide (y.due ≤ s.mach.cyc cl) && y.ready) = l at hdue
  refine ⟨_, rfl, ?_, ?_, ?_, fun q hq => ?_, ?_, ?_⟩
  · simp only [r, Mach.ctx, State.modMach_mach, Mach.core_modCore_same, Core.ctx_setCtx_same, hdue, hsort]
  · simp only [r, Mach.ctx, State.modMach_mach, Mach.core_modCore_same, Core.ctx_setCtx_same, cyc]
  · simp only [State.modMach_mach, Mach.core_modCore_same, Core.setCtx, hdue, hsort]
  · rw [State.modMach_mach]
    refine Mach.ctx_modCore_other_ctx s.mach (fun k cx' h => ?_) hq
    dsimp only
    rw [Core.ctx_setCtx_other _ _ _ _ h]
    rfl
  · exact Spec.SameMemory.modCore _ _ _ fun k => ⟨rfl, rfl, rfl, rfl⟩
  · exact Spec.SameBlocks.modCore _ _ _ _

/-- In one cycle the writes of vflags land before the other results. -/
theorem foldl_landingOrder (l : List InFlight) (g : Regs) : (landingOrder l).foldl Regs.landResult g =
    (l.filter fun u => decide (u.dest ≠ .vflags)).foldl Regs.landResult
      ((l.filter fun u => decide (u.dest = .vflags)).foldl Regs.landResult g) := by
  have heq : (fun r : InFlight => r.dest == .vflags) = fun u => decide (u.dest = .vflags) := rfl
  have hne : (fun r : InFlight => r.dest != .vflags) = fun u => decide (u.dest ≠ .vflags) := by
    funext u; rw [Bool.eq_iff_iff]; simp
  rw [landingOrder, List.foldl_append, heq, hne]

theorem landingOrder_singleton (x : InFlight) : landingOrder [x] = [x] := by
  by_cases hx : x.dest = .vflags <;> simp [landingOrder, hx]

/-- Two results of one cycle land as issued, but for a write of vflags issued after another result. -/
theorem landingOrder_pair (x y : InFlight) :
    landingOrder [x, y] = if y.dest = .vflags ∧ x.dest ≠ .vflags then [y, x] else [x, y] := by
  by_cases hx : x.dest = .vflags <;> by_cases hy : y.dest = .vflags <;> simp [landingOrder, hx, hy]

/-! ## What a landing does to each register -/

/-- What RESULT_LANDS writes in a scalar, vector, predicate or mask register. -/
theorem Machine.Regs.land_numbered (g : Regs) (val : Vec) (en : Mask) :
    g.land (.s 0) val en = g ∧
    (∀ n, n ≠ 0 → (g.land (.s n) val en).sreg n = val.setWidth 64 ∧
      ∀ k, k ≠ n → (g.land (.s n) val en).sreg k = g.sreg k) ∧
    (∀ n j, j < 256 → vecByte ((g.land (.v n) val en).vreg n) j =
      if en.getLsbD j then vecByte val j else vecByte (g.vreg n) j) ∧
    (∀ n k, k ≠ n → (g.land (.v n) val en).vreg k = g.vreg k) ∧
    (∀ k, k ≠ 0 → k ≠ 6 → k ≠ 7 → (g.land (.p k) val en).predEven k = val.getLsbD 0 ∧
      ∀ j, j ≠ k → (g.land (.p k) val en).predEven j = g.predEven j) ∧
    (∀ k j, k ≠ 0 → j < 256 → ((g.land (.q k) val en).maskEven k).getLsbD j =
      if en.getLsbD j then val.getLsbD j else (g.maskEven k).getLsbD j) := by
  refine ⟨rfl, fun n hn => ⟨g.sreg_setS_same _ _ hn, fun k hk => g.sreg_setS_other _ _ _ hk⟩, fun n j hj => ?_,
    fun n k hk => g.vreg_setV_other _ hk,
    fun k h0 h6 h7 => ⟨g.predEven_setP_same _ h0 h6 h7, fun j hj => g.predEven_setP_other _ hj⟩, fun k j hk hj => ?_⟩
  · rw [Regs.land, Regs.vreg_setV_same, vecByte_vecMerge _ _ _ hj]
  · rw [Regs.land, Regs.maskEven_setQ_same _ _ hk]
    cases hen : en.getLsbD j <;>
      simp only [BitVec.getLsbD_or, BitVec.getLsbD_and, BitVec.getLsbD_not, BitVec.getLsbD_setWidth, hen, hj,
        decide_true, Bool.not_true, Bool.not_false, Bool.and_true, Bool.and_false, Bool.true_and, Bool.or_false,
        Bool.false_or, if_true, if_false, Bool.false_eq_true]

/-! ## The collision registers (R174) -/

/-- The number of the record: the kind of the register above its number. -/
theorem kind_add_setWidth {w : Nat} (kind : Nat) (k : BitVec w) (hw : w ≤ 8) :
    BitVec.ofNat 32 (kind * 2 ^ 8) + k.setWidth 32 = BitVec.ofNat 32 (kind * 2 ^ 8 + k.toNat) := by
  have hlt : k.toNat < 2 ^ 8 := Nat.lt_of_lt_of_le k.isLt (Nat.pow_le_pow_right (by decide) hw)
  apply BitVec.eq_of_toNat_eq
  simp only [BitVec.toNat_add, BitVec.toNat_ofNat, BitVec.toNat_setWidth]
  omega

theorem collisionReg_s {k : SReg} (h : k ≠ 0) : collisionReg (.s k) = some (BitVec.ofNat 32 k.toNat) := by
  rw [collisionReg, if_neg h, BitVec.ofNat_toNat]

/-- Settles O48: the due results land in the order of their issue, vflags first, each in its own register. -/
theorem landings : Obligations.Landings := by
  unfold Obligations.Landings
  refine ⟨fun cl co cx s x => ?_, fun g val en => ?_, fun cl co cx s x y => ?_, fun cl co cx s l => ?_,
    fun k hk => collisionReg_s hk, rfl, fun k => congrArg some (kind_add_setWidth 1 k (by decide)),
    fun k => ⟨congrArg some (kind_add_setWidth 2 k (by decide)),
      congrArg some (kind_add_setWidth 3 k (by decide))⟩⟩
  · intro r cyc g hdue
    obtain ⟨t, ht, hregs, hfl, -, hctx, hmem, hblk⟩ :=
      exec_resultLands_of_due cl co cx hdue (List.pairwise_singleton _ _)
    refine ⟨t, ht, hregs.trans ?_, hfl, hctx, hmem, hblk⟩
    rw [landingOrder_singleton]
    rfl
  · obtain ⟨h0, hs, hv, hvo, hp, hq⟩ := g.land_numbered val en
    exact ⟨h0, hs, hv, hvo, hp, hq,
      fun f => ⟨Vector.getElem_set_self f.isLt, fun j hj =>
        Vector.getElem_set_ne f.isLt j.isLt fun e => hj (BitVec.eq_of_toNat_eq e.symm)⟩, rfl, rfl,
      fun n j => ⟨g.ag_setAg n j _, fun l i hi => g.ag_land_agStride n l j val en hi⟩, fun _ => rfl,
      fun _ _ => ⟨rfl, rfl⟩⟩
  · intro r cyc g after hdue hid
    obtain ⟨t, ht, hregs, hfl, hev, -⟩ := exec_resultLands_of_due cl co cx hdue (List.pairwise_pair.mpr hid)
    refine ⟨t, ht, hregs.trans ?_, hfl, hev.trans ?_⟩
    · rw [landingOrder_pair]
      split <;> rfl
    · rw [collisionOf_pair _ _ hid]
      cases hd : collisionReg x.dest with
      | none => rw [collisionOf_of_none _ _ _ hd]
      | some n =>
        rw [collisionOf_of_some _ _ _ hd]
        simp [hid, @eq_comm _ y.dest x.dest, @eq_comm _ y.issued x.issued, Mach.fret40]
  · intro r cyc lands hdue hids
    obtain ⟨t, ht, hregs, hfl, hev, -⟩ := exec_resultLands_of_due cl co cx hdue hids
    refine ⟨t, ht, hregs.trans (foldl_landingOrder l _), hfl, hev.trans (congrArg _ (List.flatMap_congr fun x _ => ?_))⟩
    cases hd : collisionReg x.dest with
    | none => exact collisionOf_of_none _ _ _ hd
    | some n => exact collisionOf_of_some _ _ _ hd

end Sys2Proof

end

section
namespace Sys2Proof

open Machine

/-! ## A rollback (R52, R53) -/

/-- The core of a context that rolls back. -/
theorem Machine.Mach.core_rollbackCtx (m : Mach) (r : CtxRef) :
    let k := m.core r.cl r.co
    (m.rollbackCtx r).core r.cl r.co =
      (k.dropPops r.cx).modCtx r.cx fun x => x.rollback (k.running == some r.cx) (m.cyc r.cl) := by
  have hcores : ∀ c : Cluster,
      ((c.dropArrivals r.co r.cx (m.ctx r).markAt).dropTraps r).cores = c.cores := fun _ => rfl
  rw [Mach.rollbackCtx, Mach.core_modCore_same, Mach.core_modCluster_of_cores m r.cl hcores]

theorem Machine.Mach.ctx_rollbackCtx (m : Mach) (r : CtxRef) :
    (m.rollbackCtx r).ctx r = (m.ctx r).rollback ((m.core r.cl r.co).running == some r.cx) (m.cyc r.cl) := by
  rw [Mach.ctx, Mach.core_rollbackCtx, Core.ctx_modCtx_same]
  rfl

theorem Machine.Mach.otherContexts_rollbackCtx (m : Mach) (r : CtxRef) :
    Spec.OtherContexts r m (m.rollbackCtx r) := fun q hq => by
  rw [Mach.rollbackCtx]
  refine (Mach.ctx_modCore_other_ctx _ (fun k cx' h => ?_) hq).trans (m.ctx_modCluster_of_cores r.cl ?_ q)
  · dsimp only
    rw [Core.ctx_modCtx_other _ _ _ _ h]
    rfl
  · exact fun _ => rfl

theorem Machine.Mach.sameMemory_rollbackCtx (m : Mach) (r : CtxRef) : Spec.SameMemory m (m.rollbackCtx r) := by
  refine (Spec.SameMemory.modCluster m r.cl ?_).trans (Spec.SameMemory.modCore _ r.cl r.co ?_)
  · exact fun _ => ⟨rfl, rfl, rfl⟩
  · exact fun _ => ⟨rfl, rfl, rfl, rfl⟩

/-- The pops that are not final are the entries of the gating buffer that pop a bridge. -/
theorem popsIn_eq (g : List Entry) : popsIn g = (g.filter fun e => decide (e.eff = .cmd .brgPop)).length := by
  refine congrArg List.length (List.filter_congr fun e _ => ?_)
  rw [Bool.eq_iff_iff, decide_eq_true_eq]
  split <;> simp_all

/-! ## The level that absorbs by retry (R53, R178) -/

/-- A retry keeps the cause, which is not the one that R53 makes of an unrestartable region. -/
theorem contain_retry {ganged : Bool} {pos : TrapAt} {l : List LevelPolicy} {cause c : BitVec 8} {lvl : TrapLevel}
    (h : contain ganged pos l cause = (lvl, .retry, c)) : c = cause ∧ cause ≠ 0x0E := by
  induction l generalizing cause with
  | nil => simp [contain] at h
  | cons p l ih =>
    have hign : (if ignorable cause pos then (p.lvl, TrapAct.ignore, cause) else contain ganged pos l cause) =
        (lvl, .retry, c) → c = cause ∧ cause ≠ 0x0E := by
      split
      · simp
      · exact ih
    have hretry : (if lateCommand cause pos then (p.lvl, .ignore, cause)
        else if cause = 0x0E || (ganged && decide (p.lvl = .context)) || p.retry == 0 then contain ganged pos l cause
        else if p.unrestartable then contain ganged pos l 0x0E
        else (p.lvl, .retry, cause)) = (lvl, TrapAct.retry, c) → c = cause ∧ cause ≠ 0x0E := by
      split
      · simp
      split
      · exact ih
      split
      · intro h; exact absurd rfl (ih h).2
      · next hc _ =>
        intro h
        have hne : cause ≠ 0x0E := fun e => hc (by simp [e])
        exact ⟨(by simpa using h : _ ∧ cause = c).2.symm, hne⟩
    rw [contain] at h
    split at h
    · exact hign h
    · split at h
      · exact hign h
      · exact hign h
      · exact ih h
      · exact hretry h
      · exact hretry h
    · simp at h
    · simp at h

/-! ## What a trap does before its level acts -/

theorem Machine.Cluster.pushTrap_cores (c : Cluster) (mask cause : BitVec 8) (r : CtxRef) (lvl : BitVec 3)
    (act : BitVec 2) (baddr : PC) (fret detail : Word) :
    let d := c.pushTrap mask cause r lvl act baddr fret detail
    d.cores = c.cores ∧ d.scratch = c.scratch ∧ d.spTags = c.spTags := by
  rw [Cluster.pushTrap, Cluster.setPending]
  split <;> split <;> exact ⟨rfl, rfl, rfl⟩

/-! ## The release mark settled (R51) -/

/-- Results that land before the first bundle land in the order of their cycles. -/
theorem sortBy_landingOrder_pair {r q : InFlight} (h : r.due < q.due) :
    sortBy (fun a b => decide (a.due < b.due)) (landingOrder [r, q]) = [r, q] := by
  have hle : ¬q.due < r.due := by omega
  rw [landingOrder_pair]
  split <;> simp [sortBy, insertBy, h, hle]

/-- A mark captures the registers, the pc and the results in flight (R51). -/
theorem Machine.Context.takeMark_eq (x : Context) (c : Nat) (hg : x.gang = none) (hm : x.marking = true)
    (hb : x.bound = true) :
    x.takeMark c = { (x.capture (c + 1) false) with markAt := some c, marking := false } := by
  simp only [Context.takeMark, Context.markNow, hg, hm, hb, Option.isNone_none, if_true]

/-- The rollback of a context with a shadow set. -/
theorem Machine.Context.rollback_eq (x : Context) (run : Bool) (d : Nat) {h : Shadow} (hx : x.shadow = some h) :
    let y := x.rollback run d
    y.regs = h.regs ∧ y.pc = h.pc ∧ y.gate = [] ∧ y.nextIssue = d + 4 ∧ y.first = h.release ∧
    y.badTarget = h.bad ∧ y.shadow = some h ∧ y.unrestartable = false ∧ y.energy = x.energy ∧ y.count = x.count ∧
    y.loads = x.loads.filter (fun l => h.inflight.any fun f => f.id == l.id) ∧
    (run = true → y.snap = none ∧ y.inflight = h.inflight.map fun f => { f with due := f.due - h.base + (d + 4) }) ∧
    (run = false → y.snap = some ⟨h.base, h.inflight⟩ ∧ y.inflight = []) := by
  rw [Context.rollback, hx]
  cases run
  · exact ⟨rfl, rfl, rfl, rfl, rfl, rfl, rfl, rfl, rfl, rfl, rfl, nofun, fun _ => ⟨rfl, rfl⟩⟩
  · exact ⟨rfl, rfl, rfl, rfl, rfl, rfl, rfl, rfl, rfl, rfl, rfl, fun _ => ⟨rfl, rfl⟩, nofun⟩

/-- Settles O24: what marks capture, what a rollback restores, and the retry of a trap as a rollback. -/
theorem rollback : Obligations.Rollback := by
  unfold Obligations.Rollback
  refine ⟨fun x c hg hm hb => ?_, fun x c time base => ⟨rfl, rfl, rfl⟩, fun h base => ?_, fun m r h => ?_,
    fun m t cause hcontain => ?_⟩
  · rw [x.takeMark_eq c hg hm hb]
    exact ⟨rfl, rfl, rfl, rfl, rfl, rfl, rfl⟩
  · refine ⟨rfl, rfl, rfl, rfl, fun hdue => ?_, fun r q hrq hlt hq hr hready => ?_⟩
    · have hnone : h.inflight.filter (fun r => decide (r.due < base)) = [] :=
        List.filter_eq_nil_iff.mpr fun r hr => by simpa using hdue r hr
      simp only [Shadow.settle, hnone]
      rfl
    · have hr' : r.due < base := by omega
      simp [Shadow.settle, hrq, hr', hq, sortBy_landingOrder_pair hlt, hr, hready]
  · intro k x d t y hx
    have hy : y = x.rollback (k.running == some r.cx) d := m.ctx_rollbackCtx r
    obtain ⟨h1, h2, h3, h4, h5, h6, h7, h8, h9, h10, h11, hrun, hidle⟩ := x.rollback_eq (k.running == some r.cx) d hx
    rw [hy]
    refine ⟨h1, h2, h3, h4, h5, h6, h7, h8, h9, h10, h11, fun e => hrun (by simp [e]), fun e => hidle (by simp [e]),
      ?_, ?_, ?_, m.otherContexts_rollbackCtx r, m.sameMemory_rollbackCtx r, rfl⟩
    · rw [m.core_rollbackCtx]; rfl
    · rw [m.core_rollbackCtx]; rfl
    · rw [m.core_rollbackCtx, ← popsIn_eq]; rfl
  · refine ⟨m.modCluster t.ctx.cl fun c =>
      c.pushTrap t.mask cause t.ctx TrapLevel.context.code TrapAct.retry.code t.baddr m.fret t.detail, ?_,
      (contain_retry hcontain).1, .modCluster m _ fun c => c.pushTrap_cores .., rfl,
      fun r => m.ctx_modCluster_of_cores _ (fun c => (c.pushTrap_cores ..).1) r⟩
    simp only [Mach.trap, hcontain]
    rfl

end Sys2Proof

end

section
namespace Sys2Proof

open Machine

/-! ## What the charge of a bundle reads (R170) -/

theorem Machine.Core.frame_congr {k t : Core} (h : t.istore = k.istore) (a fuel : Nat) :
    t.frame a fuel = k.frame a fuel := by
  induction fuel generalizing a with
  | zero => rfl
  | succ n ih =>
    have hw : t.slotWord a = k.slotWord a := by rw [Core.slotWord, h, Core.slotWord]
    rw [Core.frame, Core.frame, hw, ih]

theorem Machine.Core.bundleAfter_congr {k t : Core} (h : t.istore = k.istore) (a n : Nat) :
    t.bundleAfter a n = k.bundleAfter a n := by
  induction n generalizing a with
  | zero => rfl
  | succ n ih => simp only [Core.bundleAfter, Core.bundleEnd, Core.bundleAt, Core.frame_congr h, ih]

/-- What runs from the loop buffer depends on the instruction store alone (R43). -/
theorem Machine.Core.buffered_congr {k t : Core} (h : t.istore = k.istore) : t.buffered = k.buffered := by
  funext loops a
  cases loops with
  | nil => rfl
  | cons l _ => simp only [Core.buffered, Core.bundleAfter_congr h]

/-- What a charge reads of the machine: the contexts, the planes and loop buffers, the domains and the cycle. -/
structure Machine.Mach.ChargesAlike (m n : Mach) : Prop where
  ctx : ∀ r, n.ctx r = m.ctx r
  plane : ∀ cl co, (n.core cl co).plane = (m.core cl co).plane
  buffered : ∀ cl co, (n.core cl co).buffered = (m.core cl co).buffered
  dom : ∀ d, n.dom d = m.dom d
  cyc : ∀ cl, n.cyc cl = m.cyc cl

namespace Machine.Mach.ChargesAlike

theorem refl (m : Mach) : Mach.ChargesAlike m m :=
  ⟨fun _ => rfl, fun _ _ => rfl, fun _ _ => rfl, fun _ => rfl, fun _ => rfl⟩

theorem trans {m n t : Mach} (h : Mach.ChargesAlike m n) (g : Mach.ChargesAlike n t) : Mach.ChargesAlike m t :=
  ⟨fun r => (g.ctx r).trans (h.ctx r), fun cl co => (g.plane cl co).trans (h.plane cl co),
    fun cl co => (g.buffered cl co).trans (h.buffered cl co), fun d => (g.dom d).trans (h.dom d),
    fun cl => (g.cyc cl).trans (h.cyc cl)⟩

theorem of_clusters {m n : Mach} (hc : n.clusters = m.clusters) (hd : n.pk.doms = m.pk.doms) :
    Mach.ChargesAlike m n := by
  have hcl : ∀ cl, n.cluster cl = m.cluster cl := fun cl => by rw [Mach.cluster, hc, Mach.cluster]
  have hco : ∀ cl co, n.core cl co = m.core cl co := fun cl co => by rw [Mach.core, hcl, Mach.core]
  exact ⟨fun r => by rw [Mach.ctx, hco, Mach.ctx], fun _ _ => by rw [hco], fun _ _ => by rw [hco],
    fun d => by simp only [Mach.dom, Package.dom, hd], fun cl => by rw [Mach.cyc, hcl, Mach.cyc]⟩

/-- What waits in a core's drain is not read. -/
theorem modCore_drain (m : Mach) (cl : ClusterId) (co : CoreId) (d : Core → List DrainItem) :
    Mach.ChargesAlike m (m.modCore cl co fun k => { k with drain := d k }) := by
  have hcore : ∀ cl' co', ∃ l, (m.modCore cl co fun k => { k with drain := d k }).core cl' co' =
      { m.core cl' co' with drain := l } := fun cl' co' => by
    obtain ⟨-, -, e⟩ | e := m.core_modCore_cases cl cl' co co' fun k => { k with drain := d k }
    · exact ⟨_, e⟩
    · exact ⟨_, e⟩
  refine ⟨fun r => ?_, fun cl' co' => ?_, fun cl' co' => ?_, fun _ => rfl, fun cl' => ?_⟩
  · obtain ⟨l, e⟩ := hcore r.cl r.co
    rw [Mach.ctx, e]
    rfl
  · obtain ⟨l, e⟩ := hcore cl' co'
    rw [e]
  · obtain ⟨l, e⟩ := hcore cl' co'
    rw [e]
    exact Core.buffered_congr rfl
  · by_cases e : cl' = cl
    · subst e; rw [Mach.cyc, Mach.cluster_modCore_same]; rfl
    · rw [Mach.cyc, Mach.cluster_modCore_other _ _ _ e, Mach.cyc]

theorem commitEntry (m : Mach) (r : CtxRef) (own : List (Nat × BitVec 5)) (e : Entry) :
    Mach.ChargesAlike m (m.commitEntry r own e) := by
  have hcommit : ∃ n : Mach, n.clusters = m.clusters ∧ n.pk.doms = m.pk.doms ∧ ∃ d, m.commitEntry r own e =
      n.modCore r.cl r.co fun k => { k with drain := k.drain ++ [d] } := by
    unfold Mach.commitEntry
    cases e.eff.impliedFence <;> cases e.eff.fenceKind
    all_goals
      refine ⟨_, ?_, ?_, _, rfl⟩
      all_goals rfl
  obtain ⟨n, hc, hd, d, h⟩ := hcommit
  rw [h]
  exact (of_clusters hc hd).trans (modCore_drain n r.cl r.co fun k => k.drain ++ [d])

end Machine.Mach.ChargesAlike

theorem Machine.State.slotCharge_congr {s t : State} (i : Instr) (hregs : t.regs = s.regs)
    (hplane : (t.pre.core t.iss.cl t.iss.co).plane = (s.pre.core s.iss.cl s.iss.co).plane) :
    t.slotCharge i = s.slotCharge i := by
  unfold State.slotCharge State.scalarCharge State.vectorCharge State.elemCharge State.atomicCharge State.memAddr
    State.baseAddr State.mguard State.sreg State.vreg
  rw [hregs, hplane]

/-- The charge of a bundle depends on nothing of the machine but what `Mach.ChargesAlike` names. -/
theorem Machine.State.bundleCharge_congr {s t : State} (l : List Instr) (hiss : t.iss.cl = s.iss.cl ∧
    t.iss.co = s.iss.co ∧ t.iss.cx = s.iss.cx ∧ t.iss.baddr = s.iss.baddr) (h : Mach.ChargesAlike s.pre t.pre) :
    t.bundleCharge l = s.bundleCharge l := by
  obtain ⟨hcl, hco, hcx, hbaddr⟩ := hiss
  have hregs : t.regs = s.regs := by
    simp only [State.regs, State.preCtx, State.ref, hcl, hco, hcx, h.ctx]
  have hslot : ∀ i, t.slotCharge i = s.slotCharge i := fun i =>
    State.slotCharge_congr i hregs (by rw [hcl, hco, h.plane])
  have hnull : ∀ i, t.nullified i = s.nullified i := fun i => by simp only [State.nullified, hregs]
  simp only [State.bundleCharge, hslot, hnull, hregs, hcl, hco, hbaddr, h.buffered, h.dom]

/-! ## The end of a bundle (R170, R171) -/

/-- The release atomics that commit at the end change nothing that a charge reads. -/
theorem Machine.State.commitRels_alike (s : State) :
    s.commitRels.iss = s.iss ∧ Mach.ChargesAlike s.mach s.commitRels.mach := by
  have hfold : ∀ (l : List Entry) (t : State),
      let u := l.foldl (fun s e => { s with mach := s.mach.commitEntry s.ref s.iss.fences e }) t
      u.iss = t.iss ∧ Mach.ChargesAlike t.mach u.mach := by
    intro l
    induction l with
    | nil => exact fun t => ⟨rfl, .refl _⟩
    | cons e l ih =>
      intro t
      obtain ⟨hiss, halike⟩ := ih { t with mach := t.mach.commitEntry t.ref t.iss.fences e }
      exact ⟨hiss, (Mach.ChargesAlike.commitEntry ..).trans halike⟩
  exact hfold s.iss.rels s

/-- The machine that the slots read is the one before the bundle, or the one in progress. -/
theorem Machine.State.pre_alike {s t : State} (hiss : t.iss = s.iss) (h : Mach.ChargesAlike s.mach t.mach) :
    Mach.ChargesAlike s.pre t.pre := by
  rw [State.pre, State.pre, hiss]
  cases s.iss.before with
  | none => exact h
  | some m => exact .refl m

/-- A suppressed bundle ends with the machine as it is. -/
theorem Machine.State.finish_mach_of_raises {s : State} (is : List (Nat × Instr)) (h : s.iss.raises ≠ []) :
    (s.finish is).mach = s.mach := by
  rw [State.finish, if_pos (by simpa using h)]

/-- The energy accumulator and the charges of the issuing context are as before. -/
structure Machine.State.BooksKept (s t : State) : Prop where
  ref : t.ref = s.ref
  energy : (t.mach.ctx s.ref).energy = (s.mach.ctx s.ref).energy
  charges : (t.mach.ctx s.ref).charges = (s.mach.ctx s.ref).charges

theorem Machine.State.BooksKept.refl (s : State) : State.BooksKept s s := ⟨rfl, rfl, rfl⟩

theorem Machine.State.BooksKept.trans {s t u : State} (h : State.BooksKept s t) (g : State.BooksKept t u) :
    State.BooksKept s u :=
  ⟨g.ref.trans h.ref, h.ref ▸ g.energy.trans (h.ref ▸ h.energy), h.ref ▸ g.charges.trans (h.ref ▸ h.charges)⟩

theorem Machine.State.BooksKept.modCtx (s : State) (f : Context → Context)
    (hf : ∀ x, (f x).energy = x.energy ∧ (f x).charges = x.charges) : State.BooksKept s (s.modCtx f) := by
  have hctx : (s.modCtx f).mach.ctx s.ref = f (s.mach.ctx s.ref) := Mach.ctx_modCtx_same s.mach s.ref f
  exact ⟨rfl, hctx ▸ (hf _).1, hctx ▸ (hf _).2⟩

/-- An exit at the end of its bundle: the results in flight and the loads are dropped (R65). -/
def Machine.State.dropOnExit (s : State) : State :=
  if s.iss.exits then s.modCtx fun x => { x with inflight := [], loads := [] } else s

/-- The step of the loop levels that is to come after the bundle (R41). -/
def Machine.State.planStep (s : State) : State :=
  if s.stepsLevel then
    { (s.modCtx fun x => { x with stepAt := some s.iss.baddr }) with
      mach.todo := .event (.loopLevelStep s.iss.cl s.iss.co s.iss.cx) :: s.mach.todo }
  else s

/-- A bundle without a trap ends in these steps. -/
theorem Machine.State.finish_mach_eq {s : State} (is : List (Nat × Instr)) (h : s.iss.raises = []) :
    (s.finish is).mach =
      (s.commitRels.account (is.filter fun p => (fieldsOf p.2).isSome)).dropOnExit.planStep.mach := by
  rw [State.finish, if_neg (by simp [h])]
  rfl

theorem Machine.State.BooksKept.dropOnExit (s : State) : State.BooksKept s s.dropOnExit := by
  rw [State.dropOnExit]
  split
  · exact .modCtx s _ fun _ => ⟨rfl, rfl⟩
  · exact .refl s

theorem Machine.State.BooksKept.planStep (s : State) : State.BooksKept s s.planStep := by
  rw [State.planStep]
  split
  · obtain ⟨href, henergy, hcharges⟩ : State.BooksKept s (s.modCtx fun x => { x with stepAt := some s.iss.baddr }) :=
      .modCtx s _ fun _ => ⟨rfl, rfl⟩
    exact ⟨href, henergy, hcharges⟩
  · exact .refl s

theorem Machine.State.account_books (s : State) (is : List (Nat × Instr)) :
    let c := s.bundleCharge (is.map Prod.snd)
    let y := (s.account is).mach.ctx s.ref
    let x := s.mach.ctx s.ref
    y.energy = x.energy + BitVec.ofNat 64 c ∧
      y.charges = x.charges.filter (fun p => decide (s.now < p.1 + 512)) ++ if c = 0 then [] else [(s.now, c)] := by
  intro c y x
  have hy : y = { x with
      energy := x.energy + BitVec.ofNat 64 c,
      charges := windowOf s.now x.charges ++ (if c = 0 then [] else [(s.now, c)]) } :=
    Mach.ctx_modCtx_same s.mach s.ref _
  exact ⟨congrArg Context.energy hy, congrArg Context.charges hy⟩

/-- A bundle that ends without a trap is charged. -/
theorem Machine.State.finish_books {s : State} (is : List (Nat × Instr)) (h : s.iss.raises = []) :
    let c := s.bundleCharge ((is.filter fun p => (fieldsOf p.2).isSome).map Prod.snd)
    let y := (s.finish is).mach.ctx s.ref
    let x := s.mach.ctx s.ref
    y.energy = x.energy + BitVec.ofNat 64 c ∧
      y.charges = x.charges.filter (fun p => decide (s.now < p.1 + 512)) ++ if c = 0 then [] else [(s.now, c)] := by
  intro c y x
  obtain ⟨hiss, halike⟩ := s.commitRels_alike
  have hpre := State.pre_alike hiss halike
  have href : s.commitRels.ref = s.ref := by rw [State.ref, hiss, State.ref]
  have hnow : s.commitRels.now = s.now := by rw [State.now, hiss, hpre.cyc, State.now]
  have hcharge : s.commitRels.bundleCharge ((is.filter fun p => (fieldsOf p.2).isSome).map Prod.snd) = c :=
    State.bundleCharge_congr _ (by rw [hiss]; exact ⟨rfl, rfl, rfl, rfl⟩) hpre
  obtain ⟨henergy, hcharges⟩ := s.commitRels.account_books (is.filter fun p => (fieldsOf p.2).isSome)
  rw [href, halike.ctx, hcharge] at henergy hcharges
  rw [hnow] at hcharges
  obtain ⟨-, he, hc⟩ :=
    (State.BooksKept.dropOnExit (s.commitRels.account (is.filter fun p => (fieldsOf p.2).isSome))).trans (.planStep _)
  have hy : y =
      (s.commitRels.account (is.filter fun p => (fieldsOf p.2).isSome)).dropOnExit.planStep.mach.ctx s.ref := by
    rw [← State.finish_mach_eq is h]
  have haccount : (s.commitRels.account (is.filter fun p => (fieldsOf p.2).isSome)).ref = s.ref := href
  rw [haccount, ← hy] at he hc
  exact ⟨he.trans henergy, hc.trans hcharges⟩

end Sys2Proof

end

section
namespace Sys2Proof

open Machine

/-! ## The charge items of the opcodes (R170) -/

/-- The rows of R170 that hold of a whole opcode: fetch only, scalar and control, commands, and the matrix unit. -/
def ChargeRows (op : Nat) (items : List ChargeItem) : Prop :=
  (op = 0 ∨ op = 0x69 ∨ op = 0x6E → items = []) ∧
  (1 ≤ op → op ≤ 0x26 → items = [⟨if op = 0x1B ∨ op = 0x1C then 1 else 0, 3, 1⟩]) ∧
  (0x30 ≤ op → op ≤ 0x3B → items = [⟨10, 0, 1⟩]) ∧
  (op = 0x71 ∨ op = 0x73 ∨ op = 0x76 ∨ op = 0x77 → items = [⟨9, 3, 1⟩])

namespace ChargeRows

variable {op : Nat} {items : List ChargeItem}

theorem fetchOnly (hop : op = 0 ∨ op = 0x69 ∨ op = 0x6E) (h : items = []) : ChargeRows op items :=
  ⟨fun _ => h, by omega, by omega, by omega⟩

theorem scalar (hop : 1 ≤ op ∧ op ≤ 0x26) (h : items = [⟨if op = 0x1B ∨ op = 0x1C then 1 else 0, 3, 1⟩]) :
    ChargeRows op items := ⟨by omega, fun _ _ => h, by omega, by omega⟩

theorem command (hop : 0x30 ≤ op ∧ op ≤ 0x3B) (h : items = [⟨10, 0, 1⟩]) : ChargeRows op items :=
  ⟨by omega, by omega, fun _ _ => h, by omega⟩

theorem matrix (hop : op = 0x71 ∨ op = 0x73 ∨ op = 0x76 ∨ op = 0x77) (h : items = [⟨9, 3, 1⟩]) : ChargeRows op items :=
  ⟨by omega, by omega, by omega, fun _ => h⟩

/-- The vector and memory opcodes, the planes, mma, awr and ard have their items form by form. -/
theorem other (hop : 0x40 ≤ op) (hne : op ≠ 0x69 ∧ op ≠ 0x6E ∧ op ≠ 0x71 ∧ op ≠ 0x73 ∧ op ≠ 0x76 ∧ op ≠ 0x77) :
    ChargeRows op items := ⟨by omega, by omega, by omega, by omega⟩

end ChargeRows

theorem Machine.State.slotCharge_rows (s : State) (i : Instr) (f : Fields) (hf : fieldsOf i = some f) :
    ChargeRows f.op.toNat (s.slotCharge i) := by
  cases i
  all_goals simp only [fieldsOf, reduceCtorEq, Option.some.injEq, mk_eq_iff] at hf
  all_goals
    obtain ⟨-, hop, -⟩ := hf
    rw [← hop]
  case nop | agsetBase | agsetStride | fence => exact .fetchOnly (by decide) rfl
  case mswp | aclr | aexp | anrm => exact .matrix (by decide) rfl
  case cpy | famoAdd | famoMin | famoMax | famoAnd | famoOr | famoXor | famoSwap | famoCas | poolAcqw | poolPub |
      poolPin | poolUnpin | poolGen | poolPubAfter | qopPush | qopPop | qopCount | scopeOpen | scopeClose | brgPush |
      brgPop | xsndScalar | xsndVector | xrcvScalar | xrcvVector | txtOut | txtTok | sioRd | sioWr | sioFlush |
      netSend | netWrite | netRead | evtPost | evtIrq => exact .command (by decide) rfl
  case brT | brN | call | jr | ret | loop | loopi | lbrk | yieldNow | yieldAt | yieldQ | yieldSc | exit | rmark | trap |
      fmt | fmtr | capoAcq | capoRel | add | sub | and | or | xor | andn | shl | shr | sra | addi | shli | shri | srai |
      li | lis | mul | mulh | mulhn | div | divn | rem | remn | min | max | minn | maxn | clz | ctz | popc | cmp |
      cmpi | pand | por | pxor | pandn | movp | movl | movlCount | rdsys | wrsysVflags | wrsysVrm | andi =>
    exact .scalar (by decide) rfl
  all_goals exact .other (by decide) (by decide)

/-- A slot is nullified by its guard (R19). -/
theorem Machine.State.nullified_iff (s : State) {i : Instr} {f : Fields} (hf : fieldsOf i = some f) :
    s.nullified i = true ↔ if maskGuarded f.op = true then f.guard = 1 else f.op ≠ 0 ∧ s.regs.pred f.guard = false := by
  rw [State.nullified, hf]
  cases hm : maskGuarded f.op <;> simp [hm]

/-! ## The items of an access (R170) -/

/-- The item of an access at `a` of width code `w`: LM or scratchpad. -/
def ChargesAccess (items : List ChargeItem) (a w : Nat) : Prop :=
  (a ≤ 0x1FFFFF → items = [⟨5, w, 1⟩]) ∧ (0x40000000 ≤ a → a ≤ 0x41FFFFFF → items = [⟨6, w, 1⟩])

theorem chargesAccess_accessCharge (a bits : Nat) : ChargesAccess (accessCharge a bits) a (widthCode bits) := by
  refine ⟨fun h => ?_, fun h1 h2 => ?_⟩
  · have hr : region a = .lm := if_pos h
    rw [accessCharge, hr]
  · have hr : region a = .sp := (if_neg (by omega)).trans (if_pos ⟨h1, h2⟩)
    rw [accessCharge, hr]

theorem maskedCharge_of_head? {l : List Nat} {a : Nat} (w : Nat) (h : l.head? = some a) :
    maskedCharge l w = accessCharge a w := by
  cases l with
  | nil => simp at h
  | cons b l => simp_all [maskedCharge]

/-- The accesses of a slot under a mask: none with no enabled lane, else that of the first enabled one. -/
theorem maskedCharge_filter_range (n w : Nat) (on : Nat → Bool) (addr : Nat → Nat) :
    ((∀ e, e < n → on e = false) → maskedCharge (((List.range n).filter on).map addr) w = []) ∧
    ∀ e, e < n → on e = true → (∀ p, p < e → on p = false) →
      maskedCharge (((List.range n).filter on).map addr) w = accessCharge (addr e) w := by
  refine ⟨fun hoff => ?_, fun e he hon hfirst => maskedCharge_of_head? w ?_⟩
  · have hnil : (List.range n).filter on = [] :=
      List.filter_eq_nil_iff.mpr fun e he => by simp [hoff e (List.mem_range.mp he)]
    rw [hnil]
    rfl
  · have hfind : (List.range n).find? on = some e :=
      List.find?_range_eq_some.mpr ⟨hon, List.mem_range.mpr he, fun p hp => by simp [hfirst p hp]⟩
    rw [List.head?_map, List.head?_filter, hfind]
    rfl

theorem gatherAddrs_map_snd (w : EW) (q : Mask) (addr : Nat → Nat) : (gatherAddrs w q addr).map Prod.snd =
    ((List.range (256 / ewBytes w)).filter fun e => q.getLsbD (ewBytes w * e)).map addr := by
  have hbytes : 8 * ewBytes w / 8 = ewBytes w := by omega
  rw [gatherAddrs]
  generalize List.range (256 / ewBytes w) = l
  induction l with
  | nil => rfl
  | cons e l ih =>
    rw [List.filterMap_cons, List.filter_cons, elemOn, hbytes]
    cases q.getLsbD (ewBytes w * e) <;> simpa using ih

theorem Machine.State.vectorCharge_access (s : State) (h : Head) (b : Base) (n : BitVec 8) :
    let q := s.mguard h
    (q = 0 → s.vectorCharge h b n = []) ∧ ∀ j, j < 256 → q.getLsbD j = true → (∀ p, p < j → q.getLsbD p = false) →
      ChargesAccess (s.vectorCharge h b n) ((s.baseAddr b + BitVec.ofInt 32 (n.toInt * 256)).toNat + j) 3 := by
  intro q
  obtain ⟨hnone, hfirst⟩ := maskedCharge_filter_range 256 32 (fun j => q.getLsbD j)
    fun j => s.memAddr b (n.toInt * 256) + j
  refine ⟨fun hq => hnone fun e _ => by simp [hq], fun j hj hon hp => ?_⟩
  have hcharge : s.vectorCharge h b n = accessCharge (s.memAddr b (n.toInt * 256) + j) 32 := hfirst j hj hon hp
  rw [hcharge]
  exact chargesAccess_accessCharge ..

theorem Machine.State.elemCharge_access (s : State) (h : Head) (w : EW) (addr : Nat → Nat) :
    let on (e : Nat) := (s.mguard h).getLsbD (ewBytes w * e)
    ((∀ e, e < 256 / ewBytes w → on e = false) → s.elemCharge h w addr = []) ∧
    ∀ e, e < 256 / ewBytes w → on e = true → (∀ p, p < e → on p = false) →
      ChargesAccess (s.elemCharge h w addr) (addr e) (widthCode (8 * ewBytes w)) := by
  intro on
  obtain ⟨hnone, hfirst⟩ := maskedCharge_filter_range (256 / ewBytes w) (8 * ewBytes w) on addr
  rw [State.elemCharge, gatherAddrs_map_snd]
  refine ⟨hnone, fun e he hon hp => ?_⟩
  rw [hfirst e he hon hp]
  exact chargesAccess_accessCharge ..

/-! ## The items of the vector and matrix forms (R170) -/

/-- The operations on elements charge class 2, the products class 3, the reductions class 4. -/
theorem Machine.State.slotCharge_elementwise (s : State) (h : Head) (t : VTy) (d a r : VReg) (y : VSrc) (c : VCond)
    (n : BitVec 5) (q : BitVec 3) :
    let w := widthCode (vtyBits t)
    (∀ i ∈ ([.vadd h t d a y, .vsub h t d a y, .vmin h t d a y, .vmax h t d a y, .vabs h t d a, .vneg h t d a,
        .vand h t d a y, .vor h t d a y, .vxor h t d a y, .vshl h t d a y, .vshr h t d a y, .vcmp h t c q a y,
        .vsel h t d a y, .vbcast h t d a n, .vext h t n n a, .vins h t d n n, .vperm h t d a r,
        .vslide h t d a n] : List Instr), s.slotCharge i = [⟨2, w, 1⟩]) ∧
    (∀ i ∈ ([.vmul h t d a y, .vfma h t d a y, .vfnma h t d a y] : List Instr), s.slotCharge i = [⟨3, w, 1⟩]) ∧
    ∀ i ∈ ([.vredSum h t n a, .vredMax h t n a, .vredMin h t n a] : List Instr), s.slotCharge i = [⟨4, w, 1⟩] := by
  simp only [List.forall_mem_cons, List.not_mem_nil, IsEmpty.forall_iff, implies_true, and_true]
  and_intros <;> rfl

theorem widthCode_vtyBits (t : VTy) : widthCode (vtyBits t) = match t with
    | .f32 | .i32 | .n32 => 3
    | .f16 | .bf16 | .i16 | .n16 => 2
    | .i8 | .n8 => 1 := by
  cases t <;> rfl

theorem widthCode_etyBits (t : ETy) : widthCode (etyBits t) = match t with
    | .f32 | .i32 => 3
    | .f16 | .bf16 | .i16 => 2
    | .i8 => 1 := by
  cases t <;> rfl

theorem widthCode_ftyBits (t : FTy) : widthCode (ftyBits t) = if t = .f32 then 3 else 2 := by
  cases t <;> rfl

/-- The functions of one float charge class 4, a scaling class 2, and the accumulator's rows class 9. -/
theorem Machine.State.slotCharge_float (s : State) (h : Head) (t : FTy) (d a : VReg) (y : VSrc) (sat hf : Bool)
    (tl : Tile) (n : BitVec 5) :
    (∀ i ∈ ([.vrcp h t d a, .vrsq h t d a, .vexp2 h t d a, .vlog2 h t d a] : List Instr),
      s.slotCharge i = [⟨4, widthCode (ftyBits t), 1⟩]) ∧
    s.slotCharge (.vscale h t d a y) = [⟨2, widthCode (ftyBits t), 1⟩] ∧
    ∀ i ∈ ([.awr h tl hf a n t, .ard h sat d hf tl n t] : List Instr),
      s.slotCharge i = [⟨9, if t = .f32 then 3 else 2, 1⟩] := by
  simp only [List.forall_mem_cons, List.not_mem_nil, IsEmpty.forall_iff, implies_true, and_true]
  and_intros <;> rfl

theorem Machine.State.slotCharge_moves (s : State) (h : Head) (t : ETy) (d a r : VReg) (y : VSrc) (n : BitVec 5) :
    ∀ i ∈ ([.viota h t d n, .vmov h t d y, .vpack h t d a r, .vunpk h t d a r] : List Instr),
      s.slotCharge i = [⟨2, widthCode (etyBits t), 1⟩] := by
  simp only [List.forall_mem_cons, List.not_mem_nil, IsEmpty.forall_iff, implies_true, and_true]
  and_intros <;> rfl

theorem Machine.State.slotCharge_masks (s : State) (h : Head) (q : BitVec 3) (a b : QReg) (n : BitVec 5) :
    (∀ i ∈ ([.vmskAnd h q a b, .vmskOr h q a b, .vmskXor h q a b, .vmskNot h q a] : List Instr),
      s.slotCharge i = [⟨2, 0, 1⟩]) ∧
    ∀ i ∈ ([.vmskPopc h n a, .vmskFfs h n a] : List Instr), s.slotCharge i = [⟨4, 0, 1⟩] := by
  simp only [List.forall_mem_cons, List.not_mem_nil, IsEmpty.forall_iff, implies_true, and_true]
  and_intros <;> rfl

theorem widthCode_max (a b : Nat) : widthCode (max a b) = max (widthCode a) (widthCode b) := by
  simp only [widthCode]
  split_ifs <;> omega

/-- The width code of an operand kind as R170 gives it. -/
theorem kindCode_kindDesc (r : Regs) (k : MKind) : kindCode k (kindDesc r k) = match k with
    | .f16 | .bf16 => 2
    | .i8 => 1
    | .fm f => if (descFmt (r.fmReg f)).bits ≤ 4 then 0 else 1 := by
  cases k <;> rfl

theorem kindCode_eq (k : MKind) (desc : BitVec 20) : kindCode k desc =
    if k = .f16 ∨ k = .bf16 then 2 else if k = .i8 then 1 else if (descFmt desc).bits ≤ 4 then 0 else 1 := by
  cases k <;> simp [kindCode]

theorem planeLines_eq (k : MKind) : planeLines k = if k = .f16 ∨ k = .bf16 then 128 else 64 := by
  cases k <;> rfl

end Sys2Proof

end

section
namespace Sys2Proof

open Machine

/-! ## The items of the memory slots (R170) -/

theorem Machine.State.scalarCharge_access (s : State) (b : Base) (o : BitVec 6) (n : Nat) :
    ChargesAccess (s.scalarCharge b o n) (s.baseAddr b + BitVec.ofInt 32 (o.toInt * n)).toNat (widthCode (8 * n)) :=
  chargesAccess_accessCharge ..

theorem Machine.State.atomicCharge_access (s : State) (r : SReg) :
    ChargesAccess (s.atomicCharge r) ((s.sreg r).toNat % 2 ^ 32) 3 := by
  rw [← BitVec.toNat_setWidth]
  exact chargesAccess_accessCharge ..

/-- The scalar loads and stores charge their access, by width. -/
theorem Machine.State.slotCharge_scalarMemory (s : State) (h : Head) (d : SReg) (b : Base) (o : BitVec 6) :
    let place (n : Int) : Nat := (s.baseAddr b + BitVec.ofInt 32 n).toNat
    (∀ i ∈ ([.ldsB h d b o, .ldzB h d b o, .stB h d b o] : List Instr),
      ChargesAccess (s.slotCharge i) (place o.toInt) 1) ∧
    (∀ i ∈ ([.ldsH h d b o, .ldzH h d b o, .stH h d b o] : List Instr),
      ChargesAccess (s.slotCharge i) (place (o.toInt * 2)) 2) ∧
    (∀ i ∈ ([.ldsW h d b o, .ldzW h d b o, .stW h d b o] : List Instr),
      ChargesAccess (s.slotCharge i) (place (o.toInt * 4)) 3) ∧
    ∀ i ∈ ([.ldsD h d b o, .stD h d b o] : List Instr), ChargesAccess (s.slotCharge i) (place (o.toInt * 8)) 3 := by
  intro place
  have hbyte : ChargesAccess (s.scalarCharge b o 1) (place o.toInt) 1 := by
    have h1 := s.scalarCharge_access b o 1
    rwa [Nat.cast_one, mul_one] at h1
  have hhalf : ChargesAccess (s.scalarCharge b o 2) (place (o.toInt * 2)) 2 := s.scalarCharge_access b o 2
  have hword : ChargesAccess (s.scalarCharge b o 4) (place (o.toInt * 4)) 3 := s.scalarCharge_access b o 4
  have hdouble : ChargesAccess (s.scalarCharge b o 8) (place (o.toInt * 8)) 3 := s.scalarCharge_access b o 8
  simp only [List.forall_mem_cons, List.not_mem_nil, IsEmpty.forall_iff, implies_true, and_true]
  exact ⟨⟨hbyte, hbyte, hbyte⟩, ⟨hhalf, hhalf, hhalf⟩, ⟨hword, hword, hword⟩, hdouble, hdouble⟩

theorem Machine.State.slotCharge_atomics (s : State) (h : Head) (l a : BitVec 4) (o : Ord) (w : Bool) (b : BitVec 5) :
    ∀ i ∈ ([.amoAdd h l o w a b, .amoMin h l o w a b, .amoMax h l o w a b, .amoAnd h l o w a b, .amoOr h l o w a b,
        .amoXor h l o w a b, .amoSwap h l o w a b, .acas h l o w a b] : List Instr),
      ChargesAccess (s.slotCharge i) ((s.sreg (a.setWidth 6)).toNat % 2 ^ 32) 3 := by
  have ha := s.atomicCharge_access (a.setWidth 6)
  simp only [List.forall_mem_cons, List.not_mem_nil, IsEmpty.forall_iff, implies_true, and_true]
  exact ⟨ha, ha, ha, ha, ha, ha, ha, ha⟩

/-! ## Gate overflow (R48, R50) -/

/-- The slots of a bundle that would enter an entry of a kind. -/
def Machine.State.enters (s : State) (is : List (Nat × Instr)) (g : GKind) : List Nat :=
  (is.filter fun p => entryKind p.2 == some g && !s.nullified p.2).map Prod.fst

/-- The maximum of a context's buffer by kind. -/
def Machine.Context.gateMost (x : Context) : GKind → Nat
  | .scalar => x.gateMax.1
  | .vector => x.gateMax.2.1
  | .command => x.gateMax.2.2

/-- The bundle would exceed the maximum of a kind. -/
def Machine.State.overflows (s : State) (is : List (Nat × Instr)) (g : GKind) : Bool :=
  decide (s.enters is g ≠ [] ∧ s.preCtx.gateMost g <
    (s.pre.core s.iss.cl s.iss.co).occupancy s.iss.cx s.now g + (s.enters is g).length)

/-- The detail of a gate overflow: the first kind, and every kind. -/
def gateDetail (n : Nat) (a b c : Bool) : Word :=
  BitVec.ofNat 64 (n + (if a then 4 else 0) + (if b then 8 else 0) + if c then 16 else 0)

theorem gateDetail_fields {n : Nat} (hn : n < 3) (a b c : Bool) :
    let d := gateDetail n a b c
    (d.extractLsb' 0 2).toNat = n ∧ d.extractLsb' 5 59 = 0 ∧ d.getLsbD 2 = a ∧ d.getLsbD 3 = b ∧ d.getLsbD 4 = c := by
  interval_cases n <;> revert a b c <;> decide

/-- The slots of a kind whose maximum the bundle would exceed. -/
def Machine.State.excess (s : State) (is : List (Nat × Instr)) (n : Nat) (g : GKind) : Option (Nat × List Nat) :=
  if s.enters is g ≠ [] ∧ s.preCtx.gateMost g <
      (s.pre.core s.iss.cl s.iss.co).occupancy s.iss.cx s.now g + (s.enters is g).length then some (n, s.enters is g)
  else none

theorem Machine.State.excess_eq (s : State) (is : List (Nat × Instr)) (n : Nat) (g : GKind) :
    s.excess is n g = if s.overflows is g then some (n, s.enters is g) else none := by
  rw [State.excess, State.overflows]
  split
  · next h => exact (if_pos (decide_eq_true h)).symm
  · next h => exact (if_neg (by simpa using h)).symm

/-- The mask of the first kind in excess, and the detail. -/
def overflowOf (excess : List (Nat × List Nat)) : Option (BitVec 8 × Word) :=
  match excess with
  | [] => none
  | (n, slots) :: _ => some (slotMask slots, BitVec.ofNat 64 (excess.foldl (fun acc p => acc + 4 * 2 ^ p.1) n))

theorem Machine.State.gateOverflow_eq_overflowOf (s : State) (is : List (Nat × Instr)) : s.gateOverflow is =
    overflowOf ([s.excess is 0 .scalar, s.excess is 1 .vector, s.excess is 2 .command].filterMap id) := rfl

/-- The first kind that overflows gives the mask, and the detail names it and marks them all. -/
theorem Machine.State.gateOverflow_eq (s : State) (is : List (Nat × Instr)) :
    let d (n : Nat) := gateDetail n (s.overflows is .scalar) (s.overflows is .vector) (s.overflows is .command)
    s.gateOverflow is =
      if s.overflows is .scalar then some (slotMask (s.enters is .scalar), d 0)
      else if s.overflows is .vector then some (slotMask (s.enters is .vector), d 1)
      else if s.overflows is .command then some (slotMask (s.enters is .command), d 2)
      else none := by
  rw [s.gateOverflow_eq_overflowOf, s.excess_eq, s.excess_eq, s.excess_eq]
  cases s.overflows is .scalar <;> cases s.overflows is .vector <;> cases s.overflows is .command <;> rfl

/-- The entries counted of a kind: those in the drain that do not leave in this cycle, and those in the buffer. -/
theorem Machine.Core.occupancy_eq (k : Core) (cx : CtxId) (cyc : Nat) (g : GKind) :
    let gone := (k.drain.filter fun d => decide (d.since ≤ cyc)).take 2
    k.occupancy cx cyc g =
      (k.drain.filter fun d => d.cx == cx && d.entry.kind == g && !gone.any fun e => e.entry.id == d.entry.id).length +
        ((k.ctx cx).gate.filter fun e => e.kind == g).length := by
  intro gone
  have hgone : ∀ n, (gone.map fun d => d.entry.id).contains n = gone.any fun e => e.entry.id == n := fun n => by
    rw [Bool.eq_iff_iff]
    simp
  rw [Core.occupancy, List.filter_append, List.length_append, List.filter_map, List.length_map, List.filter_filter]
  congr 2
  refine List.filter_congr fun d _ => ?_
  rw [hgone]
  simp only [Function.comp_apply]
  cases d.cx == cx <;> cases d.entry.kind == g <;> rfl

/-! ## The checks of the bundle as a whole (R50, R171) -/

/-- The charges of the window exceed the allowance of the context. -/
def Machine.State.overspends (s : State) (is : List (Nat × Instr)) : Prop :=
  (s.pre.dom (domOf s.iss.cl)).allowance s.preCtx.capo <
    ((windowOf s.now s.preCtx.charges).map Prod.snd).sum + s.bundleCharge (is.map Prod.snd)

/-- After the check of the gate the energy is judged as before it. -/
theorem Machine.State.wholeChecks_of_gateOverflow (s : State) (is : List (Nat × Instr)) :
    let u := match s.gateOverflow is with
      | none => s
      | some (mask, detail) => s.raiseMask mask 0x07 detail
    (s.overspends is → s.wholeChecks is = u.raiseMask 0 0x0C 0) ∧ (¬s.overspends is → s.wholeChecks is = u) := by
  cases h : s.gateOverflow is with
  | none =>
    dsimp only
    rw [State.wholeChecks, h]
    exact ⟨fun hs => if_pos hs, fun hs => if_neg hs⟩
  | some p =>
    obtain ⟨mask, detail⟩ := p
    dsimp only
    have hcharge : (s.raiseMask mask 0x07 detail).bundleCharge (is.map Prod.snd) = s.bundleCharge (is.map Prod.snd) :=
      State.bundleCharge_congr _ ⟨rfl, rfl, rfl, rfl⟩ (.refl _)
    rw [State.wholeChecks, h]
    dsimp only
    rw [hcharge]
    exact ⟨fun hs => if_pos hs, fun hs => if_neg hs⟩

/-- The slots under a mask charge the access of their first enabled lane, or of their first enabled element. -/
theorem Machine.State.slotCharge_elements (s : State) (h : Head) (d : VReg) (a b : SReg) (x : VReg) (w : EW) :
    let on (e : Nat) := (s.mguard h).getLsbD (ewBytes w * e)
    let each (i : Instr) (addr : Nat → Nat) : Prop :=
      ((∀ e, e < 256 / ewBytes w → on e = false) → s.slotCharge i = []) ∧
      ∀ e, e < 256 / ewBytes w → on e = true → (∀ p, p < e → on p = false) →
        ChargesAccess (s.slotCharge i) (addr e) (widthCode (8 * ewBytes w))
    (∀ i ∈ ([.vldg h d a b w, .vstg h d a b w] : List Instr), each i (strideAddr (s.sreg a) (s.sreg b))) ∧
    ∀ i ∈ ([.vgath h d a x w, .vscat h d a x w] : List Instr), each i (indexAddr (s.sreg a) (s.vreg x) w) := by
  intro on each
  have hstride := s.elemCharge_access h w (strideAddr (s.sreg a) (s.sreg b))
  have hindex := s.elemCharge_access h w (indexAddr (s.sreg a) (s.vreg x) w)
  simp only [List.forall_mem_cons, List.not_mem_nil, IsEmpty.forall_iff, implies_true, and_true]
  exact ⟨⟨hstride, hstride⟩, hindex, hindex⟩

/-- A plane load and mma charge by the width of their operands. -/
theorem Machine.State.slotCharge_planes (s : State) (h : Head) (m : MKind) (a : BitVec 5) :
    ∀ i ∈ ([.mld h m a, .mldSp h m a] : List Instr),
      s.slotCharge i = [⟨8, kindCode m (kindDesc s.regs m), if m = .f16 ∨ m = .bf16 then 128 else 64⟩] := by
  rw [← planeLines_eq]
  simp only [List.forall_mem_cons, List.not_mem_nil, IsEmpty.forall_iff, implies_true, and_true]
  exact ⟨rfl, rfl⟩

theorem Machine.State.slotCharge_mma (s : State) (h : Head) (m : MKind) (t : Tile) (a b : BitVec 5) :
    let p := (s.pre.core s.iss.cl s.iss.co).plane
    s.slotCharge (.mma h m t a b) = [⟨7, max (kindCode m (kindDesc s.regs m)) (kindCode p.kind p.desc),
      (s.sreg (b.setWidth 6)).toNat % 256⟩] := by
  intro p
  rw [← BitVec.toNat_setWidth 8]
  rfl

/-- Settles O17: the checks of the bundle as a whole, its charge item by item, and the charge made at its end. -/
theorem wholeBundleTraps : Obligations.WholeBundleTraps := by
  unfold Obligations.WholeBundleTraps
  intro s is k x gone held enters most exceeds spent dom excess next bad
  have hover : ∀ g, exceeds g ↔ s.overflows is g = true := fun g => by
    have hmost : most g = s.preCtx.gateMost g := by cases g <;> rfl
    have hheld : held g = (s.pre.core s.iss.cl s.iss.co).occupancy s.iss.cx s.now g := (Core.occupancy_eq ..).symm
    dsimp only [exceeds]
    rw [State.overflows, decide_eq_true_iff, hmost, hheld]
    rfl
  have hgate := s.gateOverflow_eq is
  have hnext := s.wholeChecks_of_gateOverflow is
  have hbad : ∀ g n, n < 3 → s.gateOverflow is = some (slotMask (s.enters is g),
      gateDetail n (s.overflows is .scalar) (s.overflows is .vector) (s.overflows is .command)) → bad g n := by
    intro g n hn hg
    rw [hg] at hnext
    obtain ⟨hfirst, hrest, hscalar, hvector, hcommand⟩ := gateDetail_fields hn (s.overflows is .scalar)
      (s.overflows is .vector) (s.overflows is .command)
    refine ⟨_, _, hnext, fun j hj => ?_, hfirst, hrest, ?_, ?_, ?_⟩
    · rw [getLsbD_slotMask _ hj, decide_eq_true_iff]
      rfl
    · rw [hscalar, hover]
    · rw [hvector, hover]
    · rw [hcommand, hover]
  refine ⟨fun hs hv hc => ?_, fun hs => ?_, fun hs hv => ?_, fun hs hv hc => ?_, fun _ _ => rfl, fun _ => rfl,
    fun i f hf => s.nullified_iff hf, fun i f hf => s.slotCharge_rows i f hf, ?_, ?_, ?_,
    fun h q a b n => s.slotCharge_masks h q a b n, ?_,
    fun h => s.finish_mach_of_raises is h, fun h => s.finish_books is h⟩
  · rw [hover] at hs hv hc
    rw [hgate, if_neg hs, if_neg hv, if_neg hc] at hnext
    exact hnext
  · rw [hover] at hs
    exact hbad .scalar 0 (by decide) (by rw [hgate, if_pos hs])
  · rw [hover] at hs hv
    exact hbad .vector 1 (by decide) (by rw [hgate, if_neg hs, if_pos hv])
  · rw [hover] at hs hv hc
    exact hbad .command 2 (by decide) (by rw [hgate, if_neg hs, if_neg hv, if_pos hc])
  · intro h t d a r y c n q w
    have hw : widthCode (vtyBits t) = w := widthCode_vtyBits t
    rw [← hw]
    exact s.slotCharge_elementwise h t d a r y c n q
  · intro h t d a y sat hf tl n w
    have hitems := s.slotCharge_float h t d a y sat hf tl n
    rw [widthCode_ftyBits] at hitems
    exact hitems
  · intro h t d a r y n w
    have hw : widthCode (etyBits t) = w := widthCode_etyBits t
    rw [← hw]
    exact s.slotCharge_moves h t d a r y n
  · intro code access place kind
    have hkind : ∀ m, kindCode m (kindDesc s.regs m) = kind m := fun m => kindCode_kindDesc s.regs m
    refine ⟨fun h f d a => ?_, fun h d b o => s.slotCharge_scalarMemory h d b o, fun h d b n => ?_, fun h d a b x w =>
      s.slotCharge_elements h d a b x w, fun h l a o w b => s.slotCharge_atomics h l a o w b, fun h d a w o => ?_,
      fun h d a n => chargesAccess_accessCharge _ 64, fun h m a => ?_, fun h m t a b => ?_⟩
    · have hmax := widthCode_max (cvtTypes s.regs f).1.width (cvtTypes s.regs f).2.width
      exact congrArg (fun w => [ChargeItem.mk 2 w 1]) hmax
    · exact ⟨s.vectorCharge_access h b n, s.vectorCharge_access h b n, fun a => s.vectorCharge_access h (.sreg a) n⟩
    · simp only [List.forall_mem_cons, List.not_mem_nil, IsEmpty.forall_iff, implies_true, and_true]
      exact ⟨s.atomicCharge_access a, s.atomicCharge_access a⟩
    · rw [← hkind m]
      exact s.slotCharge_planes h m a
    · refine ⟨_, ?_, kindCode_eq _ _⟩
      rw [← hkind m]
      exact s.slotCharge_mma h m t a b

end Sys2Proof

end

section
namespace Sys2Proof

open Machine

/-! ## Reserved field values of the scalar and predicate opcodes (R28, R31) -/

/-- A scalar opcode reserves what its class's decoder refuses. -/
theorem Spec.Reserved.of_decodeScalar {op : BitVec 7} {P : Fields → Bool}
    (hop : (op.extractLsb' 4 3).toNat = 1 ∨ (op.extractLsb' 4 3).toNat = 2)
    (h : ∀ f, f.op = op → P f = true → decodeScalar f = .error .reservedField) : Spec.Reserved op P := by
  intro w hw hP
  have hclass : decodeWord w = decodeScalar (Fields.ofWord w) := by
    rw [decodeWord, decodeFields, hw]
    rcases hop with e | e <;> simp only [e]
  rw [hclass, h _ hw hP]

theorem chk_eq_reserved {c : Bool} (h : ¬c = true) (i : Instr) : chk c i = .error .reservedField := if_neg h

/-- The opcodes of R70 with one form reserve every other x. -/
theorem reserved_x_ne_zero : ∀ op ∈ [0x10#7, 0x11#7, 0x12#7, 0x13#7, 0x14#7, 0x15#7],
    Spec.Reserved op fun f => f.x != 0 := by
  intro op hop
  refine .of_decodeScalar (.inl ?_) fun f hf hx => ?_
  · revert op; decide
  · have hx : ¬(f.x == 0#2) = true := fun h => bne_iff_ne.mp hx (beq_iff_eq.mp h)
    simp only [List.mem_cons, List.not_mem_nil, or_false] at hop
    rcases hop with rfl | rfl | rfl | rfl | rfl | rfl
    all_goals
      rw [decodeScalar, hf]
      exact chk_eq_reserved hx _

/-! ## Word arithmetic (R57, R70) -/

theorem add_eq_ofNat (x y : Word) : x + y = BitVec.ofNat 64 (x.toNat + y.toNat) := by
  rw [BitVec.ofNat_add, BitVec.ofNat_toNat, BitVec.ofNat_toNat, BitVec.setWidth_eq, BitVec.setWidth_eq]

theorem sub_eq_ofInt (x y : Word) : x - y = BitVec.ofInt 64 (x.toInt - y.toInt) := by
  rw [BitVec.sub_eq_add_neg, Int.sub_eq_add_neg, BitVec.ofInt_add, BitVec.ofInt_neg, BitVec.ofInt_toInt,
    BitVec.ofInt_toInt]

/-- The lesser of two words by their signed reading, and the greater (R70). -/
theorem slt_ite_eq (x y : Word) : (if x.slt y then x else y) = BitVec.ofInt 64 (min x.toInt y.toInt) ∧
    (if x.slt y then y else x) = BitVec.ofInt 64 (max x.toInt y.toInt) := by
  by_cases h : x.toInt < y.toInt
  · simp [BitVec.slt_iff_toInt_lt, h, min_eq_left h.le, max_eq_right h.le]
  · simp [BitVec.slt_iff_toInt_lt, h, min_eq_right (not_lt.mp h), max_eq_left (not_lt.mp h)]

/-- The lesser of two words by their natural reading, and the greater (R70). -/
theorem ult_ite_eq (x y : Word) : (if x.ult y then x else y) = BitVec.ofNat 64 (min x.toNat y.toNat) ∧
    (if x.ult y then y else x) = BitVec.ofNat 64 (max x.toNat y.toNat) := by
  by_cases h : x.toNat < y.toNat
  · simp [BitVec.ult_iff_toNat_lt, h, min_eq_left h.le, max_eq_right h.le]
  · simp [BitVec.ult_iff_toNat_lt, h, min_eq_right (not_lt.mp h), max_eq_left (not_lt.mp h)]

/-- An executing instruction on two registers answers the function of their values that its word arithmetic is. -/
theorem next_scalarOp {s : State} {h : Head} (hs : Spec.Runs s h) {f : Word → Word → Word} {lat : Nat} {d a b : SReg}
    {w : Word} (hw : f (s.sreg a) (s.sreg b) = w) :
    (Host.Outcome.next (scalarOp f lat h d a b s) : Host.Outcome State Fault Refusal) = .next (s.scalar lat d w) := by
  rw [scalarOp_runs hs.1 hs.2, hw]

theorem next_scalarUn {s : State} {h : Head} (hs : Spec.Runs s h) {f : Word → Word} {d a : SReg}
    {w : Word} (hw : f (s.sreg a) = w) :
    (Host.Outcome.next (scalarUn f h d a s) : Host.Outcome State Fault Refusal) = .next (s.scalar 1 d w) := by
  rw [scalarUn_runs hs.1 hs.2, hw]

theorem next_guarded {s : State} {h : Head} (hs : Spec.Runs s h) {f : State → State} {t : State} (ht : f s = t) :
    (Host.Outcome.next (s.guarded h f) : Host.Outcome State Fault Refusal) = .next t := by
  rw [State.guarded_runs hs.1 hs.2, ht]

/-- Settles O1: the fields are those of the encoder, the decoder refuses the other selectors, and each operation on words
is the stated one on numbers. -/
theorem scalarArithmetic : Obligations.ScalarArithmetic := by
  refine ⟨fun h d a b => by and_intros <;> rfl, reserved_x_ne_zero _ (by decide), reserved_x_ne_zero _ (by decide),
    reserved_x_ne_zero _ (by decide), reserved_x_ne_zero _ (by decide), reserved_x_ne_zero _ (by decide),
    reserved_x_ne_zero _ (by decide), .of_decodeScalar (.inl rfl) fun f hf hx => ?_, ?_⟩
  · rw [decodeScalar, hf, beq_iff_eq.mp hx]
    rfl
  intro h d a b s hs x y n
  exact ⟨next_scalarOp hs (add_eq_ofNat x y), next_scalarOp hs (sub_eq_ofInt x y), next_scalarOp hs rfl,
    next_scalarOp hs rfl, next_scalarOp hs rfl, next_scalarOp hs rfl, next_scalarOp hs (shl_eq_mul x n),
    next_scalarOp hs (shr_eq_div x n), next_scalarOp hs (sra_eq_div x n), next_scalarOp hs (slt_ite_eq x y).1,
    next_scalarOp hs (slt_ite_eq x y).2, next_scalarOp hs (ult_ite_eq x y).1, next_scalarOp hs (ult_ite_eq x y).2⟩

end Sys2Proof

end

section
namespace Sys2Proof

open Machine

/-! ## Immediates (R71, R72) -/

theorem signExtend_eq_ofInt {n : Nat} (imm : BitVec n) : imm.signExtend 64 = BitVec.ofInt 64 imm.toInt := rfl

/-- A lis shifts its register up by 14 bits and adds its immediate below (R72). -/
theorem lis_eq_ofNat (w : Word) (n : BitVec 14) :
    (w <<< 14 ||| n.setWidth 64) = BitVec.ofNat 64 (w.toNat * 2 ^ 14 + n.toNat) := by
  apply BitVec.eq_of_toNat_eq
  have hn := n.isLt
  have hw : (w <<< 14).toNat = 2 ^ 14 * (w.toNat % 2 ^ 50) := by
    rw [BitVec.toNat_shiftLeft, Nat.shiftLeft_eq]
    omega
  have hor : (w <<< 14).toNat ||| n.toNat = (w <<< 14).toNat + n.toNat := by
    rw [hw, Nat.two_pow_add_eq_or_of_lt hn]
  rw [BitVec.toNat_or, BitVec.toNat_setWidth, BitVec.toNat_ofNat, Nat.mod_eq_of_lt (by omega : n.toNat < 2 ^ 64), hor, hw]
  omega

/-- A word without its low bits, and then one lis with the next 14 of them (R72). -/
theorem lis_shiftRight (c : Word) (k : Nat) :
    BitVec.ofNat 64 ((c >>> (k + 14)).toNat * 2 ^ 14 + (c.extractLsb' k 14).toNat) = c >>> k := by
  apply BitVec.eq_of_toNat_eq
  have hlt := (c >>> k).isLt
  rw [BitVec.toNat_ushiftRight, Nat.shiftRight_eq_div_pow] at hlt ⊢
  rw [BitVec.toNat_ofNat, BitVec.toNat_ushiftRight, BitVec.extractLsb'_toNat, Nat.shiftRight_eq_div_pow, pow_add, ← Nat.div_div_eq_div_mul, Nat.div_add_mod', Nat.mod_eq_of_lt hlt]

/-- The highest bits of a word, which a li holds in its immediate (R72). -/
theorem li_shiftRight (c : Word) : BitVec.ofInt 64 (c.extractLsb' 56 14).toInt = c >>> 56 := by
  have hlt := c.isLt
  have hn : (c.extractLsb' 56 14).toNat = c.toNat / 2 ^ 56 := by
    rw [BitVec.extractLsb'_toNat, Nat.shiftRight_eq_div_pow]
    omega
  have hpos : (c.extractLsb' 56 14).toInt = (c.toNat / 2 ^ 56 : Nat) := by
    rw [BitVec.toInt_eq_toNat_of_lt (by omega), hn]
  apply BitVec.eq_of_toNat_eq
  rw [hpos, BitVec.ofInt_natCast, BitVec.toNat_ofNat, BitVec.toNat_ushiftRight, Nat.shiftRight_eq_div_pow]
  omega

/-- The fields of layout B and of layout C, put together again, are the immediate (R15). -/
theorem i8_mk (h : Head) (op : BitVec 7) (d a : BitVec 6) (z : BitVec 8) :
    (mk h op d a (z.extractLsb' 2 6) (z.extractLsb' 0 2)).i8 = z := ((Fields.eq_i8_iff _ z).mp ⟨rfl, rfl⟩).symm

theorem i14_mk (h : Head) (op : BitVec 7) (d : BitVec 6) (z : BitVec 14) :
    (mk h op d (z.extractLsb' 8 6) (z.extractLsb' 2 6) (z.extractLsb' 0 2)).i14 = z :=
  ((Fields.eq_i14_iff _ z).mp ⟨rfl, rfl, rfl⟩).symm

/-- Settles O2: the immediates stand in their fields, a constant's bits from 56 up go into the li, and each lis brings
the next 14 below. -/
theorem scalarImmediates : Obligations.ScalarImmediates := by
  refine ⟨fun h d a i8 n => ⟨rfl, rfl, ⟨_, rfl, rfl, rfl, rfl, i8_mk ..⟩, ⟨_, rfl, rfl, rfl, rfl, i8_mk ..⟩,
    ⟨_, rfl, rfl, rfl, rfl, i8_mk ..⟩⟩, fun h d i14 => ⟨⟨_, rfl, rfl, rfl, i14_mk ..⟩, ⟨_, rfl, rfl, rfl, i14_mk ..⟩⟩,
    fun c => ?_, .of_decodeScalar (.inl rfl) fun f hf hx => ?_, ?_⟩
  · refine ⟨c.extractLsb' 56 14, c.extractLsb' 42 14, c.extractLsb' 28 14, c.extractLsb' 14 14, c.extractLsb' 0 14, ?_⟩
    intro shifted
    simp only [shifted, li_shiftRight, lis_shiftRight c 42, lis_shiftRight c 28, lis_shiftRight c 14, lis_shiftRight c 0,
      BitVec.ushiftRight_zero]
  · rw [decodeScalar, hf, beq_iff_eq.mp hx]
    rfl
  · intro h d a s hs x
    refine ⟨fun imm => next_scalarUn hs ?_, fun imm => next_scalarUn hs ?_, fun n => next_scalarUn hs (shl_eq_mul x _),
      fun n => next_scalarUn hs (shr_eq_div x _), fun n => next_scalarUn hs (sra_eq_div x _),
      fun imm => next_guarded hs rfl, fun imm => next_guarded hs ?_⟩
    · rw [BitVec.ofInt_add, BitVec.ofInt_toInt, ← signExtend_eq_ofInt]
    · rw [BitVec.ofNat_toNat]
    · rw [lis_eq_ofNat]

/-! ## Multiplication and division (R73, R74) -/

theorem mul_eq_ofNat (x y : Word) : x * y = BitVec.ofNat 64 (x.toNat * y.toNat) := by
  rw [BitVec.ofNat_mul, BitVec.ofNat_toNat, BitVec.ofNat_toNat, BitVec.setWidth_eq, BitVec.setWidth_eq]

theorem mulhn_eq_div (x y : Word) :
    (x.setWidth 128 * y.setWidth 128).extractLsb' 64 64 = BitVec.ofNat 64 (x.toNat * y.toNat / 2 ^ 64) := by
  have hx := x.isLt
  have hy := y.isLt
  have hxy : x.toNat * y.toNat < 2 ^ 64 * 2 ^ 64 := Nat.mul_lt_mul'' hx hy
  apply BitVec.eq_of_toNat_eq
  rw [BitVec.extractLsb'_toNat, BitVec.toNat_mul, BitVec.toNat_setWidth, BitVec.toNat_setWidth, BitVec.toNat_ofNat,
    Nat.shiftRight_eq_div_pow, Nat.mod_eq_of_lt (by omega : x.toNat < 2 ^ 128),
    Nat.mod_eq_of_lt (by omega : y.toNat < 2 ^ 128), Nat.mod_eq_of_lt (by omega : x.toNat * y.toNat < 2 ^ 128)]

/-- Settles O3. -/
theorem multiplication : Obligations.Multiplication := by
  refine ⟨fun h d a b => ⟨rfl, rfl, rfl⟩, .of_decodeScalar (.inl rfl) fun f hf hx => ?_, ?_⟩
  · rw [decodeScalar, hf, beq_iff_eq.mp hx]
    rfl
  intro h d a b s hs x y
  exact ⟨next_scalarOp hs (mul_eq_ofNat x y), next_scalarOp hs (mulh_eq_div x y), next_scalarOp hs (mulhn_eq_div x y)⟩

theorem divSigned_of_zero {x y : Word} (hy : y = 0) : divSigned x y = (BitVec.ofInt 64 (-1), x) := by
  rw [divSigned, if_pos hy]
  rfl

/-- The one quotient that does not fit (R74). -/
theorem divSigned_of_overflow {x y : Word} (hx : x.toInt = -2 ^ 63) (hy : y.toInt = -1) : divSigned x y = (x, 0) := by
  have ex : x = BitVec.intMin 64 := BitVec.eq_of_toInt_eq (by rw [hx]; decide)
  have ey : y = BitVec.allOnes 64 := BitVec.eq_of_toInt_eq (by rw [hy]; decide)
  rw [divSigned, if_neg (by rw [ey]; decide), if_pos ⟨ex, ey⟩, ex]

theorem divSigned_of_fits {x y : Word} (hy : y ≠ 0) (hxy : ¬(x.toInt = -2 ^ 63 ∧ y.toInt = -1)) :
    divSigned x y = (BitVec.ofInt 64 (x.toInt.tdiv y.toInt),
      BitVec.ofInt 64 (x.toInt - x.toInt.tdiv y.toInt * y.toInt)) := by
  have hne : ¬(x = BitVec.intMin 64 ∧ y = BitVec.allOnes 64) := by
    rintro ⟨rfl, rfl⟩
    exact hxy (by decide)
  rw [divSigned, if_neg hy, if_neg hne, tmod_eq_sub]

theorem divNatural_of_zero {x y : Word} (hy : y = 0) : divNatural x y = (BitVec.ofNat 64 (2 ^ 64 - 1), x) := by
  rw [divNatural, if_pos hy]
  rfl

theorem divNatural_of_ne_zero {x y : Word} (hy : y ≠ 0) : divNatural x y =
    (BitVec.ofNat 64 (x.toNat / y.toNat), BitVec.ofNat 64 (x.toNat - x.toNat / y.toNat * y.toNat)) := by
  rw [divNatural, if_neg hy, Nat.mod_eq_sub_div_mul]

/-- The detail of unit-busy, in the order of its fields (R74). -/
theorem divBusy_eq (left : Nat) : divBusy left = BitVec.ofNat 64 (5 + left * 16) := by
  rw [divBusy, Nat.mul_comm]

/-- Settles O4: the divider is free, held, or claimed by an earlier slot of the bundle, and where it is free each
quotient and remainder has its cases. -/
theorem division : Obligations.Division := by
  intro h d a b s hs k x y u held all
  obtain ⟨hguard, hcalm⟩ := hs
  refine ⟨fun hfree hfirst => ?_, fun hheld => ?_, fun hfree hsecond => ?_⟩
  · have hdiv : ∀ (f : Word → Word → Word) (w : Word), f x y = w →
        (Host.Outcome.next (divide f h d a b s) : Host.Outcome State Fault Refusal) = .next (held w) := by
      rintro f w rfl
      rw [divide_free hguard hcalm hfree hfirst]
    refine ⟨fun hy => ⟨hdiv _ _ ?_, hdiv _ _ ?_, hdiv _ _ ?_, hdiv _ _ ?_⟩, fun hx hy => ⟨hdiv _ _ ?_, hdiv _ _ ?_⟩,
      fun hy hxy => ⟨hdiv _ _ ?_, hdiv _ _ ?_⟩, fun hy => ⟨hdiv _ _ ?_, hdiv _ _ ?_⟩⟩
    · rw [divSigned_of_zero hy]
    · rw [divNatural_of_zero hy]
    · rw [divSigned_of_zero hy]
    · rw [divNatural_of_zero hy]
    · rw [divSigned_of_overflow hx hy]
    · rw [divSigned_of_overflow hx hy]
    · rw [divSigned_of_fits hy hxy]
    · rw [divSigned_of_fits hy hxy]
    · rw [divNatural_of_ne_zero hy]
    · rw [divNatural_of_ne_zero hy]
  · have hdiv : ∀ f : Word → Word → Word, (Host.Outcome.next (divide f h d a b s) : Host.Outcome State Fault Refusal) =
        .next (u.raise 0x08 (BitVec.ofNat 64 (5 + (k.divFree - s.now) * 16))) := fun f => by
      rw [divide_held hguard hheld, divBusy_eq]
    exact ⟨hdiv _, hdiv _, hdiv _, hdiv _⟩
  · have hdiv : ∀ f : Word → Word → Word, (Host.Outcome.next (divide f h d a b s) : Host.Outcome State Fault Refusal) =
        .next (u.raise 0x08 (BitVec.ofNat 64 (5 + 18 * 16))) := fun f => by
      rw [divide_second hguard hfree hsecond, divBusy_eq]
    exact ⟨hdiv _, hdiv _, hdiv _, hdiv _⟩

end Sys2Proof

end

section
namespace Sys2Proof

open Machine

/-! ## Bit counts (R75) -/

theorem wordBits_eq (x : Word) : wordBits x = (List.range' 0 64).map x.getLsbD := by
  rw [wordBits, List.range_eq_range']

theorem wordBits_reverse (x : Word) : (wordBits x).reverse = (List.range' 0 64).map fun i => x.getLsbD (63 - i) := by
  rw [wordBits, ← List.map_reverse, List.range_eq_range', List.reverse_range', List.map_map, List.range_eq_range']
  rfl

/-- The bits before the first that is set, from either end (R75). -/
theorem zeros_before_first_one (f : Nat → Bool) : ∃ n, n ≤ 64 ∧ (∀ i, i < n → f i = false) ∧ (n < 64 → f n = true) ∧
    (((List.range' 0 64).map f).takeWhile (fun b => !b)).length = n := by
  simpa only [Nat.zero_add] using takeWhile_first f 64 0

theorem filter_wordBits (x : Word) : ((wordBits x).filter id).length = (List.range 64).countP x.getLsbD := by
  rw [← List.countP_eq_length_filter, wordBits, List.countP_map]
  rfl

/-- A word of zeros has no first bit set, from either end (R75). -/
theorem takeWhile_wordBits_zero : ((wordBits 0).takeWhile fun b => !b).length = 64 ∧
    ((wordBits 0).reverse.takeWhile fun b => !b).length = 64 := by decide

/-- Settles O5: each count is that of the bits taken before the first set one. -/
theorem bitCounts : Obligations.BitCounts := by
  refine ⟨fun h d a => ⟨rfl, rfl, rfl⟩, .of_decodeScalar (.inl rfl) fun f hf hr => ?_, ?_⟩
  · rcases Bool.or_eq_true _ _ ▸ hr with hb | hx
    · have hb : ¬(f.b == 0#6) = true := fun h => bne_iff_ne.mp hb (beq_iff_eq.mp h)
      simp only [decodeScalar, hf, BitVec.ofNat_eq_ofNat, BitVec.reduceToNat, chk_eq_reserved hb]
      split <;> rfl
    · rw [decodeScalar, hf, beq_iff_eq.mp hx]
      rfl
  · intro h d a s hs x
    refine ⟨?_, ?_, next_scalarUn hs (congrArg _ (filter_wordBits x)), fun hx => ⟨next_scalarUn hs ?_, next_scalarUn hs ?_⟩⟩
    · obtain ⟨n, hn, hzeros, hone, hlen⟩ := zeros_before_first_one fun i => x.getLsbD (63 - i)
      exact ⟨n, hn, hzeros, hone, next_scalarUn hs (by rw [wordBits_reverse, hlen])⟩
    · obtain ⟨n, hn, hzeros, hone, hlen⟩ := zeros_before_first_one x.getLsbD
      exact ⟨n, hn, hzeros, hone, next_scalarUn hs (by rw [wordBits_eq, hlen])⟩
    · rw [show s.sreg a = 0 from hx, takeWhile_wordBits_zero.2]; rfl
    · rw [show s.sreg a = 0 from hx, takeWhile_wordBits_zero.1]; rfl

/-! ## Comparisons and predicates (R76 to R78) -/

/-- A slot that writes a predicate pair answers its condition, however that is stated. -/
theorem next_predicate {s : State} {h : Head} (hs : Spec.Runs s h) {k : BitVec 3} {b c : Bool} {f : State → Bool}
    (hf : f s = b) (hbc : b = c) :
    (Host.Outcome.next (s.guarded h fun s => s.predicate k (f s)) : Host.Outcome State Fault Refusal) =
      .next (s.predicate k c) := by
  rw [State.guarded_runs hs.1 hs.2, hf, hbc]

theorem condHolds_eq (x y : Word) :
    condHolds .eq x y = decide (x = y) ∧ condHolds .ne x y = decide (x ≠ y) ∧
    condHolds .lt x y = decide (x.toInt < y.toInt) ∧ condHolds .ge x y = decide (y.toInt ≤ x.toInt) ∧
    condHolds .ltn x y = decide (x.toNat < y.toNat) ∧ condHolds .gen x y = decide (y.toNat ≤ x.toNat) ∧
    condHolds .tst x y = decide (x &&& y ≠ 0) := by
  refine ⟨rfl, ?_, ?_, ?_, ?_, ?_, ?_⟩ <;> rw [condHolds, Bool.eq_iff_iff, decide_eq_true_eq]
  · exact bne_iff_ne
  · exact BitVec.slt_iff_toInt_lt
  · rw [Bool.not_eq_true', ← Bool.not_eq_true, BitVec.slt_iff_toInt_lt, not_lt]
  · exact BitVec.ult_iff_toNat_lt
  · rw [Bool.not_eq_true', ← Bool.not_eq_true, BitVec.ult_iff_toNat_lt, not_lt]
  · exact bne_iff_ne

/-- Settles O6: an immediate is read as its condition reads words. -/
theorem comparisons : Obligations.Comparisons := by
  intro h k a s hs x
  refine ⟨fun b => ?_, fun imm => ?_⟩
  · intro y
    obtain ⟨heq, hne, hlt, hge, hltn, hgen, htst⟩ := condHolds_eq x y
    exact ⟨next_predicate hs rfl heq, next_predicate hs rfl hne, next_predicate hs rfl hlt, next_predicate hs rfl hge,
      next_predicate hs rfl hltn, next_predicate hs rfl hgen, next_predicate hs rfl htst⟩
  · obtain ⟨heq, hne, hlt, hge, -, -, htst⟩ := condHolds_eq x (imm.signExtend 64)
    obtain ⟨-, -, -, -, hltn, hgen, -⟩ := condHolds_eq x (imm.setWidth 64)
    simp only [ne_eq, ← BitVec.toInt_inj, BitVec.toInt_signExtend_of_le (show 8 ≤ 64 by decide)]
      at heq hne hlt hge
    rw [BitVec.toNat_setWidth_of_le (by decide)] at hltn hgen
    exact ⟨next_predicate hs rfl heq, next_predicate hs rfl hne, next_predicate hs rfl hlt, next_predicate hs rfl hge,
      next_predicate hs rfl hltn, next_predicate hs rfl hgen, next_predicate hs rfl htst⟩

/-- The odd member of a pair reads the complement of the even one (R20). -/
theorem Machine.Regs.pred_odd (r : Regs) (k : BitVec 3) : r.pred (k ++ 1#1) = !r.pred (k ++ 0#1) := by
  have hk : ∀ b : BitVec 1, (k ++ b).extractLsb' 1 3 = k := fun b => BitVec.extractLsb'_append_eq_left
  have hodd : (k ++ 1#1).getLsbD 0 = true := by rw [BitVec.getLsbD_append]; rfl
  have heven : (k ++ 0#1).getLsbD 0 = false := by rw [BitVec.getLsbD_append]; rfl
  rw [Regs.pred, Regs.pred, hk, hk, hodd, heven, Bool.bne_true, Bool.bne_false]

/-- Settles O7. -/
theorem predicateLogic : Obligations.PredicateLogic := by
  refine ⟨fun h k a b => ⟨rfl, rfl, rfl, rfl⟩, fun h k a n => rfl, .of_decodeScalar (.inr rfl) fun f hf hr => ?_,
    .of_decodeScalar (.inr rfl) fun f hf hr => ?_, Regs.pred_odd, fun h k s hs => ⟨fun a b => ?_, fun a n => ?_⟩⟩
  · have hok : ¬(hi3 f.d == 0#3 && predPairOk (lo3 f.d) && hi2 f.a == 0#2 && hi2 f.b == 0#2) = true := by
      simp only [Bool.or_eq_true, bne_iff_ne] at hr
      simp only [Bool.and_eq_true, beq_iff_eq]
      tauto
    simp only [decodeScalar, hf, BitVec.ofNat_eq_ofNat, BitVec.reduceToNat, chk_eq_reserved hok]
    split <;> rfl
  · have hok : ¬(hi3 f.d == 0#3 && predPairOk (lo3 f.d) && f.x == 0#2) = true := by
      simp only [Bool.or_eq_true, bne_iff_ne] at hr
      simp only [Bool.and_eq_true, beq_iff_eq]
      tauto
    rw [decodeScalar, hf]
    exact chk_eq_reserved hok _
  · exact ⟨next_predicate hs rfl rfl, next_predicate hs rfl rfl, next_predicate hs rfl rfl, next_predicate hs rfl rfl⟩
  · exact next_predicate hs rfl rfl

/-- Settles O8: the field of a level that stands, and 0 past the depth. -/
theorem loopFields : Obligations.LoopFields := by
  refine ⟨fun h d l => ⟨⟨_, rfl, rfl, rfl, rfl, i8_mk ..⟩, ⟨_, rfl, rfl, rfl, rfl, i8_mk ..⟩⟩,
    .of_decodeScalar (.inr rfl) fun f hf hr => ?_, fun h d l s hs => ⟨fun v hv => ?_, fun hl => ?_⟩⟩
  · have hok : ¬(f.a == 0#6 && f.i8.extractLsb' 4 4 == 0#4 && (f.i8.extractLsb' 0 3).ult 6#3) = true := by
      simp only [Bool.or_eq_true, bne_iff_ne, BitVec.ule_eq_not_ult, Bool.not_eq_true', ← Bool.not_eq_true] at hr
      simp only [Bool.and_eq_true, beq_iff_eq]
      tauto
    rw [decodeScalar, hf]
    exact chk_eq_reserved hok _
  · exact ⟨next_guarded hs (by rw [levelField, hv, BitVec.ofNat_toNat]),
      next_guarded hs (by rw [levelField, hv, BitVec.ofNat_toNat])⟩
  · have hnone : s.regs.loops[l.toNat]? = none := List.getElem?_eq_none hl
    exact ⟨next_guarded hs (by rw [levelField, hnone]), next_guarded hs (by rw [levelField, hnone])⟩

end Sys2Proof

end

section
namespace Sys2Proof

open Machine

/-! ## Power levels (R69, R169) -/

@[simp] theorem Machine.Mach.dom_modDom_same (m : Mach) (d : Dom) (f : Domain → Domain) :
    (m.modDom d f).dom d = f (m.dom d) := by
  simp only [Mach.dom, Mach.modDom_pk, Package.dom, Package.modDom, FMap.find_put_same, Option.getD_some]

theorem Machine.Mach.dom_modCtx (m : Mach) (r : CtxRef) (f : Context → Context) (d : Dom) :
    (m.modCtx r f).dom d = m.dom d := rfl

/-- A level that falls is set from the next cycle, and the difference returns to the domain in this tick. -/
theorem Machine.State.setLevel_eq (s : State) (level : BitVec 4) :
    let t := s.setLevel level
    t.iss = s.iss ∧ (t.mach.ctx s.ref).capoNext = some level ∧
    (t.mach.ctx s.ref).capo = (s.mach.ctx s.ref).capo ∧
    (t.mach.dom (domOf s.iss.cl)).returned =
      (s.mach.dom (domOf s.iss.cl)).returned ++ [(s.mach.pk.fret, s.preCtx.capo.toNat - level.toNat)] := by
  have hctx : (s.setLevel level).mach.ctx s.ref = { s.mach.ctx s.ref with capoNext := some level } :=
    Mach.ctx_modCtx_same ..
  have hdom : (s.setLevel level).mach.dom (domOf s.iss.cl) = { s.mach.dom (domOf s.iss.cl) with
      returned := (s.mach.dom (domOf s.iss.cl)).returned ++ [(s.mach.pk.fret, s.preCtx.capo.toNat - level.toNat)] } :=
    (Mach.dom_modCtx _ _ _ _).trans (Mach.dom_modDom_same ..)
  exact ⟨rfl, by rw [hctx], by rw [hctx], by rw [hdom]⟩

theorem exec_capoAcq_of_runs {s : State} {h : Head} (hs : Spec.Runs s h) (level : BitVec 4) :
    exec (.capoAcq h level) s = .next (if !s.preCtx.first then s.raise 0x0C 1
      else if s.preCtx.capo.toNat < level.toNat then s.raise 0x0C 2 else s.setLevel level) := by
  refine congrArg _ ((if_pos hs.1).trans ?_)
  rw [State.perform_calm hs.2]

/-- Settles O14. -/
theorem capoSlots : Obligations.CapoSlots := by
  intro h s hs held sets
  refine ⟨⟨_, next_guarded hs rfl, s.setLevel_eq 0⟩, fun level => ⟨fun hf => ?_, fun hf hlt => ?_, fun hf hle => ?_⟩⟩
  · simp [exec_capoAcq_of_runs hs, hf]
  · rw [exec_capoAcq_of_runs hs, hf]
    exact congrArg _ (if_pos hlt)
  · refine ⟨_, ?_, s.setLevel_eq level⟩
    rw [exec_capoAcq_of_runs hs, hf]
    exact congrArg _ (if_neg (not_lt.mpr hle))

/-! ## The system values (R80, R81) -/

theorem mem_ctxIds (c : CtxId) : c ∈ ctxIds := by
  revert c; decide

/-- The identity of a context: its cluster, its core and its number (R80). -/
theorem ident_eq (cl : ClusterId) (co : CoreId) (cx : CtxId) :
    (cl ++ co ++ cx).setWidth 64 = BitVec.ofNat 64 (cl.toNat * 64 + co.toNat * 8 + cx.toNat) := by
  have hco := co.isLt
  have hcx := cx.isLt
  have hidx : (cl ++ co ++ cx).toNat = cl.toNat * 64 + co.toNat * 8 + cx.toNat := by
    rw [BitVec.toNat_append, BitVec.toNat_append, ← Nat.shiftLeft_add_eq_or_of_lt hcx,
      ← Nat.shiftLeft_add_eq_or_of_lt hco, Nat.shiftLeft_eq, Nat.shiftLeft_eq]
    omega
  rw [← hidx, BitVec.ofNat_toNat]

/-- A core's FIFO is available: the other end's partition, tier and bound contexts (R221, R225). -/
theorem Machine.Mach.bridgeOk_iff (m : Mach) (r : CtxRef) :
    m.bridgeOk r = true ↔ m.pk.clusterIn (m.ctx r).part (otherEnd r.cl) = true ∧
      (m.dom (domOf (otherEnd r.cl))).gated = false ∧ (m.dom (domOf (otherEnd r.cl))).waking = false ∧
      (m.dom (domOf (otherEnd r.cl))).tripped = false ∧ ∃ c, m.boundAt ⟨otherEnd r.cl, r.co, c⟩ = true ∧
        (m.ctx ⟨otherEnd r.cl, r.co, c⟩).img ≠ none ∧ (m.ctx ⟨otherEnd r.cl, r.co, c⟩).img = (m.ctx r).img ∧
        (m.ctx ⟨otherEnd r.cl, r.co, c⟩).part = (m.ctx r).part := by
  simp only [Mach.bridgeOk, Domain.away, Bool.and_eq_true, Bool.not_eq_true', Bool.or_eq_false_iff, List.any_eq_true,
    mem_ctxIds, true_and, beq_iff_eq, Option.isSome_iff_ne_none, and_assoc]

/-- The tier-U cluster's own number names it as the upper one. -/
theorem upperOf_of_isConsumer {cl : ClusterId} (h : isConsumer cl = true) : upperOf cl = cl := by
  revert cl; decide

theorem Machine.Mach.bridgeHeld_eq (m : Mach) (r : CtxRef) :
    m.bridgeHeld r = if r.cl.getLsbD 4 = true then (m.core r.cl r.co).bridge.consHeld
      else (m.core (r.cl ||| 16#5) r.co).bridge.prodHeld := by
  have hupper : isConsumer r.cl = true → m.bridge r.cl r.co = (m.core r.cl r.co).bridge := fun h => by
    rw [Mach.bridge, upperOf_of_isConsumer h]
  exact ite_congr rfl (fun h => congrArg Bridge.consHeld (hupper h)) fun _ => rfl

theorem ownChannel_iff (x : Context) (o : Option CtxRef) (i : Option (BitVec 12)) :
    ownChannel x o i = true ↔ o ≠ none ∧ i ≠ none ∧ i = x.img := by
  simp only [ownChannel, Bool.and_eq_true, Option.isSome_iff_ne_none, beq_iff_eq, and_assoc]

/-- A channel reads its count to its own image and 0 to any other (R81). -/
theorem chanValue_eq (x : Context) (o : Option CtxRef) (i : Option (BitVec 12)) (v : BitVec 48) :
    (o ≠ none ∧ i ≠ none ∧ i = x.img → chanValue x o i v = BitVec.ofNat 64 v.toNat) ∧
    (¬(o ≠ none ∧ i ≠ none ∧ i = x.img) → chanValue x o i v = BitVec.ofNat 64 0) := by
  simp only [← ownChannel_iff, chanValue]
  exact ⟨fun h => by rw [if_pos h, BitVec.ofNat_toNat], fun h => if_neg h⟩

/-- The detail of an invalid descriptor (R68). -/
theorem descDetail_eq (f : BitVec 3) (desc : BitVec 20) :
    (0b01#2 ++ 0#39 ++ f ++ desc : Word) = BitVec.ofNat 64 (2 ^ 62 + f.toNat * 2 ^ 20 + desc.toNat) := by
  have hf := f.isLt
  have hd := desc.isLt
  apply BitVec.eq_of_toNat_eq
  rw [BitVec.toNat_append, BitVec.toNat_append, ← Nat.shiftLeft_add_eq_or_of_lt hd, ← Nat.shiftLeft_add_eq_or_of_lt hf,
    Nat.shiftLeft_eq, Nat.shiftLeft_eq, BitVec.toNat_ofNat]
  have hhigh : (0b01#2 ++ 0#39).toNat = 2 ^ 39 := rfl
  rw [hhigh]
  omega

/-- Settles O9. -/
theorem systemRegisters : Obligations.SystemRegisters := by
  refine ⟨fun h d s hs => ?_, fun h s hs => ?_⟩
  · intro m x reads own
    have hreads : ∀ {sel : SysSel} {n : Nat}, sysValue m s.ref sel = BitVec.ofNat 64 n → reads sel n := fun hv =>
      next_guarded hs (congrArg (s.scalar 1 d) hv)
    have hnum : ∀ {n : Nat} (v : BitVec n), v.setWidth 64 = BitVec.ofNat 64 v.toNat := fun v => (BitVec.ofNat_toNat ..).symm
    refine ⟨hreads rfl, hreads rfl, hreads (ident_eq ..), hreads (hnum _), hreads (hnum _), hreads (hnum _),
      hreads ?_, hreads (hnum _), hreads rfl, fun r => ⟨m.bridgeOk_iff r, m.bridgeHeld_eq r⟩,
      fun hok => ⟨hreads (if_pos hok), hreads (if_pos hok)⟩, fun hok => ⟨hreads ?_, hreads ?_⟩,
      fun ch => ⟨fun ho => ⟨hreads ((chanValue_eq ..).1 ho), hreads ((chanValue_eq ..).1 ho)⟩,
        fun ho => ⟨hreads ((chanValue_eq ..).2 ho), hreads ((chanValue_eq ..).2 ho)⟩⟩,
      fun ch => ⟨fun ho => hreads ((chanValue_eq ..).1 ho), fun ho => hreads ((chanValue_eq ..).2 ho)⟩,
      fun ch => ⟨fun ho => hreads ((chanValue_eq ..).1 ho), fun ho => hreads ((chanValue_eq ..).2 ho)⟩⟩
    · rw [BitVec.ofNat_toNat, BitVec.setWidth_eq]; rfl
    · exact if_neg (Bool.eq_false_iff.mp hok)
    · exact if_neg (Bool.eq_false_iff.mp hok)
  · intro puts
    have hreg : ∀ a, ((s.sreg a).setWidth 2048).toNat = (s.sreg a).toNat := fun a => BitVec.toNat_setWidth_of_le (by decide)
    refine ⟨fun a => ⟨⟨_, hreg a, next_guarded hs rfl⟩, ⟨_, hreg a, next_guarded hs rfl⟩⟩,
      fun f desc => ⟨_, ?_, next_guarded hs rfl⟩, fun f a => ?_,
      fun n a => ⟨⟨_, hreg a, next_guarded hs rfl⟩, fun f _ => ⟨_, hreg a, next_guarded hs rfl⟩⟩⟩
    · rw [BitVec.toNat_setWidth_of_le (by decide), BitVec.toNat_append, Nat.shiftLeft_eq]
      exact Nat.or_zero _
    · intro desc
      have hdesc : (s.sreg a).setWidth 20 = desc := BitVec.setWidth_eq_extractLsb' (by decide)
      have hexec : exec (.fmtr h f a) s = .next (if descValid desc then
          s.result 4 (.fm f) (desc.setWidth 2048) (BitVec.allOnes 256) 0
          else s.raise 0x14 (0b01#2 ++ 0#39 ++ f ++ desc)) := by
        rw [← hdesc]
        refine congrArg _ ((if_pos hs.1).trans ?_)
        rw [State.perform_calm hs.2]
      refine ⟨fun hv => ⟨_, BitVec.toNat_setWidth_of_le (by decide), ?_⟩, fun hv => ?_⟩
      · rw [hexec, if_pos hv]
      · rw [hexec, if_neg (Bool.eq_false_iff.mp hv), descDetail_eq]

end Sys2Proof

end

section
namespace Sys2Proof

open Machine

/-! ## What a slot's own update leaves of the state that the slot reads -/

/-- The issue cycle is that of the machine before the bundle, and no slot changes a cycle. -/
theorem Machine.State.now_congr {s t : State} (hiss : t.iss = s.iss) (h : Spec.SameBlocks s.mach t.mach) :
    t.now = s.now := by
  simp only [State.now, State.pre, hiss]
  cases s.iss.before with
  | some m => rfl
  | none => exact (h s.iss.cl).1

/-- The instruction store before the bundle, after a change that keeps memory. -/
theorem Machine.State.istore_congr {s t : State} (hiss : t.iss = s.iss) (h : Spec.SameMemory s.mach t.mach)
    (cl : ClusterId) (co : CoreId) : (t.pre.core cl co).istore = (s.pre.core cl co).istore := by
  simp only [State.pre, hiss]
  cases s.iss.before with
  | some m => rfl
  | none =>
    obtain ⟨hcore, -⟩ := h
    exact (hcore cl co).2.2.1

theorem Machine.Core.bundleEnd_congr {k t : Core} (h : t.istore = k.istore) (a : Nat) :
    t.bundleEnd a = k.bundleEnd a := by
  rw [Core.bundleEnd, Core.bundleAt, Core.frame_congr h, ← Core.bundleAt, ← Core.bundleEnd]

/-- Whether a target is valid depends on the images, the context's binding and the instruction store (R25). -/
theorem Machine.Mach.validTarget_congr {m n : Mach} {r : CtxRef} (hpk : n.pk = m.pk)
    (himg : (n.ctx r).img = (m.ctx r).img) (hpart : (n.ctx r).part = (m.ctx r).part)
    (histore : (n.core r.cl r.co).istore = (m.core r.cl r.co).istore) (a : Nat) :
    n.validTarget r a = m.validTarget r a := by
  have hcode : n.codeOf r = m.codeOf r := by
    simp only [Mach.codeOf, Mach.imageOf, himg, hpart, hpk]
  have hword : ∀ b, (n.core r.cl r.co).slotWord b = (m.core r.cl r.co).slotWord b := fun b => by
    rw [Core.slotWord, histore, Core.slotWord]
  simp only [Mach.validTarget, hcode, hword]

/-- A result in flight changes no target's validity. -/
theorem Machine.State.validTarget_scalar (s : State) (lat : Nat) (d : SReg) (w : Word) (a : Nat) :
    (s.scalar lat d w).pre.validTarget s.ref a = s.pre.validTarget s.ref a := by
  have hkept : Mach.Kept (fun _ => False) s.mach (s.scalar lat d w).mach := .result ..
  have hctx : (s.scalar lat d w).mach.ctx s.ref = _ := Mach.ctx_modCtx_same s.mach.fresh.2 s.ref _
  obtain ⟨hcore, -⟩ := hkept.memory
  have hmach : (s.scalar lat d w).mach.validTarget s.ref a = s.mach.validTarget s.ref a :=
    Mach.validTarget_congr (m := s.mach) (n := (s.scalar lat d w).mach) rfl (by rw [hctx]; rfl) (by rw [hctx]; rfl)
      (hcore ..).2.2.1 a
  have hiss : (s.scalar lat d w).iss = s.iss := rfl
  simp only [State.pre, hiss]
  cases s.iss.before with
  | some m => rfl
  | none => exact hmach

/-! ## Transfers (R25, R42, R59 to R61) -/

/-- A target outside an active body (R42). -/
def Machine.State.Escapes (s : State) (a : Int) : Prop :=
  ∃ l ∈ s.regs.loops, a < l.start.toNat ∨ (l.stop.toNat : Int) < a

/-- A target that R25 allows. -/
def Machine.State.ValidTarget (s : State) (a : Int) : Prop := 0 ≤ a ∧ s.pre.validTarget s.ref a.toNat = true

/-- An invalid target, remembered with its bundle and slot for the cycle in which it would issue (R25). -/
def Machine.State.rememberTarget (s t : State) (a : Int) : State :=
  t.modCtx fun x => { x with badTarget := some ⟨BitVec.ofInt 18 a, s.iss.baddr, s.iss.slot, s.now⟩ }

theorem Machine.State.escapes_iff (s : State) (a : Int) :
    (s.regs.loops.any fun l => decide (a < l.start.toNat) || decide ((l.stop.toNat : Int) < a)) = true ↔
      s.Escapes a := by
  simp only [List.any_eq_true, Bool.or_eq_true, decide_eq_true_eq]
  rfl

theorem Machine.State.now_goto (s : State) (a : PC) (lat : Nat) : (s.goto a lat).now = s.now :=
  State.now_congr (t := s.modCtx fun x => { x with pc := a, nextIssue := s.now + lat }) rfl
    (Mach.Kept.goto (L := fun _ => False) s a lat).blocks

/-- The outcomes of a taken transfer: an escape, a jump, and a jump to an invalid target. -/
theorem Machine.State.transfer_eq {s : State} (hs : Spec.Calm s) (a : Int) (lat : Nat) {f : State → State}
    (hiss : (f s).iss = s.iss) (hblocks : Spec.SameBlocks s.mach (f s).mach)
    (hvalid : (f s).pre.validTarget s.ref a.toNat = s.pre.validTarget s.ref a.toNat) :
    let jump := (f s).goto ((BitVec.ofInt 18 a).setWidth 19) lat
    (s.Escapes a → s.transfer a lat f = s.raise 0x03 0) ∧
    (¬s.Escapes a → s.ValidTarget a → s.transfer a lat f = jump) ∧
    (¬s.Escapes a → ¬s.ValidTarget a → s.transfer a lat f = s.rememberTarget jump a) := by
  intro jump
  have href : (f s).ref = s.ref := by rw [State.ref, hiss, State.ref]
  have hjump : ¬s.Escapes a → s.transfer a lat f =
      if 0 ≤ a ∧ (f s).pre.validTarget (f s).ref a.toNat then jump
      else jump.modCtx fun x =>
        { x with badTarget := some ⟨BitVec.ofInt 18 a, jump.iss.baddr, jump.iss.slot, jump.now⟩ } := fun he =>
    (if_neg (mt (s.escapes_iff a).mp he)).trans (State.perform_calm hs _)
  have hnow : jump.now = s.now := (State.now_goto ..).trans (State.now_congr hiss hblocks)
  have hbad : jump.iss.baddr = s.iss.baddr ∧ jump.iss.slot = s.iss.slot := by
    rw [← hiss]
    exact ⟨rfl, rfl⟩
  rw [href, hvalid, hnow, hbad.1, hbad.2] at hjump
  refine ⟨fun he => if_pos ((s.escapes_iff a).mpr he), fun he hv => ?_, fun he hv => ?_⟩
  · rw [hjump he]
    exact if_pos hv
  · rw [hjump he]
    exact if_neg hv

/-! ## The trap of an invalid target (R25) -/

/-- The trap that a remembered target raises. -/
def Machine.Mach.targetTrapOf (m : Mach) (r : CtxRef) (b : BadTarget) : Trap :=
  { ctx := r, cause := 0x02, mask := 1#8 <<< b.slot.toNat, baddr := b.baddr, detail := b.target.setWidth 64,
    pos := .target, issued := b.issued, img := (m.ctx r).img, part := (m.ctx r).part }

theorem Machine.State.targetTrap_eq {u : State} {cl : ClusterId} {co : CoreId} {cx : CtxId} {b : BadTarget}
    (hb : (u.mach.ctx ⟨cl, co, cx⟩).badTarget = some b) :
    let r : CtxRef := ⟨cl, co, cx⟩
    let trap := u.mach.targetTrapOf r b
    u.targetTrap cl co cx =
      { u with mach :=
          if (u.mach.core cl co).running = some cx ∧ (u.mach.ctx r).nextIssue ≤ u.mach.cyc cl then
            if (u.mach.ctx r).gang.isSome then u.mach.deferTrap trap
            else (u.mach.modCtx r fun x => { x with badTarget := none }).trap trap
          else u.mach } := by
  simp only [State.targetTrap, State.modMach, hb]
  rfl

/-! ## Counted loops (R40, R62) -/

/-- The cases of a counted loop, in the order in which they are told apart. -/
theorem startLoop_eq {s : State} {h : Head} (hs : Spec.Runs s h) (b n : Nat) :
    let k := s.pre.core s.iss.cl s.iss.co
    let last := k.bundleAfter s.iss.after.toNat (b - 1)
    startLoop h b n s =
      if n = 0 then s.goto (BitVec.ofNat 19 (k.bundleEnd last)) 1
      else if s.regs.loops.length ≥ 6 then s.raise 0x03 1
      else if s.regs.loops.head?.any fun l => decide (l.stop.toNat < last) then s.raise 0x03 3
      else s.modCtx fun x => { x with regs := { x.regs with
        loops := ⟨0, BitVec.ofNat 16 n, s.iss.after, BitVec.ofNat 19 last⟩ :: x.regs.loops } } := by
  obtain ⟨hguard, hcalm⟩ := hs
  rw [startLoop, State.checkedSlot_true hguard]
  simp only [State.perform_calm hcalm]

/-- A loop break pops the innermost level and goes behind its body; at depth 0 it traps (R42, R63). -/
theorem exec_lbrk_of_runs {s : State} {h : Head} (hs : Spec.Runs s h) :
    (s.regs.loops = [] → exec (.lbrk h) s = .next (s.raise 0x03 2)) ∧
    ∀ l rest, s.regs.loops = l :: rest → exec (.lbrk h) s =
      .next ((s.modCtx fun x => { x with regs := { x.regs with loops := rest } }).goto
        (BitVec.ofNat 19 ((s.pre.core s.iss.cl s.iss.co).bundleEnd l.stop.toNat)) 1) := by
  obtain ⟨hguard, hcalm⟩ := hs
  refine ⟨fun hl => congrArg _ ((State.checkedSlot_true hguard _).trans ?_),
    fun l rest hl => congrArg _ ((State.checkedSlot_true hguard _).trans ?_)⟩
  · rw [hl]
  · have hmem := Spec.SameMemory.modCtx s.mach s.ref fun x => { x with regs := { x.regs with loops := rest } }
    have hend := Core.bundleEnd_congr (State.istore_congr (s := s)
      (t := s.modCtx fun x => { x with regs := { x.regs with loops := rest } }) rfl hmem s.iss.cl s.iss.co) l.stop.toNat
    rw [hl]
    refine (State.perform_calm hcalm _).trans ?_
    simp only [State.modCtx_iss, hend]

/-- The innermost level, if one stands, meets a test. -/
theorem head?_any_iff {α : Type} (l : List α) (p : α → Prop) [DecidablePred p] :
    (l.head?.any fun x => decide (p x)) = true ↔ ∃ x rest, l = x :: rest ∧ p x := by
  cases l <;> simp

/-- Settles O10: a transfer's outcomes, the trap of an invalid target, and the cases of a loop and of a loop break. -/
theorem controlSlots : Obligations.ControlSlots := by
  refine ⟨fun h s hs => ?_, fun h s hs => ?_⟩
  · intro jump escapes valid goes
    have hgoes : ∀ {i : Instr} {a : Int} {lat : Nat}, exec i s = .next (s.transfer a lat id) → goes i s a lat :=
      fun hi => by
        obtain ⟨hesc, hval, hbad⟩ := State.transfer_eq hs _ _ (f := id) rfl (.refl _) rfl
        exact ⟨fun he => hi.trans (congrArg _ (hesc he)), fun he hv => hi.trans (congrArg _ (hval he hv)),
          fun he hv => hi.trans (congrArg _ (hbad he hv))⟩
    refine ⟨fun hg => ⟨fun off => ⟨hgoes (congrArg _ (if_pos hg)), hgoes (congrArg _ (if_pos hg))⟩, fun off => ?_,
      fun a => hgoes (congrArg _ (if_pos hg)), hgoes (congrArg _ (if_pos hg))⟩, fun hg off => ⟨?_, ?_⟩,
      fun cl co cx u b => ?_⟩
    · have hcall : exec (.call h off) s = .next (s.transfer (s.relTarget off.toInt) 1 fun s =>
          s.scalar 1 63 (s.iss.after.setWidth 64)) := congrArg _ (if_pos hg)
      have hkept : Mach.Kept (fun _ => False) s.mach (s.scalar 1 63 (s.iss.after.setWidth 64)).mach := .result ..
      obtain ⟨hesc, hval, hbad⟩ := State.transfer_eq hs (s.relTarget off.toInt) 1
        (f := fun s => s.scalar 1 63 (s.iss.after.setWidth 64)) rfl hkept.blocks (s.validTarget_scalar ..)
      rw [BitVec.ofNat_toNat]
      exact ⟨fun he => hcall.trans (congrArg _ (hesc he)), fun he hv => hcall.trans (congrArg _ (hval he hv)),
        fun he hv => hcall.trans (congrArg _ (hbad he hv))⟩
    · exact State.next_of_pguard_false hg _
    · exact congrArg _ ((if_neg (Bool.eq_false_iff.mp hg)).trans ((if_pos rfl).trans (State.perform_calm hs _)))
    · intro r x trap hb
      rw [State.targetTrap_eq hb]
      refine ⟨fun hrun hdue => ⟨fun hgang => ?_, fun hgang => ?_⟩, fun hnot => ?_⟩
      · rw [if_pos ⟨hrun, hdue⟩, if_neg (by simpa [Option.isSome_iff_ne_none] using hgang)]
        rfl
      · rw [if_pos ⟨hrun, hdue⟩, if_pos (Option.isSome_iff_ne_none.mpr hgang)]
        rfl
      · rw [if_neg fun ⟨hrun, hdue⟩ => hnot.elim (absurd hrun) (Nat.not_lt.mpr hdue)]
  · intro k starts
    have hstarts : ∀ {i : Instr} {b n : Nat}, exec i s = .next (startLoop h b n s) → starts i b n := fun {i b n} hi => by
      have hinner := head?_any_iff s.regs.loops fun l => l.stop.toNat < k.bundleAfter s.iss.after.toNat (b - 1)
      rw [startLoop_eq hs] at hi
      refine ⟨fun hn => ?_, fun hn hdepth => ?_, fun hn hdepth hin => ?_, fun hn hdepth hin => ?_⟩
      · rw [hi, if_pos hn]
      · rw [hi, if_neg hn, if_pos hdepth]
      · rw [hi, if_neg hn, if_neg (Nat.not_le.mpr hdepth), if_pos (hinner.mpr hin)]
      · rw [hi, if_neg hn, if_neg (Nat.not_le.mpr hdepth), if_neg (mt hinner.mp hin)]
    exact ⟨fun a body => hstarts rfl, fun body n => hstarts rfl, exec_lbrk_of_runs hs⟩

end Sys2Proof

end

section
namespace Sys2Proof

open Machine

/-! ## A trap of one slot (R24, R67) -/

/-- The trap of a bundle in which one slot alone raises. -/
def Machine.State.trapOf (s : State) (cause : BitVec 8) (detail : Word) : Trap :=
  { ctx := s.ref, cause := cause, mask := 1#8 <<< s.iss.slot.toNat, baddr := s.iss.baddr, detail := detail,
    pos := .issue s.iss.after, issued := s.now, img := s.preCtx.img, part := s.preCtx.part }

/-- The trap of one raise is its own (R24). -/
theorem Machine.Issue.trap_singleton (iss : Issue) (m : Mach) (x : Raise) :
    iss.trap m [x] = some
      { ctx := ⟨iss.cl, iss.co, iss.cx⟩, cause := x.cause, mask := x.mask, baddr := iss.baddr, detail := x.detail,
        pos := .issue iss.after, issued := m.cyc iss.cl, img := (m.ctx ⟨iss.cl, iss.co, iss.cx⟩).img,
        part := (m.ctx ⟨iss.cl, iss.co, iss.cx⟩).part } := by
  have hmask : 0 ||| x.mask = x.mask := BitVec.zero_or
  have hhit : [x].filter (fun q => q.cause == lowestCause x.cause []) = [x] := by simp [lowestCause]
  rw [Issue.trap_cons]
  simp only [hhit, List.foldl_cons, List.foldl_nil, hmask]
  rfl

/-- The first raise of a bundle takes its own trap on the machine before the bundle. -/
theorem Machine.State.mach_raise_of_calm {s : State} (hs : Spec.Calm s) (cause : BitVec 8) (detail : Word) :
    (s.raise cause detail).mach = s.pre.trapAtIssue (s.trapOf cause detail) := by
  have hraises : s.iss.raises = [] := hs
  simp only [State.raise, State.raiseMask, hraises, List.nil_append, Issue.trap_singleton, State.trapOf, State.ref,
    State.preCtx, State.now]

/-- A trap waits for the marks of the cycle where its context is a gang's, or has one waiting (R211). -/
theorem Machine.Mach.trapAtIssue_eq (m : Mach) (t : Trap) :
    let waits := (m.ctx t.ctx).gang ≠ none ∨ ∃ q ∈ (m.cluster t.ctx.cl).pend, q.ctx = t.ctx
    (¬waits → m.trapAtIssue t = m.trap t) ∧
    (waits → m.trapAtIssue t = m.modCluster t.ctx.cl fun c => { c with pend := c.pend ++ [t] }) := by
  intro waits
  have hwaits : ((m.ctx t.ctx).gang.isSome || (m.cluster t.ctx.cl).pend.any fun q => q.ctx == t.ctx) = true ↔ waits := by
    simp [waits, Option.isSome_iff_ne_none]
  exact ⟨fun h => if_neg (mt hwaits.mp h), fun h => if_pos (hwaits.mpr h)⟩

/-! ## A trap that a level ignores (R178) -/

/-- A context outside a gang whose own policy is to ignore absorbs an ignorable trap of its own image. -/
theorem Machine.Mach.contain_ignore (m : Mach) {t : Trap} {cause : BitVec 8} (hpolicy : (m.ctx t.ctx).policy = 0)
    (himg : (m.ctx t.ctx).img = t.img) (hpart : (m.ctx t.ctx).part = t.part) (hign : ignorable cause t.pos = true) :
    (contain false t.pos (m.levels t) cause).2.1 = .ignore := by
  have hlevels : ∃ p rest, m.levels t = p :: rest ∧ p.policy = 0 := by
    simp only [Mach.levels, himg, hpart, beq_self_eq_true, Bool.and_self, if_true]
    exact ⟨_, _, rfl, by rw [hpolicy]; rfl⟩
  obtain ⟨p, rest, hp, hzero⟩ := hlevels
  simp only [hp, contain, hzero, hign, if_true]

theorem Machine.Cluster.pushTrap_cyc (c : Cluster) (mask cause : BitVec 8) (r : CtxRef) (lvl : BitVec 3)
    (act : BitVec 2) (baddr : PC) (fret detail : Word) :
    (c.pushTrap mask cause r lvl act baddr fret detail).cyc = c.cyc := by
  rw [Cluster.pushTrap, Cluster.setPending]
  split <;> split <;> rfl

/-- A record that enters a cluster's trap queue leaves every context and every cycle (R173). -/
theorem Machine.Mach.modCluster_pushTrap (m : Mach) (cl : ClusterId) (mask cause : BitVec 8) (q : CtxRef) (lvl : BitVec 3)
    (act : BitVec 2) (baddr : PC) (fret detail : Word) :
    let n := m.modCluster cl fun c => c.pushTrap mask cause q lvl act baddr fret detail
    (∀ r, n.ctx r = m.ctx r) ∧ ∀ cl', n.cyc cl' = m.cyc cl' := by
  refine ⟨m.ctx_modCluster_of_cores _ fun c => (c.pushTrap_cores ..).1, fun cl' => ?_⟩
  by_cases e : cl' = cl
  · rw [e, Mach.cyc, Mach.cluster_modCluster_same, Cluster.pushTrap_cyc, Mach.cyc]
  · rw [Mach.cyc, Mach.cluster_modCluster_other _ _ _ _ e, Mach.cyc]

/-- Before its level acts, a trap leaves every context and every cycle (R172, R173). -/
theorem Machine.Mach.trap_eq_contained (m : Mach) (t : Trap) :
    let a := contain (m.ctx t.ctx).gang.isSome t.pos (m.levels t) t.cause
    ∃ n : Mach, m.trap t = n.contained t a.1 a.2.1 ∧ (∀ r, n.ctx r = m.ctx r) ∧ ∀ cl, n.cyc cl = m.cyc cl := by
  intro a
  have hpush := m.modCluster_pushTrap t.ctx.cl t.mask a.2.2 t.ctx a.1.code a.2.1.code t.baddr m.fret t.detail
  refine ⟨_, rfl, ?_⟩
  split
  · exact hpush
  · exact hpush

theorem Machine.Core.ctx_freeDivider (k : Core) (cx c : CtxId) : (k.freeDivider cx).ctx c = k.ctx c := by
  unfold Core.freeDivider
  split <;> rfl

/-- Ignore steps a bound context past the bundle of a trap at issue and resumes it (R55, R178). -/
theorem Machine.Mach.ctx_contained_ignore (m : Mach) {t : Trap} {after : PC} (lvl : TrapLevel) (hpos : t.pos = .issue after)
    (hbound : (m.ctx t.ctx).bound = true) :
    (m.contained t lvl .ignore).ctx t.ctx =
      ((m.ctx t.ctx).stepPast t.baddr after).resumeAt (m.cyc t.ctx.cl) (m.cyc t.ctx.cl) := by
  simp only [Mach.contained, hpos, hbound, Bool.not_true, Bool.false_eq_true, if_false]
  rw [Mach.ctx, Mach.core_modCore_same, Core.ctx_modCtx_same, Core.ctx_freeDivider, Mach.ctx]

/-- A trap at issue that a level ignores: the record enters, and the context steps past the bundle and resumes. -/
theorem Machine.Mach.ctx_trap_of_ignore {m : Mach} {t : Trap} {after : PC} (hpos : t.pos = .issue after)
    (hbound : (m.ctx t.ctx).bound = true)
    (hign : (contain (m.ctx t.ctx).gang.isSome t.pos (m.levels t) t.cause).2.1 = .ignore) :
    (m.trap t).ctx t.ctx =
      ((m.ctx t.ctx).stepPast t.baddr after).resumeAt (m.cyc t.ctx.cl) (m.cyc t.ctx.cl) := by
  obtain ⟨n, htrap, hctx, hcyc⟩ := m.trap_eq_contained t
  rw [htrap, hign, n.ctx_contained_ignore _ hpos (by rw [hctx]; exact hbound), hctx, hcyc]

/-- The context after an ignored trap (R55, R178): it resumes at d+4, with the results due from c on counted anew. -/
theorem Machine.Context.resumeAt_stepPast_eq (x : Context) (e after : PC) (c : Nat) :
    let y := (x.stepPast e after).resumeAt c c
    y.nextIssue = c + 4 ∧ y.regs = { x.regs with loops := y.regs.loops } ∧ y.gate = x.gate ∧ y.first = false ∧
    y.inflight = (x.inflight.filter fun f => decide (c ≤ f.due)).map (fun f => { f with due := f.due - c + (c + 4) }) ∧
    y.regs.loops = (stepLevels e 6 x.regs.loops).1 ∧ y.pc = (stepLevels e 6 x.regs.loops).2.getD after :=
  ⟨rfl, rfl, rfl, rfl, rfl, rfl, rfl⟩

/-- Settles O13. -/
theorem softwareTrap : Obligations.SoftwareTrap := by
  unfold Obligations.SoftwareTrap
  intro taken waits
  refine ⟨fun h code => ⟨_, rfl, rfl, ((Fields.eq_i20_iff _ code).mp ⟨rfl, rfl, rfl, rfl⟩).symm⟩, fun h code s =>
    ⟨fun hg => State.next_of_pguard_false hg _, fun hs => ?_, fun m => ?_⟩⟩
  · have hdetail : code.setWidth 64 = BitVec.ofNat 64 code.toNat := (BitVec.ofNat_toNat ..).symm
    have htrap : exec (.trap h code) s = .next (s.raise 0x0D (BitVec.ofNat 64 code.toNat)) := by
      rw [← hdetail]
      exact congrArg _ (if_pos hs.1)
    have hraises : (s.raise 0x0D (BitVec.ofNat 64 code.toNat)).iss.raises =
        [⟨1#8 <<< s.iss.slot.toNat, 0x0D, BitVec.ofNat 64 code.toNat⟩] :=
      congrArg (· ++ _) hs.2
    have hmach := State.mach_raise_of_calm hs.2 0x0D (BitVec.ofNat 64 code.toNat)
    obtain ⟨hnow, hlater⟩ := s.pre.trapAtIssue_eq (s.trapOf 0x0D (BitVec.ofNat 64 code.toNat))
    refine ⟨_, htrap, hraises, fun hw => hmach.trans (hnow hw), fun hw => hmach.trans (hlater hw), fun i hi => ?_,
      fun hpolicy _ => s.pre.contain_ignore (t := s.trapOf 0x0D _) hpolicy rfl rfl rfl⟩
    obtain ⟨u, hu, l, hl, hsame⟩ := exec_onlyRaises i hi (by rw [hraises]; exact List.cons_ne_nil _ _)
    refine ⟨u, hu, fun hr => hsame ?_⟩
    rwa [hr, List.self_eq_append_right] at hl
  · intro r y c hbound hign x
    have hx : x = (y.stepPast s.iss.baddr s.iss.after).resumeAt c c := Mach.ctx_trap_of_ignore rfl hbound hign
    obtain ⟨hnext, hregs, hgate, hfirst, hin, hloops, hpc⟩ := y.resumeAt_stepPast_eq s.iss.baddr s.iss.after c
    rw [hx]
    refine ⟨hnext, hregs, hgate, hfirst, hin, fun last outer hl hlen hlast => ?_⟩
    have hpop : stepLevels s.iss.baddr 6 y.regs.loops = stepLevels s.iss.baddr (6 - last.length) outer := by
      rw [hl]; exact stepLevels_append _ outer hlen hlast
    rw [hpc, hloops, hpop]
    refine ⟨fun l rest ho hstop hcount hlt => ?_, fun hne => ?_⟩
    · rw [ho, stepLevels_cons _ rest (Nat.sub_ne_zero_of_lt hlt) hstop hcount]
      exact ⟨rfl, rfl⟩
    · rw [stepLevels_of_stop_ne _ _ hne]
      exact ⟨rfl, rfl⟩

end Sys2Proof

end

section
namespace Sys2Proof

open Machine

/-! ## Commit points (R49, R64, R288) -/

/-- A state within the frame of a bundle whose machine before the bundle stands in cycle 0, while the machine as it now
stands is in cycle 1, with a task of scope 0 in progress. -/
def splitFrame : State :=
  { mach := (Mach.reset.modCluster 0 fun c => { c with cyc := 1 }).modCtx ⟨0, 0, 0⟩ fun x =>
      { x with entryScope := some (0, 0) },
    iss := { Issue.idle with before := some Mach.reset } }

/-- A yield dates the end of its task by the machine before the bundle. -/
theorem taskEnds_yieldNow_splitFrame :
    ∃ t, exec (.yieldNow ⟨false, 0⟩) splitFrame = .next t ∧ (t.mach.ctx ⟨0, 0, 0⟩).taskEnds = [⟨0, 0⟩] :=
  ⟨_, rfl, rfl⟩

/-- Refutes O12: where the machine before the bundle and the machine as it now stands differ in their cycle, which the
statement allows and no run reaches, a yield announces the end of its task with the cycle of the one, and the statement
asks for that of the other. -/
theorem not_commitPoints : ¬ Obligations.CommitPoints := by
  intro h
  obtain ⟨-, hruns⟩ := h ⟨false, 0⟩ splitFrame
  obtain ⟨-, ⟨t, hexec, -, -, -, -, hends, -⟩, -⟩ := hruns ⟨rfl, rfl⟩
  obtain ⟨u, hexec', hends'⟩ := taskEnds_yieldNow_splitFrame
  obtain rfl : t = u := Host.Outcome.next.inj (hexec.symm.trans hexec')
  have hstated : (t.mach.ctx ⟨0, 0, 0⟩).taskEnds = [⟨0, 1⟩] := hends
  rw [hends'] at hstated
  exact absurd hstated (by decide)

end Sys2Proof

end

section
namespace Sys2Proof

open Machine

/-! ## Bit lengths and binary exponents -/

/-- A number has at most `k` bits where it lies below `2 ^ k`. -/
theorem Machine.bitLength_le_iff {n k : Nat} : bitLength n ≤ k ↔ n < 2 ^ k := by
  by_cases hn : n = 0
  · simp [bitLength, hn]
  · simp only [bitLength, if_neg hn, Nat.succ_le_iff, Nat.log2_lt hn]

theorem Machine.lt_two_pow_bitLength (n : Nat) : n < 2 ^ bitLength n := bitLength_le_iff.mp le_rfl

/-- The top bit of a nonzero number, said without subtraction. -/
theorem Machine.two_pow_bitLength_le {n : Nat} (hn : n ≠ 0) : 2 ^ bitLength n ≤ 2 * n := by
  rw [bitLength, if_neg hn, pow_succ']
  exact Nat.mul_le_mul_left 2 (Nat.log2_self_le hn)

theorem Machine.bitLength_pos {n : Nat} (hn : n ≠ 0) : 0 < bitLength n := by
  simp [bitLength, hn]

/-- The bits of a number between two successive powers of two. -/
theorem Machine.bitLength_eq_succ {n k : Nat} (hlo : 2 ^ k ≤ n) (hhi : n < 2 ^ (k + 1)) : bitLength n = k + 1 :=
  le_antisymm (bitLength_le_iff.mpr hhi) (not_le.mp fun h => (bitLength_le_iff.mp h).not_ge hlo)

theorem Machine.bitLength_mul_two_pow {n : Nat} (hn : n ≠ 0) (k : Nat) : bitLength (n * 2 ^ k) = bitLength n + k := by
  obtain ⟨b, hb⟩ : ∃ b, bitLength n = b + 1 := Nat.exists_eq_succ_of_ne_zero (bitLength_pos hn).ne'
  have hlo := two_pow_bitLength_le hn
  have hhi := lt_two_pow_bitLength n
  rw [hb] at hlo hhi
  have hle : 2 ^ b ≤ n := by omega
  rw [hb, add_right_comm]
  refine bitLength_eq_succ ?_ ?_
  · rw [pow_add]
    exact Nat.mul_le_mul_right _ hle
  · rw [add_right_comm, pow_add]
    exact Nat.mul_lt_mul_of_pos_right hhi (by positivity)

/-- The binary exponent of a value lies below `k` where the value lies below `2 ^ k`. -/
theorem Machine.exponent_lt_iff {m : Nat} (hm : m ≠ 0) (e k : Int) :
    e + bitLength m - 1 < k ↔ (m : ℝ) * 2 ^ e < 2 ^ k := by
  have hpow : ∀ j : Int, (m : ℝ) < 2 ^ j ↔ (bitLength m : Int) ≤ j := fun j => by
    rcases lt_or_ge j 0 with hj | hj
    · have hone : (1 : ℝ) ≤ m := mod_cast Nat.one_le_iff_ne_zero.mpr hm
      have hlt : (2 : ℝ) ^ j < 1 := zpow_lt_one_of_neg₀ one_lt_two hj
      exact iff_of_false (by linarith) (by omega)
    · obtain ⟨n, rfl⟩ := Int.eq_ofNat_of_zero_le hj
      rw [zpow_natCast, Nat.cast_le, bitLength_le_iff]
      exact_mod_cast Iff.rfl
  have hpos : (0 : ℝ) < 2 ^ e := by positivity
  rw [← lt_div_iff₀ hpos, ← zpow_sub₀ two_ne_zero, hpow]
  omega

/-- The binary exponent of a value (R91). -/
theorem Machine.log_mul_zpow {m : Nat} (hm : m ≠ 0) (e : Int) :
    Int.log 2 ((m : ℝ) * 2 ^ e) = e + bitLength m - 1 := by
  have hpos : (0 : ℝ) < m * 2 ^ e := by positivity
  refine eq_of_forall_gt_iff fun k => ?_
  rw [exponent_lt_iff hm, ← Int.lt_zpow_iff_log_lt one_lt_two hpos, Nat.cast_ofNat]

/-! ## Rounding to a whole number (R90) -/

/-- The mode takes a value between the whole numbers `q` and `q + 1` to the upper one, where `t` is its distance from
the lower. -/
def Machine.RMode.Raises (r : RMode) (neg : Bool) (q : Nat) (t : ℝ) : Prop :=
  match r with
  | .nearest => 1 / 2 < t ∨ t = 1 / 2 ∧ q % 2 = 1
  | .zero => False
  | .down => neg = true
  | .up => neg = false

theorem Spec.rounded_natCast (r : RMode) (neg : Bool) (n : Nat) : Spec.Rounded r neg (n : ℝ) n := by
  cases r <;> cases neg <;> simp [Spec.Rounded]

/-- The modes other than nearest even take one of the two neighbours by the sign alone. -/
theorem Spec.rounded_succ_of_raises {r : RMode} {neg : Bool} {q : Nat} {t : ℝ} (h0 : 0 < t) (h1 : t < 1)
    (h : r.Raises neg q t) : Spec.Rounded r neg (q + t) (q + 1) := by
  have hraised : ((q : ℝ) + t ≤ (q + 1 : Nat) ∧ ((q + 1 : Nat) : ℝ) < q + t + 1) := by
    push_cast
    constructor <;> linarith
  cases r with
  | nearest =>
    have habs : |(q : ℝ) + t - (q + 1 : Nat)| = 1 - t := by
      push_cast
      rw [add_sub_add_left_eq_sub, abs_sub_comm, abs_of_pos (sub_pos.mpr h1)]
    simp only [Spec.Rounded, habs]
    rcases h with h | ⟨h, hodd⟩
    · exact ⟨by linarith, fun heq => absurd heq (by linarith)⟩
    · exact ⟨by linarith, fun _ => by omega⟩
  | zero => exact h.elim
  | down => simpa only [Spec.Rounded, show neg = true from h, if_true] using hraised
  | up => simpa only [Spec.Rounded, show neg = false from h, Bool.false_eq_true, if_false] using hraised

theorem Spec.rounded_of_not_raises {r : RMode} {neg : Bool} {q : Nat} {t : ℝ} (h0 : 0 < t) (h1 : t < 1)
    (h : ¬r.Raises neg q t) : Spec.Rounded r neg (q + t) q := by
  have hcut : (q : ℝ) ≤ q + t ∧ (q : ℝ) + t < q + 1 := by constructor <;> linarith
  cases r with
  | nearest =>
    have habs : |(q : ℝ) + t - q| = t := by rw [add_sub_cancel_left, abs_of_pos h0]
    obtain ⟨hle, heven⟩ := not_or.mp h
    simp only [Spec.Rounded, habs]
    exact ⟨not_lt.mp hle, fun ht => Nat.mod_two_ne_one.mp fun hodd => heven ⟨ht, hodd⟩⟩
  | zero => exact hcut
  | down => simpa only [Spec.Rounded, if_neg (show ¬neg = true from h)] using hcut
  | up =>
    simpa only [Spec.Rounded, show neg = true from Bool.not_eq_false _ ▸ (show ¬neg = false from h), if_true] using hcut

/-- A rounded magnitude is less than one away from the exact one, in every mode. -/
theorem Spec.Rounded.near {r : RMode} {neg : Bool} {x : ℝ} {n : Nat} (h : Spec.Rounded r neg x n) :
    (n : ℝ) < x + 1 ∧ x < n + 1 := by
  have hcut : (n : ℝ) ≤ x ∧ x < n + 1 → (n : ℝ) < x + 1 ∧ x < n + 1 := fun ⟨hl, hu⟩ => ⟨by linarith, hu⟩
  have hraised : x ≤ n ∧ (n : ℝ) < x + 1 → (n : ℝ) < x + 1 ∧ x < n + 1 := fun ⟨hl, hu⟩ => ⟨hu, by linarith⟩
  cases r with
  | nearest =>
    obtain ⟨hlo, hhi⟩ := abs_le.mp h.1
    constructor <;> linarith
  | zero => exact hcut h
  | down => cases neg with
    | false => exact hcut h
    | true => exact hraised h
  | up => cases neg with
    | false => exact hraised h
    | true => exact hcut h

theorem Spec.Rounded.le_of_le {r : RMode} {neg : Bool} {x : ℝ} {n a : Nat} (h : Spec.Rounded r neg x n) (ha : (a : ℝ) ≤ x) :
    a ≤ n :=
  Nat.lt_succ_iff.mp (by exact_mod_cast ha.trans_lt h.near.2)

theorem Spec.Rounded.ge_of_ge {r : RMode} {neg : Bool} {x : ℝ} {n b : Nat} (h : Spec.Rounded r neg x n) (hb : x ≤ b) :
    n ≤ b :=
  Nat.lt_succ_iff.mp (by exact_mod_cast h.near.1.trans_le (add_le_add_left hb 1))

/-- What a right shift keeps and what falls off, told by the kept shift, which is cut to one past every bit. -/
theorem Machine.shift_parts (m : Nat) {n : Nat} (hn : 0 < n) :
    let k := min n (bitLength m + 2)
    m / 2 ^ k * 2 ^ n + m % 2 ^ k = m ∧ m % 2 ^ k < 2 ^ n ∧ (2 ^ (k - 1) < m % 2 ^ k ↔ 2 ^ n < 2 * (m % 2 ^ k)) ∧
      (m % 2 ^ k = 2 ^ (k - 1) ↔ 2 * (m % 2 ^ k) = 2 ^ n) := by
  intro k
  rcases le_total n (bitLength m + 2) with hle | hle
  · have hk : k = n := min_eq_left hle
    have hhalf : 2 ^ n = 2 * 2 ^ (n - 1) := (mul_pow_sub_one hn.ne' 2).symm
    rw [hk, mul_comm]
    exact ⟨Nat.div_add_mod m _, Nat.mod_lt _ (by positivity), by omega, by omega⟩
  · have hk : k = bitLength m + 2 := min_eq_right hle
    have hm := lt_two_pow_bitLength m
    have hpow : 4 * 2 ^ bitLength m ≤ 2 ^ n := by
      rw [mul_comm, show 4 = 2 ^ 2 from rfl, ← pow_add]
      exact Nat.pow_le_pow_right two_pos hle
    have hcut : 2 ^ (bitLength m + 2) = 4 * 2 ^ bitLength m ∧ 2 ^ (bitLength m + 2 - 1) = 2 * 2 ^ bitLength m := by
      rw [show bitLength m + 2 - 1 = bitLength m + 1 from rfl, pow_succ, pow_succ]
      omega
    rw [hk, hcut.1, hcut.2, Nat.div_eq_of_lt (by omega), Nat.mod_eq_of_lt (by omega)]
    omega

/-- A right shift that drops a nonzero part `2 ^ n * t` of the magnitude goes to the neighbour that the mode takes. -/
theorem Machine.roundShift_of_rem_ne_zero (r : RMode) (neg : Bool) (m : Nat) {n : Nat} (hn : 0 < n) :
    let k := min n (bitLength m + 2)
    let t : ℝ := (m % 2 ^ k : Nat) / 2 ^ n
    m % 2 ^ k ≠ 0 →
      (r.Raises neg (m / 2 ^ k) t → roundShift r neg m n = (m / 2 ^ k + 1, true)) ∧
      (¬r.Raises neg (m / 2 ^ k) t → roundShift r neg m n = (m / 2 ^ k, true)) := by
  intro k t hrem
  obtain ⟨-, -, habove, htie⟩ := shift_parts m hn
  have hpos : (0 : ℝ) < 2 ^ n := by positivity
  have hgt : 1 / 2 < t ↔ 2 ^ (k - 1) < m % 2 ^ k := by
    rw [habove, div_lt_div_iff₀ two_pos hpos, one_mul, mul_comm]
    exact_mod_cast Iff.rfl
  have heq : t = 1 / 2 ↔ m % 2 ^ k = 2 ^ (k - 1) := by
    rw [htie, div_eq_div_iff hpos.ne' two_ne_zero, one_mul, mul_comm]
    exact_mod_cast Iff.rfl
  have hsh : ¬(n : Int) ≤ 0 := by omega
  simp only [roundShift, if_neg hsh, Int.toNat_natCast, if_neg (show ¬m % 2 ^ min n (bitLength m + 2) = 0 from hrem)]
  cases r with
  | nearest =>
    simp only [RMode.Raises, hgt, heq]
    exact ⟨fun hr => by simp [k, hr], fun hr => by simp [k, hr]⟩
  | zero => exact ⟨False.elim, fun _ => rfl⟩
  | down => exact ⟨fun hr => by simp [k, show neg = true from hr], fun hr => by simp [k, show ¬neg = true from hr]⟩
  | up => exact ⟨fun hr => by simp [k, show neg = false from hr], fun hr => by simp [k, show ¬neg = false from hr]⟩

/-- A right shift keeps a whole number `q` and drops a fraction `t`; the result is `q` where nothing is dropped, and else
the neighbour that the mode takes. -/
theorem Machine.roundShift_of_pos (r : RMode) (neg : Bool) (m : Nat) {n : Nat} (hn : 0 < n) :
    ∃ (q : Nat) (t : ℝ), (m : ℝ) / 2 ^ n = q + t ∧ 0 ≤ t ∧ t < 1 ∧
      (t = 0 → roundShift r neg m n = (q, false)) ∧
      (t ≠ 0 → r.Raises neg q t → roundShift r neg m n = (q + 1, true)) ∧
      (t ≠ 0 → ¬r.Raises neg q t → roundShift r neg m n = (q, true)) := by
  obtain ⟨hm, hlt, -, -⟩ := shift_parts m hn
  have hinexact := roundShift_of_rem_ne_zero r neg m hn
  have hpos : (0 : ℝ) < 2 ^ n := by positivity
  have hzero : ∀ x : Nat, (x : ℝ) / 2 ^ n = 0 ↔ x = 0 := fun x => by
    rw [div_eq_zero_iff, or_iff_left hpos.ne', Nat.cast_eq_zero]
  refine ⟨_, _, ?_, by positivity, ?_, fun h => ?_, fun h => (hinexact (mt (hzero _).mpr h)).1,
    fun h => (hinexact (mt (hzero _).mpr h)).2⟩
  · rw [div_eq_iff hpos.ne', add_mul, div_mul_cancel₀ _ hpos.ne']
    exact_mod_cast hm.symm
  · rw [div_lt_one hpos]
    exact_mod_cast hlt
  · simp only [roundShift, if_neg (show ¬(n : Int) ≤ 0 by omega), Int.toNat_natCast, if_pos ((hzero _).mp h)]

/-- A shift rounds once by the mode, and says whether the result differs (R90). -/
theorem Machine.roundShift_rounds (r : RMode) (neg : Bool) (m : Nat) (sh : Int) :
    Spec.Rounded r neg ((m : ℝ) / 2 ^ sh) (roundShift r neg m sh).1 ∧
      ((roundShift r neg m sh).2 = true ↔ ((roundShift r neg m sh).1 : ℝ) ≠ m / 2 ^ sh) := by
  rcases le_or_gt sh 0 with hsh | hsh
  · have hexact : (m : ℝ) / 2 ^ sh = (m * 2 ^ (-sh).toNat : Nat) := by
      rw [div_eq_mul_inv, ← zpow_neg, ← Int.toNat_of_nonneg (neg_nonneg.mpr hsh), zpow_natCast]
      push_cast
      rfl
    simp only [roundShift, if_pos hsh, hexact]
    exact ⟨Spec.rounded_natCast r neg _, by simp⟩
  · obtain ⟨n, rfl⟩ := Int.eq_ofNat_of_zero_le hsh.le
    obtain ⟨q, t, hval, h0, h1, hexact, hup, hdown⟩ := roundShift_of_pos r neg m (n := n) (by omega)
    rw [zpow_natCast, hval]
    by_cases ht : t = 0
    · rw [hexact ht, ht, add_zero]
      exact ⟨Spec.rounded_natCast r neg q, by simp⟩
    · have hpos : 0 < t := lt_of_le_of_ne h0 (Ne.symm ht)
      by_cases hr : r.Raises neg q t
      · rw [hup ht hr]
        refine ⟨Spec.rounded_succ_of_raises hpos h1 hr, iff_of_true rfl ?_⟩
        push_cast
        linarith
      · rw [hdown ht hr]
        exact ⟨Spec.rounded_of_not_raises hpos h1 hr, iff_of_true rfl (by simpa using ht)⟩

end Sys2Proof
end

section
namespace Sys2Proof

open Machine

/-! ## Magnitudes in units of the lowest exponent (R86) -/

/-- The formats whose codes leave a finite value beside those that the specials claim (R68, R83). -/
structure Machine.Fmt.Wide (f : Fmt) : Prop where
  one_le_bits : 1 ≤ f.e + f.m
  two_le_exp : f.sp = .ieee → 2 ≤ f.e

theorem Machine.descFmt_wide {d : BitVec 20} (hd : descValid d = true) : (descFmt d).Wide := by
  simp only [descValid, Bool.and_eq_true, Bool.or_eq_true, decide_eq_true_eq, bne_iff_ne] at hd
  obtain ⟨⟨⟨⟨hlo, -⟩, -⟩, hieee⟩, -⟩ := hd
  have hsign : (d.extractLsb' 13 1).toNat < 2 := BitVec.isLt _
  refine ⟨by simp only [descFmt]; omega, fun hsp => ?_⟩
  have htwo : (d.extractLsb' 4 2).toNat = 2 := by
    simp only [descFmt] at hsp
    split at hsp <;> simp_all
  exact hieee.resolve_left fun h => h htwo

/-- Every format of R83 and of a valid descriptor leaves a finite value. -/
theorem Spec.IsFormat.wide {f : Fmt} (hf : Spec.IsFormat f) : f.Wide := by
  obtain ⟨t, rfl⟩ | ⟨d, hd, rfl⟩ := hf
  · cases t <;> exact ⟨by decide, fun _ => by decide⟩
  · exact descFmt_wide hd

/-- The magnitude of a code in units of the format's lowest exponent. -/
def Machine.Fmt.units (f : Fmt) (mag : Nat) : Nat :=
  (f.magValue mag).1 * 2 ^ ((f.magValue mag).2 - f.qmin).toNat

section
variable {f : Fmt}

theorem Machine.Fmt.magValue_of_noExp (he : f.e = 0) (mag : Nat) : f.magValue mag = (mag % 2 ^ f.m, f.qmin) := by
  simp only [Fmt.magValue, Fmt.qmin, if_pos he]

theorem Machine.Fmt.magValue_of_lt {mag : Nat} (hmag : mag < 2 ^ f.m) : f.magValue mag = (mag, f.qmin) := by
  by_cases he : f.e = 0
  · rw [magValue_of_noExp he, Nat.mod_eq_of_lt hmag]
  · simp only [Fmt.magValue, Fmt.qmin, if_neg he, Nat.div_eq_of_lt hmag, Nat.mod_eq_of_lt hmag, if_true]

theorem Machine.Fmt.magValue_of_normal (he : f.e ≠ 0) (be : Nat) {fr : Nat} (hfr : fr < 2 ^ f.m) :
    f.magValue ((be + 1) * 2 ^ f.m + fr) = (2 ^ f.m + fr, f.qmin + be) := by
  have hdiv : ((be + 1) * 2 ^ f.m + fr) / 2 ^ f.m = be + 1 := by
    rw [mul_comm, Nat.mul_add_div (by positivity), Nat.div_eq_of_lt hfr, add_zero]
  have hmod : ((be + 1) * 2 ^ f.m + fr) % 2 ^ f.m = fr := by rw [Nat.mul_add_mod', Nat.mod_eq_of_lt hfr]
  simp only [Fmt.magValue, Fmt.qmin, if_neg he, hdiv, hmod, if_neg (Nat.succ_ne_zero be), Prod.mk.injEq, true_and]
  omega

/-- A magnitude code is below the first normal one, or has an exponent field `be + 1` and a fraction. -/
theorem Machine.Fmt.lt_or_normal (f : Fmt) (mag : Nat) :
    mag < 2 ^ f.m ∨ ∃ be fr, fr < 2 ^ f.m ∧ mag = (be + 1) * 2 ^ f.m + fr := by
  refine (lt_or_ge mag (2 ^ f.m)).imp_right fun h => ?_
  obtain ⟨be, hbe⟩ := Nat.exists_eq_succ_of_ne_zero (Nat.div_pos h (by positivity)).ne'
  exact ⟨be, mag % 2 ^ f.m, Nat.mod_lt _ (by positivity), by rw [← Nat.succ_eq_add_one, ← hbe, Nat.div_add_mod']⟩

theorem Machine.Fmt.units_of_lt {mag : Nat} (hmag : mag < 2 ^ f.m) : f.units mag = mag := by
  simp [Fmt.units, Fmt.magValue_of_lt hmag]

theorem Machine.Fmt.units_of_normal (he : f.e ≠ 0) (be : Nat) {fr : Nat} (hfr : fr < 2 ^ f.m) :
    f.units ((be + 1) * 2 ^ f.m + fr) = (2 ^ f.m + fr) * 2 ^ be := by
  simp [Fmt.units, Fmt.magValue_of_normal he be hfr]

/-- No magnitude lies below the lowest exponent, and a magnitude of zero stands at it. -/
theorem Machine.Fmt.qmin_le_magValue (f : Fmt) (mag : Nat) :
    f.qmin ≤ (f.magValue mag).2 ∧ ((f.magValue mag).1 = 0 → (f.magValue mag).2 = f.qmin) := by
  by_cases he : f.e = 0
  · simp [Fmt.magValue_of_noExp he]
  · rcases f.lt_or_normal mag with h | ⟨be, fr, hfr, rfl⟩
    · simp [Fmt.magValue_of_lt h]
    · simp [Fmt.magValue_of_normal he be hfr]

/-- Larger codes have larger magnitudes; without an exponent field only up to the last mantissa. -/
theorem Machine.Fmt.units_lt_units {a b : Nat} (hab : a < b) (hb : f.e = 0 → b < 2 ^ f.m) : f.units a < f.units b := by
  by_cases he : f.e = 0
  · rwa [units_of_lt (hab.trans (hb he)), units_of_lt (hb he)]
  · rcases f.lt_or_normal b with hlt | ⟨be, fr, hfr, rfl⟩
    · rwa [units_of_lt (hab.trans hlt), units_of_lt hlt]
    rw [units_of_normal he be hfr]
    have hpow : 0 < 2 ^ be := by positivity
    rcases f.lt_or_normal a with hlt | ⟨ae, ar, har, rfl⟩
    · rw [units_of_lt hlt]
      calc a < 2 ^ f.m + fr := by omega
        _ ≤ (2 ^ f.m + fr) * 2 ^ be := Nat.le_mul_of_pos_right _ hpow
    · rw [units_of_normal he ae har]
      have hle : ae ≤ be := not_lt.mp fun h => absurd hab <| not_lt.mpr <| by
        have := Nat.mul_le_mul_right (2 ^ f.m) (show be + 1 + 1 ≤ ae + 1 by omega)
        rw [Nat.succ_mul (be + 1)] at this
        omega
      rcases hle.eq_or_lt with rfl | hlt
      · exact Nat.mul_lt_mul_of_pos_right (by omega) hpow
      · calc (2 ^ f.m + ar) * 2 ^ ae < (2 ^ f.m + 2 ^ f.m) * 2 ^ ae := by gcongr
          _ = 2 ^ f.m * 2 ^ (ae + 1) := by ring
          _ ≤ 2 ^ f.m * 2 ^ be := by gcongr; exacts [one_le_two, hlt]
          _ ≤ (2 ^ f.m + fr) * 2 ^ be := by gcongr; omega

/-- A value whose exponent is not below the lowest is a whole number of units. -/
theorem Machine.Fmt.mul_zpow_eq_units {q : Int} (hq : f.qmin ≤ q) (n : Nat) :
    (n : ℝ) * 2 ^ q = (n * 2 ^ (q - f.qmin).toNat : Nat) * 2 ^ f.qmin := by
  have hsplit : (2 : ℝ) ^ q = 2 ^ (q - f.qmin).toNat * 2 ^ f.qmin := by
    rw [← zpow_natCast, Int.toNat_of_nonneg (sub_nonneg.mpr hq), ← zpow_add₀ two_ne_zero, sub_add_cancel]
  rw [hsplit]
  push_cast
  ring

theorem Machine.Fmt.magValue_eq_units (f : Fmt) (mag : Nat) :
    ((f.magValue mag).1 : ℝ) * 2 ^ (f.magValue mag).2 = f.units mag * 2 ^ f.qmin :=
  Fmt.mul_zpow_eq_units (f.qmin_le_magValue mag).1 _

/-! ## The largest finite magnitude, and the code of a magnitude (R87, R93) -/

theorem Machine.bitLength_mono {a b : Nat} (h : a ≤ b) : bitLength a ≤ bitLength b :=
  bitLength_le_iff.mpr (h.trans_lt (lt_two_pow_bitLength b))

/-- Magnitudes are compared by their binary exponents first and by their mantissas where those agree. -/
theorem Machine.Fmt.exceeds_iff {mant : Nat} {q : Int} (hq : f.qmin ≤ q) :
    f.exceeds mant q = true ↔ f.units f.maxMag < mant * 2 ^ (q - f.qmin).toNat := by
  by_cases hmant : mant = 0
  · simp [Fmt.exceeds, hmant]
  obtain ⟨hp, hzero⟩ := f.qmin_le_magValue f.maxMag
  obtain ⟨b, hb⟩ := Int.eq_ofNat_of_zero_le (sub_nonneg.mpr hq)
  obtain ⟨c, hc⟩ := Int.eq_ofNat_of_zero_le (sub_nonneg.mpr hp)
  simp only [Fmt.exceeds, Fmt.units, if_neg hmant]
  generalize (f.magValue f.maxMag).1 = v at hzero
  generalize (f.magValue f.maxMag).2 = p at hp hzero hc
  rw [hb, hc, Int.toNat_natCast, Int.toNat_natCast]
  have hlenq := bitLength_mul_two_pow hmant b
  have hlenp : bitLength (v * 2 ^ c) = bitLength v + c := by
    by_cases hv : v = 0
    · have : c = 0 := by have := hzero hv; omega
      simp [this]
    · exact bitLength_mul_two_pow hv c
  split
  · exact iff_of_true rfl (not_le.mp fun h => by have := bitLength_mono h; omega)
  split
  · exact iff_of_false Bool.false_ne_true (not_lt.mpr (not_lt.mp fun h => by have := bitLength_mono h.le; omega))
  split
  · rw [decide_eq_true_iff, show (q - p).toNat = b - c by omega, ← pow_sub_mul_pow 2 (show c ≤ b by omega), ← mul_assoc,
      Nat.mul_lt_mul_right (by positivity)]
  · rw [decide_eq_true_iff, show (p - q).toNat = c - b by omega, ← pow_sub_mul_pow 2 (show b ≤ c by omega), ← mul_assoc,
      Nat.mul_lt_mul_right (by positivity)]

/-- The code of a normal magnitude, from its mantissa with the hidden bit and its exponent. -/
theorem Machine.Fmt.magCode_of_normal (he : f.e ≠ 0) {mant a b : Nat} {q : Int}
    (hn : mant * 2 ^ (q - f.qmin).toNat = (2 ^ f.m + a) * 2 ^ b) (ha : a < 2 ^ f.m) :
    f.magCode mant q = (b + 1) * 2 ^ f.m + a := by
  have hpow : 0 < 2 ^ b := by positivity
  have hlen : bitLength ((2 ^ f.m + a) * 2 ^ b) - f.m = b + 1 := by
    rw [bitLength_mul_two_pow (by have : 0 < 2 ^ f.m := by positivity
                                  omega), bitLength_eq_succ (k := f.m) (by omega) (by omega)]
    omega
  have hge : ¬(2 ^ f.m + a) * 2 ^ b < 2 ^ f.m :=
    not_lt.mpr ((Nat.le_add_right _ a).trans (Nat.le_mul_of_pos_right _ hpow))
  simp only [Fmt.magCode, hn, he, hge, decide_false, Bool.or_self, Bool.false_eq_true, if_false, hlen,
    Nat.add_sub_cancel, Nat.mul_div_cancel _ hpow, Nat.add_sub_cancel_left]

/-- A rounded mantissa: at most the first power of two past the mantissa bits, and normal above the lowest exponent. -/
structure Machine.Fmt.Placed (f : Fmt) (mant : Nat) (q : Int) : Prop where
  qmin_le : f.qmin ≤ q
  fixed : f.e = 0 → q = f.qmin
  mant_le : f.e ≠ 0 → mant ≤ 2 ^ (f.m + 1)
  normal : f.e ≠ 0 → q ≠ f.qmin → 2 ^ f.m ≤ mant

/-- The code of a rounded mantissa has its magnitude (R86). -/
theorem Machine.Fmt.Placed.units_magCode {mant : Nat} {q : Int} (h : f.Placed mant q)
    (hfit : f.e = 0 → mant < 2 ^ f.m) : f.units (f.magCode mant q) = mant * 2 ^ (q - f.qmin).toNat := by
  by_cases hlow : mant < 2 ^ f.m
  · have hq : q = f.qmin := by
      by_cases he : f.e = 0
      · exact h.fixed he
      · exact not_not.mp fun hq => (h.normal he hq).not_gt hlow
    have hn : mant * 2 ^ (q - f.qmin).toNat = mant := by simp [hq]
    simp only [Fmt.magCode, hn, hlow, decide_true, Bool.or_true, if_true, units_of_lt]
  · have he : f.e ≠ 0 := fun he => hlow (hfit he)
    obtain ⟨a, b, ha, hn⟩ : ∃ a b, a < 2 ^ f.m ∧ mant * 2 ^ (q - f.qmin).toNat = (2 ^ f.m + a) * 2 ^ b := by
      rcases (h.mant_le he).eq_or_lt with htop | hlt
      · exact ⟨0, (q - f.qmin).toNat + 1, by positivity, by rw [htop]; ring⟩
      · exact ⟨mant - 2 ^ f.m, (q - f.qmin).toNat, by omega, by rw [Nat.add_sub_cancel' (not_lt.mp hlow)]⟩
    rw [magCode_of_normal he hn ha, units_of_normal he b ha, hn]

/-- The specials claim a magnitude code (R87). -/
def Machine.Fmt.Claimed (f : Fmt) (mag : Nat) : Prop :=
  f.sp = .fn ∧ mag = 2 ^ (f.e + f.m) - 1 ∨ f.sp = .ieee ∧ mag / 2 ^ f.m = 2 ^ f.e - 1

/-- The finite codes are those up to that of the largest finite magnitude. -/
theorem Machine.Fmt.Wide.le_maxMag_iff (hf : f.Wide) {mag : Nat} :
    mag ≤ f.maxMag ↔ mag < 2 ^ (f.e + f.m) ∧ ¬f.Claimed mag := by
  have hbits : 2 ≤ 2 ^ (f.e + f.m) := by simpa using Nat.pow_le_pow_right two_pos hf.one_le_bits
  simp only [Fmt.maxMag, Fmt.Claimed]
  cases hsp : f.sp with
  | none =>
    simp only [reduceCtorEq, false_and, or_self, not_false_eq_true, and_true]
    omega
  | fn =>
    simp only [true_and, reduceCtorEq, false_and, or_false]
    omega
  | ieee =>
    have hexp : 2 ^ 2 ≤ 2 ^ f.e := Nat.pow_le_pow_right two_pos (hf.two_le_exp hsp)
    have hmant : 0 < 2 ^ f.m := by positivity
    have htop : (2 ^ f.e - 2) * 2 ^ f.m + (2 ^ f.m - 1) + 1 = (2 ^ f.e - 1) * 2 ^ f.m := by
      rw [show 2 ^ f.e - 1 = 2 ^ f.e - 2 + 1 by omega, Nat.succ_mul]
      omega
    have hdiv := Nat.div_lt_iff_lt_mul hmant (x := mag) (y := 2 ^ f.e - 1)
    have hdiv' := Nat.div_lt_iff_lt_mul hmant (x := mag) (y := 2 ^ f.e)
    simp only [reduceCtorEq, false_and, false_or, true_and, pow_add]
    omega

/-- The code of a rounded mantissa that does not exceed the largest finite magnitude is a finite code. -/
theorem Machine.Fmt.Placed.magCode_le_maxMag {mant : Nat} {q : Int} (h : f.Placed mant q) (hf : f.Wide)
    (hle : mant * 2 ^ (q - f.qmin).toNat ≤ f.units f.maxMag) :
    (f.e = 0 → mant < 2 ^ f.m) ∧ f.magCode mant q ≤ f.maxMag := by
  have hmax := (hf.le_maxMag_iff.mp le_rfl).1
  have hfit : f.e = 0 → f.maxMag < 2 ^ f.m ∧ mant ≤ f.maxMag := fun he => by
    rw [he, zero_add] at hmax
    rw [h.fixed he, units_of_lt hmax, sub_self, Int.toNat_zero, pow_zero, mul_one] at hle
    exact ⟨hmax, hle⟩
  refine ⟨fun he => (hfit he).2.trans_lt (hfit he).1, ?_⟩
  by_cases he : f.e = 0
  · have hcode : f.magCode mant q = mant := by simp [Fmt.magCode, he, h.fixed he]
    exact hcode.trans_le (hfit he).2
  · rw [← h.units_magCode fun h0 => absurd h0 he] at hle
    exact not_lt.mp fun hlt => (units_lt_units hlt fun h0 => absurd h0 he).not_ge hle

end

end Sys2Proof
end

section
namespace Sys2Proof

open Machine

section
variable {f : Fmt}

/-! ## The value of a code (R86, R87) -/

/-- A code that the specials do not claim has the magnitude of R86 and the sign of its sign bit. -/
theorem Machine.Fmt.unpack_of_not_claimed {c : Nat} (hc : ¬f.Claimed (c % 2 ^ (f.e + f.m))) :
    f.unpack c = .fin (f.s && c.testBit (f.e + f.m)) (f.magValue (c % 2 ^ (f.e + f.m))).1
      (f.magValue (c % 2 ^ (f.e + f.m))).2 := by
  obtain ⟨hfn, hieee⟩ := not_or.mp hc
  simp only [Fmt.unpack, Bool.and_eq_true, decide_eq_true_eq, if_neg hfn, if_neg hieee]

theorem Machine.Fmt.not_claimed_of_unpack {c m : Nat} {neg : Bool} {e : Int} (h : f.unpack c = .fin neg m e) :
    ¬f.Claimed (c % 2 ^ (f.e + f.m)) := by
  intro hc
  rw [Fmt.unpack] at h
  split at h
  · cases h
  · next hfn =>
    have hieee := hc.resolve_left (by simpa using hfn)
    rw [if_pos (by simpa using hieee)] at h
    split at h <;> cases h

/-- The special codes (R87). -/
theorem Machine.Fmt.unpack_special (f : Fmt) (c : Nat) :
    let mag := c % 2 ^ (f.e + f.m)
    (f.sp = .fn → mag = 2 ^ (f.e + f.m) - 1 → f.unpack c = .nan false) ∧
    (f.sp = .ieee → mag / 2 ^ f.m = 2 ^ f.e - 1 → f.unpack c =
      if f.m ≠ 0 ∧ mag % 2 ^ f.m = 0 then .inf (f.s && c.testBit (f.e + f.m))
      else .nan (f.signals && !(mag % 2 ^ f.m).testBit (f.m - 1))) := by
  refine ⟨fun hsp hmag => ?_, fun hsp hbe => ?_⟩
  · simp [Fmt.unpack, hsp, hmag]
  · simp [Fmt.unpack, hsp, hbe]

/-- A finite code of a sign. -/
theorem Machine.Fmt.Wide.unpack_signed (hf : f.Wide) {neg : Bool} (hs : neg = true → f.s = true) {mag : Nat}
    (hmag : mag ≤ f.maxMag) :
    f.unpack ((if neg = true then 2 ^ (f.e + f.m) else 0) + mag) = .fin neg (f.magValue mag).1 (f.magValue mag).2 := by
  obtain ⟨hlt, hfree⟩ := hf.le_maxMag_iff.mp hmag
  have hbit : mag.testBit (f.e + f.m) = false := Nat.testBit_lt_two_pow hlt
  cases neg with
  | false =>
    have hmod : (0 + mag) % 2 ^ (f.e + f.m) = mag := by rw [zero_add, Nat.mod_eq_of_lt hlt]
    simp only [Bool.false_eq_true, if_false]
    rw [unpack_of_not_claimed (by rwa [hmod]), hmod, zero_add, hbit, Bool.and_false]
  | true =>
    have hmod : (2 ^ (f.e + f.m) + mag) % 2 ^ (f.e + f.m) = mag := by rw [Nat.add_mod_left, Nat.mod_eq_of_lt hlt]
    simp only [if_true]
    rw [unpack_of_not_claimed (by rwa [hmod]), hmod, Nat.testBit_two_pow_add_eq, hbit, hs rfl]
    rfl

theorem Machine.Fmt.Wide.unpack_maxMag (hf : f.Wide) :
    f.unpack f.maxMag = .fin false (f.magValue f.maxMag).1 (f.magValue f.maxMag).2 := by
  simpa using hf.unpack_signed (neg := false) (by simp) le_rfl

/-- The largest finite magnitude, in units of the lowest exponent. -/
theorem Machine.Fmt.Wide.val_unpack_maxMag (hf : f.Wide) :
    ((Spec.val (f.unpack f.maxMag) : ℚ) : ℝ) = f.units f.maxMag * 2 ^ f.qmin := by
  rw [hf.unpack_maxMag, Spec.val, ← Fmt.magValue_eq_units]
  simp [signedMant]

/-- No finite code exceeds the largest finite magnitude. -/
theorem Machine.Fmt.Wide.le_maxMag_of_unpack (hf : f.Wide) {c m : Nat} {e : Int} (h : f.unpack c = .fin false m e) :
    (m : ℚ) * 2 ^ e ≤ Spec.val (f.unpack f.maxMag) := by
  have hfree := Fmt.not_claimed_of_unpack h
  have hmag := hf.le_maxMag_iff.mpr ⟨Nat.mod_lt _ (by positivity), hfree⟩
  have hunits : f.units (c % 2 ^ (f.e + f.m)) ≤ f.units f.maxMag := by
    rcases hmag.eq_or_lt with heq | hlt
    · rw [heq]
    · exact (units_lt_units hlt fun he => by simpa [he] using (hf.le_maxMag_iff.mp le_rfl).1).le
  rw [unpack_of_not_claimed hfree] at h
  obtain ⟨-, rfl, rfl⟩ := Num.fin.inj h
  have hreal := (Fmt.magValue_eq_units f (c % 2 ^ (f.e + f.m))).trans_le
    (mul_le_mul_of_nonneg_right (Nat.cast_le.mpr hunits) (by positivity))
  rw [← hf.val_unpack_maxMag] at hreal
  refine Rat.cast_le (K := ℝ) |>.mp ?_
  push_cast
  exact hreal

/-- The value of a magnitude code, by the rows of R86. -/
theorem Machine.Fmt.magValue_rows (f : Fmt) (mag : Nat) :
    ((f.magValue mag).1 : ℚ) * 2 ^ (f.magValue mag).2 =
      if f.e = 0 then ((mag % 2 ^ f.m : Nat) : ℚ) * 2 ^ (-f.bias)
      else if mag / 2 ^ f.m = 0 then ((mag % 2 ^ f.m : Nat) : ℚ) * 2 ^ (1 - f.bias - f.m)
      else ((2 ^ f.m + mag % 2 ^ f.m : Nat) : ℚ) * 2 ^ (((mag / 2 ^ f.m : Nat) : Int) - f.bias - f.m) := by
  simp only [Fmt.magValue]
  split
  · rfl
  split <;> rfl

/-! ## The place of the last bit, and the rounded mantissa (R90) -/

/-- The exponent of the last place of a value's rounded mantissa. -/
def Machine.Fmt.place (f : Fmt) (m : Nat) (e : Int) : Int :=
  if f.e = 0 then f.qmin else max (e + bitLength m - 1 - f.m) f.qmin

/-- A value's mantissa rounded at its last place, and whether it differs. -/
def Machine.Fmt.rounded (f : Fmt) (r : RMode) (neg : Bool) (m : Nat) (e : Int) : Nat × Bool :=
  roundShift r neg m (f.place m e - e)

/-- A value's mantissa rounded with an unbounded exponent (R91). -/
def Machine.Fmt.unbounded (f : Fmt) (r : RMode) (neg : Bool) (m : Nat) (e : Int) : Nat :=
  (roundShift r neg m (e + bitLength m - 1 - f.m - e)).1

theorem Machine.Fmt.qmin_le_place (f : Fmt) (m : Nat) (e : Int) : f.qmin ≤ f.place m e := by
  unfold Fmt.place
  split
  · exact le_rfl
  · exact le_max_right _ _

/-- The last place, as the statement of rounding names it. -/
theorem Machine.Fmt.place_eq (f : Fmt) {m : Nat} (hm : m ≠ 0) (e : Int) :
    (if f.e = 0 then -f.bias else max (Int.log 2 ((m : ℝ) * 2 ^ e) - f.m) (1 - f.bias - f.m)) = f.place m e := by
  rw [log_mul_zpow hm]
  unfold Fmt.place Fmt.qmin
  split <;> rfl

theorem Machine.div_zpow_eq (m : Nat) (e q : Int) : (m : ℝ) * 2 ^ e / 2 ^ q = m / 2 ^ (q - e) := by
  rw [zpow_sub₀ two_ne_zero, div_div_eq_mul_div]

theorem Machine.Fmt.rounded_rounds (f : Fmt) (r : RMode) (neg : Bool) (m : Nat) (e : Int) :
    Spec.Rounded r neg ((m : ℝ) * 2 ^ e / 2 ^ f.place m e) (f.rounded r neg m e).1 ∧
      ((f.rounded r neg m e).2 = true ↔ ((f.rounded r neg m e).1 : ℝ) * 2 ^ f.place m e ≠ m * 2 ^ e) := by
  obtain ⟨hround, hexact⟩ := roundShift_rounds r neg m (f.place m e - e)
  rw [← div_zpow_eq] at hround hexact
  exact ⟨hround, hexact.trans (not_congr (eq_div_iff (by positivity)))⟩

theorem Machine.Fmt.unbounded_rounds (f : Fmt) (r : RMode) (neg : Bool) (m : Nat) (e : Int) :
    Spec.Rounded r neg ((m : ℝ) * 2 ^ e / 2 ^ (e + bitLength m - 1 - f.m)) (f.unbounded r neg m e) := by
  rw [div_zpow_eq]
  exact (roundShift_rounds r neg m _).1

/-- With its leading bit at the hidden bit's place, a value lies between two powers of two. -/
theorem Machine.scaled_mem {m : Nat} (hm : m ≠ 0) (e : Int) (p : Nat) :
    ((2 ^ p : Nat) : ℝ) ≤ m * 2 ^ e / 2 ^ (e + bitLength m - 1 - p) ∧
      (m : ℝ) * 2 ^ e / 2 ^ (e + bitLength m - 1 - p) < (2 ^ (p + 1) : Nat) := by
  have hpos : (0 : ℝ) < 2 ^ (e + bitLength m - 1 - p) := by positivity
  push_cast
  rw [le_div_iff₀ hpos, div_lt_iff₀ hpos, ← zpow_natCast, ← zpow_natCast, ← zpow_add₀ two_ne_zero,
    ← zpow_add₀ two_ne_zero]
  refine ⟨not_lt.mp ((exponent_lt_iff hm ..).not.mp ?_), (exponent_lt_iff hm ..).mp ?_⟩
  · omega
  · push_cast
    omega

/-- Rounded with an unbounded exponent, a mantissa keeps its hidden bit, or carries to the next power of two. -/
theorem Machine.Fmt.unbounded_mem (f : Fmt) (r : RMode) (neg : Bool) {m : Nat} (hm : m ≠ 0) (e : Int) :
    2 ^ f.m ≤ f.unbounded r neg m e ∧ f.unbounded r neg m e ≤ 2 ^ (f.m + 1) := by
  obtain ⟨hlo, hhi⟩ := scaled_mem hm e f.m
  have h := f.unbounded_rounds r neg m e
  exact ⟨h.le_of_le hlo, h.ge_of_ge hhi.le⟩

theorem Machine.Fmt.rounded_placed (f : Fmt) (r : RMode) (neg : Bool) {m : Nat} (hm : m ≠ 0) (e : Int) :
    f.Placed (f.rounded r neg m e).1 (f.place m e) := by
  obtain ⟨hlo, hhi⟩ := scaled_mem hm e f.m
  have h := (f.rounded_rounds r neg m e).1
  have hplace : f.e ≠ 0 → f.place m e = max (e + bitLength m - 1 - f.m) f.qmin := fun he => if_neg he
  refine ⟨f.qmin_le_place m e, fun he => if_pos he, fun he => h.ge_of_ge (le_trans ?_ hhi.le), fun he hq => ?_⟩
  · have hle : e + bitLength m - 1 - f.m ≤ f.place m e := hplace he ▸ le_max_left _ _
    gcongr
    exact one_le_two
  · have hfree : f.place m e = e + bitLength m - 1 - f.m :=
      (hplace he).trans (max_eq_left (not_lt.mp fun hlt => hq ((hplace he).trans (max_eq_right hlt.le))))
    exact h.le_of_le (hfree ▸ hlo)

/-! ## The flags of a rounded result (R91) -/

/-- The result is tiny after rounding and inexact; without an exponent field, the exact result is tiny. -/
def Machine.Fmt.underflows (f : Fmt) (r : RMode) (neg : Bool) (m : Nat) (e : Int) : Bool :=
  if f.e = 0 then decide (e + bitLength m - 1 < -f.bias)
  else (f.rounded r neg m e).2 &&
    decide (e + bitLength m - 1 - f.m + bitLength (f.unbounded r neg m e) - 1 < 1 - f.bias)

theorem Machine.Fmt.underflows_iff (f : Fmt) (r : RMode) (neg : Bool) {m : Nat} (hm : m ≠ 0) (e : Int) :
    f.underflows r neg m e = true ↔
      if f.e = 0 then (m : ℝ) * 2 ^ e < 2 ^ (-f.bias)
      else ((f.rounded r neg m e).1 : ℝ) * 2 ^ f.place m e ≠ m * 2 ^ e ∧
        (f.unbounded r neg m e : ℝ) * 2 ^ (e + bitLength m - 1 - f.m) < 2 ^ (1 - f.bias) := by
  unfold Fmt.underflows
  split
  · rw [decide_eq_true_iff, exponent_lt_iff hm]
  · have hne : f.unbounded r neg m e ≠ 0 := fun h => by
      have := (f.unbounded_mem r neg hm e).1
      have : 0 < 2 ^ f.m := by positivity
      omega
    rw [Bool.and_eq_true, (f.rounded_rounds r neg m e).2, decide_eq_true_iff, exponent_lt_iff hne]

/-- The flags of a rounded result: inexact, underflowing, and above the largest finite magnitude. -/
def Machine.roundFlags (nx uf above : Bool) : Flags :=
  let fl : Flags := (if nx then flagNX else 0) ||| (if uf then flagUF else 0)
  if above then flagOF ||| flagNX ||| fl else fl

theorem Machine.roundFlags_bits (nx uf above : Bool) :
    let fl := roundFlags nx uf above
    fl.getLsbD 0 = (nx || above) ∧ fl.getLsbD 1 = uf ∧ fl.getLsbD 2 = above ∧ fl.getLsbD 3 = false ∧
      fl.getLsbD 4 = false := by
  revert nx uf above
  decide

/-! ## Placing a rounded value (R93) -/

/-- The sign's part of a code. -/
def Machine.Fmt.signCode (f : Fmt) (neg : Bool) : Nat := if neg && f.s then 2 ^ (f.e + f.m) else 0

/-- The magnitude code of a value above the largest finite magnitude (R93). -/
def Machine.Fmt.overCode (f : Fmt) (r : RMode) (neg : Bool) : Nat :=
  if f.sp = .ieee ∧ f.m ≠ 0 ∧ (r = .nearest ∨ r.awayFor neg = true) then (2 ^ f.e - 1) * 2 ^ f.m else f.maxMag

theorem Machine.Fmt.infCode_eq (f : Fmt) :
    (f.sp = .ieee ∧ f.m ≠ 0 → f.infCode = some ((2 ^ f.e - 1) * 2 ^ f.m)) ∧
    (¬(f.sp = .ieee ∧ f.m ≠ 0) → f.infCode = none) :=
  ⟨fun h => if_pos (by simpa using h), fun h => if_neg (by simpa using h)⟩

/-- The rows of R93 for a finite value, in their order: it rounds to 0, it is negative in a format without a sign, it
exceeds the largest finite magnitude, or it fits. -/
theorem Machine.Fmt.pack_fin (f : Fmt) (r : RMode) (neg : Bool) {m : Nat} (hm : m ≠ 0) (e : Int) :
    let n := (f.rounded r neg m e).1
    let fl := roundFlags (f.rounded r neg m e).2 (f.underflows r neg m e)
    f.pack r (.fin neg m e) =
      if n = 0 then (f.signCode neg, fl false)
      else if (neg && !f.s) = true then (0, flagNV)
      else if f.exceeds n (f.place m e) = true then (f.signCode neg + f.overCode r neg, fl true)
      else (f.signCode neg + f.magCode n (f.place m e), fl false) := by
  intro n fl
  change (if m = 0 then _ else if n = 0 then (f.signCode neg, fl false) else if _ then _ else
    if f.exceeds n (f.place m e) = true then _ else (f.signCode neg + f.magCode n (f.place m e), fl false)) = _
  rw [if_neg hm]
  congr 3
  by_cases hinf : f.sp = .ieee ∧ f.m ≠ 0
  · simp only [f.infCode_eq.1 hinf, Fmt.overCode, hinf.1, hinf.2, true_and, ne_eq, not_false_eq_true, Bool.or_eq_true,
      decide_eq_true_eq]
    rfl
  · have hover : f.overCode r neg = f.maxMag := if_neg fun h => hinf ⟨h.1, h.2.1⟩
    simp only [f.infCode_eq.2 hinf, hover]
    rfl

theorem Machine.Fmt.signCode_eq (f : Fmt) {neg : Bool} (hs : neg = true → f.s = true) :
    f.signCode neg = if neg = true then 2 ^ (f.e + f.m) else 0 := by
  cases neg with
  | false => rfl
  | true => simp [Fmt.signCode, hs rfl]

/-- A value of a sign that the format has: rounded once, placed, and flagged. -/
theorem Machine.Fmt.pack_fin_signed (f : Fmt) (r : RMode) {neg : Bool} (hs : neg = true → f.s = true) {m : Nat}
    (hm : m ≠ 0) (e : Int) :
    let n := (f.rounded r neg m e).1
    let above := f.exceeds n (f.place m e)
    f.pack r (.fin neg m e) =
      ((if neg = true then 2 ^ (f.e + f.m) else 0) + if above then f.overCode r neg else f.magCode n (f.place m e),
        roundFlags (f.rounded r neg m e).2 (f.underflows r neg m e) above) := by
  intro n above
  have hhas : ¬(neg && !f.s) = true := by simpa using hs
  rw [f.pack_fin r neg hm, f.signCode_eq hs, if_neg hhas]
  by_cases hn : n = 0
  · have habove : above = false := by simp [above, Fmt.exceeds, hn]
    have hcode : f.magCode n (f.place m e) = 0 := by simp [Fmt.magCode, hn]
    rw [if_pos hn, habove, hcode]
    rfl
  · rw [if_neg hn]
    cases habove : above with
    | false => exact if_neg (Bool.eq_false_iff.mp habove)
    | true => exact if_pos habove

/-- A nonzero value of a sign that the format has is rounded once, placed and flagged (R90, R91, R93). -/
theorem Machine.Fmt.Wide.roundsTo_pack (hf : f.Wide) (r : RMode) {neg : Bool} (hs : neg = true → f.s = true) {m : Nat}
    (hm : m ≠ 0) (e : Int) : Spec.RoundsTo f r neg ((m : ℝ) * 2 ^ e) (f.pack r (.fin neg m e)) := by
  obtain ⟨hround, hexact⟩ := f.rounded_rounds r neg m e
  have hplaced := f.rounded_placed r neg hm e
  have hfree := f.unbounded_rounds r neg m e
  have hy := Fmt.mul_zpow_eq_units hplaced.qmin_le (f.rounded r neg m e).1
  have habove : f.exceeds (f.rounded r neg m e).1 (f.place m e) = true ↔
      f.units f.maxMag * (2 : ℝ) ^ f.qmin < (f.rounded r neg m e).1 * 2 ^ f.place m e := by
    rw [Fmt.exceeds_iff hplaced.qmin_le, hy, mul_lt_mul_iff_left₀ (by positivity)]
    exact_mod_cast Iff.rfl
  obtain ⟨hNX, hUF, hOF, hDZ, hNV⟩ := roundFlags_bits (f.rounded r neg m e).2 (f.underflows r neg m e)
    (f.exceeds (f.rounded r neg m e).1 (f.place m e))
  simp only [Spec.RoundsTo, f.place_eq hm, hf.val_unpack_maxMag, f.pack_fin_signed r hs hm]
  simp only [log_mul_zpow hm]
  refine ⟨_, _, hround, hfree, fun hle => ?_, fun hlt => ?_, ?_, ?_, ?_, hDZ, hNV⟩
  · have hwithin := mt habove.mp hle.not_gt
    have hfit := not_lt.mp (mt (Fmt.exceeds_iff hplaced.qmin_le).mpr hwithin)
    rw [if_neg hwithin]
    obtain ⟨hfixed, hcode⟩ := hplaced.magCode_le_maxMag hf hfit
    refine ⟨_, _, hf.unpack_signed hs hcode, ?_⟩
    rw [Fmt.magValue_eq_units, hplaced.units_magCode hfixed, hy]
  · rw [if_pos (habove.mpr hlt)]
    rfl
  · rw [hNX, Bool.or_eq_true, hexact, habove]
  · rw [hOF, habove]
  · rw [hUF, f.underflows_iff r neg hm]

/-! ## Formats without a sign, zeros, NaNs and infinities (R93) -/

/-- A value below the last place that rounds to 0 there rounds to at most 1 one place lower. -/
theorem Spec.Rounded.le_one_of_half {r : RMode} {neg : Bool} {x : ℝ} {k : Nat} (hpos : 0 < x) (hlt : x < 2)
    (hzero : Spec.Rounded r neg (x / 2) 0) (hk : Spec.Rounded r neg x k) : k ≤ 1 := by
  have hcut : (k : ℝ) ≤ x → k ≤ 1 := fun h => Nat.lt_succ_iff.mp (by exact_mod_cast h.trans_lt hlt)
  have hraised : x / 2 ≤ (0 : Nat) → k ≤ 1 := fun h => absurd h (by push_cast; linarith)
  cases r with
  | nearest =>
    have hhalf := (abs_le.mp hzero.1).2
    push_cast at hhalf
    exact hk.ge_of_ge (by push_cast; linarith)
  | zero => exact hcut hk.1
  | down => cases neg with
    | false => exact hcut hk.1
    | true => exact hraised hzero.1
  | up => cases neg with
    | false => exact hraised hzero.1
    | true => exact hcut hk.1

/-- A nonzero value that rounds to 0 underflows, and differs (R91). -/
theorem Machine.Fmt.underflows_of_rounded_zero (f : Fmt) (r : RMode) (neg : Bool) {m : Nat} (hm : m ≠ 0) (e : Int)
    (hzero : (f.rounded r neg m e).1 = 0) : (f.rounded r neg m e).2 = true ∧ f.underflows r neg m e = true := by
  obtain ⟨hround, hexact⟩ := f.rounded_rounds r neg m e
  have hplaced := f.rounded_placed r neg hm e
  have hinexact : (f.rounded r neg m e).2 = true := hexact.mpr (by
    rw [hzero, Nat.cast_zero, zero_mul]
    exact (by positivity : (0 : ℝ) < m * 2 ^ e).ne)
  refine ⟨hinexact, ?_⟩
  have hlead : e + bitLength m - 1 < f.place m e := by
    have hlt := hround.near.2
    rw [hzero, Nat.cast_zero, zero_add, div_lt_one (by positivity)] at hlt
    exact (exponent_lt_iff hm ..).mpr hlt
  by_cases he : f.e = 0
  · rw [hplaced.fixed he] at hlead
    simpa [Fmt.underflows, he, Fmt.qmin] using hlead
  have hqmin : f.place m e = f.qmin := not_not.mp fun hq => by
    have := hplaced.normal he hq
    have : 0 < 2 ^ f.m := by positivity
    omega
  have hbits : (bitLength (f.unbounded r neg m e) : Int) < 1 - f.bias - (e + bitLength m - 1 - f.m) + 1 := by
    have hle : bitLength (f.unbounded r neg m e) ≤ f.m + 2 := bitLength_le_iff.mpr <|
      (f.unbounded_mem r neg hm e).2.trans_lt (Nat.pow_lt_pow_right one_lt_two (Nat.lt_succ_self _))
    rw [hqmin, Fmt.qmin, if_neg he] at hlead
    by_cases htie : f.m = 0 ∧ e + bitLength m - 1 + 1 = f.qmin
    · obtain ⟨hm0, hnext⟩ := htie
      obtain ⟨-, hhi⟩ := scaled_mem hm e f.m
      have hfree := f.unbounded_rounds r neg m e
      rw [hzero, hqmin, ← hnext, zpow_add_one₀ two_ne_zero, ← div_div] at hround
      simp only [hm0, Nat.cast_zero, sub_zero] at hhi hfree ⊢
      have hone := hround.le_one_of_half (by positivity) (by simpa using hhi) hfree
      have hlen : bitLength (f.unbounded r neg m e) ≤ 1 := bitLength_le_iff.mpr (by omega)
      omega
    · rw [Fmt.qmin, if_neg he] at htie
      omega
  rw [Fmt.underflows, if_neg he, hinexact, Bool.true_and, decide_eq_true_iff]
  omega

/-- A negative value into a format without a sign gives +0: by rounding, or as invalid. -/
theorem Machine.Fmt.pack_fin_unsigned (hs : f.s = false) (r : RMode) {m : Nat} (hm : m ≠ 0) (e : Int) :
    f.pack r (.fin true m e) = (0, if (f.rounded r true m e).1 = 0 then flagUF ||| flagNX else flagNV) := by
  have hsign : f.signCode true = 0 := by simp [Fmt.signCode, hs]
  rw [f.pack_fin r true hm, hsign, hs]
  by_cases hn : (f.rounded r true m e).1 = 0
  · obtain ⟨hinexact, htiny⟩ := f.underflows_of_rounded_zero r true hm e hn
    rw [if_pos hn, if_pos hn, hinexact, htiny]
    rfl
  · rw [if_neg hn, if_neg hn]
    rfl

theorem Machine.Fmt.pack_zero (f : Fmt) (r : RMode) (neg : Bool) (e : Int) :
    f.pack r (.fin neg 0 e) = (f.signCode neg, 0) := rfl

/-- A NaN becomes the canonical one, or +0 as invalid in a format without NaNs (R92, R93). -/
theorem Machine.Fmt.pack_nan (f : Fmt) (r : RMode) (b : Bool) :
    f.pack r (.nan b) = match f.sp with
      | .none => (0, flagNV)
      | .fn => (2 ^ (f.e + f.m) - 1, if b then flagNV else 0)
      | .ieee => ((2 ^ f.e - 1) * 2 ^ f.m + 2 ^ f.m / 2, if b then flagNV else 0) := by
  simp only [Fmt.pack, Fmt.nanCode]
  cases f.sp <;> rfl

/-- An infinity stays one, or becomes the largest finite of its sign as invalid (R93). -/
theorem Machine.Fmt.pack_inf (f : Fmt) (r : RMode) (neg : Bool) :
    (neg = true → f.s = false → f.pack r (.inf neg) = (0, flagNV)) ∧
    ((neg = true → f.s = true) →
      (f.sp = .ieee ∧ f.m ≠ 0 → f.pack r (.inf neg) = (f.signCode neg + (2 ^ f.e - 1) * 2 ^ f.m, 0)) ∧
      (¬(f.sp = .ieee ∧ f.m ≠ 0) → f.pack r (.inf neg) = (f.signCode neg + f.maxMag, flagNV))) := by
  obtain ⟨hsome, hnone⟩ := f.infCode_eq
  refine ⟨fun hneg hs => if_pos (by simp [hneg, hs]), fun hhas => ?_⟩
  have hpack : f.pack r (.inf neg) = match f.infCode with
      | some c => (f.signCode neg + c, 0)
      | none => (f.signCode neg + f.maxMag, flagNV) := if_neg (by simpa using hhas)
  exact ⟨fun h => by rw [hpack, hsome h], fun h => by rw [hpack, hnone h]⟩

end

/-- Settles O31: the value of a code, the bound of the largest finite magnitude, and the rows of R93. -/
theorem floatRounding : Obligations.FloatRounding := by
  intro f hformat sign
  have hf := hformat.wide
  refine ⟨fun c => ?_, fun c m e => hf.le_maxMag_of_unpack, ⟨_, _, hf.unpack_maxMag⟩,
    fun r neg m e hm hs => hf.roundsTo_pack r hs hm e, fun r neg e => ?_, fun hs r m e hm => ?_, fun r b => ?_,
    fun r neg => ?_⟩
  · obtain ⟨hfn, hieee⟩ := f.unpack_special c
    refine ⟨hfn, fun hsp hbe hm hfr => (hieee hsp hbe).trans (if_pos ⟨hm, hfr⟩),
      fun hsp hbe hfr => (hieee hsp hbe).trans (if_neg fun h => hfr.elim h.1 fun hne => hne h.2), fun hfn hieee => ?_⟩
    exact ⟨_, _, Fmt.unpack_of_not_claimed (not_or.mpr ⟨hfn, hieee⟩), f.magValue_rows _⟩
  · rw [f.pack_zero r neg e, Fmt.signCode]
    simp only [Bool.and_eq_true]
    rfl
  · intro x
    rw [f.place_eq hm e]
    exact ⟨_, (f.rounded_rounds r true m e).1, Fmt.pack_fin_unsigned hs r hm e⟩
  · rw [f.pack_nan r b]
    exact ⟨fun h => by rw [h], fun h => by rw [h], fun h => by rw [h]⟩
  · obtain ⟨hnone, hhas⟩ := f.pack_inf r neg
    refine ⟨hnone, fun hs hsp hm => ?_, fun hs hsp => ?_⟩
    · rw [(hhas hs).1 ⟨hsp, hm⟩, f.signCode_eq hs]
    · rw [(hhas hs).2 fun h => hsp.elim (fun hne => hne h.1) h.2, f.signCode_eq hs]

end Sys2Proof
end

section
namespace Sys2Proof

open Machine

/-! ## Numbers packed into a register (R95) -/

/-- A digit of a number, read from its digits. -/
theorem ofDigits_div_pow_mod {b : Nat} (hb : 0 < b) {l : List Nat} (hl : ∀ x ∈ l, x < b) (i : Nat) :
    Nat.ofDigits b l / b ^ i % b = l.getD i 0 := by
  rw [Nat.ofDigits_div_pow_eq_ofDigits_drop i hb l hl]
  rcases lt_or_ge i l.length with hi | hi
  · rw [List.drop_eq_getElem_cons hi, Nat.ofDigits_cons, Nat.add_mul_mod_self_left, List.getD_eq_getElem _ _ hi,
      Nat.mod_eq_of_lt (hl _ (List.getElem_mem hi))]
  · rw [List.drop_eq_nil_of_le hi, List.getD_eq_default _ _ hi, Nat.ofDigits_nil, Nat.zero_mod]

/-- A bit of a number packed of fields of `k` bits is a bit of its field. -/
theorem testBit_ofDigits {k : Nat} (hk : 0 < k) {l : List Nat} (hl : ∀ x ∈ l, x < 2 ^ k) (j : Nat) :
    (Nat.ofDigits (2 ^ k) l).testBit j = (l.getD (j / k) 0).testBit (j % k) := by
  rw [← ofDigits_div_pow_mod (by positivity) hl, ← pow_mul, Nat.testBit_mod_two_pow, Nat.testBit_div_two_pow,
    decide_eq_true (Nat.mod_lt j hk), Bool.true_and, add_comm, Nat.div_add_mod]

theorem Machine.ofElems_eq_ofDigits (w : Nat) (l : List Nat) :
    ofElems w l = BitVec.ofNat 2048 (Nat.ofDigits (2 ^ w) (l.map fun x => x % 2 ^ w)) := by
  rw [ofElems, Nat.ofDigits_eq_foldr, List.foldr_map]
  simp only [Nat.cast_id, mul_comm]

/-- An element read from a register packed of elements. -/
theorem Machine.elem_ofElems (w : Nat) (l : List Nat) {i : Nat} (hi : w * i + w ≤ 2048) :
    elem w (ofElems w l) i = l.getD i 0 % 2 ^ w := by
  have hfields : ∀ x ∈ l.map fun x => x % 2 ^ w, x < 2 ^ w := by
    simp only [List.mem_map, forall_exists_index, and_imp, forall_apply_eq_imp_iff₂]
    exact fun x _ => Nat.mod_lt _ (by positivity)
  refine Nat.eq_of_testBit_eq fun b => ?_
  rw [elem, Nat.testBit_mod_two_pow, Nat.testBit_mod_two_pow, Nat.testBit_shiftRight, BitVec.testBit_toNat,
    ofElems_eq_ofDigits, BitVec.getLsbD_ofNat]
  by_cases hb : b < w
  · have hbit := testBit_ofDigits (k := w) (by omega) hfields (w * i + b)
    rw [Nat.mul_add_div (by omega), Nat.div_eq_of_lt hb, add_zero, Nat.mul_add_mod, Nat.mod_eq_of_lt hb,
      ← Nat.zero_mod (2 ^ w), List.getD_map, Nat.testBit_mod_two_pow] at hbit
    simp only [hbit, hb, show w * i + b < 2048 by omega, decide_true, Bool.true_and]
  · simp [hb]

/-! ## Enabled elements and their byte lanes (R96) -/

/-- The element widths of the types of R95 other than the narrow codes. -/
def IsElemWidth (w : Nat) : Prop := w = 8 ∨ w = 16 ∨ w = 32

theorem Machine.vtyBits_isElemWidth (t : VTy) : IsElemWidth (vtyBits t) := by
  cases t <;> simp [IsElemWidth, vtyBits]

/-- What the byte arithmetic of the elements needs of a width. -/
theorem IsElemWidth.lane {w : Nat} (hw : IsElemWidth w) {j : Nat} (hj : j < 256) :
    0 < w / 8 ∧ 8 * j / w = j / (w / 8) ∧ j / (w / 8) < 2048 / w ∧ w / 8 * (j / (w / 8)) < 256 := by
  rcases hw with rfl | rfl | rfl <;> omega

/-- An element of a register lies within it. -/
theorem elem_fits {w i : Nat} (hi : i < 2048 / w) : w * i + w ≤ 2048 :=
  (Nat.mul_le_mul_left w hi).trans (Nat.mul_div_le 2048 w)

theorem testBit_foldl_fields {k : Nat} (hk : 0 < k) (p : Nat → Bool) (j : Nat) (l : List Nat) (a : Nat) :
    (l.foldl (fun acc i => if p i then acc ||| ((2 ^ k - 1) <<< (k * i)) else acc) a).testBit j =
      (a.testBit j || decide (j / k ∈ l) && p (j / k)) := by
  induction l generalizing a with
  | nil => simp
  | cons i l ih =>
    have hfield : ((2 ^ k - 1) <<< (k * i)).testBit j = decide (j / k = i) := by
      rw [Nat.testBit_shiftLeft, Nat.testBit_two_pow_sub_one, ← Bool.decide_and, decide_eq_decide,
        Nat.div_eq_iff hk, mul_comm i k]
      omega
    have hstep : (if p i then a ||| ((2 ^ k - 1) <<< (k * i)) else a).testBit j =
        (a.testBit j || decide (j / k = i) && p (j / k)) := by
      by_cases hi : j / k = i
      · subst hi
        cases hp : p (j / k) <;> simp [Nat.testBit_or, hfield]
      · cases hp : p i <;> simp [Nat.testBit_or, hfield, hi]
    rw [List.foldl_cons, ih, hstep, Bool.or_assoc, ← Bool.and_or_distrib_right, ← Bool.decide_or]
    simp only [List.mem_cons]

/-- A byte lane is written where its element is enabled. -/
theorem Machine.getLsbD_elemMask {w : Nat} (hw : IsElemWidth w) (q : Mask) {j : Nat} (hj : j < 256) :
    (elemMask w q).getLsbD j = elemOn w q (8 * j / w) := by
  obtain ⟨hpos, helem, hcount, hlane⟩ := hw.lane hj
  rw [helem, elemOn]
  unfold elemMask
  split
  · next hall => rw [hall, BitVec.getLsbD_allOnes, BitVec.getLsbD_allOnes, decide_eq_true hj, decide_eq_true hlane]
  split
  · next h8 => subst h8; simp
  · rw [BitVec.getLsbD_ofNat, testBit_foldl_fields hpos]
    simp [elemOn, hj, hcount]

/-! ## Flags together (R91) -/

theorem getLsbD_foldl_or {α : Type} {n : Nat} (f : α → BitVec n) (i : Nat) (l : List α) (a : BitVec n) :
    (l.foldl (fun fl x => fl ||| f x) a).getLsbD i = true ↔ a.getLsbD i = true ∨ ∃ x ∈ l, (f x).getLsbD i = true := by
  induction l generalizing a with
  | nil => simp
  | cons x l ih => simp [ih, or_assoc]

/-- A flag is set where an enabled element sets it; a disabled element stands as `x` without flags. -/
theorem getLsbD_foldl_enabled {α : Type} (n m : Nat) (on : Nat → Bool) (f : Nat → α × Flags) (x : α) :
    (((List.range m).map fun i => if on i then f i else (x, 0)).foldl
        (fun fl (p : α × Flags) => fl ||| p.2) 0).getLsbD n = true ↔
      ∃ i, i < m ∧ on i = true ∧ (f i).2.getLsbD n = true := by
  rw [getLsbD_foldl_or]
  simp only [BitVec.ofNat_eq_ofNat, BitVec.getLsbD_zero, Bool.false_eq_true, false_or, List.mem_map, List.mem_range,
    exists_exists_and_eq_and]
  refine exists_congr fun i => and_congr_right fun _ => ?_
  cases on i <;> simp

/-- Settles O25: each lane is an element's own, and the flags and byte lanes are those of the enabled elements. -/
theorem vectorResults : Obligations.VectorResults := by
  intro h lat d w f s hw
  refine ⟨fun hraised => State.perform_raised hraised _, fun hcalm => ?_⟩
  refine ⟨_, _, _, State.perform_calm hcalm _, fun i hi hon => ?_, fun j => getLsbD_elemMask hw _, fun n _ =>
    getLsbD_foldl_enabled n _ _ f 0⟩
  rw [elem_ofElems w _ (elem_fits hi), lanesFor, List.map_map, List.getD_eq_getElem _ _ (by simpa using hi)]
  simp [hon]

/-! ## Comparisons (R103) -/

/-- A bit of the fields that a comparison packs is the condition of its element. -/
theorem testBit_conditions {k : Nat} (hk : 0 < k) (l : List (Bool × Flags)) (j : Nat) :
    ((l.map fun (p : Bool × Flags) => if p.1 then 2 ^ k - 1 else 0).foldr (fun v acc => v + acc * 2 ^ k) 0).testBit j =
      (l.map Prod.fst).getD (j / k) false := by
  have hfields : ∀ x ∈ l.map fun (p : Bool × Flags) => if p.1 then 2 ^ k - 1 else 0, x < 2 ^ k := by
    simp only [List.mem_map, forall_exists_index, and_imp, forall_apply_eq_imp_iff₂]
    intro p _
    split
    · exact Nat.sub_one_lt (by positivity)
    · positivity
  have hbit := testBit_ofDigits hk hfields j
  rw [Nat.ofDigits_eq_foldr] at hbit
  simp only [Nat.cast_id, mul_comm (2 ^ k)] at hbit
  rw [hbit]
  rcases lt_or_ge (j / k) l.length with hi | hi
  · rw [List.getD_eq_getElem _ _ (by simpa using hi), List.getD_eq_getElem _ _ (by simpa using hi), List.getElem_map,
      List.getElem_map]
    cases l[j / k].1 <;> simp [Nat.testBit_two_pow_sub_one, Nat.mod_lt j hk]
  · rw [List.getD_eq_default _ _ (by simpa using hi), List.getD_eq_default _ _ (by simpa using hi), Nat.zero_testBit]

/-- The conditions on integers, under their reading. -/
theorem Machine.vCompare_of_int {t : VTy} (ht : vtyFloat t = none) (x y : Nat) :
    let X := readInt (vtyNat t) (vtyBits t) x
    let Y := readInt (vtyNat t) (vtyBits t) y
    vCompare .eq t x y = (decide (X = Y), 0) ∧ vCompare .ne t x y = (decide (X ≠ Y), 0) ∧
      vCompare .lt t x y = (decide (X < Y), 0) ∧ vCompare .le t x y = (decide (X ≤ Y), 0) := by
  simp only [vCompare, ht, and_self]

/-- The conditions on floats where one is a NaN. -/
theorem Machine.vCompare_of_nan {t : VTy} {f : Fmt} (ht : vtyFloat t = some f) {x y : Nat}
    (hnan : (f.unpack x).isNan = true ∨ (f.unpack y).isNan = true) :
    let nv : Flags := if (f.unpack x).isSnan = true ∨ (f.unpack y).isSnan = true then flagNV else 0
    vCompare .eq t x y = (false, nv) ∧ vCompare .ne t x y = (true, nv) ∧
      vCompare .lt t x y = (false, flagNV) ∧ vCompare .le t x y = (false, flagNV) := by
  simp only [vCompare, ht, Bool.or_eq_true, if_pos hnan, and_self]

/-- The conditions on two floats that are ordered. -/
theorem Machine.vCompare_of_ordered {t : VTy} {f : Fmt} (ht : vtyFloat t = some f) {x y : Nat}
    (hx : (f.unpack x).isNan = false) (hy : (f.unpack y).isNan = false) :
    let o := fcmp (f.unpack x) (f.unpack y)
    vCompare .eq t x y = (decide (o = 0), 0) ∧ vCompare .ne t x y = (decide (o ≠ 0), 0) ∧
      vCompare .lt t x y = (decide (o < 0), 0) ∧ vCompare .le t x y = (decide (o ≤ 0), 0) := by
  simp only [vCompare, ht, hx, hy, Bool.or_self, Bool.false_eq_true, if_false, and_self]

/-- Settles O28: the byte bits and flags of the enabled elements, and the rows of the conditions. -/
theorem vectorCompares : Obligations.VectorCompares := by
  intro h t c k a b s hcalm w q cond
  have hw : IsElemWidth w := vtyBits_isElemWidth t
  refine ⟨⟨_, _, congrArg Host.Outcome.next (State.perform_calm hcalm _), fun j hj hon => ?_, fun n _ =>
    getLsbD_foldl_enabled n _ _ cond false⟩, fun x y ht => vCompare_of_int ht x y,
    fun x y fm ht => ⟨vCompare_of_nan ht, vCompare_of_ordered ht⟩⟩
  obtain ⟨hpos, helem, hcount, -⟩ := hw.lane hj
  rw [helem] at hon ⊢
  rw [BitVec.getLsbD_ofNat, testBit_conditions hpos, decide_eq_true (by omega), Bool.true_and, List.map_map,
    List.getD_eq_getElem _ _ (by simpa using hcount), List.getElem_map, List.getElem_range, Function.comp_apply,
    if_pos hon]

end Sys2Proof
end

section
namespace Sys2Proof

open Machine

/-! ## Bit operations on elements (R102) -/

/-- Shifts as multiplications and divisions of an element's readings. -/
theorem Machine.vShift_eq (t : VTy) (x m : Nat) :
    let w := vtyBits t
    vShift true t x m = (if w ≤ m then 0 else x * 2 ^ m % 2 ^ w) ∧
    (vtyNat t = true → vShift false t x m = if w ≤ m then 0 else x / 2 ^ m) ∧
    (vtyNat t = false →
      vShift false t x m = (BitVec.ofInt w ((BitVec.ofNat w x).toInt / 2 ^ min m w)).toNat) := by
  refine ⟨?_, fun hn => ?_, fun hn => ?_⟩
  · simp only [vShift, if_true, Nat.shiftLeft_eq]
  · simp only [vShift, hn, Bool.false_eq_true, if_false, if_true, Nat.shiftRight_eq_div_pow]
  · simp only [vShift, hn, Bool.false_eq_true, if_false, BitVec.sshiftRight, Int.shiftRight_eq_div_pow]
    push_cast
    rfl

/-- An operation on two operands that sets no flag, however its elements are stated. -/
theorem next_vecBinary {f : Nat → Nat → Nat} {g : Nat → Nat} {h : Head} {t : VTy} {d a : VReg} {b : VSrc} {s : State}
    (hf : ∀ i, f (elem (vtyBits t) (s.vreg a) i) (elem (vtyBits t) (s.vsrc (vtyBits t) b) i) = g i) :
    (Host.Outcome.next (vecBinary (fun x y => (f x y, 0)) 3 h t d a b s) : Host.Outcome State Fault Refusal) =
      .next (s.vecResult h 3 d (vtyBits t) fun i => (g i, 0)) := by
  simp only [vecBinary, hf]

section
variable {s : State} (hs : Spec.Calm s)
include hs

/-- An effect that executes answers the state that it makes. -/
theorem next_perform {f : State → State} {t : State} (ht : f s = t) :
    (Host.Outcome.next (s.perform f) : Host.Outcome State Fault Refusal) = .next t := by
  rw [State.perform_calm hs, ht]

/-! ## Masks (R105) -/

theorem next_maskOp (f : Mask → Mask → Mask) (h : Head) (k : BitVec 3) (p q : QReg) :
    (Host.Outcome.next (maskOp f h k p q s) : Host.Outcome State Fault Refusal) =
      .next (s.result 1 (.q k) ((f (s.regs.mask p) (s.regs.mask q)).setWidth 2048) (s.mguard h) 0) :=
  next_perform hs rfl

theorem exec_vmskCounts (h : Head) (g : BitVec 5) (p : QReg) :
    let on := (List.range 256).filter fun j => (s.regs.mask p).getLsbD j && (s.mguard h).getLsbD j
    exec (.vmskPopc h g p) s = .next (s.scalar 8 (g.setWidth 6) (BitVec.ofNat 64 on.length)) ∧
      exec (.vmskFfs h g p) s = .next (s.scalar 8 (g.setWidth 6) (BitVec.ofNat 64 (on.head?.getD 256))) := by
  intro on
  have hon : s.maskLanes h p = on := by simp only [State.maskLanes, lanesOf, BitVec.getLsbD_and, on]
  rw [← hon]
  exact ⟨next_perform hs rfl, next_perform hs rfl⟩

/-! ## Single elements (R112) -/

theorem exec_vext_of_calm (h : Head) (t : VTy) (e g : BitVec 5) (b : VReg) :
    let w := vtyBits t
    let i := (s.sreg (g.setWidth 6)).toNat % (2048 / w)
    exec (.vext h t e g b) s = .next (if elemOn w (s.mguard h) i then
      s.scalar 3 (e.setWidth 6) (extendElem t (elem w (s.vreg b) i)) else s) := by
  refine congrArg Host.Outcome.next (if_congr Iff.rfl ?_ rfl)
  exact State.perform_calm hs _

theorem exec_vins_of_calm (h : Head) (t : VTy) (d : VReg) (g e : BitVec 5) :
    let w := vtyBits t
    let i := (s.sreg (g.setWidth 6)).toNat % (2048 / w)
    exec (.vins h t d g e) s = .next (s.result 3 (.v d)
      (BitVec.ofNat 2048 ((s.sreg (e.setWidth 6)).toNat % 2 ^ w * 2 ^ (w * i)))
      (if elemOn w (s.mguard h) i then BitVec.ofNat 256 ((2 ^ (w / 8) - 1) * 2 ^ (w / 8 * i)) else 0) 0) := by
  intro w i
  rw [← Nat.shiftLeft_eq, ← Nat.shiftLeft_eq]
  exact next_perform hs rfl

end

/-- Settles O27: the element operations unfold to the stated ones, and each mask or single element has its own lemma. -/
theorem vectorLogicAndMoves : Obligations.VectorLogicAndMoves := by
  refine ⟨fun h t d a b s hs => ?_, fun h s hs => ⟨fun t d a b g => ⟨rfl, rfl, rfl, fun e => ?_⟩,
    fun t d a b src g => ⟨rfl, rfl, rfl, rfl⟩⟩⟩
  · intro w x y lands
    have hshift := fun i => vShift_eq t (x i) (y i)
    exact ⟨rfl, rfl, rfl, next_vecBinary fun i => (hshift i).1, fun hn => next_vecBinary fun i => (hshift i).2.1 hn,
      fun hn => next_vecBinary fun i => (hshift i).2.2 hn, next_perform hs rfl,
      fun k p q => ⟨next_maskOp hs _ h k p q, next_maskOp hs _ h k p q, next_maskOp hs _ h k p q,
        next_maskOp hs (fun x _ => ~~~x) h k p 0⟩, exec_vmskCounts hs h⟩
  · intro i
    have hext := exec_vext_of_calm hs h t e g b
    have hins := exec_vins_of_calm hs h t d g e
    refine ⟨fun hon => ?_, fun hoff => ?_, fun hon => ?_, fun hoff => ?_⟩
    · exact hext.trans (congrArg Host.Outcome.next (if_pos hon))
    · exact hext.trans (congrArg Host.Outcome.next (if_neg (Bool.eq_false_iff.mp hoff)))
    · rw [hins, if_pos hon]
    · rw [hins, if_neg (Bool.eq_false_iff.mp hoff)]
      exact ⟨_, rfl⟩

end Sys2Proof
end

section
namespace Sys2Proof

open Machine

/-! ## The tree of a reduction (R109) -/

theorem Machine.vredTree_singleton (f : Lane → Lane → Lane) (fuel : Nat) (x : Lane) : vredTree f fuel [x] = x := by
  cases fuel <;> rfl

theorem Machine.vredTree_succ (f : Lane → Lane → Lane) (fuel : Nat) {l : List Lane} (hl : 2 ≤ l.length) :
    vredTree f (fuel + 1) l = vredTree f fuel (vredLevel f l) := by
  match l, hl with
  | _ :: _ :: _, _ => rfl

theorem Machine.length_vredLevel (f : Lane → Lane → Lane) (m : Nat) (l : List Lane) (hl : l.length = 2 * m) :
    (vredLevel f l).length = m := by
  induction m generalizing l with
  | zero => rw [List.length_eq_zero_iff.mp hl]; rfl
  | succ m ih =>
    match l, hl with
    | a :: b :: l, hl => simp [vredLevel, ih l (by simpa [mul_add] using hl)]

theorem Machine.vredLevel_append (f : Lane → Lane → Lane) (m : Nat) (l k : List Lane) (hl : l.length = 2 * m) :
    vredLevel f (l ++ k) = vredLevel f l ++ vredLevel f k := by
  induction m generalizing l with
  | zero => rw [List.length_eq_zero_iff.mp hl]; rfl
  | succ m ih =>
    match l, hl with
    | a :: b :: l, hl => simp [vredLevel, ih l (by simpa [mul_add] using hl)]

/-- A tree is the node of the trees of its halves. -/
theorem Machine.vredTree_append (f : Lane → Lane → Lane) (n fuel : Nat) (l k : List Lane) (hl : l.length = 2 ^ n)
    (hk : k.length = 2 ^ n) (hn : n < fuel) :
    vredTree f fuel (l ++ k) = f (vredTree f n l) (vredTree f n k) := by
  induction n generalizing fuel l k with
  | zero =>
    obtain ⟨a, rfl⟩ := List.length_eq_one_iff.mp hl
    obtain ⟨b, rfl⟩ := List.length_eq_one_iff.mp hk
    obtain ⟨fuel, rfl⟩ := Nat.exists_eq_succ_of_ne_zero hn.ne'
    exact vredTree_singleton f fuel (f a b)
  | succ n ih =>
    obtain ⟨fuel, rfl⟩ := Nat.exists_eq_succ_of_ne_zero (Nat.ne_zero_of_lt hn)
    rw [pow_succ'] at hl hk
    have hpos : 0 < 2 ^ n := by positivity
    rw [Nat.succ_eq_add_one, vredTree_succ f fuel (by rw [List.length_append]; omega), vredTree_succ f n (by omega),
      vredTree_succ f n (by omega), vredLevel_append f _ l k hl]
    exact ih fuel _ _ (length_vredLevel f _ l hl) (length_vredLevel f _ k hk) (Nat.lt_of_succ_lt_succ hn)

/-! ## Integer sums (R109) -/

/-- The node of an integer sum wraps. -/
theorem Machine.vredNode_sum_of_int {t : VTy} (ht : vtyFloat t = none) (r : RMode) (a b : Lane) :
    vredNode .sum t r a b = ((a.1 + b.1) % 2 ^ vtyBits t, a.2 ||| b.2) := by
  simp only [vredNode, vArith, ht, wrapInt, BitVec.ofNat_eq_ofNat, BitVec.zero_or]
  norm_cast

/-- A tree of wrapping sums is the total modulo 2^w, and sets no flag. -/
theorem Machine.vredTree_sum_of_int {t : VTy} (ht : vtyFloat t = none) (r : RMode) (n fuel : Nat) (l : List Nat)
    (hl : l.length = 2 ^ n) (hx : ∀ x ∈ l, x < 2 ^ vtyBits t) (hn : n ≤ fuel) :
    vredTree (vredNode .sum t r) fuel (l.map fun x => (x, 0)) = (l.sum % 2 ^ vtyBits t, 0) := by
  induction n generalizing fuel l with
  | zero =>
    obtain ⟨x, rfl⟩ := List.length_eq_one_iff.mp hl
    rw [List.map_singleton, vredTree_singleton, List.sum_singleton, Nat.mod_eq_of_lt (hx x (by simp))]
  | succ n ih =>
    have htake : (l.take (2 ^ n)).length = 2 ^ n := by rw [List.length_take, hl, pow_succ']; omega
    have hdrop : (l.drop (2 ^ n)).length = 2 ^ n := by rw [List.length_drop, hl, pow_succ']; omega
    rw [← List.take_append_drop (2 ^ n) l, List.map_append, vredTree_append _ n fuel _ _ (by simpa using htake)
      (by simpa using hdrop) hn, ih n _ htake (fun x h => hx x (List.mem_of_mem_take h)) le_rfl,
      ih n _ hdrop (fun x h => hx x (List.mem_of_mem_drop h)) le_rfl, vredNode_sum_of_int ht, List.sum_append]
    simp only [← Nat.add_mod, BitVec.or_self]

theorem next_vecReduce {s : State} (hs : Spec.Calm s) (op : VRed) (h : Head) (t : VTy) (d : BitVec 5) (a : VReg) :
    let w := vtyBits t
    let y := vredTree (vredNode op t s.rmode) 9 ((List.range (2048 / w)).map fun i =>
      (if elemOn w (s.mguard h) i then elem w (s.vreg a) i else vredIdentity op t, 0))
    (Host.Outcome.next (vecReduce op h t d a s) : Host.Outcome State Fault Refusal) =
      .next (s.result 8 (.s (d.setWidth 6)) ((extendElem t y.1).setWidth 2048) (BitVec.allOnes 256) y.2) := by
  intro w y
  simp only [vecReduce, y]
  exact next_perform hs rfl

/-- A register holds a power of two of elements. -/
theorem Machine.two_pow_elements (t : VTy) : ∃ n ≤ 9, 2048 / vtyBits t = 2 ^ n := by
  rcases vtyBits_isElemWidth t with h | h | h <;> rw [h]
  exacts [⟨8, by decide⟩, ⟨7, by decide⟩, ⟨6, by decide⟩]

/-- What stands at the leaves of a reduction's tree: an element, or the identity for a disabled one. -/
def Machine.State.redLeaves (s : State) (op : VRed) (h : Head) (t : VTy) (a : VReg) : List Nat :=
  (List.range (2048 / vtyBits t)).map fun i =>
    if elemOn (vtyBits t) (s.mguard h) i then elem (vtyBits t) (s.vreg a) i else vredIdentity op t

/-- The leaves of an integer sum are numbers below 2^w whose total is that of the enabled elements. -/
theorem Machine.State.redLeaves_sum_of_int {t : VTy} (ht : vtyFloat t = none) (s : State) (h : Head) (a : VReg) :
    (∀ x ∈ s.redLeaves .sum h t a, x < 2 ^ vtyBits t) ∧ (s.redLeaves .sum h t a).sum =
      (((List.range (2048 / vtyBits t)).filter fun i => elemOn (vtyBits t) (s.mguard h) i).map fun i =>
        elem (vtyBits t) (s.vreg a) i).sum := by
  have hid : vredIdentity .sum t = 0 := by simp only [vredIdentity, ht]
  rw [State.redLeaves, hid]
  refine ⟨?_, by simp [List.sum_map_ite]⟩
  simp only [List.mem_map, forall_exists_index, and_imp, forall_apply_eq_imp_iff₂]
  intro i _
  split
  · exact Nat.mod_lt _ (by positivity)
  · positivity

/-- Settles O30: the tree adds modulo 2^w at each node, and a disabled element adds 0. -/
theorem integerSums : Obligations.IntegerSums := by
  intro h t d a s hs ht w total
  obtain ⟨hlt, htotal⟩ := s.redLeaves_sum_of_int ht h a
  obtain ⟨n, hn, hlen⟩ := two_pow_elements t
  have htree := vredTree_sum_of_int ht s.rmode n 9 _ (by simpa [State.redLeaves] using hlen) hlt hn
  rw [htotal, State.redLeaves, List.map_map] at htree
  refine (next_vecReduce hs .sum h t d a).trans ?_
  simp only [Function.comp_def] at htree
  rw [htree, extendElem, ht]
  rfl

end Sys2Proof
end

section
namespace Sys2Proof

open Machine

/-! ## NaN operands (R92, R99, R100) -/

section
variable {x y z : Machine.Num}

/-- The flag of signalling operands. -/
def Machine.snanFlags (x y : Machine.Num) : Flags := if x.isSnan = true ∨ y.isSnan = true then flagNV else 0

theorem Machine.Num.exists_eq_nan (hx : x.isNan = true) : ∃ b, x = .nan b := by
  cases x with
  | nan b => exact ⟨b, rfl⟩
  | inf n => exact absurd hx Bool.false_ne_true
  | fin n m e => exact absurd hx Bool.false_ne_true

theorem Machine.fadd_of_nan (r : RMode) (h : x.isNan = true ∨ y.isNan = true) :
    fadd r x y = (.nan false, snanFlags x y) := by
  simp only [fadd, snanFlags, Bool.or_eq_true, if_pos h]

theorem Machine.fmul_of_nan (h : x.isNan = true ∨ y.isNan = true) : fmul x y = (.nan false, snanFlags x y) := by
  simp only [fmul, snanFlags, Bool.or_eq_true, if_pos h]

theorem Machine.fadd_of_not_nan (r : RMode) (hx : x.isNan = false) (hy : y.isNan = false) :
    fadd r x y = addExact r x y := by
  simp only [fadd, hx, hy, Bool.or_self, Bool.false_eq_true, if_false]

theorem Machine.fmul_of_not_nan (hx : x.isNan = false) (hy : y.isNan = false) : fmul x y = mulExact x y := by
  simp only [fmul, hx, hy, Bool.or_self, Bool.false_eq_true, if_false]

/-- A zero times an infinity. -/
def Machine.ProductClash (x y : Machine.Num) : Prop :=
  x.isZero = true ∧ y.isInf = true ∨ x.isInf = true ∧ y.isZero = true

theorem Machine.ffma_of_clash (r : RMode) (g : Bool) (h : ProductClash x y) :
    ffma r g x y z = (.nan false, flagNV) := by
  simp only [ProductClash] at h
  simp only [ffma, Bool.or_eq_true, Bool.and_eq_true, if_pos h]

theorem Machine.ffma_of_nan (r : RMode) (g : Bool) (h : ¬ProductClash x y)
    (hnan : x.isNan = true ∨ y.isNan = true ∨ z.isNan = true) :
    ffma r g x y z = (.nan false, if z.isSnan = true then flagNV else snanFlags x y) := by
  simp only [ProductClash] at h
  simp only [ffma, snanFlags, Bool.or_eq_true, Bool.and_eq_true, if_neg h, or_assoc, if_pos hnan]
  by_cases hz : z.isSnan = true
  · simp [hz]
  · simp [hz]

theorem Machine.isNan_fmul (h : ¬ProductClash x y) (hx : x.isNan = false) (hy : y.isNan = false) :
    (fmul x y).1.isNan = false := by
  rw [fmul_of_not_nan hx hy]
  cases x with
  | nan b => exact absurd hx (by simp [Num.isNan])
  | inf a => cases y with
    | nan b => exact absurd hy (by simp [Num.isNan])
    | inf b => rfl
    | fin n m e =>
      have hm : m ≠ 0 := fun hm => h (.inr ⟨rfl, decide_eq_true hm⟩)
      simp [mulExact, Num.isZero, hm, Num.isNan]
  | fin n m e => cases y with
    | nan b => exact absurd hy (by simp [Num.isNan])
    | inf b =>
      have hm : m ≠ 0 := fun hm => h (.inl ⟨decide_eq_true hm, rfl⟩)
      simp [mulExact, Num.isZero, hm, Num.isNan]
    | fin k p g => rfl

theorem Machine.isNan_neg (x : Machine.Num) : x.neg.isNan = x.isNan := by
  cases x <;> rfl

/-- Without a NaN or a clash, a fused operation adds to the product. -/
theorem Machine.ffma_of_exact (r : RMode) (g : Bool) (h : ¬ProductClash x y) (hx : x.isNan = false)
    (hy : y.isNan = false) (hz : z.isNan = false) :
    ffma r g x y z = fadd r (if g = true then (fmul x y).1.neg else (fmul x y).1) z := by
  have hprod := isNan_fmul h hx hy
  have hsigned : (if g = true then (fmul x y).1.neg else (fmul x y).1).isNan = false := by
    split
    · rw [isNan_neg, hprod]
    · exact hprod
  rw [fadd_of_not_nan r hsigned hz, fmul_of_not_nan hx hy]
  simp only [ProductClash] at h
  simp only [ffma, Bool.or_eq_true, Bool.and_eq_true, if_neg h, hx, hy, hz, Bool.false_eq_true, or_self, if_false]

/-- The order of vmin and vmax on two operands that are no NaN: −0 is less than +0. -/
def Machine.MinLess (x y : Machine.Num) : Prop :=
  fcmp x y < 0 ∨ fcmp x y = 0 ∧ x.negative = true ∧ y.negative = false

theorem Machine.fminmax_of_not_nan (big : Bool) (hx : x.isNan = false) (hy : y.isNan = false) :
    (MinLess x y → fminmax big x y = (if big = true then y else x, 0)) ∧
      (¬MinLess x y → fminmax big x y = (if big = true then x else y, 0)) := by
  have hless : (decide (fcmp x y < 0) || (decide (fcmp x y = 0) && x.negative && !y.negative)) = true ↔
      MinLess x y := by
    simp only [MinLess, Bool.or_eq_true, Bool.and_eq_true, decide_eq_true_eq, Bool.not_eq_true', and_assoc]
  simp only [fminmax, hx, hy, Bool.and_self, Bool.false_eq_true, if_false]
  refine ⟨fun h => ?_, fun h => ?_⟩
  · rw [hless.mpr h]
    cases big <;> rfl
  · rw [Bool.eq_false_iff.mpr (mt hless.mp h)]
    cases big <;> rfl

theorem Machine.fminmax_of_nan (big : Bool) :
    (x.isNan = true → y.isNan = false → fminmax big x y = (y, snanFlags x y)) ∧
    (x.isNan = false → y.isNan = true → fminmax big x y = (x, snanFlags x y)) ∧
    (x.isNan = true → y.isNan = true → fminmax big x y = (.nan false, snanFlags x y)) := by
  refine ⟨fun hx hy => ?_, fun hx hy => ?_, fun hx hy => ?_⟩ <;> simp [fminmax, snanFlags, hx, hy]

end

/-! ## The values of exact results (R99, R100) -/

theorem Machine.signedMant_natAbs (t : Int) : signedMant (decide (t < 0)) t.natAbs = t := by
  by_cases h : t < 0
  · simp only [signedMant, h, decide_true, if_true]
    omega
  · simp only [signedMant, h, decide_false, Bool.false_eq_true, if_false]
    omega

theorem Machine.signedMant_mul (n k : Bool) (m p : Nat) :
    signedMant (n != k) (m * p) = signedMant n m * signedMant k p := by
  cases n <;> cases k <;> simp [signedMant]

theorem Spec.val_numOf (t e : Int) (z : Bool) : Spec.val (numOf t e z) = t * 2 ^ e := by
  unfold numOf
  split
  · next h => simp [Spec.val, signedMant, h]
  · rw [Spec.val, signedMant_natAbs]

/-- A finite value as a whole number of a lower power of two. -/
theorem Spec.val_fin_of_le {lo e : Int} (h : lo ≤ e) (n : Bool) (m : Nat) :
    Spec.val (.fin n m e) = (signedMant n m * 2 ^ (e - lo).toNat : Int) * 2 ^ lo := by
  have hsplit : (2 : ℚ) ^ e = 2 ^ (e - lo).toNat * 2 ^ lo := by
    rw [← zpow_natCast, Int.toNat_of_nonneg (sub_nonneg.mpr h), ← zpow_add₀ two_ne_zero, sub_add_cancel]
  rw [Spec.val, hsplit]
  push_cast
  ring

section
variable (n k : Bool) (m p : Nat) (e g : Int)

theorem Machine.addExact_fin_zero (r : RMode) (h : m = 0 ∧ p = 0) : addExact r (.fin n m e) (.fin k p g) =
    (.fin (if n = k then n else decide (r = .down)) 0 0, 0) := by
  simp only [addExact, h, decide_true, Bool.and_self, if_true]

theorem Machine.addExact_fin (r : RMode) (h : ¬(m = 0 ∧ p = 0)) : addExact r (.fin n m e) (.fin k p g) =
    (numOf (signedMant n m * 2 ^ (e - min e g).toNat + signedMant k p * 2 ^ (g - min e g).toNat) (min e g)
      (decide (r = .down)), 0) := by
  simp only [addExact, Bool.and_eq_true, decide_eq_true_eq, if_neg h]

/-- The sum of two finite values is finite and exact, and sets no flag. -/
theorem Spec.val_addExact (r : RMode) :
    let s := addExact r (.fin n m e) (.fin k p g)
    s.2 = 0 ∧ Spec.Finite s.1 ∧ Spec.val s.1 = Spec.val (.fin n m e) + Spec.val (.fin k p g) := by
  by_cases h : m = 0 ∧ p = 0
  · rw [addExact_fin_zero n k m p e g r h]
    exact ⟨rfl, ⟨_, _, _, rfl⟩, by simp [Spec.val, signedMant, h]⟩
  · rw [addExact_fin n k m p e g r h]
    refine ⟨rfl, ?_, ?_⟩
    · simp only [numOf]
      split
      · exact ⟨_, _, _, rfl⟩
      · exact ⟨_, _, _, rfl⟩
    · rw [Spec.val_numOf, Spec.val_fin_of_le (min_le_left e g), Spec.val_fin_of_le (min_le_right e g)]
      push_cast
      ring

/-- The sign of an exact zero sum (R99). -/
theorem Machine.negative_addExact_of_zero (r : RMode) (h : Spec.val (.fin n m e) + Spec.val (.fin k p g) = 0) :
    (addExact r (.fin n m e) (.fin k p g)).1.negative =
      if m = 0 ∧ p = 0 ∧ n = k then n else decide (r = .down) := by
  by_cases hz : m = 0 ∧ p = 0
  · rw [addExact_fin_zero n k m p e g r hz]
    simp only [hz, true_and, Num.negative]
  · have hval := (Spec.val_addExact n k m p e g r).2.2.trans h
    rw [addExact_fin n k m p e g r hz] at hval ⊢
    have hsum := (mul_eq_zero.mp ((Spec.val_numOf ..).symm.trans hval)).resolve_right (by positivity)
    rw [if_neg fun h3 => hz ⟨h3.1, h3.2.1⟩, numOf, if_pos (by exact_mod_cast hsum), Num.negative]

/-- The product of two finite values is finite and exact, and sets no flag. -/
theorem Spec.val_mulExact :
    let s := mulExact (.fin n m e) (.fin k p g)
    s.2 = 0 ∧ Spec.Finite s.1 ∧ Spec.val s.1 = Spec.val (.fin n m e) * Spec.val (.fin k p g) ∧
      s.1.negative = (n != k) := by
  refine ⟨rfl, ⟨_, _, _, rfl⟩, ?_, rfl⟩
  rw [mulExact, Spec.val, Spec.val, Spec.val, signedMant_mul, zpow_add₀ two_ne_zero]
  push_cast
  ring

theorem Spec.val_neg : Spec.val (Num.neg (.fin n m e)) = -Spec.val (.fin n m e) := by
  cases n <;> simp [Num.neg, Spec.val, signedMant]

/-- The comparison of finite values is that of their values. -/
theorem Spec.fcmp_fin_iff :
    (fcmp (.fin n m e) (.fin k p g) < 0 ↔ Spec.val (.fin n m e) < Spec.val (.fin k p g)) ∧
      (fcmp (.fin n m e) (.fin k p g) = 0 ↔ Spec.val (.fin n m e) = Spec.val (.fin k p g)) := by
  rw [Spec.val_fin_of_le (min_le_left e g), Spec.val_fin_of_le (min_le_right e g)]
  have hpos : (0 : ℚ) < 2 ^ min e g := by positivity
  rw [mul_lt_mul_iff_left₀ hpos, mul_left_inj' hpos.ne', Int.cast_lt, Int.cast_inj]
  simp only [fcmp]
  split
  · omega
  · split <;> omega

end

/-! ## The sign of a float element (R101) -/

/-- The formats of R83, as far as their codes go: a sign bit, IEEE specials, and both fields. -/
structure Machine.Fmt.Ieee (f : Fmt) : Prop where
  signed : f.s = true
  specials : f.sp = .ieee
  mant_ne_zero : f.m ≠ 0
  exp_ne_zero : f.e ≠ 0

theorem Machine.ftyFmt_ieee (t : FTy) : (ftyFmt t).Ieee := by
  cases t <;> exact ⟨rfl, rfl, by decide, by decide⟩

theorem Machine.Fmt.Ieee.of_vtyFloat {t : VTy} {f : Fmt} (ht : vtyFloat t = some f) : f.Ieee := by
  cases t <;> simp only [vtyFloat, reduceCtorEq, Option.some.injEq] at ht <;> rw [← ht]
  exacts [ftyFmt_ieee .f32, ftyFmt_ieee .f16, ftyFmt_ieee .bf16]

/-- Half of the fractions of a mantissa of at least one bit. -/
theorem two_pow_div_two {m : Nat} (hm : m ≠ 0) : 2 ^ m / 2 = 2 ^ (m - 1) := by
  obtain ⟨m, rfl⟩ := Nat.exists_eq_succ_of_ne_zero hm
  rw [Nat.succ_eq_add_one, pow_succ, Nat.mul_div_cancel _ two_pos, Nat.add_sub_cancel]

/-- The code of the canonical NaN of an IEEE format (R92). -/
theorem Machine.Fmt.Ieee.getD_nanCode {f : Fmt} (hf : f.Ieee) :
    f.nanCode.getD 0 = (2 ^ f.e - 1) * 2 ^ f.m + 2 ^ (f.m - 1) := by
  rw [Fmt.nanCode, hf.specials, ← two_pow_div_two hf.mant_ne_zero]
  rfl

@[simp] theorem Machine.Num.neg_neg (x : Machine.Num) : x.neg.neg = x := by
  cases x <;> simp [Num.neg]

/-- A code's value is that of its magnitude bits, negated where the sign bit is set (R86, R87). -/
theorem Machine.Fmt.unpack_eq_magnitude {f : Fmt} (hs : f.s = true) (c : Nat) :
    f.unpack c = if c.testBit (f.e + f.m) = true then (f.unpack (c % 2 ^ (f.e + f.m))).neg
      else f.unpack (c % 2 ^ (f.e + f.m)) := by
  have hbit : (c % 2 ^ (f.e + f.m)).testBit (f.e + f.m) = false := by simp [Nat.testBit_mod_two_pow]
  cases hc : c.testBit (f.e + f.m) with
  | false => simp only [Bool.false_eq_true, if_false, Fmt.unpack, Nat.mod_mod, hs, hc, hbit]
  | true =>
    simp only [if_true, Fmt.unpack, Nat.mod_mod, hs, hc, hbit, Bool.true_and]
    split_ifs <;> rfl

theorem Machine.Fmt.negative_unpack_magnitude (f : Fmt) (c : Nat) :
    (f.unpack (c % 2 ^ (f.e + f.m))).negative = false := by
  have hbit : (c % 2 ^ (f.e + f.m)).testBit (f.e + f.m) = false := by simp [Nat.testBit_mod_two_pow]
  simp only [Fmt.unpack, hbit, Bool.and_false]
  split_ifs <;> rfl

/-- A flipped sign bit negates, and a cleared one makes the value positive (R101). -/
theorem Machine.Fmt.unpack_sign_changes {f : Fmt} (hs : f.s = true) (c : Nat) :
    f.unpack (c ^^^ 2 ^ (f.e + f.m)) = (f.unpack c).neg ∧
      ((f.unpack c).isNan = false →
        f.unpack (c % 2 ^ (f.e + f.m)) = if (f.unpack c).negative = true then (f.unpack c).neg else f.unpack c) := by
  have hmag : (c ^^^ 2 ^ (f.e + f.m)) % 2 ^ (f.e + f.m) = c % 2 ^ (f.e + f.m) := by
    simp [Nat.xor_mod_two_pow]
  have hpos := f.negative_unpack_magnitude c
  rw [f.unpack_eq_magnitude hs (c ^^^ _), hmag, Nat.testBit_xor, Nat.testBit_two_pow_self, f.unpack_eq_magnitude hs c]
  generalize f.unpack (c % 2 ^ (f.e + f.m)) = u at hpos
  cases c.testBit (f.e + f.m) with
  | false => simp [hpos]
  | true =>
    refine ⟨by simp, fun hnan => ?_⟩
    cases u with
    | nan b => simp [Num.neg, Num.isNan] at hnan
    | inf n => simpa [Num.neg, Num.negative] using hpos
    | fin n m e => simpa [Num.neg, Num.negative] using hpos

theorem Machine.vSign_of_nan {t : VTy} {f : Fmt} (ht : vtyFloat t = some f) (b : Bool) {c : Nat}
    (hnan : (f.unpack c).isNan = true) :
    vSign b t c = ((2 ^ f.e - 1) * 2 ^ f.m + 2 ^ (f.m - 1), if (f.unpack c).isSnan = true then flagNV else 0) := by
  obtain ⟨s, hv⟩ := Num.exists_eq_nan hnan
  simp only [vSign, ht, hv, (Fmt.Ieee.of_vtyFloat ht).getD_nanCode]
  rfl

theorem Machine.vSign_of_not_nan {t : VTy} {f : Fmt} (ht : vtyFloat t = some f) (b : Bool) {c : Nat}
    (hnan : (f.unpack c).isNan = false) :
    vSign b t c = (if b then c ^^^ 2 ^ (f.e + f.m) else c % 2 ^ (f.e + f.m), 0) := by
  simp only [vSign, ht]
  cases hv : f.unpack c with
  | nan b => simp [hv, Num.isNan] at hnan
  | inf n => rfl
  | fin n m e => rfl

/-! ## vadd to vneg on one element (R99 to R101) -/

/-- A vector result, however its lanes are stated. -/
theorem next_vecResult {h : Head} {lat : Nat} {d : VReg} {w : Nat} {f g : Nat → Lane} {s : State}
    (hfg : ∀ i, f i = g i) : (Host.Outcome.next (s.vecResult h lat d w f) : Host.Outcome State Fault Refusal) =
      .next (s.vecResult h lat d w g) := by
  rw [funext hfg]

/-- R99 on one float element. -/
theorem Machine.vArith_of_float {t : VTy} {f : Fmt} (ht : vtyFloat t = some f) (op : VArith) (r : RMode) (a b d : Nat) :
    let x := f.unpack a
    let y := f.unpack b
    let z := f.unpack d
    vArith op t r a b d = roundLane f r (match op with
      | .add => fadd r x y
      | .sub => fadd r x y.neg
      | .mul => fmul x y
      | .fma => ffma r false x y z
      | .fnma => ffma r true x y z) := by
  cases op <;> simp only [vArith, ht]

/-- R99 on one integer element. -/
theorem Machine.vArith_of_int {t : VTy} (ht : vtyFloat t = none) (op : VArith) (r : RMode) (a b d : Nat) :
    vArith op t r a b d = (wrapInt (vtyBits t) (match op with
      | .add => (a : Int) + b
      | .sub => (a : Int) - b
      | .mul => (a : Int) * b
      | .fma => (a : Int) * b + d
      | .fnma => (d : Int) - a * b), 0) := by
  cases op <;> simp only [vArith, ht]

/-- R100 on one element. -/
theorem Machine.vMinMax_of_float {t : VTy} {f : Fmt} (ht : vtyFloat t = some f) (big : Bool) (a b : Nat) :
    vMinMax big t a b =
      let p := fminmax big (f.unpack a) (f.unpack b)
      ((f.pack .nearest p.1).1, p.2) := by
  simp only [vMinMax, ht]

theorem Machine.vMinMax_of_int {t : VTy} (ht : vtyFloat t = none) (a b : Nat) :
    let less : Prop := readInt (vtyNat t) (vtyBits t) a < readInt (vtyNat t) (vtyBits t) b
    vMinMax false t a b = (if less then a else b, 0) ∧ vMinMax true t a b = (if less then b else a, 0) := by
  simp only [vMinMax, ht, Prod.mk.injEq, and_true]
  by_cases h : readInt (vtyNat t) (vtyBits t) a < readInt (vtyNat t) (vtyBits t) b <;> simp [h]

/-- Both readings of an element agree modulo 2^w. -/
theorem Machine.readInt_modEq (nat : Bool) (w x : Nat) : readInt nat w x ≡ (BitVec.ofNat w x).toInt [ZMOD 2 ^ w] := by
  cases nat with
  | false => rfl
  | true =>
    rw [readInt, if_pos rfl, BitVec.toInt_eq_toNat_bmod, BitVec.toNat_ofNat, Int.ModEq]
    push_cast
    rw [show (2 : Int) ^ w = (2 ^ w : Nat) by push_cast; rfl, Int.bmod_emod, Int.emod_emod_of_dvd _ dvd_rfl]

/-- R101 on one integer element. -/
theorem Machine.vSign_of_int {t : VTy} (ht : vtyFloat t = none) (x : Nat) :
    let w := vtyBits t
    vSign false t x = (wrapInt w |(BitVec.ofNat w x).toInt|, 0) ∧
      vSign true t x = (wrapInt w (-(BitVec.ofNat w x).toInt), 0) := by
  have hneg := congrArg Int.toNat (readInt_modEq (vtyNat t) (vtyBits t) x).neg
  simp only [vSign, ht, Bool.false_eq_true, if_false, if_true, Int.natCast_natAbs, true_and]
  exact congrArg (·, (0 : Flags)) hneg

/-- Settles O26: the rows of the exact operations, and each instruction's lanes. -/
theorem vectorArithmetic : Obligations.VectorArithmetic := by
  refine ⟨fun r g big x y z => ?_, fun r a b => ⟨rfl, rfl, rfl, fun n m e => ?_⟩, fun r n k m p e g => ?_,
    fun t fm c ht => ?_, fun h t d a b s _ => ?_⟩
  · obtain ⟨hx, hy, hxy⟩ := fminmax_of_nan (x := x) (y := y) big
    exact ⟨fun hnan => ⟨fadd_of_nan r hnan, fmul_of_nan hnan⟩, ffma_of_clash r g, ffma_of_nan r g, ffma_of_exact r g,
      fminmax_of_not_nan big, hx, hy, hxy⟩
  · have hprod : ∀ c : Bool, (if decide (m = 0) = true then (Num.nan false, flagNV) else (.inf c, 0)) =
        if m = 0 then (Num.nan false, flagNV) else (.inf c, 0) := fun c => by simp only [decide_eq_true_eq]
    refine ⟨rfl, rfl, hprod (a != n), ?_, rfl, rfl⟩
    rw [← hprod, ← Bool.or_false (decide (m = 0))]
    rfl
  · intro u v t
    obtain ⟨hflags, hfin, hval⟩ := Spec.val_addExact n k m p e g r
    obtain ⟨hmflags, hmfin, hmval, hmneg⟩ := Spec.val_mulExact n k m p e g
    obtain ⟨hlt, heq⟩ := Spec.fcmp_fin_iff n k m p e g
    exact ⟨hflags, hfin, hval, negative_addExact_of_zero n k m p e g r, hmflags, hmfin, hmval, hmneg,
      Spec.val_neg n m e, hlt, heq⟩
  · intro X
    obtain ⟨hflip, hclear⟩ := Fmt.unpack_sign_changes (Fmt.Ieee.of_vtyFloat ht).signed c
    refine ⟨fun hnan b => vSign_of_nan ht b hnan, fun hnan => ?_⟩
    rw [vSign_of_not_nan ht true hnan, vSign_of_not_nan ht false hnan]
    exact ⟨rfl, rfl, hflip, hclear hnan⟩
  · intro w x y z lands cut value
    refine ⟨fun fm ht => ?_, fun ht => ?_⟩
    · intro X Y Z r
      have harith := fun op i => vArith_of_float ht op r (x i) (y i) (z i)
      exact ⟨next_vecResult (harith .add), next_vecResult (harith .sub), next_vecResult (harith .mul),
        next_vecResult (harith .fma), next_vecResult (harith .fnma),
        next_vecResult fun i => vMinMax_of_float ht false (x i) (y i),
        next_vecResult fun i => vMinMax_of_float ht true (x i) (y i), rfl, rfl⟩
    · have harith := fun op i => vArith_of_int ht op s.rmode (x i) (y i) (z i)
      have horder := fun i => vMinMax_of_int ht (x i) (y i)
      have hsign := fun i => vSign_of_int ht (x i)
      exact ⟨next_vecResult (harith .add), next_vecResult (harith .sub), next_vecResult (harith .mul),
        next_vecResult (harith .fma), next_vecResult (harith .fnma), next_vecResult fun i => (horder i).1,
        next_vecResult fun i => (horder i).2, next_vecResult fun i => (hsign i).1, next_vecResult fun i => (hsign i).2⟩

end Sys2Proof
end

section
namespace Sys2Proof

open Machine

/-! ## Conversions (R107) -/

theorem Machine.clampInt_eq {lo hi x : Int} (h : lo ≤ hi) : clampInt lo hi x = max lo (min hi x) := by
  unfold clampInt
  split
  · omega
  · split <;> omega

theorem Machine.intRange_le (nat : Bool) (w : Nat) : (intRange nat w).1 ≤ (intRange nat w).2 := by
  have hone : (1 : Int) ≤ 2 ^ (w - 1) := one_le_pow₀ one_le_two
  have htwo : (1 : Int) ≤ 2 ^ w := one_le_pow₀ one_le_two
  cases nat <;> simp only [intRange, Bool.false_eq_true, if_false, if_true] <;> omega

/-- The ends of a range, as R84 names them. -/
theorem Machine.intRange_eq (nat : Bool) (w : Nat) :
    intRange nat w = (if nat = true then 0 else -2 ^ (w - 1), if nat = true then 2 ^ w - 1 else 2 ^ (w - 1) - 1) := by
  cases nat <;> rfl

/-- A finite float becomes the integer that its mode rounds it to, or the end of the range next to it. -/
theorem Machine.toIntElem_fin (r : RMode) (nat : Bool) (w : Nat) (neg : Bool) (m : Nat) (e : Int) :
    let lo := (intRange nat w).1
    let hi := (intRange nat w).2
    ∃ n : Nat, Spec.Rounded r neg ((m : ℝ) * 2 ^ e) n ∧
      let x := signedMant neg n
      (lo ≤ x → x ≤ hi → toIntElem r nat w (.fin neg m e) = (x, if (n : ℚ) = m * 2 ^ e then 0 else flagNX)) ∧
      (x < lo → toIntElem r nat w (.fin neg m e) = (lo, flagNV)) ∧
      (hi < x → toIntElem r nat w (.fin neg m e) = (hi, flagNV)) := by
  intro lo hi
  have hrange : lo ≤ hi := intRange_le nat w
  obtain ⟨hround, hexact⟩ := roundShift_rounds r neg m (-e)
  have hvalue : (m : ℝ) / 2 ^ (-e) = m * 2 ^ e := by rw [zpow_neg, div_inv_eq_mul]
  rw [hvalue] at hround hexact
  refine ⟨_, hround, ?_⟩
  intro x
  have hint : toIntElem r nat w (.fin neg m e) =
      if x < lo ∨ hi < x then (clampInt lo hi x, flagNV)
      else (x, if (roundShift r neg m (-e)).2 then flagNX else 0) := by
    simp only [toIntElem, roundToInt, Bool.or_eq_true, decide_eq_true_eq]
    rfl
  have hnx : (roundShift r neg m (-e)).2 = true ↔ ¬((roundShift r neg m (-e)).1 : ℚ) = m * 2 ^ e := by
    rw [hexact, ne_eq, not_iff_not, ← Rat.cast_inj (α := ℝ)]
    push_cast
    rfl
  rw [hint, clampInt_eq hrange]
  refine ⟨fun h1 h2 => ?_, fun h => ?_, fun h => ?_⟩
  · rw [if_neg (by omega)]
    simp only [hnx, ite_not]
  · rw [if_pos (.inl h)]
    congr 1
    omega
  · rw [if_pos (.inr h)]
    congr 1
    omega

/-- Integers between types (R107): the value is kept, or cut to a range that may not hold it. -/
theorem Machine.vConvert_int (r : RMode) (nat : Bool) (w : Nat) (sn : Bool) (sw c : Nat) :
    let x := readInt sn sw c
    let lo := (intRange nat w).1
    let hi := (intRange nat w).2
    (sw < w ∨ sw = w ∧ sn = nat → vConvert r (.int nat w) (.int sn sw) c = (wrapInt w x, 0)) ∧
      (w < sw ∨ sw = w ∧ sn ≠ nat → vConvert r (.int nat w) (.int sn sw) c = (wrapInt w (max lo (min hi x)), 0)) := by
  intro x lo hi
  refine ⟨fun h => if_neg ?_, fun h => ?_⟩
  · rintro (hlt | ⟨rfl, hne⟩)
    · omega
    · exact hne (h.resolve_left (lt_irrefl _)).2
  · rw [← clampInt_eq (intRange_le nat w)]
    exact if_pos (h.imp_right fun h => ⟨h.1.symm, h.2⟩)

/-! ## The forms of the conversions, scales and function units (R106, R108, R110) -/

theorem exec_vcvt_of_calm {s : State} (hs : Spec.Calm s) (h : Head) (f : CvtForm) (d a : VReg) :
    let q := s.mguard h
    let dt := (cvtTypes s.regs f).1
    let st := (cvtTypes s.regs f).2
    let lane (i : Nat) : Lane :=
      if q.getLsbD (dt.width * i / 8) = true ∧ i < min (2048 / st.width) (2048 / dt.width) then
        vConvert s.rmode dt st (elem st.width (s.vreg a) i) else (0, 0)
    let l := (List.range (2048 / dt.width)).map lane
    exec (.vcvt h f d a) s = .next (s.result 4 (.v d) (ofElems dt.width (l.map Prod.fst))
      (elemMask (max 8 dt.width) q) (laneFlags l)) := by
  intro q dt st lane l
  have hlane : lane = fun i =>
      if (q.getLsbD (dt.width * i / 8) && decide (i < min (2048 / st.width) (2048 / dt.width))) = true then
        vConvert s.rmode dt st (elem st.width (s.vreg a) i) else (0, 0) := by
    simp only [lane, Bool.and_eq_true, decide_eq_true_eq]
  simp only [l, hlane]
  exact next_perform hs rfl

/-- The scale of an element is the signed byte of its group, or of the scalar. -/
theorem exec_vscale_eq (h : Head) (t : FTy) (d a : VReg) (s : State) :
    let f := ftyFmt t
    let x (i : Nat) := elem f.bits (s.vreg a) i
    (∀ r, exec (.vscale h t d a (.vec r)) s = .next (s.vecResult h 4 d f.bits
      fun i => vScale f s.rmode (x i) ((s.vreg r).extractLsb' (8 * (i / 32)) 8).toInt)) ∧
    (∀ r, exec (.vscale h t d a (.scal r)) s = .next (s.vecResult h 4 d f.bits
      fun i => vScale f s.rmode (x i) ((s.sreg (r.setWidth 6)).extractLsb' 0 8).toInt)) := by
  intro f x
  refine ⟨fun r => rfl, fun r => ?_⟩
  rw [← BitVec.setWidth_eq_extractLsb' (by decide)]
  rfl

/-- The code of an infinity (R87). -/
theorem Machine.Fmt.Ieee.unpack_infinity {f : Fmt} (hf : f.Ieee) (neg : Bool) :
    f.unpack ((if neg = true then 2 ^ (f.e + f.m) else 0) + (2 ^ f.e - 1) * 2 ^ f.m) = .inf neg := by
  have hlt : (2 ^ f.e - 1) * 2 ^ f.m < 2 ^ (f.e + f.m) := by
    rw [pow_add]
    exact Nat.mul_lt_mul_of_pos_right (Nat.sub_one_lt (by positivity)) (by positivity)
  have hmag : ((if neg = true then 2 ^ (f.e + f.m) else 0) + (2 ^ f.e - 1) * 2 ^ f.m) % 2 ^ (f.e + f.m) =
      (2 ^ f.e - 1) * 2 ^ f.m := by
    cases neg <;> simp [Nat.mod_eq_of_lt hlt]
  have hbit : ((if neg = true then 2 ^ (f.e + f.m) else 0) + (2 ^ f.e - 1) * 2 ^ f.m).testBit (f.e + f.m) = neg := by
    cases neg <;> simp [Nat.testBit_two_pow_add_eq, Nat.testBit_lt_two_pow hlt]
  obtain ⟨-, hieee⟩ := f.unpack_special
    ((if neg = true then 2 ^ (f.e + f.m) else 0) + (2 ^ f.e - 1) * 2 ^ f.m)
  rw [hmag] at hieee
  rw [hieee hf.specials (Nat.mul_div_cancel _ (by positivity)),
    if_pos ⟨hf.mant_ne_zero, Nat.mul_mod_left _ _⟩, hbit, hf.signed, Bool.true_and]

/-- An infinity is kept by a rounding into an IEEE format (R93). -/
theorem Machine.Fmt.Ieee.unpack_pack_inf {f : Fmt} (hf : f.Ieee) (r : RMode) (neg : Bool) :
    f.unpack (f.pack r (.inf neg)).1 = .inf neg ∧ (f.pack r (.inf neg)).2 = 0 := by
  have hs : neg = true → f.s = true := fun _ => hf.signed
  obtain ⟨-, hhas⟩ := f.pack_inf r neg
  rw [(hhas hs).1 ⟨hf.specials, hf.mant_ne_zero⟩, f.signCode_eq hs]
  exact ⟨hf.unpack_infinity neg, rfl⟩

/-- A scaled NaN or infinity stays one (R108). -/
theorem Machine.Fmt.Ieee.vScale_special {f : Fmt} (hf : f.Ieee) (r : RMode) (c : Nat) (x : Int) :
    let v := f.unpack c
    (v.isNan = true → vScale f r c x =
      ((2 ^ f.e - 1) * 2 ^ f.m + 2 ^ (f.m - 1), if v.isSnan = true then flagNV else 0)) ∧
    (∀ neg, v = .inf neg → f.unpack (vScale f r c x).1 = v ∧ (vScale f r c x).2 = 0) ∧
    (∀ neg m e, v = .fin neg m e → vScale f r c x = f.pack r (.fin neg m (e + x))) := by
  intro v
  refine ⟨fun hnan => ?_, fun neg hv => ?_, fun neg m e hv => ?_⟩
  · obtain ⟨b, hv⟩ := Num.exists_eq_nan hnan
    simp only [vScale, v, show f.unpack c = .nan b from hv, hf.getD_nanCode]
    rfl
  · simp only [vScale, v, show f.unpack c = .inf neg from hv]
    exact hf.unpack_pack_inf r neg
  · simp only [vScale, show f.unpack c = .fin neg m e from hv]

/-! ## The identities of the reductions (R109) -/

theorem Machine.vredIdentity_of_float {t : VTy} {f : Fmt} (ht : vtyFloat t = some f) :
    f.unpack (vredIdentity .max t) = .inf true ∧ f.unpack (vredIdentity .min t) = .inf false := by
  have hf := Fmt.Ieee.of_vtyFloat ht
  have hinf : f.infCode.getD 0 = (2 ^ f.e - 1) * 2 ^ f.m := by
    rw [f.infCode_eq.1 ⟨hf.specials, hf.mant_ne_zero⟩, Option.getD_some]
  have hmax := hf.unpack_infinity true
  have hmin := hf.unpack_infinity false
  rw [if_pos rfl, add_comm] at hmax
  rw [if_neg Bool.false_ne_true, zero_add] at hmin
  simp only [vredIdentity, ht, hinf]
  exact ⟨hmax, hmin⟩

theorem Machine.wrapInt_lt (w : Nat) (x : Int) : wrapInt w x < 2 ^ w := by
  rw [wrapInt, Int.toNat_lt (Int.emod_nonneg _ (by positivity))]
  exact_mod_cast Int.emod_lt_of_pos x (by positivity)

/-- An integer in the range of a reading is read back from its element (R84). -/
theorem Machine.readInt_wrapInt (nat : Bool) {w : Nat} (hw : 0 < w) {x : Int} (hlo : (intRange nat w).1 ≤ x)
    (hhi : x ≤ (intRange nat w).2) : readInt nat w (wrapInt w x) = x := by
  cases nat with
  | true =>
    simp only [intRange, if_true] at hlo hhi
    rw [readInt, if_pos rfl, wrapInt, Int.emod_eq_of_lt hlo (by omega), Int.toNat_of_nonneg hlo]
  | false =>
    simp only [intRange, Bool.false_eq_true, if_false] at hlo hhi
    have hcode : BitVec.ofNat w (wrapInt w x) = BitVec.ofInt w x := BitVec.eq_of_toNat_eq <| by
      rw [BitVec.toNat_ofNat, Nat.mod_eq_of_lt (wrapInt_lt w x), BitVec.toNat_ofInt, wrapInt]
      push_cast
      rfl
    rw [readInt, if_neg Bool.false_ne_true, hcode, BitVec.toInt_ofInt_eq_self hw hlo (by omega)]

theorem Machine.readInt_mem_intRange (nat : Bool) {w : Nat} {c : Nat} (hc : c < 2 ^ w) :
    (intRange nat w).1 ≤ readInt nat w c ∧ readInt nat w c ≤ (intRange nat w).2 := by
  cases nat with
  | true =>
    simp only [intRange, readInt, if_true]
    have : (c : Int) < 2 ^ w := by exact_mod_cast hc
    omega
  | false =>
    simp only [intRange, readInt, Bool.false_eq_true, if_false]
    exact ⟨BitVec.le_toInt _, Int.le_sub_one_of_lt BitVec.toInt_lt⟩

/-- The identities of an integer maximum and minimum are the ends of the range (R109). -/
theorem Machine.readInt_vredIdentity {t : VTy} (ht : vtyFloat t = none) {c : Nat} (hc : c < 2 ^ vtyBits t) :
    readInt (vtyNat t) (vtyBits t) (vredIdentity .max t) ≤ readInt (vtyNat t) (vtyBits t) c ∧
      readInt (vtyNat t) (vtyBits t) c ≤ readInt (vtyNat t) (vtyBits t) (vredIdentity .min t) := by
  have hw : 0 < vtyBits t := by cases t <;> decide
  have hle := intRange_le (vtyNat t) (vtyBits t)
  simp only [vredIdentity, ht, readInt_wrapInt _ hw le_rfl hle, readInt_wrapInt _ hw hle le_rfl]
  exact readInt_mem_intRange _ hc

end Sys2Proof
end

section
namespace Sys2Proof

open Machine

/-! ## Values that round alike (R90)

A function unit stands for an irrational value by one half a unit above the whole number below it. Every boundary of the
rounding is a whole number of that unit, so the two values round alike. -/

/-- A value lies strictly between two successive multiples of a power of two. -/
def InCell (Q : Nat) (E : Int) (x : ℝ) : Prop := (Q : ℝ) * 2 ^ E < x ∧ x < (Q + 1) * 2 ^ E

section
variable {Q : Nat} {E q : Int} {x y : ℝ} (hx : InCell Q E x) (hy : InCell Q E y)
include hx hy

/-- A multiple of a higher power of two lies on the same side of the values of a cell. -/
theorem InCell.lt_of_le (hq : E ≤ q) {c : Int} (h : (c : ℝ) * 2 ^ q ≤ x) : (c : ℝ) * 2 ^ q < y := by
  have hpos : (0 : ℝ) < 2 ^ E := by positivity
  have hmul : (c : ℝ) * 2 ^ q = (c * 2 ^ (q - E).toNat : Int) * 2 ^ E := by
    push_cast
    rw [mul_assoc, ← zpow_natCast, Int.toNat_of_nonneg (sub_nonneg.mpr hq), ← zpow_add₀ two_ne_zero, sub_add_cancel]
  rw [hmul] at h ⊢
  have hlt := lt_of_mul_lt_mul_right (h.trans_lt hx.2) hpos.le
  have hle : c * 2 ^ (q - E).toNat ≤ Q := Int.lt_add_one_iff.mp (by exact_mod_cast hlt)
  exact (mul_le_mul_of_nonneg_right (by exact_mod_cast hle) hpos.le).trans_lt hy.1

theorem InCell.gt_of_ge (hq : E ≤ q) {c : Int} (h : x ≤ (c : ℝ) * 2 ^ q) : y < (c : ℝ) * 2 ^ q := by
  by_contra hge
  exact (hy.lt_of_le hx hq (not_lt.mp hge)).not_ge h

theorem InCell.log_eq (hQ : Q ≠ 0) : Int.log 2 x = Int.log 2 y := by
  have hone : (1 : ℝ) ≤ Q := mod_cast Nat.one_le_iff_ne_zero.mpr hQ
  have hpos : (0 : ℝ) < 2 ^ E := by positivity
  have hle : ∀ {z}, InCell Q E z → (2 : ℝ) ^ E < z := fun hz => by nlinarith [hz.1]
  have hside : ∀ {u v}, InCell Q E u → InCell Q E v → ∀ p : Int, (2 : ℝ) ^ p ≤ u → (2 : ℝ) ^ p ≤ v := by
    intro u v hu hv p hp
    rcases le_total E p with hEp | hpE
    · have h := hu.lt_of_le hv hEp (c := 1) (by simpa using hp)
      simpa using h.le
    · exact (zpow_le_zpow_right₀ one_le_two hpE).trans (hle hv).le
  refine eq_of_forall_le_iff fun p => ?_
  rw [← Int.zpow_le_iff_le_log one_lt_two (hpos.trans (hle hx)),
    ← Int.zpow_le_iff_le_log one_lt_two (hpos.trans (hle hy))]
  exact ⟨by simpa using hside hx hy p, by simpa using hside hy hx p⟩

/-- Nearest-even rounding at a place above the cell's takes its values to the same number. -/
theorem InCell.rounded (hq : E < q) {neg : Bool} {n : Nat} (h : Spec.Rounded .nearest neg (x / 2 ^ q) n) :
    Spec.Rounded .nearest neg (y / 2 ^ q) n := by
  have hpos : (0 : ℝ) < 2 ^ (q - 1) := by positivity
  have hplace : (2 : ℝ) ^ q = 2 * 2 ^ (q - 1) := by
    rw [← zpow_one_add₀ two_ne_zero, add_sub_cancel]
  obtain ⟨hlo, hhi⟩ := abs_le.mp h.1
  rw [hplace] at hlo hhi ⊢
  have hscale : ∀ z : ℝ, z / (2 * 2 ^ (q - 1)) = z / 2 ^ (q - 1) / 2 := fun z => by rw [div_div, mul_comm]
  rw [hscale] at hlo hhi
  have hlo' : ((2 * n - 1 : Int) : ℝ) * 2 ^ (q - 1) ≤ x := by
    rw [← le_div_iff₀ hpos]
    push_cast
    linarith
  have hhi' : x ≤ ((2 * n + 1 : Int) : ℝ) * 2 ^ (q - 1) := by
    rw [← div_le_iff₀ hpos]
    push_cast
    linarith
  have hylo := hx.lt_of_le hy (by omega) hlo'
  have hyhi := hx.gt_of_ge hy (by omega) hhi'
  rw [← lt_div_iff₀ hpos] at hylo
  rw [← div_lt_iff₀ hpos] at hyhi
  push_cast at hylo hyhi
  have habs : |y / (2 * 2 ^ (q - 1)) - n| < 1 / 2 := by
    rw [hscale, abs_lt]
    constructor <;> linarith
  exact ⟨habs.le, fun heq => absurd heq habs.ne⟩

/-- The values of a cell below the rounded place have one rounding into a format. -/
theorem InCell.roundsTo {f : Fmt} (he : f.e ≠ 0) (hQ : 2 ^ (f.m + 1) ≤ Q) {neg : Bool} {l : Lane}
    (h : Spec.RoundsTo f .nearest neg x l) : Spec.RoundsTo f .nearest neg y l := by
  have hlog := hx.log_eq hy (lt_of_lt_of_le (by positivity) hQ).ne'
  have hlead : E + (f.m + 1) ≤ Int.log 2 y := by
    refine (Int.zpow_le_iff_le_log one_lt_two ?_).mp ?_
    · exact lt_of_le_of_lt (by positivity) hy.1
    · rw [Nat.cast_ofNat, zpow_add₀ two_ne_zero, mul_comm]
      refine le_trans ?_ hy.1.le
      gcongr
      exact_mod_cast hQ
  obtain ⟨n, k, hn, hk, hfit, hover, hnx, hof, huf, hdz, hnv⟩ := h
  rw [hlog] at hn hk hnx hof huf hfit hover
  simp only [if_neg he] at hn hk hnx hof huf hfit hover
  have hplace : E < max (Int.log 2 y - f.m) (1 - f.bias - f.m) := lt_max_of_lt_left (by omega)
  have hne : ∀ {z}, InCell Q E z → (n : ℝ) * 2 ^ max (Int.log 2 y - f.m) (1 - f.bias - f.m) ≠ z := fun hz heq =>
    (hz.lt_of_le hz hplace.le (c := n) (by exact_mod_cast heq.le)).ne (by exact_mod_cast heq)
  refine ⟨n, k, ?_, hx.rounded hy (by omega) hk, ?_⟩
  · simp only [if_neg he]
    exact hx.rounded hy hplace hn
  · simp only [if_neg he]
    refine ⟨hfit, hover, ?_, hof, ?_, hdz, hnv⟩
    · rw [hnx]
      exact or_congr_left (iff_of_true (hne hx) (hne hy))
    · rw [huf]
      exact and_congr_left fun _ => iff_of_true (hne hx) (hne hy)

end

end Sys2Proof
end

section
namespace Sys2Proof

open Machine

/-! ## Reciprocals (R110) -/

section
variable {f : Fmt} (hf : f.Wide) (hi : f.Ieee)
include hf hi

/-- A nonzero value rounded into an IEEE format (R90, R91). -/
theorem Machine.Fmt.Ieee.roundsTo_fin (neg : Bool) {m : Nat} (hm : m ≠ 0) {e : Int} {x : ℝ} (hx : (m : ℝ) * 2 ^ e = x) :
    Spec.RoundsTo f .nearest neg x (f.pack .nearest (.fin neg m e)) :=
  hx ▸ hf.roundsTo_pack .nearest (fun _ => hi.signed) hm e

/-- The value that stands for a cell rounds as every value in it. -/
theorem Machine.Fmt.Ieee.roundsTo_between (neg : Bool) {Q : Nat} {E : Int} (hQ : 2 ^ (f.m + 1) ≤ Q) {x : ℝ}
    (hx : InCell Q E x) : Spec.RoundsTo f .nearest neg x (f.pack .nearest (between neg Q E)) := by
  have hsplit : (2 : ℝ) ^ E = 2 * 2 ^ (E - 1) := by rw [← zpow_one_add₀ two_ne_zero, add_sub_cancel]
  have hpos : (0 : ℝ) < 2 ^ (E - 1) := by positivity
  have hmid : InCell Q E ((2 * Q + 1 : Nat) * 2 ^ (E - 1)) := by
    rw [InCell, hsplit]
    push_cast
    constructor <;> nlinarith
  exact hmid.roundsTo hx hi.exp_ne_zero hQ (roundsTo_fin hf hi neg (Nat.succ_ne_zero _) rfl)

/-- A quotient of a power of two with enough bits, and its remainder, round to the exact reciprocal. -/
theorem Machine.Fmt.Ieee.roundsTo_quotient (neg : Bool) {m k : Nat} (hm : m ≠ 0) (e : Int)
    (hQ : 2 ^ (f.m + 1) ≤ 2 ^ k / m) :
    Spec.RoundsTo f .nearest neg (1 / ((m : ℝ) * 2 ^ e)) (f.pack .nearest
      (if 2 ^ k % m = 0 then .fin neg (2 ^ k / m) (-(k : Int) - e) else between neg (2 ^ k / m) (-(k : Int) - e))) := by
  have hmr : (0 : ℝ) < m := by exact_mod_cast Nat.pos_of_ne_zero hm
  have hx : (1 : ℝ) / (m * 2 ^ e) = 2 ^ k / m * 2 ^ (-(k : Int) - e) := by
    rw [zpow_sub₀ two_ne_zero, zpow_neg, zpow_natCast]
    field_simp
  split
  · next hdvd =>
    refine roundsTo_fin hf hi neg (lt_of_lt_of_le (by positivity) hQ).ne' ?_
    rw [hx, Nat.cast_div (Nat.dvd_of_mod_eq_zero hdvd) hmr.ne']
    push_cast
    rfl
  · next hrem =>
    have hdiv := Nat.div_add_mod (2 ^ k) m
    have hlt := Nat.mod_lt (2 ^ k) (Nat.pos_of_ne_zero hm)
    refine roundsTo_between hf hi neg hQ ⟨?_, ?_⟩
    all_goals
      rw [hx]
      refine mul_lt_mul_of_pos_right ?_ (by positivity)
    · rw [lt_div_iff₀ hmr, mul_comm]
      exact_mod_cast (by omega : m * (2 ^ k / m) < 2 ^ k)
    · rw [div_lt_iff₀ hmr, mul_comm]
      exact_mod_cast (by rw [mul_add, mul_one]; omega : 2 ^ k < m * (2 ^ k / m + 1))

/-- A quotient formed to 64 places more than its divisor has bits rounds to the exact reciprocal. -/
theorem Machine.Fmt.Ieee.roundsTo_recip (hp : f.m + 1 ≤ 64) (neg : Bool) {m : Nat} (hm : m ≠ 0) (e : Int) :
    Spec.RoundsTo f .nearest neg (1 / ((m : ℝ) * 2 ^ e)) (f.pack .nearest (recip neg m e)) := by
  have hQ : 2 ^ (f.m + 1) ≤ 2 ^ (bitLength m + 64) / m := by
    rw [Nat.le_div_iff_mul_le (Nat.pos_of_ne_zero hm), pow_add 2 (bitLength m), mul_comm]
    exact Nat.mul_le_mul (lt_two_pow_bitLength m).le (pow_le_pow_right₀ one_le_two hp)
  simp only [recip]
  generalize bitLength m + 64 = k at hQ ⊢
  exact roundsTo_quotient hf hi neg hm e hQ

end

/-! ## Square roots (R110) -/

theorem Machine.isqrtAux_spec (n k acc : Nat) (hlo : acc * acc ≤ n) (hhi : n < (acc + 2 ^ k) * (acc + 2 ^ k)) :
    isqrtAux n k acc * isqrtAux n k acc ≤ n ∧ n < (isqrtAux n k acc + 1) * (isqrtAux n k acc + 1) := by
  induction k generalizing acc with
  | zero => exact ⟨hlo, hhi⟩
  | succ k ih =>
    simp only [isqrtAux]
    split
    · next h => exact ih _ h (by rw [add_assoc, ← two_mul, ← pow_succ']; exact hhi)
    · next h => exact ih _ hlo (not_le.mp h)

/-- The root found bit by bit is the whole root. -/
theorem Machine.isqrt_eq_sqrt (n : Nat) : isqrt n = Nat.sqrt n := by
  have hbound : n < (0 + 2 ^ (bitLength n / 2 + 1)) * (0 + 2 ^ (bitLength n / 2 + 1)) := by
    rw [zero_add, ← pow_add]
    exact (lt_two_pow_bitLength n).trans_le (Nat.pow_le_pow_right two_pos (by omega))
  obtain ⟨hlo, hhi⟩ := isqrtAux_spec n _ 0 (Nat.zero_le n) hbound
  exact Nat.eq_sqrt.mpr ⟨hlo, hhi⟩

section
variable {f : Fmt} (hf : f.Wide) (hi : f.Ieee)
include hf hi

/-- The whole root of a quotient with enough bits, and whether it is exact, round to the exact inverse root. -/
theorem Machine.Fmt.Ieee.roundsTo_root {m k : Nat} (hm : m ≠ 0) (g : Int)
    (hQ : 2 ^ (f.m + 1) ≤ isqrt (2 ^ (2 * k) / m)) :
    let q := isqrt (2 ^ (2 * k) / m)
    Spec.RoundsTo f .nearest false (1 / Real.sqrt ((m : ℝ) * 2 ^ (2 * g))) (f.pack .nearest
      (if q * q * m = 2 ^ (2 * k) then .fin false q (-(k : Int) - g) else between false q (-(k : Int) - g))) := by
  intro q
  have hmr : (0 : ℝ) < m := by exact_mod_cast Nat.pos_of_ne_zero hm
  have hroot : 0 < √(m : ℝ) := Real.sqrt_pos.mpr hmr
  have hsquare : √(m : ℝ) ^ 2 = m := Real.sq_sqrt hmr.le
  have hx : 1 / √((m : ℝ) * 2 ^ (2 * g)) = 2 ^ k / √(m : ℝ) * 2 ^ (-(k : Int) - g) := by
    rw [Real.sqrt_mul hmr.le, two_mul, zpow_add₀ two_ne_zero, Real.sqrt_mul_self (by positivity), zpow_sub₀ two_ne_zero,
      zpow_neg, zpow_natCast]
    field_simp
  obtain ⟨hlo, hhi⟩ := Nat.eq_sqrt.mp (isqrt_eq_sqrt (2 ^ (2 * k) / m))
  rw [Nat.le_div_iff_mul_le (Nat.pos_of_ne_zero hm)] at hlo
  rw [Nat.div_lt_iff_lt_mul (Nat.pos_of_ne_zero hm)] at hhi
  have hsq : ∀ n : Nat, ((n : ℝ) * √(m : ℝ)) ^ 2 = (n * n * m : Nat) := fun n => by
    rw [mul_pow, hsquare]
    push_cast
    ring
  have hpow : ((2 : ℝ) ^ k) ^ 2 = (2 ^ (2 * k) : Nat) := by
    push_cast
    ring
  split
  · next hexact =>
    refine roundsTo_fin hf hi false (lt_of_lt_of_le (by positivity) hQ).ne' ?_
    rw [hx]
    congr 1
    rw [eq_div_iff hroot.ne', ← pow_left_inj₀ (by positivity) (by positivity) two_ne_zero, hsq, hpow, hexact]
  · next hinexact =>
    refine roundsTo_between hf hi false hQ ⟨?_, ?_⟩
    all_goals
      rw [hx]
      refine mul_lt_mul_of_pos_right ?_ (by positivity)
    · rw [lt_div_iff₀ hroot, ← pow_lt_pow_iff_left₀ (by positivity) (by positivity) two_ne_zero, hsq, hpow]
      exact_mod_cast lt_of_le_of_ne hlo hinexact
    · rw [div_lt_iff₀ hroot, ← pow_lt_pow_iff_left₀ (by positivity) (by positivity) two_ne_zero, hpow,
        ← Nat.cast_add_one, hsq]
      exact_mod_cast hhi

/-- A root formed to 64 places more than its radicand has bits rounds to the exact inverse root. -/
theorem Machine.Fmt.Ieee.roundsTo_recipSqrt (hp : f.m + 1 ≤ 64) {m : Nat} (hm : m ≠ 0) (e : Int) :
    Spec.RoundsTo f .nearest false (1 / Real.sqrt ((m : ℝ) * 2 ^ e)) (f.pack .nearest (recipSqrt m e)) := by
  have heven : ∀ {n : Nat} (g : Int), n ≠ 0 → Spec.RoundsTo f .nearest false (1 / Real.sqrt ((n : ℝ) * 2 ^ (2 * g)))
      (f.pack .nearest (
        let k := bitLength n + 64
        let q := isqrt (2 ^ (2 * k) / n)
        if q * q * n = 2 ^ (2 * k) then .fin false q (-(k : Int) - g) else between false q (-(k : Int) - g))) := by
    intro n g hn
    have hQ : 2 ^ (f.m + 1) ≤ isqrt (2 ^ (2 * (bitLength n + 64)) / n) := by
      rw [isqrt_eq_sqrt, Nat.le_sqrt, Nat.le_div_iff_mul_le (Nat.pos_of_ne_zero hn), ← pow_add]
      calc 2 ^ (f.m + 1 + (f.m + 1)) * n ≤ 2 ^ (f.m + 1 + (f.m + 1)) * 2 ^ bitLength n :=
            Nat.mul_le_mul_left _ (lt_two_pow_bitLength n).le
        _ = 2 ^ (f.m + 1 + (f.m + 1) + bitLength n) := (pow_add ..).symm
        _ ≤ 2 ^ (2 * (bitLength n + 64)) := Nat.pow_le_pow_right two_pos (by omega)
    generalize bitLength n + 64 = k at hQ ⊢
    exact roundsTo_root hf hi hn g hQ
  have hhalf : ∀ g : Int, 2 * g / 2 = g := fun g => by omega
  rcases Int.emod_two_eq_zero_or_one e with hmod | hmod
  · obtain ⟨g, rfl⟩ : ∃ g, e = 2 * g := ⟨e / 2, by omega⟩
    simp only [recipSqrt, hmod, if_true, hhalf]
    exact heven g hm
  · obtain ⟨g, rfl⟩ : ∃ g, e = 2 * g + 1 := ⟨e / 2, by omega⟩
    have hval : (m : ℝ) * 2 ^ (2 * g + 1) = (2 * m : Nat) * 2 ^ (2 * g) := by
      rw [zpow_add_one₀ two_ne_zero]
      push_cast
      ring
    simp only [recipSqrt, hmod, one_ne_zero, if_false, add_sub_cancel_right, hhalf, hval]
    exact heven g (by omega)

end

end Sys2Proof
end

section
namespace Sys2Proof

open Machine

/-! ## Powers of two out of a format's range (R91, R93) -/

/-- A value below half the lowest place rounds to a zero of its sign, and underflows. -/
theorem Machine.Fmt.pack_of_tiny (f : Fmt) (neg : Bool) {m : Nat} (hm : m ≠ 0) {e : Int}
    (h : e + bitLength m < f.qmin) :
    f.pack .nearest (.fin neg m e) = (f.signCode neg, flagUF ||| flagNX) := by
  have hplace : f.place m e = f.qmin := by
    unfold Fmt.place
    split
    · rfl
    · exact max_eq_right (by omega)
  have hsmall : (m : ℝ) * 2 ^ e / 2 ^ f.place m e < 1 / 2 := by
    have hlt := (exponent_lt_iff hm e (f.qmin - 1)).mp (by omega)
    rw [hplace, div_lt_div_iff₀ (by positivity) two_pos, one_mul]
    calc (m : ℝ) * 2 ^ e * 2 < 2 ^ (f.qmin - 1) * 2 := by gcongr
      _ = 2 ^ f.qmin := by rw [← zpow_add_one₀ two_ne_zero, sub_add_cancel]
  have hzero : (f.rounded .nearest neg m e).1 = 0 := by
    obtain ⟨hround, -⟩ := f.rounded_rounds .nearest neg m e
    have hnear := (abs_le.mp hround.1).1
    exact Nat.lt_one_iff.mp (by exact_mod_cast (by linarith : ((f.rounded .nearest neg m e).1 : ℝ) < 1))
  obtain ⟨hinexact, htiny⟩ := f.underflows_of_rounded_zero .nearest neg hm e hzero
  rw [f.pack_fin .nearest neg hm, if_pos hzero, hinexact, htiny]
  rfl

/-- A power of two above the largest finite magnitude overflows. -/
theorem Machine.Fmt.pack_of_huge (f : Fmt) (he : f.e ≠ 0) {k : Int} (hlow : f.qmin ≤ k - f.m)
    (hhigh : (f.magValue f.maxMag).2 + bitLength (f.magValue f.maxMag).1 ≤ k) :
    f.pack .nearest (.fin false 1 k) = (f.overCode .nearest false, flagOF ||| flagNX) := by
  have hone : bitLength 1 = 1 := rfl
  have hplace : f.place 1 k = k - f.m := by
    rw [Fmt.place, if_neg he, hone, Nat.cast_one, add_sub_cancel_right, max_eq_left hlow]
  have hrounded : f.rounded .nearest false 1 k = (2 ^ f.m, false) := by
    rw [Fmt.rounded, hplace, show k - f.m - k = -(f.m : Int) by ring, roundShift, if_pos (by omega), neg_neg,
      Int.toNat_natCast, one_mul]
  have hlen : bitLength (2 ^ f.m) = f.m + 1 :=
    bitLength_eq_succ le_rfl (Nat.pow_lt_pow_right one_lt_two (Nat.lt_succ_self _))
  have habove : f.exceeds (2 ^ f.m) (k - f.m) = true := by
    have hexp : (f.magValue f.maxMag).2 + bitLength (f.magValue f.maxMag).1 < k - f.m + bitLength (2 ^ f.m) := by
      rw [hlen]
      push_cast
      omega
    simp only [Fmt.exceeds, if_neg (pow_ne_zero f.m two_ne_zero), if_pos hexp]
  rw [f.pack_fin_signed .nearest (by simp) one_ne_zero, hplace, hrounded, habove, Fmt.underflows, if_neg he, hrounded]
  simp [roundFlags]

/-- Where the formats of R83 under- and overflow, as far as the bounds of vexp2 ask. -/
theorem Machine.ftyFmt_bounds (t : FTy) :
    let f := ftyFmt t
    f.qmin ≤ 0 ∧ -150 < f.qmin ∧ f.m ≤ 23 ∧ (f.magValue f.maxMag).2 + bitLength (f.magValue f.maxMag).1 ≤ 128 := by
  cases t <;> decide

/-! ## Powers and logarithms (R110) -/

/-- A finite value that is an integer has its magnitude and its sign. -/
theorem Spec.natAbs_of_val {neg : Bool} {m : Nat} {e k : Int} (hv : Spec.val (.fin neg m e) = k) :
    (m : ℝ) * 2 ^ e = k.natAbs ∧ k = signedMant neg k.natAbs := by
  have hreal : (signedMant neg m : ℝ) * 2 ^ e = k := by
    rw [Spec.val, ← Rat.cast_inj (α := ℝ)] at hv
    push_cast at hv
    exact hv
  have hnonneg : (0 : ℝ) ≤ m * 2 ^ e := by positivity
  cases neg with
  | false =>
    simp only [signedMant, Bool.false_eq_true, if_false, Int.cast_natCast] at hreal ⊢
    have hk : 0 ≤ k := by exact_mod_cast hreal ▸ hnonneg
    refine ⟨?_, (Int.natAbs_of_nonneg hk).symm⟩
    rw [hreal, Nat.cast_natAbs, abs_of_nonneg hk]
  | true =>
    simp only [signedMant, if_true, Int.cast_neg, Int.cast_natCast, neg_mul] at hreal ⊢
    have hk : k ≤ 0 := by exact_mod_cast hreal ▸ neg_nonpos.mpr hnonneg
    refine ⟨?_, by omega⟩
    rw [Nat.cast_natAbs, abs_of_nonpos hk, Int.cast_neg, ← hreal, neg_neg]

/-- 2^x of an integer that the fixed-point form covers is exact. -/
theorem Machine.exp2Num_of_int {neg : Bool} {m : Nat} (hm : m ≠ 0) {e k : Int} (hv : Spec.val (.fin neg m e) = k)
    (hhigh : ¬14 < e + bitLength m - 1) (hlow : ¬e + bitLength m - 1 < -60) : exp2Num neg m e = .fin false 1 k := by
  have hx : signedMant neg (if e < 0 then m else m * 2 ^ e.toNat) = k * 2 ^ (-e).toNat := by
    rw [Spec.val] at hv
    split
    · next he =>
      obtain ⟨b, hb⟩ := Int.eq_ofNat_of_zero_le (show 0 ≤ -e by omega)
      obtain rfl : e = -(b : Int) := by omega
      rw [zpow_neg, zpow_natCast, ← div_eq_mul_inv, div_eq_iff (by positivity)] at hv
      rw [neg_neg, Int.toNat_natCast]
      exact_mod_cast hv
    · next he =>
      obtain ⟨b, rfl⟩ := Int.eq_ofNat_of_zero_le (not_lt.mp he)
      rw [zpow_natCast] at hv
      rw [Int.toNat_natCast, show (-(b : Int)).toNat = 0 by omega, pow_zero, mul_one]
      have hscale : signedMant neg (m * 2 ^ b) = signedMant neg m * 2 ^ b := by
        cases neg <;> simp [signedMant]
      rw [hscale]
      exact_mod_cast hv
  have hpow : (2 : Int) ^ (-e).toNat ≠ 0 := by positivity
  simp only [exp2Num, if_neg hm, gt_iff_lt, if_neg hhigh, if_neg hlow, hx, Int.mul_emod_left, Int.toNat_zero, if_true,
    Int.mul_ediv_cancel _ hpow]

/-- 2^x of an integer rounds as that power of two, also where it lies out of the format's range. -/
theorem Machine.pack_exp2Num (t : FTy) {neg : Bool} {m : Nat} (hm : m ≠ 0) {e k : Int}
    (hv : Spec.val (.fin neg m e) = k) :
    (ftyFmt t).pack .nearest (exp2Num neg m e) = (ftyFmt t).pack .nearest (.fin false 1 k) := by
  obtain ⟨hqmin, hqmin', hbits, hmax⟩ := ftyFmt_bounds t
  have he := (ftyFmt_ieee t).exp_ne_zero
  obtain ⟨hmag, hsign⟩ := Spec.natAbs_of_val hv
  have hexp : ∀ p : Int, e + bitLength m - 1 < p ↔ (k.natAbs : ℝ) < 2 ^ p := fun p => by rw [exponent_lt_iff hm, hmag]
  by_cases hhigh : 14 < e + bitLength m - 1
  · have hlarge : 2 ^ 15 ≤ k.natAbs := by
      have := mt (hexp 15).mpr (by omega)
      exact_mod_cast not_lt.mp this
    cases neg with
    | false =>
      simp only [signedMant, Bool.false_eq_true, if_false] at hsign
      have hnum : exp2Num false m e = .fin false 1 40000 := by
        simp only [exp2Num, if_neg hm, gt_iff_lt, if_pos hhigh, Bool.false_eq_true, if_false]
      rw [hnum, Fmt.pack_of_huge _ he (by omega) (by omega), Fmt.pack_of_huge _ he (by omega) (by omega)]
    | true =>
      simp only [signedMant, if_true] at hsign
      have hnum : exp2Num true m e = .fin false 3 (-40001) := by
        simp only [exp2Num, if_neg hm, gt_iff_lt, if_pos hhigh, if_true]
        rfl
      have hthree : bitLength 3 = 2 := by decide
      have hone : bitLength 1 = 1 := by decide
      rw [hnum, Fmt.pack_of_tiny _ _ (by decide) (by rw [hthree]; omega),
        Fmt.pack_of_tiny _ _ (by decide) (by rw [hone]; omega)]
  · by_cases hlow : e + bitLength m - 1 < -60
    · have hsmall := (hexp (-60)).mp hlow
      have hone : (2 : ℝ) ^ (-60 : Int) < 1 := zpow_lt_one_of_neg₀ one_lt_two (by decide)
      have hzero : k.natAbs = 0 := Nat.lt_one_iff.mp (by exact_mod_cast hsmall.trans hone)
      rw [hzero, Nat.cast_zero] at hmag
      exact absurd hmag (by positivity)
    · rw [exp2Num_of_int hm hv hhigh hlow]

/-- log2 of a power of two is its exponent, exactly. -/
theorem Machine.log2Num_of_power {m : Nat} {e k : Int} (h : (m : ℚ) * 2 ^ e = 2 ^ k) :
    log2Num m e = numOf k 0 false := by
  have hm : m ≠ 0 := by
    rintro rfl
    rw [Nat.cast_zero, zero_mul] at h
    exact (zpow_ne_zero k two_ne_zero) h.symm
  have hreal : (m : ℝ) * 2 ^ e = 2 ^ k := by
    rw [← Rat.cast_inj (α := ℝ)] at h
    push_cast at h
    exact h
  have hlead : e + bitLength m - 1 = k := by
    rw [← log_mul_zpow hm e, hreal]
    simpa using Int.log_zpow (R := ℝ) one_lt_two k
  have hpos := bitLength_pos hm
  have hpow : m = 2 ^ (bitLength m - 1) := by
    have hdiv : (m : ℝ) = 2 ^ (k - e) := by
      rw [zpow_sub₀ two_ne_zero, ← hreal, mul_div_assoc, div_self (by positivity), mul_one]
    rw [show k - e = ((bitLength m - 1 : Nat) : Int) by omega, zpow_natCast] at hdiv
    exact_mod_cast hdiv
  have hexp : e + ((bitLength m - 1 : Nat) : Int) = k := by omega
  simp only [log2Num, if_pos hpow, hexp]

/-! ## The function units (R110) -/

theorem Machine.vUnit_eq_pack {u : UnitFn} {f : Fmt} {c : Nat} {v : Machine.Num} (h : unitFn u (f.unpack c) = (v, 0)) :
    vUnit u f c = f.pack .nearest v := by
  rw [vUnit, h, roundLane]
  simp only [BitVec.ofNat_eq_ofNat, BitVec.or_zero]

/-- Reciprocals and inverse roots are correctly rounded. -/
theorem Machine.vUnit_reciprocals (t : FTy) {c : Nat} {neg : Bool} {m : Nat} {e : Int}
    (hv : (ftyFmt t).unpack c = .fin neg m e) (hm : m ≠ 0) :
    Spec.RoundsTo (ftyFmt t) .nearest neg (1 / ((m : ℝ) * 2 ^ e)) (vUnit .rcp (ftyFmt t) c) ∧
      (neg = false →
        Spec.RoundsTo (ftyFmt t) .nearest false (1 / Real.sqrt ((m : ℝ) * 2 ^ e)) (vUnit .rsq (ftyFmt t) c)) := by
  have hf : (ftyFmt t).Wide := Spec.IsFormat.wide (.inl ⟨t, rfl⟩)
  have hi := ftyFmt_ieee t
  obtain ⟨-, -, hbits, -⟩ := ftyFmt_bounds t
  have hrcp : unitFn .rcp ((ftyFmt t).unpack c) = (recip neg m e, 0) := by rw [hv]; exact if_neg hm
  refine ⟨?_, fun hneg => ?_⟩
  · rw [vUnit_eq_pack hrcp]
    exact hi.roundsTo_recip hf (by omega) neg hm e
  · have hrsq : unitFn .rsq ((ftyFmt t).unpack c) = (recipSqrt m e, 0) := by rw [hv, hneg]; exact if_neg hm
    rw [vUnit_eq_pack hrsq]
    exact hi.roundsTo_recipSqrt hf (by omega) hm e

/-- Powers of two with an integer exponent are correctly rounded. -/
theorem Machine.vUnit_exp2_of_int (t : FTy) {c : Nat} {neg : Bool} {m : Nat} {e k : Int}
    (hv : (ftyFmt t).unpack c = .fin neg m e) (hk : Spec.val ((ftyFmt t).unpack c) = k) :
    Spec.RoundsTo (ftyFmt t) .nearest false ((2 : ℝ) ^ k) (vUnit .exp2 (ftyFmt t) c) := by
  have hf : (ftyFmt t).Wide := Spec.IsFormat.wide (.inl ⟨t, rfl⟩)
  have hpack : vUnit .exp2 (ftyFmt t) c = (ftyFmt t).pack .nearest (.fin false 1 k) := by
    rw [hv] at hk
    by_cases hm : m = 0
    · have hzero : k = 0 := by
        rw [Spec.val, hm] at hk
        simpa [signedMant] using hk.symm
      refine vUnit_eq_pack ?_
      rw [hv, hzero]
      exact if_pos hm
    · rw [← pack_exp2Num t hm hk]
      refine vUnit_eq_pack ?_
      rw [hv]
      exact if_neg hm
  rw [hpack]
  exact (ftyFmt_ieee t).roundsTo_fin hf false one_ne_zero (by rw [Nat.cast_one, one_mul])

/-- Logarithms of powers of two are correctly rounded. -/
theorem Machine.vUnit_log2_of_power (t : FTy) {c m : Nat} {e k : Int}
    (hv : (ftyFmt t).unpack c = .fin false m e) (hk : (m : ℚ) * 2 ^ e = 2 ^ k) :
    (k = 0 → vUnit .log2 (ftyFmt t) c = (0, 0)) ∧
      (k ≠ 0 → Spec.RoundsTo (ftyFmt t) .nearest (decide (k < 0)) (k.natAbs : ℝ) (vUnit .log2 (ftyFmt t) c)) := by
  have hf : (ftyFmt t).Wide := Spec.IsFormat.wide (.inl ⟨t, rfl⟩)
  have hm : m ≠ 0 := by
    rintro rfl
    rw [Nat.cast_zero, zero_mul] at hk
    exact (zpow_ne_zero k two_ne_zero) hk.symm
  have hunit : vUnit .log2 (ftyFmt t) c = (ftyFmt t).pack .nearest (numOf k 0 false) := by
    rw [← log2Num_of_power hk]
    refine vUnit_eq_pack ?_
    rw [hv]
    exact if_neg hm
  rw [hunit]
  refine ⟨fun h => ?_, fun h => ?_⟩
  · rw [numOf, if_pos h]
    rfl
  · rw [numOf, if_neg h]
    exact (ftyFmt_ieee t).roundsTo_fin hf _ (Int.natAbs_ne_zero.mpr h) (by rw [zpow_zero, mul_one])

/-- Floats to an integer type (R107). -/
theorem Machine.vConvert_float_int (r : RMode) (f : Fmt) (nat : Bool) (w c : Nat) :
    let v := f.unpack c
    let lo := (intRange nat w).1
    let hi := (intRange nat w).2
    (v.isNan = true → vConvert r (.int nat w) (.float f) c = (0, flagNV)) ∧
    (∀ neg, v = .inf neg →
      vConvert r (.int nat w) (.float f) c = (wrapInt w (if neg = true then lo else hi), flagNV)) ∧
    (∀ neg m e, v = .fin neg m e → ∃ n : Nat, Spec.Rounded r neg ((m : ℝ) * 2 ^ e) n ∧
      let x := signedMant neg n
      (lo ≤ x → x ≤ hi → vConvert r (.int nat w) (.float f) c =
        (wrapInt w x, if (n : ℚ) = m * 2 ^ e then 0 else flagNX)) ∧
      (x < lo → vConvert r (.int nat w) (.float f) c = (wrapInt w lo, flagNV)) ∧
      (hi < x → vConvert r (.int nat w) (.float f) c = (wrapInt w hi, flagNV))) := by
  intro v lo hi
  have hconv : vConvert r (.int nat w) (.float f) c =
      (wrapInt w (toIntElem r nat w v).1, (toIntElem r nat w v).2) := rfl
  refine ⟨fun hnan => ?_, fun neg hv => ?_, fun neg m e hv => ?_⟩
  · obtain ⟨b, hv⟩ := Num.exists_eq_nan hnan
    rw [hconv, hv]
    exact congrArg (·, flagNV) (by rw [wrapInt, toIntElem, Int.zero_emod, Int.toNat_zero])
  · rw [hconv, hv]
    rfl
  · rw [hconv, hv]
    obtain ⟨n, hround, hin, hbelow, habove⟩ := toIntElem_fin r nat w neg m e
    refine ⟨n, hround, fun h1 h2 => ?_, fun h => ?_, fun h => ?_⟩
    · rw [hin h1 h2]
    · rw [hbelow h]
    · rw [habove h]

/-- Settles O29: the forms, the rows of the conversions, the roundings of the units, and the tree of a reduction. -/
theorem conversionsAndUnits : Obligations.ConversionsAndUnits := by
  refine ⟨fun h s hs => ⟨exec_vcvt_of_calm hs h, fun t d a => ?_, fun t d a => ?_⟩, fun r f g c => ?_,
    fun t r c x => ?_, fun n m e => ?_,
    fun f n fuel l k x => ⟨vredTree_singleton f fuel x, vredTree_append f n fuel l k⟩,
    fun t r a b op => ⟨by cases op <;> rfl, by cases op <;> rfl, ?_, fun fm => vredIdentity_of_float,
      fun ht c => readInt_vredIdentity ht⟩⟩
  · obtain ⟨hvec, hscal⟩ := exec_vscale_eq h t d a s
    exact ⟨hvec, hscal, rfl, rfl, rfl, rfl⟩
  · exact ⟨next_vecReduce hs .sum h t d a, next_vecReduce hs .max h t d a, next_vecReduce hs .min h t d a⟩
  · refine ⟨rfl, rfl, rfl, fun nat w _ => ?_⟩
    have hrange := intRange_eq nat w
    obtain ⟨hnan, hinf, hfin⟩ := vConvert_float_int r f nat w c
    have hint := vConvert_int r nat w
    simp only [hrange] at hinf hfin hint
    exact ⟨hnan, hinf, hfin, rfl, fun sn sw => hint sn sw c⟩
  · obtain ⟨hnan, hinf, hfin⟩ := (ftyFmt_ieee t).vScale_special r c x
    exact ⟨hnan, hinf, hfin, fun u => rfl, fun neg m e => vUnit_reciprocals t, fun neg m e k => vUnit_exp2_of_int t,
      fun m e k => vUnit_log2_of_power t⟩
  · exact ⟨rfl, rfl, rfl, rfl, rfl, rfl, rfl, rfl, rfl, rfl, rfl, fun hm => ⟨if_neg hm, if_neg hm⟩, fun u b => rfl⟩
  · cases h : vtyFloat t <;> simp only [vredIdentity, h]

end Sys2Proof
end

section
namespace Sys2Proof

open Machine

/-! ## The ranges of the local space (R116) -/

theorem Machine.region_eq_lm_iff (a : Nat) : region a = .lm ↔ a ≤ 0x1FFFFF := by
  unfold region
  split_ifs <;> simp_all

theorem Machine.region_eq_sp_iff (a : Nat) : region a = .sp ↔ 0x40000000 ≤ a ∧ a ≤ 0x41FFFFFF := by
  unfold region
  split_ifs <;> simp <;> omega

theorem Machine.region_eq_irq_iff (a : Nat) : region a = .irq ↔ 0x70000000 ≤ a ∧ a ≤ 0x7001FFFF := by
  unfold region
  split_ifs <;> simp <;> omega

/-! ## The windows of a context (R117) -/

/-- The check of a line of LM or scratchpad against a table of windows. -/
def windowFault (ws : List Window) (writes : Bool) (line : Nat) : Option Nat :=
  if !ws.any (fun w => w.has line) then some 1
  else if writes && !ws.any (fun w => w.w && w.has line) then some 2 else none

/-- The scratchpad windows that an access can use: none where its instruction reaches LM only (R154, R155, R140). -/
def Machine.Context.reachedSp (x : Context) (k : AccessKind) : List Window := if k.lmOnly then [] else x.spWin

theorem Machine.Window.has_iff (w : Window) (line : Nat) : w.has line = true ↔ w.base ≤ line ∧ line ≤ w.limit := by
  simp [Window.has]

section
variable (ws : List Window) (writes : Bool) (line : Nat)

/-- The two kinds in the order of R117: outside every window, and written through no claim. -/
theorem windowFault_eq : windowFault ws writes line =
    if ∀ w ∈ ws, ¬(w.base ≤ line ∧ line ≤ w.limit) then some 1
    else if writes = true ∧ ∀ w ∈ ws, w.base ≤ line ∧ line ≤ w.limit → w.w = false then some 2 else none := by
  have hout : (!ws.any fun w => w.has line) = true ↔ ∀ w ∈ ws, ¬(w.base ≤ line ∧ line ≤ w.limit) := by
    simp [← Window.has_iff]
  have hread : (writes && !ws.any fun w => w.w && w.has line) = true ↔
      writes = true ∧ ∀ w ∈ ws, w.base ≤ line ∧ line ≤ w.limit → w.w = false := by
    simp only [← Window.has_iff, Bool.and_eq_true, Bool.not_eq_true', List.any_eq_false, not_and']
    simp
  unfold windowFault
  simp only [hout, hread]

/-- A line lies in a window unless it lies outside every one. -/
theorem exists_window_iff : (∃ w ∈ ws, w.base ≤ line ∧ line ≤ w.limit) ↔
    ¬∀ w ∈ ws, ¬(w.base ≤ line ∧ line ≤ w.limit) := by
  push Not; rfl

theorem exists_claim_iff : (∃ w ∈ ws, w.w = true ∧ w.base ≤ line ∧ line ≤ w.limit) ↔
    ¬∀ w ∈ ws, w.base ≤ line ∧ line ≤ w.limit → w.w = false := by
  push Not; simp only [ne_eq, Bool.not_eq_false, and_comm]

theorem windowFault_eq_none_iff : windowFault ws writes line = none ↔
    (∃ w ∈ ws, w.base ≤ line ∧ line ≤ w.limit) ∧
      (writes = true → ∃ w ∈ ws, w.w = true ∧ w.base ≤ line ∧ line ≤ w.limit) := by
  rw [windowFault_eq, exists_window_iff, exists_claim_iff]
  split_ifs
  all_goals simp only [true_iff, false_iff]
  all_goals tauto

theorem windowFault_eq_some_iff {kd : Nat} : windowFault ws writes line = some kd ↔
    (kd = 1 ∧ ∀ w ∈ ws, ¬(w.base ≤ line ∧ line ≤ w.limit)) ∨
      (kd = 2 ∧ writes = true ∧ (∃ w ∈ ws, w.base ≤ line ∧ line ≤ w.limit) ∧
        ∀ w ∈ ws, w.base ≤ line ∧ line ≤ w.limit → w.w = false) := by
  rw [windowFault_eq, exists_window_iff]
  split_ifs
  all_goals simp only [Option.some.injEq, @eq_comm _ _ kd, false_iff]
  all_goals tauto

end

/-! ## The check of one byte (R116 to R118) -/

section
variable {m : Mach} {x : Context} {k : AccessKind} {form : Bool} {first : Region} {b : Nat}

theorem byteFault_of_other_range (h : region b = .nothing ∨ region b ≠ first) :
    byteFault m x k form first b = some 0 := if_pos h

theorem byteFault_lm (h : region b = .lm) :
    byteFault m x k form .lm b = windowFault x.lmWin k.writes (b / 256) := by
  simp only [byteFault, h, windowFault, reduceCtorEq, ne_eq, not_true, or_self, if_false]

theorem byteFault_sp (h : region b = .sp) :
    byteFault m x k form .sp b = windowFault (x.reachedSp k) k.writes ((b - 0x40000000) / 256) := by
  cases hk : k.lmOnly <;> simp [byteFault, h, windowFault, Context.reachedSp, hk]

theorem byteFault_irq (h : region b = .irq) : byteFault m x k form .irq b =
    if m.pk.clusterIn x.part (BitVec.ofNat 5 ((b - 0x70000000) / 0x1000)) = false then some 3
    else if form = true then none else some 4 := by
  simp [byteFault, h]

/-- A byte address of the core's own LM (R116). -/
def InLM (b : Nat) : Prop := b ≤ 0x1FFFFF

/-- A byte address of the cluster scratchpad (R116). -/
def InSp (b : Nat) : Prop := 0x40000000 ≤ b ∧ b ≤ 0x41FFFFFF

/-- A byte address of the interrupt files (R116). -/
def InIrq (b : Nat) : Prop := 0x70000000 ≤ b ∧ b ≤ 0x7001FFFF

/-- Two bytes lie in one range. -/
def SameRange (a b : Nat) : Prop := (InLM a ∧ InLM b) ∨ (InSp a ∧ InSp b) ∨ (InIrq a ∧ InIrq b)

theorem sameRange_iff (a b : Nat) : SameRange a b ↔ ¬(region b = .nothing ∨ region b ≠ region a) := by
  unfold SameRange InLM InSp InIrq
  rw [← region_eq_lm_iff, ← region_eq_lm_iff, ← region_eq_sp_iff, ← region_eq_sp_iff, ← region_eq_irq_iff,
    ← region_eq_irq_iff]
  cases region a <;> cases region b <;> decide

/-- A window through which an access reaches a byte. -/
def ReachesThrough (x : Context) (k : AccessKind) (b : Nat) (w : Window) : Prop :=
  (InLM b ∧ w ∈ x.lmWin ∧ w.base ≤ b / 256 ∧ b / 256 ≤ w.limit) ∨
  (InSp b ∧ k.lmOnly = false ∧ w ∈ x.spWin ∧ w.base ≤ (b - 0x40000000) / 256 ∧ (b - 0x40000000) / 256 ≤ w.limit)

/-- A byte of an access whose first byte is `first` fails a check, under a kind. -/
def FailsCheck (m : Mach) (x : Context) (k : AccessKind) (form : Bool) (first b kd : Nat) : Prop :=
  let mine := m.pk.clusterIn x.part (BitVec.ofNat 5 ((b - 0x70000000) / 0x1000))
  (kd = 0 ∧ ¬SameRange first b) ∨
  (SameRange first b ∧ InIrq b ∧ ((kd = 3 ∧ mine = false) ∨ (kd = 4 ∧ mine = true ∧ form = false))) ∨
  (SameRange first b ∧ ¬InIrq b ∧ ((kd = 1 ∧ ∀ w, ¬ReachesThrough x k b w) ∨
    (kd = 2 ∧ k.writes = true ∧ (∃ w, ReachesThrough x k b w) ∧ ∀ w, ReachesThrough x k b w → w.w = false)))

theorem windowFault_eq_some_iff_reachesThrough {ws : List Window} {line kd : Nat}
    (h : ∀ w, ReachesThrough x k b w ↔ w ∈ ws ∧ w.base ≤ line ∧ line ≤ w.limit) :
    windowFault ws k.writes line = some kd ↔ (kd = 1 ∧ ∀ w, ¬ReachesThrough x k b w) ∨
      (kd = 2 ∧ k.writes = true ∧ (∃ w, ReachesThrough x k b w) ∧ ∀ w, ReachesThrough x k b w → w.w = false) := by
  rw [windowFault_eq_some_iff]
  simp only [h, not_and, and_imp]

theorem byteFault_eq_some_iff {first : Nat} {kd : Nat} :
    byteFault m x k form (region first) b = some kd ↔ FailsCheck m x k form first b kd := by
  have hsame := sameRange_iff first b
  by_cases hr : region b = .nothing ∨ region b ≠ region first
  · have hs : ¬SameRange first b := fun h => hsame.mp h hr
    simp only [byteFault_of_other_range hr, FailsCheck, hs, Option.some.injEq, not_false_eq_true, and_true, false_and,
      or_false, @eq_comm _ 0]
  · have hs : SameRange first b := hsame.mpr hr
    push Not at hr
    simp only [FailsCheck, hs, not_true_eq_false, and_false, true_and, false_or]
    rw [← hr.2]
    cases hb : region b with
    | nothing => exact absurd hb hr.1
    | lm =>
      have hin : InLM b := (region_eq_lm_iff b).mp hb
      have hirq : ¬InIrq b := fun h => by unfold InLM InIrq at *; omega
      have hsp : ¬InSp b := fun h => by unfold InLM InSp at *; omega
      simp only [hirq, false_and, false_or, not_false_eq_true, true_and]
      rw [byteFault_lm hb]
      exact windowFault_eq_some_iff_reachesThrough fun w => by simp [ReachesThrough, hin, hsp]
    | sp =>
      have hin : InSp b := (region_eq_sp_iff b).mp hb
      have hirq : ¬InIrq b := fun h => by unfold InSp InIrq at *; omega
      have hlm : ¬InLM b := fun h => by unfold InLM InSp at *; omega
      simp only [hirq, false_and, false_or, not_false_eq_true, true_and]
      rw [byteFault_sp hb]
      exact windowFault_eq_some_iff_reachesThrough fun w => by
        cases hk : k.lmOnly <;> simp [ReachesThrough, Context.reachedSp, hin, hlm, hk]
    | irq =>
      have hin : InIrq b := (region_eq_irq_iff b).mp hb
      simp only [hin, not_true_eq_false, false_and, or_false, true_and]
      rw [byteFault_irq hb]
      cases m.pk.clusterIn x.part (BitVec.ofNat 5 ((b - 0x70000000) / 0x1000)) <;> cases form <;> simp [eq_comm]

end

/-! ## A byte that passes -/

section
variable (m : Mach) (x : Context) (k : AccessKind) (form : Bool) (b : Nat)

theorem byteFault_lm_eq_none_iff : byteFault m x k form .lm b = none ↔
    b ≤ 0x1FFFFF ∧ windowFault x.lmWin k.writes (b / 256) = none := by
  rw [← region_eq_lm_iff]
  by_cases hb : region b = .lm
  · rw [byteFault_lm hb, hb]; simp
  · rw [byteFault_of_other_range (.inr hb)]; simp [hb]

theorem byteFault_sp_eq_none_iff : byteFault m x k form .sp b = none ↔
    k.lmOnly = false ∧ 0x40000000 ≤ b ∧ b ≤ 0x41FFFFFF ∧
      windowFault x.spWin k.writes ((b - 0x40000000) / 256) = none := by
  rw [← and_assoc (a := 0x40000000 ≤ b), ← region_eq_sp_iff]
  by_cases hb : region b = .sp
  · rw [byteFault_sp hb, hb, Context.reachedSp]
    cases k.lmOnly <;> simp [windowFault]
  · rw [byteFault_of_other_range (.inr hb)]; simp [hb]

theorem byteFault_irq_eq_none_iff : byteFault m x k form .irq b = none ↔
    form = true ∧ 0x70000000 ≤ b ∧ b ≤ 0x7001FFFF ∧
      m.pk.clusterIn x.part (BitVec.ofNat 5 ((b - 0x70000000) / 0x1000)) = true := by
  rw [← and_assoc (a := 0x70000000 ≤ b), ← region_eq_irq_iff]
  by_cases hb : region b = .irq
  · rw [byteFault_irq hb, hb]
    cases form <;> cases m.pk.clusterIn x.part (BitVec.ofNat 5 ((b - 0x70000000) / 0x1000)) <;> simp
  · rw [byteFault_of_other_range (.inr hb)]; simp [hb]

end

/-! ## The lowest failing byte (R116) -/

/-- A byte of some accesses fails a check, under a kind. -/
def ByteFails (m : Mach) (x : Context) (k : AccessKind) (form : Bool) (accs : List (List Nat)) (b kd : Nat) : Prop :=
  ∃ c ∈ accs, ∃ first, c.head? = some first ∧ b ∈ c ∧ FailsCheck m x k form first b kd

/-- The lower of two failing bytes, the first where they are one. -/
def lowerFault (best : Option (Nat × Nat)) (f : Nat × Nat) : Option (Nat × Nat) :=
  match best with
  | none => some f
  | some g => if f.1 < g.1 then some f else some g

theorem lowerFault_spec (best : Option (Nat × Nat)) (f : Nat × Nat) : ∃ p, lowerFault best f = some p ∧
    (p = f ∨ best = some p) ∧ p.1 ≤ f.1 ∧ ∀ q, best = some q → p.1 ≤ q.1 := by
  cases best with
  | none => exact ⟨f, rfl, .inl rfl, Nat.le_refl _, fun q h => nomatch h⟩
  | some g =>
    by_cases h : f.1 < g.1
    · exact ⟨f, if_pos h, .inl rfl, Nat.le_refl _, fun q hq => by cases hq; omega⟩
    · exact ⟨g, if_neg h, .inr rfl, by omega, fun q hq => by cases hq; omega⟩

/-- The fold answers one of the failing bytes, and none of them lies below it. -/
theorem foldl_lowerFault {l : List (Nat × Nat)} {best : Option (Nat × Nat)} {p : Nat × Nat}
    (h : l.foldl lowerFault best = some p) :
    (p ∈ l ∨ best = some p) ∧ (∀ q ∈ l, p.1 ≤ q.1) ∧ ∀ q, best = some q → p.1 ≤ q.1 := by
  induction l generalizing best with
  | nil => exact ⟨.inr h, by simp, fun q hq => by rw [show q = p from Option.some.inj (hq.symm.trans h)]⟩
  | cons f l ih =>
    obtain ⟨r, hr, hmem, hf, hbest⟩ := lowerFault_spec best f
    rw [List.foldl_cons, hr] at h
    obtain ⟨hp, hle, hpr⟩ := ih h
    have hpr := hpr r rfl
    refine ⟨?_, List.forall_mem_cons.mpr ⟨hpr.trans hf, hle⟩, fun q hq => hpr.trans (hbest q hq)⟩
    rcases hp with hp | hp
    · exact .inl (List.mem_cons_of_mem _ hp)
    · cases hp
      exact hmem.imp (fun e => List.mem_cons.mpr (.inl e)) id

/-- The failing bytes of some accesses, with their kinds. -/
def byteFaults (m : Mach) (x : Context) (k : AccessKind) (form : Bool) (accs : List (List Nat)) : List (Nat × Nat) :=
  accs.flatMap fun bs => match bs with
    | [] => []
    | b :: _ => bs.filterMap fun a => (byteFault m x k form (region b) a).map fun kd => (a, kd)

section
variable {m : Mach} {x : Context} {k : AccessKind} {form : Bool} {accs : List (List Nat)}

theorem accessFault_eq : accessFault m x k form accs = (byteFaults m x k form accs).foldl lowerFault none := rfl

theorem mem_byteFaults_iff {b kd : Nat} : (b, kd) ∈ byteFaults m x k form accs ↔ ByteFails m x k form accs b kd := by
  unfold byteFaults ByteFails
  rw [List.mem_flatMap]
  refine exists_congr fun c => and_congr_right fun _ => ?_
  cases c with
  | nil => simp
  | cons first l =>
    simp only [List.mem_filterMap, Option.map_eq_some_iff, Prod.mk.injEq, List.head?_cons, Option.some.injEq,
      ← byteFault_eq_some_iff]
    constructor
    · rintro ⟨a, ha, e, he, rfl, rfl⟩
      exact ⟨first, rfl, ha, he⟩
    · rintro ⟨_, rfl, hb, he⟩
      exact ⟨b, hb, kd, he, rfl, rfl⟩

theorem accessFault_eq_none_iff_byteFails : accessFault m x k form accs = none ↔
    ∀ b kd, ¬ByteFails m x k form accs b kd := by
  simp only [← mem_byteFaults_iff]
  rw [accessFault_eq, foldl_keeps_some fun o f => by obtain ⟨p, hp, -⟩ := lowerFault_spec o f; simp [hp]]
  simp [List.eq_nil_iff_forall_not_mem]

theorem accessFault_lowest {f kd : Nat} (h : accessFault m x k form accs = some (f, kd)) :
    ByteFails m x k form accs f kd ∧ ∀ b, b < f → ∀ e, ¬ByteFails m x k form accs b e := by
  obtain ⟨hmem, hle, -⟩ := foldl_lowerFault h
  simp only [← mem_byteFaults_iff]
  exact ⟨hmem.resolve_right (by simp), fun b hb e hf => absurd (hle _ hf) (Nat.not_le.mpr hb)⟩

theorem mem_span_iff (a n x : Nat) : x ∈ span a n ↔ a ≤ x ∧ x < a + n := by
  simp only [span, List.mem_map, List.mem_range]
  exact ⟨fun ⟨i, hi, e⟩ => by omega, fun h => ⟨x - a, by omega, by omega⟩⟩

/-- A contiguous access passes where each of its bytes passes behind its first one. -/
theorem accessFault_span_eq_none_iff {a n : Nat} (hn : 0 < n) : accessFault m x k form [span a n] = none ↔
    ∀ b, a ≤ b → b < a + n → byteFault m x k form (region a) b = none := by
  have hhead : (span a n).head? = some a := by
    cases n with
    | zero => omega
    | succ n => simp [span, List.range_succ_eq_map]
  rw [accessFault_eq_none]
  simp only [List.mem_singleton, forall_eq, hhead, Option.some.injEq, forall_eq', mem_span_iff, and_imp]

end

/-- Settles O15: byte by byte, each range has its check, and the fold keeps the lowest byte that fails one. -/
theorem accessChecks : Obligations.AccessChecks := by
  unfold Obligations.AccessChecks
  intro m x k form a n hn covers every
  refine ⟨?_, fun accs => ⟨accessFault_eq_none_iff_byteFails, fun f kd => accessFault_lowest⟩⟩
  rw [accessFault_span_eq_none_iff hn]
  have hfirst : ∀ p : Nat → Prop, every p → p a := fun p h => h a (Nat.le_refl a) (by omega)
  have hcovers : ∀ ws line, covers ws line ↔ windowFault ws k.writes line = none := fun ws line =>
    (windowFault_eq_none_iff ws k.writes line).symm
  have hpull : ∀ (c : Prop) (p : Nat → Prop), every (fun b => c ∧ p b) ↔ c ∧ every p := fun c p =>
    ⟨fun h => ⟨(hfirst _ h).1, fun b h1 h2 => (h b h1 h2).2⟩, fun h b h1 h2 => ⟨h.1, h.2 b h1 h2⟩⟩
  simp only [hcovers, ← hpull, ← byteFault_lm_eq_none_iff m x k form, ← byteFault_sp_eq_none_iff m x k form,
    ← byteFault_irq_eq_none_iff m x k form]
  have hrange : ∀ r, every (fun b => byteFault m x k form r b = none) → region a = r ∧ region a ≠ .nothing := by
    intro r h
    by_contra hr
    have hpass := hfirst _ h
    rw [byteFault_of_other_range (by tauto)] at hpass
    cases hpass
  constructor
  · intro h
    have hmapped := (hrange _ h).2
    change every (fun b => byteFault m x k form (region a) b = none) at h
    cases hr : region a with
    | nothing => exact absurd hr hmapped
    | lm => exact .inl (hr ▸ h)
    | sp => exact .inr (.inl (hr ▸ h))
    | irq => exact .inr (.inr (hr ▸ h))
  · rintro (h | h | h)
    all_goals exact (hrange _ h).1 ▸ h

end Sys2Proof
end

section
namespace Sys2Proof

open Machine

/-! ## Tables under a change of their values, and memories under several writes -/

theorem Machine.FMap.find_mapValues {α β : Type} (g : Nat → α → β) (m : FMap α) (n : Nat) :
    FMap.find (m.map fun p => (p.1, g p.1 p.2)) n = (m.find n).map (g n) := by
  induction m with
  | nil => rfl
  | cons p l ih =>
    obtain ⟨i, v⟩ := p
    by_cases h : i = n
    · subst h; simp [FMap.find]
    · simp only [List.map_cons, FMap.find, if_neg h]; exact ih

/-- A byte after several writes is the last that they give its address. -/
theorem Machine.Memory.byte_putAll_of_lastIs {d : Option Byte} {m : Memory} (hm : m.wf d = true)
    {l : List (Nat × Byte)} {a : Nat} {b : Byte} (h : Spec.LastIs l a b) : (m.putAll d l).byte d a = some b := by
  obtain ⟨pre, post, rfl, hpost⟩ := h
  have hsplit : m.putAll d (pre ++ (a, b) :: post) = ((m.putAll d pre).put d a b).putAll d post := by
    simp only [Memory.putAll, List.foldl_append, List.foldl_cons]
  rw [hsplit, Memory.byte_putAll_other _ _ _ _ fun p hp => (hpost p hp).symm,
    Memory.byte_put_same _ _ _ _ (Memory.wf_putAll _ _ _ hm)]

theorem lastIs_of_mem {l : List (Nat × Byte)} (hl : (l.map Prod.fst).Nodup) {a : Nat} {b : Byte} (h : (a, b) ∈ l) :
    Spec.LastIs l a b := by
  obtain ⟨pre, post, rfl⟩ := List.append_of_mem h
  refine ⟨pre, post, rfl, fun p hp e => ?_⟩
  simp only [List.map_append, List.map_cons] at hl
  exact (List.nodup_cons.mp hl.of_append_right).1 (e ▸ List.mem_map_of_mem hp)

/-! ## The bytes of a number (R3) -/

theorem map_fst_cellsAt (a : Nat) (l : List Byte) : (cellsAt a l).map Prod.fst = span a l.length := by
  refine List.ext_getElem (by simp [cellsAt, span]) fun i _ _ => ?_
  simp [cellsAt, span]

theorem nodup_span (a n : Nat) : (span a n).Nodup :=
  List.nodup_range.map fun _ _ h => Nat.add_left_cancel h

theorem length_bytesOfNat (n v : Nat) : (bytesOfNat n v).length = n := by simp [bytesOfNat]

theorem bytesOfNat_getElem (n v i : Nat) (h : i < (bytesOfNat n v).length) :
    (bytesOfNat n v)[i] = BitVec.ofNat 8 (v / 2 ^ (8 * i)) := by
  simp [bytesOfNat, Nat.shiftRight_eq_div_pow]

theorem natOfBytes_bytesOfNat (n v : Nat) : natOfBytes (bytesOfNat n v) = v % 2 ^ (8 * n) := by
  induction n generalizing v with
  | zero => simp [bytesOfNat, natOfBytes, Nat.mod_one]
  | succ n ih =>
    have hcons : bytesOfNat (n + 1) v = BitVec.ofNat 8 v :: bytesOfNat n (v / 2 ^ 8) := by
      rw [bytesOfNat, List.range_succ_eq_map, List.map_cons, List.map_map]
      refine congrArg (BitVec.ofNat 8 v :: ·) (List.map_congr_left fun i _ => ?_)
      simp only [Function.comp_apply, Nat.shiftRight_eq_div_pow, Nat.div_div_eq_div_mul, ← pow_add, Nat.mul_succ,
        add_comm]
    calc natOfBytes (bytesOfNat (n + 1) v)
        = v % 2 ^ 8 + 2 ^ 8 * natOfBytes (bytesOfNat n (v / 2 ^ 8)) := by
          rw [hcons]; simp [natOfBytes]
      _ = v % 2 ^ (8 * (n + 1)) := by
          rw [ih, ← Nat.mod_mul, ← pow_add, Nat.mul_succ, add_comm]

/-- The number that a run of bytes holds is the one that they make, lowest first. -/
theorem Spec.Holds.natOfBytes_eq {byte : Nat → Byte} {n v : Nat} (h : Spec.Holds byte n v) :
    natOfBytes ((List.range n).map byte) = v := by
  obtain ⟨hlt, hbytes⟩ := h
  have hlist : (List.range n).map byte = bytesOfNat n v := by
    refine List.map_congr_left fun i hi => ?_
    rw [hbytes i (List.mem_range.mp hi), Nat.shiftRight_eq_div_pow]
  rw [hlist, natOfBytes_bytesOfNat, Nat.mod_eq_of_lt hlt]

section
variable {m : Memory} (a n v : Nat)

/-- The bytes of a number written at rising addresses are read back. -/
theorem Machine.Memory.byte_putAll_number (hm : m.wf (some 0) = true) {i : Nat} (hi : i < n) :
    (m.putAll (some 0) (cellsAt a (bytesOfNat n v))).byte (some 0) (a + i) =
      some (BitVec.ofNat 8 (v / 2 ^ (8 * i))) := by
  refine Memory.byte_putAll_of_lastIs hm (lastIs_of_mem ?_ ?_)
  · rw [map_fst_cellsAt]; exact nodup_span _ _
  · rw [← bytesOfNat_getElem n v i (by rwa [length_bytesOfNat])]
    exact List.mem_mapIdx.mpr ⟨i, _, rfl⟩

theorem Machine.Memory.byte_putAll_number_other {x : Nat} (hx : x < a ∨ a + n ≤ x) :
    (m.putAll (some 0) (cellsAt a (bytesOfNat n v))).byte (some 0) x = m.byte (some 0) x := by
  refine Memory.byte_putAll_other _ _ _ _ fun p hp e => ?_
  have hmem : x ∈ span a (bytesOfNat n v).length := by
    rw [← map_fst_cellsAt, e]
    exact List.mem_map_of_mem hp
  rw [length_bytesOfNat, mem_span_iff] at hmem
  omega

end

theorem applyOp_lt (op : AOp) {n old v : Nat} (exp : Nat) (hold : old < 2 ^ (8 * n)) (hv : v < 2 ^ (8 * n)) :
    applyOp op n old v exp < 2 ^ (8 * n) := by
  cases op with
  | add => exact Nat.mod_lt _ (by positivity)
  | min | max | cas => dsimp only [applyOp]; split <;> assumption
  | and => exact Nat.and_lt_two_pow _ hv
  | or => exact Nat.or_lt_two_pow hold hv
  | xor => exact Nat.xor_lt_two_pow hold hv
  | swap => exact hv

/-! ## What a write leaves of the contexts' loads (R18) -/

/-- A context but for what its loads keep of bytes written since their issue. -/
def LoadsAlike (x y : Context) : Prop :=
  ∃ l, y = { x with loads := l } ∧ l.map (fun l => { l with keep := [] }) = x.loads.map fun l => { l with keep := [] }

theorem LoadsAlike.refl (x : Context) : LoadsAlike x x := ⟨x.loads, rfl, rfl⟩

theorem Machine.Load.written_keep (l : Load) (own : Bool) (mem : Memory) (bytes : List (Nat × Byte)) :
    { l.written own mem bytes with keep := [] } = { l with keep := [] } := by
  unfold Load.written
  split_ifs <;> rfl

theorem Machine.Core.ctx_noteWrite (k : Core) (space : Space) (own : Option (CtxId × Nat)) (mem : Memory)
    (bytes : List (Nat × Byte)) (cx : CtxId) : LoadsAlike (k.ctx cx) ((k.noteWrite space own mem bytes).ctx cx) := by
  have hfind := FMap.find_mapValues (fun n (x : Context) => if x.loads.isEmpty then x else
    { x with loads := x.loads.map fun l =>
      if l.space = space then l.written (own == some (BitVec.ofNat 3 n, l.issued)) mem bytes else l }) k.ctxs cx.toNat
  unfold Core.ctx
  rw [show (k.noteWrite space own mem bytes).ctxs.find cx.toNat = _ from hfind]
  cases k.ctxs.find cx.toNat with
  | none => exact .refl _
  | some x =>
    simp only [Option.map_some, Option.getD_some]
    split
    · exact .refl x
    · refine ⟨_, rfl, ?_⟩
      rw [List.map_map]
      refine List.map_congr_left fun l _ => ?_
      dsimp only [Function.comp_apply]
      split
      · exact l.written_keep _ _ _
      · rfl

/-- A write to LM: its bytes, the lines that it mends, and what the contexts' loads keep. -/
theorem Machine.Core.writeLM_eq (k : Core) (own : Option (CtxId × Nat)) (bytes : List (Nat × Byte)) :
    ∃ bad, k.writeLM own bytes = { k with
      ctxs := (k.noteWrite .lm own k.lm bytes).ctxs, badLines := bad, lm := k.lm.putAll (some 0) bytes } := by
  unfold Core.writeLM Core.mend
  dsimp only
  split_ifs <;> exact ⟨_, rfl⟩

theorem Machine.Core.ctx_writeLM (k : Core) (own : Option (CtxId × Nat)) (bytes : List (Nat × Byte)) (cx : CtxId) :
    LoadsAlike (k.ctx cx) ((k.writeLM own bytes).ctx cx) := by
  obtain ⟨bad, h⟩ := k.writeLM_eq own bytes
  rw [h]
  exact k.ctx_noteWrite .lm own k.lm bytes cx

theorem Machine.Cluster.core_writeSP (c : Cluster) (co : CoreId) (own : Option (CtxId × Nat))
    (bytes : List (Nat × Byte)) (co' : CoreId) : ∃ o,
    (c.writeSP co own bytes).core co' = (c.core co').noteWrite .sp o c.scratch bytes := by
  refine ⟨if co'.toNat = co.toNat then own else none, ?_⟩
  have hfind := FMap.find_mapValues (fun n (k : Core) =>
    k.noteWrite .sp (if n = co.toNat then own else none) c.scratch bytes) c.cores co'.toNat
  unfold Cluster.core
  rw [show (c.writeSP co own bytes).cores.find co'.toNat = _ from hfind]
  cases c.cores.find co'.toNat <;> rfl

end Sys2Proof
end

section
namespace Sys2Proof

open Machine

/-! ## A write to the scratchpad of one cluster (R204, R205) -/

/-- The scratchpad of a cluster takes some bytes. Its cores keep their memories and drains, its bank list and its
contexts stand but for what their loads keep, and nothing changes outside the cluster. -/
structure WritesSP (cl : ClusterId) (bytes : List (Nat × Byte)) (m t : Mach) : Prop where
  scratch : (t.cluster cl).scratch = (m.cluster cl).scratch.putAll (some 0) bytes
  bank : (t.cluster cl).bank = (m.cluster cl).bank
  core : ∀ co, (t.core cl co).lm = (m.core cl co).lm ∧ (t.core cl co).lmTags = (m.core cl co).lmTags ∧
    (t.core cl co).acc = (m.core cl co).acc ∧ (t.core cl co).drain = (m.core cl co).drain
  ctx : ∀ r, LoadsAlike (m.ctx r) (t.ctx r)
  other : ∀ d, d ≠ cl → t.cluster d = m.cluster d
  pk : t.pk = m.pk

theorem WritesSP.refl (cl : ClusterId) (m : Mach) : WritesSP cl [] m m :=
  ⟨rfl, rfl, fun _ => ⟨rfl, rfl, rfl, rfl⟩, fun _ => .refl _, fun _ _ => rfl, rfl⟩

theorem writesSP_writeSP (cl : ClusterId) (co : CoreId) (own : Option (CtxId × Nat)) (bytes : List (Nat × Byte))
    (m : Mach) : WritesSP cl bytes m (m.modCluster cl fun c => c.writeSP co own bytes) := by
  have hcluster : (m.modCluster cl fun c => c.writeSP co own bytes).cluster cl = (m.cluster cl).writeSP co own bytes :=
    Mach.cluster_modCluster_same ..
  have hother : ∀ d, d ≠ cl → (m.modCluster cl fun c => c.writeSP co own bytes).cluster d = m.cluster d :=
    fun d hd => Mach.cluster_modCluster_other _ _ _ _ hd
  have hcore : ∀ co', ∃ o, (m.modCluster cl fun c => c.writeSP co own bytes).core cl co' =
      (m.core cl co').noteWrite .sp o (m.cluster cl).scratch bytes := fun co' => by
    rw [Mach.core, hcluster]
    exact (m.cluster cl).core_writeSP co own bytes co'
  refine ⟨by rw [hcluster]; rfl, by rw [hcluster]; rfl, fun co' => ?_, fun r => ?_, hother, rfl⟩
  · obtain ⟨o, ho⟩ := hcore co'
    rw [ho]
    exact ⟨rfl, rfl, rfl, rfl⟩
  · by_cases hr : r.cl = cl
    · subst hr
      obtain ⟨o, ho⟩ := hcore r.co
      unfold Mach.ctx
      rw [ho]
      exact (m.core r.cl r.co).ctx_noteWrite _ _ _ _ r.cx
    · unfold Mach.ctx Mach.core
      rw [hother _ hr]
      exact .refl _

/-! ## Updates of the machine -/

theorem Machine.Mach.modCluster_congr {m : Mach} {cl : ClusterId} {f g : Cluster → Cluster}
    (h : f (m.cluster cl) = g (m.cluster cl)) : m.modCluster cl f = m.modCluster cl g := by
  rw [Mach.modCluster, h, Mach.modCluster]

theorem Machine.Mach.modCtx_congr {m : Mach} {r : CtxRef} {f g : Context → Context}
    (h : f (m.ctx r) = g (m.ctx r)) : m.modCtx r f = m.modCtx r g := by
  have hcore : (m.core r.cl r.co).modCtx r.cx f = (m.core r.cl r.co).modCtx r.cx g :=
    congrArg ((m.core r.cl r.co).setCtx r.cx) h
  exact congrArg (m.setCore r.cl r.co) hcore

theorem Spec.SameRegs.trans {m n t : Mach} (h : Spec.SameRegs m n) (g : Spec.SameRegs n t) : Spec.SameRegs m t :=
  fun r => (g r).trans (h r)

theorem Spec.SameRegs.modCore (m : Mach) (cl : ClusterId) (co : CoreId) {f : Core → Core}
    (h : ∀ k cx, ((f k).ctx cx).regs = (k.ctx cx).regs) : Spec.SameRegs m (m.modCore cl co f) := fun r => by
  obtain ⟨rfl, rfl, e⟩ | e := m.ctx_modCore_cases cl co f r
  · rw [e]; exact h _ _
  · rw [e]

theorem Spec.OtherCores.modCore (m : Mach) (cl : ClusterId) (co : CoreId) (f : Core → Core) :
    Spec.OtherCores cl co m (m.modCore cl co f) := fun _ _ h =>
  Mach.core_modCore_other _ _ _ _ _ _ fun e => h (Prod.ext e.1 e.2)

theorem LoadsAlike.regs {x y : Context} (h : LoadsAlike x y) : y.regs = x.regs := by
  obtain ⟨l, rfl, -⟩ := h
  rfl

/-! ## SCRATCHPAD_BANK_ACCESS -/

/-- A single write that has reached its bank performs. -/
theorem exec_scratchpadBankAccess_single {cl : ClusterId} {s : State} {b : BankWrite}
    (hbank : (s.mach.cluster cl).bank = [b]) (hdue : b.due ≤ (s.mach.cluster cl).cyc) :
    exec (.scratchpadBankAccess cl) s = .next (s.modMach fun m =>
      (m.modCluster cl fun c => { c with bank := [] }).bankWrite cl b) := by
  have hnow : (s.mach.cluster cl).bankDue = [b] := by
    simp only [Cluster.bankDue, hbank, List.filter_cons, hdue, decide_true, if_true, List.filter_nil,
      sortBy_eq_self (List.pairwise_singleton _ _)]
    cases b.atomic <;> rfl
  have hrest : (s.mach.cluster cl).bank.filter (fun x => !(decide (x.due ≤ (s.mach.cluster cl).cyc) &&
      x.atomic.isNone == [b].any fun x => x.atomic.isNone)) = [] := by
    simp [hbank, hdue]
  have hmod : (s.mach.modCluster cl fun c => { c with bank := c.bank.filter fun x =>
      !(decide (x.due ≤ c.cyc) && x.atomic.isNone == [b].any fun x => x.atomic.isNone) }) =
      s.mach.modCluster cl fun c => { c with bank := [] } :=
    Mach.modCluster_congr (by rw [hrest])
  change Host.Outcome.next (s.modMach fun m => _) = _
  unfold State.modMach
  dsimp only
  rw [hnow, hmod]
  rfl

/-- What a local atomic writes, where it writes (R159 to R161). -/
def Machine.Atomic.newValue (a : Atomic) (old : Nat) : Option Nat :=
  let w := 2 ^ (8 * a.n)
  match a.kind with
  | .rmw op => some (applyOp op a.n old (a.val.toNat % w) (a.exp.toNat % w))
  | .load => none
  | .store => some (a.val.toNat % w)

/-- The bytes that a local atomic writes. -/
def Machine.Atomic.cells (a : Atomic) (old : Nat) : List (Nat × Byte) :=
  match a.newValue old with
  | none => []
  | some v => cellsAt a.addr (bytesOfNat a.n v)

/-- The result of a local atomic, if it has one, is filled with a number. -/
def Machine.Mach.fillResult (m : Mach) (r : CtxRef) (res : Option Nat) (v : Word) : Mach :=
  match res with
  | none => m
  | some id => m.modCtx r fun x => x.fill id (v.setWidth 2048) 0

/-- The committed effect of an atomic is performed before its access. -/
theorem Machine.Mach.performAtomic_eff (m : Mach) (cl : ClusterId) (co : CoreId) (issued : Nat) (a : Atomic) :
    m.performAtomic cl co issued a = (m.performedOpt a.eff).performAtomic cl co issued { a with eff := none } := by
  unfold Mach.performAtomic Mach.performedOpt
  cases a.eff <;> rfl

/-- An atomic at its bank: it writes what its operation makes of the number there, and fills its result with it. -/
theorem Machine.Mach.performAtomic_sp {m : Mach} {cl : ClusterId} {co : CoreId} (issued : Nat) {a : Atomic}
    {old : Nat} (heff : a.eff = none) (hsp : a.space = .sp) (hbad : m.badByte cl co .sp (span a.addr a.n) = none)
    (hold : Spec.Holds (fun i => ((m.cluster cl).scratch.byte (some 0) (a.addr + i)).getD 0) a.n old) :
    ∃ n, WritesSP cl (a.cells old) m n ∧
      m.performAtomic cl co issued a = n.fillResult ⟨cl, co, a.cx⟩ a.res (Spec.signed a.n old) := by
  have hread : natOfBytes ((span a.addr a.n).map fun x => m.sampleByte cl co .sp x) = old := by
    rw [span, List.map_map]
    exact hold.natOfBytes_eq
  unfold Mach.performAtomic
  simp only [heff, hsp, hbad, hread, Mach.fillResult, Spec.signed, Atomic.cells, Atomic.newValue]
  cases a.kind with
  | load => exact ⟨m, .refl cl m, rfl⟩
  | store => exact ⟨_, writesSP_writeSP cl co (some (a.cx, issued)) _ m, rfl⟩
  | rmw op => exact ⟨_, writesSP_writeSP cl co (some (a.cx, issued)) _ m, rfl⟩

/-! ## What the steps around a bank access leave alone -/

@[simp] theorem Machine.Mach.cluster_performedOpt (m : Mach) (e : Option Nat) (cl : ClusterId) :
    (m.performedOpt e).cluster cl = m.cluster cl := by cases e <;> rfl

@[simp] theorem Machine.Mach.core_performedOpt (m : Mach) (e : Option Nat) (cl : ClusterId) (co : CoreId) :
    (m.performedOpt e).core cl co = m.core cl co := by cases e <;> rfl

@[simp] theorem Machine.Mach.ctx_performedOpt (m : Mach) (e : Option Nat) (r : CtxRef) :
    (m.performedOpt e).ctx r = m.ctx r := by cases e <;> rfl

@[simp] theorem Machine.Mach.vault_performedOpt (m : Mach) (e : Option Nat) :
    (m.performedOpt e).pk.vault = m.pk.vault := by cases e <;> rfl

theorem Machine.Mach.outs_performedOpt (m : Mach) (id : Nat) : ∀ o ∈ (m.performedOpt (some id)).pk.outs, o.id ≠ id :=
  fun o ho => by simpa using (List.mem_filter.mp ho).2

section
variable (m : Mach) (r : CtxRef) (res : Option Nat) (v : Word)

@[simp] theorem Machine.Mach.pk_fillResult : (m.fillResult r res v).pk = m.pk := by cases res <;> rfl

theorem Machine.Mach.cluster_fillResult_same :
    ((m.fillResult r res v).cluster r.cl).scratch = (m.cluster r.cl).scratch ∧
    ((m.fillResult r res v).cluster r.cl).bank = (m.cluster r.cl).bank := by
  cases res with
  | none => exact ⟨rfl, rfl⟩
  | some id =>
    rw [Mach.fillResult, Mach.modCtx, Mach.cluster_modCore_same]
    exact ⟨rfl, rfl⟩

theorem Machine.Mach.cluster_fillResult_other {d : ClusterId} (hd : d ≠ r.cl) :
    (m.fillResult r res v).cluster d = m.cluster d := by
  cases res with
  | none => rfl
  | some id => exact Mach.cluster_modCore_other _ _ _ hd

theorem Machine.Mach.lm_fillResult (cl : ClusterId) (co : CoreId) :
    ((m.fillResult r res v).core cl co).lm = (m.core cl co).lm := by
  cases res with
  | none => rfl
  | some id => exact ((Spec.SameMemory.modCtx m r _).1 cl co).1

theorem Machine.Mach.sameRegs_fillResult : Spec.SameRegs m (m.fillResult r res v) := by
  cases res with
  | none => exact fun _ => rfl
  | some id =>
    intro q
    by_cases h : q = r
    · subst h; rw [Mach.fillResult, Mach.ctx_modCtx_same]; rfl
    · rw [Mach.fillResult, Mach.ctx_modCtx_other _ _ _ _ h]

theorem Machine.Mach.inflight_fillResult : ((m.fillResult r res v).ctx r).inflight = match res with
    | none => (m.ctx r).inflight
    | some id => (m.ctx r).inflight.map fun f => if f.id = id then
        { f with val := v.setWidth 2048, ready := true } else f := by
  cases res with
  | none => rfl
  | some id =>
    rw [Mach.fillResult, Mach.ctx_modCtx_same]
    refine List.map_congr_left fun f _ => ?_
    rw [show f.flags ||| 0 = f.flags from BitVec.or_zero]

end

/-- A store at its bank. -/
theorem exec_scratchpadBankAccess_store {cl : ClusterId} {s : State} {b : BankWrite}
    (hbank : (s.mach.cluster cl).bank = [b]) (hdue : b.due ≤ (s.mach.cluster cl).cyc) (hb : b.atomic = none) :
    ∃ n, WritesSP cl b.bytes (s.mach.modCluster cl fun c => { c with bank := [] }) n ∧
      exec (.scratchpadBankAccess cl) s = .next (s.modMach fun _ => n.performedOpt b.eff) := by
  refine ⟨_, writesSP_writeSP cl b.core (some (b.cx, b.issued)) b.bytes _, ?_⟩
  rw [exec_scratchpadBankAccess_single hbank hdue]
  simp only [State.modMach, Mach.bankWrite, hb]
  cases b.eff <;> rfl

/-- An atomic at its bank. -/
theorem exec_scratchpadBankAccess_atomic {cl : ClusterId} {s : State} {b : BankWrite} {a : Atomic} {old : Nat}
    (hbank : (s.mach.cluster cl).bank = [b]) (hdue : b.due ≤ (s.mach.cluster cl).cyc) (hb : b.atomic = some a)
    (hsp : a.space = .sp) (hbad : s.mach.badByte cl b.core .sp (span a.addr a.n) = none)
    (hold : Spec.Holds (fun i => ((s.mach.cluster cl).scratch.byte (some 0) (a.addr + i)).getD 0) a.n old) :
    ∃ n, WritesSP cl (a.cells old) ((s.mach.modCluster cl fun c => { c with bank := [] }).performedOpt a.eff) n ∧
      exec (.scratchpadBankAccess cl) s =
        .next (s.modMach fun _ => n.fillResult ⟨cl, b.core, a.cx⟩ a.res (Spec.signed a.n old)) := by
  let m := (s.mach.modCluster cl fun c => { c with bank := [] }).performedOpt a.eff
  have hcluster : m.cluster cl = { s.mach.cluster cl with bank := [] } := by
    rw [Mach.cluster_performedOpt, Mach.cluster_modCluster_same]
  have hbad' : m.badByte cl b.core .sp (span a.addr a.n) = none := by
    rw [← hbad]
    unfold Mach.badByte
    rw [hcluster]
    rfl
  obtain ⟨n, hw, hn⟩ := Mach.performAtomic_sp (co := b.core) b.issued (a := { a with eff := none }) rfl hsp hbad'
    (by rw [hcluster]; exact hold)
  refine ⟨n, hw, ?_⟩
  rw [exec_scratchpadBankAccess_single hbank hdue]
  simp only [State.modMach, Mach.bankWrite, hb]
  rw [Mach.performAtomic_eff, hn]

section
variable (m : Mach) (cl : ClusterId)

theorem emptyBank_ctx (r : CtxRef) : (m.modCluster cl fun c => { c with bank := [] }).ctx r = m.ctx r :=
  m.ctx_modCluster_of_cores cl (f := fun c => { c with bank := [] }) (fun _ => rfl) r

theorem emptyBank_core (co : CoreId) : (m.modCluster cl fun c => { c with bank := [] }).core cl co = m.core cl co :=
  m.core_modCluster_of_cores cl (f := fun c => { c with bank := [] }) (fun _ => rfl) cl co

end

/-- A store at its bank writes its bytes, and no other byte or register (R204, R205). -/
theorem bankAccess_of_store {cl : ClusterId} {s : State} {b : BankWrite}
    (hbank : (s.mach.cluster cl).bank = [b]) (hdue : b.due ≤ (s.mach.cluster cl).cyc)
    (hwf : (s.mach.cluster cl).scratch.wf (some 0) = true) (hb : b.atomic = none) :
    ∃ t, exec (.scratchpadBankAccess cl) s = .next t ∧ (t.mach.cluster cl).bank = [] ∧
      (∀ a v, Spec.LastIs b.bytes a v → (t.mach.cluster cl).scratch.byte (some 0) a = some v) ∧
      (∀ a, a ∉ b.bytes.map Prod.fst →
        (t.mach.cluster cl).scratch.byte (some 0) a = (s.mach.cluster cl).scratch.byte (some 0) a) ∧
      (∀ co, (t.mach.core cl co).lm = (s.mach.core cl co).lm ∧
        (t.mach.core cl co).lmTags = (s.mach.core cl co).lmTags ∧ (t.mach.core cl co).acc = (s.mach.core cl co).acc ∧
        (t.mach.core cl co).drain = (s.mach.core cl co).drain) ∧
      (∀ r, (t.mach.ctx r).loads.map (fun l => { l with keep := [] }) =
        (s.mach.ctx r).loads.map fun l => { l with keep := [] }) ∧ Spec.SameRegs s.mach t.mach ∧
      (∀ d, d ≠ cl → t.mach.cluster d = s.mach.cluster d) ∧ t.mach.pk.vault = s.mach.pk.vault := by
  obtain ⟨n, hw, ht⟩ := exec_scratchpadBankAccess_store hbank hdue hb
  have hscratch : (n.cluster cl).scratch = (s.mach.cluster cl).scratch.putAll (some 0) b.bytes := by
    rw [hw.scratch, Mach.cluster_modCluster_same]
  have hctx : ∀ r, LoadsAlike (s.mach.ctx r) (n.ctx r) := fun r => emptyBank_ctx s.mach cl r ▸ hw.ctx r
  refine ⟨_, ht, ?_, fun a v h => ?_, fun a h => ?_, fun co => ?_, fun r => ?_, fun r => ?_, fun d hd => ?_, ?_⟩
  all_goals simp only [State.modMach_mach, Mach.cluster_performedOpt, Mach.core_performedOpt, Mach.ctx_performedOpt,
    Mach.vault_performedOpt]
  · rw [hw.bank, Mach.cluster_modCluster_same]
  · rw [hscratch]
    exact Memory.byte_putAll_of_lastIs hwf h
  · rw [hscratch]
    exact Memory.byte_putAll_other _ _ _ _ fun p hp e => h (e ▸ List.mem_map_of_mem hp)
  · exact emptyBank_core s.mach cl co ▸ hw.core co
  · obtain ⟨l, hl, hkeep⟩ := hctx r
    rw [hl]
    exact hkeep
  · exact (hctx r).regs
  · rw [hw.other d hd, Mach.cluster_modCluster_other _ _ _ _ hd]
  · rw [hw.pk]
    rfl

/-- The bytes of the scratchpad after an atomic that found a number there. -/
theorem Machine.Atomic.cells_spec (a : Atomic) {old : Nat} (hlt : old < 2 ^ (8 * a.n)) {m : Memory}
    (hm : m.wf (some 0) = true) :
    let w := 2 ^ (8 * a.n)
    let after := m.putAll (some 0) (a.cells old)
    let holds (v : Nat) : Prop := Spec.Holds (fun i => (after.byte (some 0) (a.addr + i)).getD 0) a.n v
    (∀ op, a.kind = .rmw op → holds (applyOp op a.n old (a.val.toNat % w) (a.exp.toNat % w))) ∧
    (a.kind = .store → holds (a.val.toNat % w)) ∧ (a.kind = .load → after = m) ∧
    ∀ x, x < a.addr ∨ a.addr + a.n ≤ x → after.byte (some 0) x = m.byte (some 0) x := by
  intro w after holds
  have hval : a.val.toNat % w < w := Nat.mod_lt _ (by positivity)
  have hwrites : ∀ v, a.newValue old = some v → v < w → holds v := fun v hv hv' => by
    refine ⟨hv', fun i hi => ?_⟩
    simp only [after, Atomic.cells, hv, Memory.byte_putAll_number a.addr a.n v hm hi, Option.getD_some]
  refine ⟨fun op hop => hwrites _ (by simp only [Atomic.newValue, hop, w]) (applyOp_lt op _ hlt hval),
    fun hop => hwrites _ (by simp only [Atomic.newValue, hop, w]) hval,
    fun hop => by simp only [after, Atomic.cells, Atomic.newValue, hop]; rfl, fun x hx => ?_⟩
  simp only [after, Atomic.cells]
  cases a.newValue old with
  | none => rfl
  | some v => exact Memory.byte_putAll_number_other a.addr a.n v hx

/-- An atomic at its bank reads the number there, writes what its operation makes of it, and gives it as its result. -/
theorem bankAccess_of_atomic {cl : ClusterId} {s : State} {b : BankWrite} {a : Atomic} {old : Nat}
    (hbank : (s.mach.cluster cl).bank = [b]) (hdue : b.due ≤ (s.mach.cluster cl).cyc)
    (hwf : (s.mach.cluster cl).scratch.wf (some 0) = true) (hb : b.atomic = some a) (hsp : a.space = .sp)
    (hbad : s.mach.badByte cl b.core .sp (span a.addr a.n) = none) :
    let r : CtxRef := ⟨cl, b.core, a.cx⟩
    let w := 2 ^ (8 * a.n)
    let byte (m : Mach) (i : Nat) : Byte := ((m.cluster cl).scratch.byte (some 0) (a.addr + i)).getD 0
    Spec.Holds (byte s.mach) a.n old →
    ∃ t, exec (.scratchpadBankAccess cl) s = .next t ∧ (t.mach.cluster cl).bank = [] ∧
      (∀ op, a.kind = .rmw op → Spec.Holds (byte t.mach) a.n (applyOp op a.n old (a.val.toNat % w) (a.exp.toNat % w))) ∧
      (a.kind = .store → Spec.Holds (byte t.mach) a.n (a.val.toNat % w)) ∧
      (a.kind = .load → (t.mach.cluster cl).scratch = (s.mach.cluster cl).scratch) ∧
      (∀ x, x < a.addr ∨ a.addr + a.n ≤ x →
        (t.mach.cluster cl).scratch.byte (some 0) x = (s.mach.cluster cl).scratch.byte (some 0) x) ∧
      (t.mach.ctx r).inflight = (match a.res with
        | none => (s.mach.ctx r).inflight
        | some id => (s.mach.ctx r).inflight.map fun f => if f.id = id then
            { f with val := (Spec.signed a.n old).setWidth 2048, ready := true } else f) ∧
      (∀ id, a.eff = some id → ∀ o ∈ t.mach.pk.outs, o.id ≠ id) ∧ Spec.SameRegs s.mach t.mach ∧
      (∀ co, (t.mach.core cl co).lm = (s.mach.core cl co).lm) ∧
      (∀ d, d ≠ cl → t.mach.cluster d = s.mach.cluster d) ∧ t.mach.pk.vault = s.mach.pk.vault := by
  intro r w byte hold
  obtain ⟨n, hw, ht⟩ := exec_scratchpadBankAccess_atomic hbank hdue hb hsp hbad hold
  obtain ⟨hfilled, hbankFilled⟩ := n.cluster_fillResult_same r a.res (Spec.signed a.n old)
  have hscratch : ((n.fillResult r a.res (Spec.signed a.n old)).cluster cl).scratch =
      (s.mach.cluster cl).scratch.putAll (some 0) (a.cells old) := by
    refine hfilled.trans (hw.scratch.trans ?_)
    rw [Mach.cluster_performedOpt, Mach.cluster_modCluster_same]
  have hctx : ∀ q, LoadsAlike (s.mach.ctx q) (n.ctx q) := fun q => by
    have hq := hw.ctx q
    rwa [Mach.ctx_performedOpt, emptyBank_ctx] at hq
  obtain ⟨hrmw, hstore, hload, hother⟩ := a.cells_spec hold.1 hwf
  rw [← hscratch] at hrmw hstore hload hother
  refine ⟨_, ht, ?_, hrmw, hstore, hload, hother, ?_, fun id hid => ?_, ?_, fun co => ?_, fun d hd => ?_, ?_⟩
  · refine hbankFilled.trans (hw.bank.trans ?_)
    rw [Mach.cluster_performedOpt, Mach.cluster_modCluster_same]
  · have hfill := n.inflight_fillResult r a.res (Spec.signed a.n old)
    obtain ⟨l, hl, -⟩ := hctx r
    rw [hl] at hfill
    exact hfill
  · rw [State.modMach_mach, Mach.pk_fillResult, hw.pk, hid]
    exact Mach.outs_performedOpt _ id
  · exact Spec.SameRegs.trans (fun q => (hctx q).regs) (n.sameRegs_fillResult r a.res _)
  · obtain ⟨hlm, -⟩ := hw.core co
    rw [State.modMach_mach, Mach.lm_fillResult, hlm, Mach.core_performedOpt, emptyBank_core]
  · rw [State.modMach_mach, Mach.cluster_fillResult_other _ _ _ _ hd, hw.other d hd, Mach.cluster_performedOpt,
      Mach.cluster_modCluster_other _ _ _ _ hd]
  · rw [State.modMach_mach, Mach.pk_fillResult, hw.pk, Mach.vault_performedOpt]
    rfl

end Sys2Proof
end

section
namespace Sys2Proof

open Machine

/-! ## TAG_CHECK_SAMPLE (R125) -/

/-- A single load that waits for its tag check is checked. -/
theorem exec_tagCheckSample_single {cl : ClusterId} {co : CoreId} {cx : CtxId} {s : State} {l : Load} {tg : BitVec 16}
    (hloads : (s.mach.ctx ⟨cl, co, cx⟩).loads = [l]) (htag : l.tag = some tg) (hdone : l.tagDone = false)
    (hat : l.memAt ≤ s.mach.cyc cl) :
    exec (.tagCheckSample cl co cx) s = .next (s.modMach fun m => m.checkTag ⟨cl, co, cx⟩ l) := by
  have hdue : (s.mach.ctx ⟨cl, co, cx⟩).loads.filter (fun l => l.tag.isSome && !l.tagDone &&
      decide (l.memAt ≤ s.mach.cyc cl)) = [l] := by
    simp [hloads, htag, hdone, hat]
  change Host.Outcome.next (s.modMach fun m => _) = _
  unfold State.modMach
  dsimp only
  rw [hdue]
  rfl

section
variable {m : Mach} {r : CtxRef} {l : Load} {tg : BitVec 16} (hloads : (m.ctx r).loads = [l])
include hloads

theorem checked_single : m.modCtx r (fun x =>
      { x with loads := x.loads.map fun y => if y.id = l.id then { y with tagDone := true } else y }) =
    m.modCtx r fun x => { x with loads := [{ l with tagDone := true }] } :=
  Mach.modCtx_congr (by simp [hloads])

theorem Machine.Mach.checkTag_of_match (htag : l.tag = some tg)
    (h : ∀ n ∈ l.lines, (m.core r.cl r.co).tag n = tg) :
    m.checkTag r l = m.modCtx r fun x => { x with loads := [{ l with tagDone := true }] } := by
  have hfind : (m.core r.cl r.co).mismatch l = none := by
    simpa [Core.mismatch, htag] using h
  simp only [Mach.checkTag, hfind, checked_single hloads]

theorem Machine.Mach.checkTag_of_mismatch (htag : l.tag = some tg) {n : Nat}
    (h : l.lines.find? (fun n => (m.core r.cl r.co).tag n != tg) = some n) :
    m.checkTag r l = (m.modCtx r fun x => { x with loads := [{ l with tagDone := true }] }).deferTrap
      { ctx := r, cause := 0x04, mask := 1#8 <<< l.slot.toNat, baddr := l.baddr,
        detail := BitVec.ofNat 64 (((m.core r.cl r.co).tag n).toNat * 2 ^ 32 + n * 256), pos := .sample,
        issued := l.issued, img := (m.ctx r).img, part := (m.ctx r).part } := by
  have hfind : (m.core r.cl r.co).mismatch l = some n := by
    simpa only [Core.mismatch, htag] using h
  simp only [Mach.checkTag, hfind, checked_single hloads, Mach.ctx_modCtx_same]

end

/-- The only trap that waits is taken, and none waits any longer. -/
theorem takeTraps_single {cl : ClusterId} {s : State} {t : Trap} (hpend : (s.mach.cluster cl).pend = [t])
    (hpos : t.pos ≠ .target) :
    s.takeTraps cl = { s with mach := (s.mach.modCluster cl fun c => { c with pend := [] }).trap t } := by
  have htake : ∀ m : Mach, m.takePending t = m.trap t := fun m => by
    unfold Mach.takePending
    cases h : t.pos with
    | target => exact absurd h hpos
    | issue _ | sample | effect => rfl
  simp only [State.takeTraps, State.modMach, hpend, List.length_singleton, Mach.takeAll, htake]

/-! ## EVENT_WRITE_OUT (R175) -/

theorem Machine.Core.areaOf_congr {k t : Core} (h : ∀ cx, (t.ctx cx).bindId = (k.ctx cx).bindId ∧
    (t.ctx cx).evtArea = (k.ctx cx).evtArea) (e : EvRecord) : t.areaOf e = k.areaOf e := by
  obtain ⟨hbind, harea⟩ := h e.cx
  simp only [Core.areaOf, hbind, harea]

/-- The oldest record leaves the queue and is counted for its context. -/
def Machine.Core.countRecord (k : Core) (cx : CtxId) (rest : List EvRecord) : Core :=
  ({ k with evq := rest, evOut := true } : Core).modCtx cx fun x => { x with evtK := x.evtK + 1 }

theorem Machine.Core.ctx_countRecord (k : Core) (cx : CtxId) (rest : List EvRecord) (c : CtxId) :
    (k.countRecord cx rest).ctx c =
      if c = cx then { k.ctx c with evtK := (k.ctx c).evtK + 1 } else k.ctx c := by
  by_cases h : c = cx
  · subst h
    rw [if_pos rfl, Core.countRecord, Core.ctx_modCtx_same]
    rfl
  · rw [if_neg h, Core.countRecord, Core.ctx_modCtx_other _ _ _ _ h]
    rfl

/-- The bytes of a record at its place of the area (R175). -/
def Machine.Core.recordCells (k : Core) (e : EvRecord) (b n : Nat) : List (Nat × Byte) :=
  cellsAt (b + 16 * ((k.ctx e.cx).evtK % n)) (bytesOfNat 16 e.bits.toNat)

/-- A core after the oldest record has been written at its place of the area, before the heads are dropped. -/
def Machine.Core.wroteOut (k : Core) (e : EvRecord) (rest : List EvRecord) (b n : Nat) : Core :=
  (k.writeLM none (k.recordCells e b n)).countRecord e.cx rest

section
variable (k : Core) (e : EvRecord) (rest : List EvRecord) (b n : Nat)

theorem Machine.Core.lm_wroteOut : (k.wroteOut e rest b n).lm = k.lm.putAll (some 0) (k.recordCells e b n) := by
  obtain ⟨bad, h⟩ := k.writeLM_eq none (k.recordCells e b n)
  rw [Core.wroteOut, h, Core.countRecord, Core.modCtx_lm]

/-- Beside what the loads keep, a context changes in the count of its records alone. -/
theorem Machine.Core.ctx_wroteOut (cx : CtxId) : ∃ x, LoadsAlike (k.ctx cx) x ∧
    (k.wroteOut e rest b n).ctx cx = if cx = e.cx then { x with evtK := x.evtK + 1 } else x :=
  ⟨_, k.ctx_writeLM none (k.recordCells e b n) cx, Core.ctx_countRecord ..⟩

theorem Machine.Core.areaOf_wroteOut (q : EvRecord) : (k.wroteOut e rest b n).areaOf q = k.areaOf q := by
  refine Core.areaOf_congr (fun cx => ?_) q
  obtain ⟨x, ⟨l, rfl, -⟩, h⟩ := k.ctx_wroteOut e rest b n cx
  rw [h]
  split <;> exact ⟨rfl, rfl⟩

theorem Machine.Core.regs_wroteOut (cx : CtxId) : ((k.wroteOut e rest b n).ctx cx).regs = (k.ctx cx).regs := by
  obtain ⟨x, ⟨l, rfl, -⟩, h⟩ := k.ctx_wroteOut e rest b n cx
  rw [h]
  split <;> rfl

theorem Machine.Core.evtK_wroteOut : ((k.wroteOut e rest b n).ctx e.cx).evtK = (k.ctx e.cx).evtK + 1 := by
  obtain ⟨x, ⟨l, rfl, -⟩, h⟩ := k.ctx_wroteOut e rest b n e.cx
  rw [h, if_pos rfl]

end

theorem Machine.Mach.modCore_congr {m : Mach} {cl : ClusterId} {co : CoreId} {f g : Core → Core}
    (h : f (m.core cl co) = g (m.core cl co)) : m.modCore cl co f = m.modCore cl co g :=
  congrArg (m.setCore cl co) h

section
variable {cl : ClusterId} {co : CoreId} {s : State} {e : EvRecord} {rest : List EvRecord}
  (hq : (s.mach.core cl co).evq = e :: rest) (hissued : (s.mach.core cl co).issuedC = false)
  (hdrained : (s.mach.core cl co).drained = 0)
include hq hissued hdrained

theorem exec_eventWriteOut_of_no_area (harea : (s.mach.core cl co).areaOf e = none) :
    exec (.eventWriteOut cl co) s = .next (s.modMach fun m => m.modCore cl co Core.dropHeads) := by
  refine congrArg (fun m => Host.Outcome.next ({ s with mach := m } : State)) (Mach.modCore_congr ?_)
  simp only [hq, hissued, hdrained, harea, ne_eq, not_true_eq_false, decide_false, Bool.or_self, Bool.false_eq_true,
    if_false]

theorem exec_eventWriteOut_of_area {b n : Nat} (harea : (s.mach.core cl co).areaOf e = some (b, n)) :
    exec (.eventWriteOut cl co) s =
      .next (s.modMach fun m => m.modCore cl co fun k => (k.wroteOut e rest b n).dropHeads) := by
  refine congrArg (fun m => Host.Outcome.next ({ s with mach := m } : State)) (Mach.modCore_congr ?_)
  simp only [hq, hissued, hdrained, harea, ne_eq, not_true_eq_false, decide_false, Bool.or_self, Bool.false_eq_true,
    if_false]
  rfl

end

theorem Machine.Core.evq_dropHeads_of_no_area {k : Core} {e : EvRecord} {rest : List EvRecord}
    (hq : k.evq = e :: rest) (harea : k.areaOf e = none) :
    k.dropHeads.evq = rest.dropWhile fun q => (k.areaOf q).isNone := by
  simp only [Core.dropHeads, hq]
  exact List.dropWhile_cons_of_pos (by rw [harea]; rfl)

theorem Machine.Core.evq_dropHeads_wroteOut (k : Core) (e : EvRecord) (rest : List EvRecord) (b n : Nat) :
    (k.wroteOut e rest b n).dropHeads.evq = rest.dropWhile fun q => (k.areaOf q).isNone := by
  have hevq : (k.wroteOut e rest b n).evq = rest := rfl
  simp only [Core.dropHeads, hevq, Core.areaOf_wroteOut]

/-- The bytes of a record lie at its place of the area, lowest first; no other byte of LM changes. -/
theorem Machine.Core.byte_wroteOut (k : Core) (e : EvRecord) (rest : List EvRecord) (b n : Nat)
    (hlm : k.lm.wf (some 0) = true) :
    let first := b + 16 * ((k.ctx e.cx).evtK % n)
    (∀ j, j < 16 → (k.wroteOut e rest b n).lm.byte (some 0) (first + j) = some (e.bits.extractLsb' (8 * j) 8)) ∧
    ∀ a, a < first ∨ first + 16 ≤ a → (k.wroteOut e rest b n).lm.byte (some 0) a = k.lm.byte (some 0) a := by
  intro first
  rw [Core.lm_wroteOut]
  refine ⟨fun j hj => ?_, fun a ha => Memory.byte_putAll_number_other first 16 e.bits.toNat ha⟩
  refine (Memory.byte_putAll_number first 16 e.bits.toNat hlm hj).trans (congrArg some ?_)
  rw [← Nat.shiftRight_eq_div_pow]
  rfl

@[simp] theorem Machine.Core.ctx_dropHeads (k : Core) (cx : CtxId) : k.dropHeads.ctx cx = k.ctx cx := rfl
@[simp] theorem Machine.Core.lm_dropHeads (k : Core) : k.dropHeads.lm = k.lm := rfl

section
variable {cl : ClusterId} {co : CoreId} {s : State} {e : EvRecord} {rest : List EvRecord}
  (hq : (s.mach.core cl co).evq = e :: rest) (hissued : (s.mach.core cl co).issuedC = false)
  (hdrained : (s.mach.core cl co).drained = 0)
include hq hissued hdrained

/-- A record with no area to go to is discarded, with those behind it that have none either (R175). -/
theorem eventWriteOut_of_no_area (harea : (s.mach.core cl co).areaOf e = none) :
    ∃ t, exec (.eventWriteOut cl co) s = .next t ∧
      (t.mach.core cl co).evq = rest.dropWhile (fun q => ((s.mach.core cl co).areaOf q).isNone) ∧
      Spec.SameRegs s.mach t.mach ∧ Spec.SameMemory s.mach t.mach := by
  refine ⟨_, exec_eventWriteOut_of_no_area hq hissued hdrained harea, ?_, ?_, ?_⟩
  · rw [State.modMach_mach, Mach.core_modCore_same]
    exact Core.evq_dropHeads_of_no_area hq harea
  · exact Spec.SameRegs.modCore _ _ _ fun _ _ => rfl
  · exact Spec.SameMemory.modCore _ _ _ fun _ => ⟨rfl, rfl, rfl, rfl⟩

/-- A record with an area goes to its place there, and is counted for its context (R175). -/
theorem eventWriteOut_of_area {b n : Nat} (harea : (s.mach.core cl co).areaOf e = some (b, n))
    (hlm : (s.mach.core cl co).lm.wf (some 0) = true) :
    ∃ t, exec (.eventWriteOut cl co) s = .next t ∧
      let k := s.mach.core cl co
      let first := b + 16 * ((k.ctx e.cx).evtK % n)
      (t.mach.core cl co).evq = rest.dropWhile (fun q => (k.areaOf q).isNone) ∧
      (t.mach.ctx ⟨cl, co, e.cx⟩).evtK = (k.ctx e.cx).evtK + 1 ∧
      (∀ j, j < 16 → (t.mach.core cl co).lm.byte (some 0) (first + j) = some (e.bits.extractLsb' (8 * j) 8)) ∧
      (∀ a, a < first ∨ first + 16 ≤ a → (t.mach.core cl co).lm.byte (some 0) a = k.lm.byte (some 0) a) ∧
      Spec.SameRegs s.mach t.mach ∧ Spec.OtherCores cl co s.mach t.mach := by
  refine ⟨_, exec_eventWriteOut_of_area hq hissued hdrained harea, ?_⟩
  intro k first
  have hcore : ((s.modMach fun m => m.modCore cl co fun k => (k.wroteOut e rest b n).dropHeads).mach.core cl co) =
      (k.wroteOut e rest b n).dropHeads := Mach.core_modCore_same ..
  rw [Mach.ctx, hcore, Core.evq_dropHeads_wroteOut, Core.ctx_dropHeads, Core.evtK_wroteOut, Core.lm_dropHeads]
  obtain ⟨hbytes, hother⟩ := k.byte_wroteOut e rest b n hlm
  refine ⟨rfl, rfl, hbytes, hother, Spec.SameRegs.modCore _ _ _ fun k cx => ?_, Spec.OtherCores.modCore _ _ _ _⟩
  rw [Core.ctx_dropHeads, Core.regs_wroteOut]

end

/-! ## TIMED_TRANSFER_ARRIVAL (R213) -/

@[simp] theorem Machine.FMap.put_put_same {α : Type} (m : FMap α) (k : Nat) (v w : α) :
    (FMap.put m k v).put k w = m.put k w := by
  induction m with
  | nil => simp [FMap.put]
  | cons p l ih =>
    obtain ⟨i, u⟩ := p
    rcases Nat.lt_trichotomy k i with h | h | h
    · simp [FMap.put, h]
    · simp [FMap.put, h]
    · simp [FMap.put, Nat.lt_asymm h, Nat.ne_of_gt h, ih]

/-- An update of a cluster and then of one of its cores is one update of the cluster. -/
theorem Machine.Mach.modCore_modCluster (m : Mach) (cl : ClusterId) (co : CoreId) (f : Cluster → Cluster)
    (g : Core → Core) : (m.modCluster cl f).modCore cl co g =
      m.modCluster cl fun c => (f c).setCore co (g ((f c).core co)) := by
  simp only [Mach.modCore, Mach.setCore, Mach.modCluster, Mach.core, Mach.cluster_setCluster_same]
  simp only [Mach.setCluster, FMap.put_put_same]

/-- A cluster once the arrivals of a core have come. -/
def Machine.Cluster.dropArrived (c : Cluster) (co : CoreId) : Cluster :=
  { c with arrivals := c.arrivals.filter fun x => !(x.dst == co && decide (x.due ≤ c.cyc)) }

/-- A core whose latches hold one arrival, in the latch of its sender (R213). -/
def Machine.Core.latchOnly (k : Core) (a : Arrival) : Core := { k with latches := [(a.sender.toNat, (a.vec, a.val))] }

/-- A single arrival of the cycle is all that the latches hold. -/
theorem exec_timedTransferArrival_single {cl : ClusterId} {co : CoreId} {s : State} {a : Arrival}
    (h : (s.mach.cluster cl).arrivals.filter (fun x => x.dst == co && decide (x.due ≤ (s.mach.cluster cl).cyc)) = [a]) :
    exec (.timedTransferArrival cl co) s = .next (s.modMach fun m =>
      (m.modCluster cl fun c => c.dropArrived co).modCore cl co fun k => k.latchOnly a) := by
  refine congrArg (fun m => Host.Outcome.next ({ s with mach := m } : State)) ?_
  dsimp only
  rw [Mach.modCore_modCluster]
  refine Mach.modCluster_congr ?_
  rw [h]
  rfl

section
variable (m : Mach) (cl : ClusterId) (co : CoreId)

theorem core_dropArrived (cl' : ClusterId) (co' : CoreId) :
    (m.modCluster cl fun c => c.dropArrived co).core cl' co' = m.core cl' co' :=
  m.core_modCluster_of_cores cl (f := fun c => c.dropArrived co) (fun _ => rfl) cl' co'

theorem sameRegs_dropArrived : Spec.SameRegs m (m.modCluster cl fun c => c.dropArrived co) := fun r => by
  rw [Mach.ctx, core_dropArrived, Mach.ctx]

theorem sameMemory_dropArrived : Spec.SameMemory m (m.modCluster cl fun c => c.dropArrived co) :=
  Spec.SameMemory.modCluster m cl fun _ => ⟨rfl, rfl, rfl⟩

end

/-- Settles O51: the tag check and its trap, the accesses at a scratchpad bank, the record that leaves the event queue,
and the arrival of a timed transfer. -/
theorem coreSampleEvents : Obligations.CoreSampleEvents := by
  unfold Obligations.CoreSampleEvents
  refine ⟨fun cl co cx s l tg => ?_, fun cl s t hpend hpos => takeTraps_single hpend hpos, fun cl s b => ?_,
    fun cl co s e rest => ?_, fun cl co s a => ?_⟩
  · intro r k x m hloads htag hdone hat
    rw [exec_tagCheckSample_single hloads htag hdone hat]
    refine ⟨fun h => ?_, fun n h => ?_⟩
    · exact congrArg (fun m => Host.Outcome.next ({ s with mach := m } : State))
        (Mach.checkTag_of_match hloads htag h)
    · exact congrArg (fun m => Host.Outcome.next ({ s with mach := m } : State))
        (Mach.checkTag_of_mismatch hloads htag h)
  · intro c hbank hdue hwf
    refine ⟨fun hb => bankAccess_of_store hbank hdue hwf hb, ?_⟩
    intro a old r w byte hb hsp _ hbad hold
    exact bankAccess_of_atomic hbank hdue hwf hb hsp hbad hold
  · intro k cx x area after hq hissued hdrained
    exact ⟨fun harea => eventWriteOut_of_no_area hq hissued hdrained harea,
      fun b n harea hlm => eventWriteOut_of_area hq hissued hdrained harea hlm⟩
  · intro c mine h
    refine ⟨_, exec_timedTransferArrival_single h, fun n => ?_, ?_, fun cl' co' hne => ?_, ?_, ?_⟩
    · rw [State.modMach_mach, Mach.core_modCore_same]
      simp only [Core.latchOnly, FMap.find, @eq_comm _ n]
    · rw [State.modMach_mach, Mach.cluster_modCore_same, Cluster.setCore_arrivals, Mach.cluster_modCluster_same]
      rfl
    · exact (Spec.OtherCores.modCore _ cl co _ cl' co' hne).trans (core_dropArrived s.mach cl co cl' co')
    · exact (sameRegs_dropArrived s.mach cl co).trans (Spec.SameRegs.modCore _ cl co fun _ _ => rfl)
    · exact (sameMemory_dropArrived s.mach cl co).trans
        (Spec.SameMemory.modCore _ cl co fun _ => ⟨rfl, rfl, rfl, rfl⟩)

end Sys2Proof
end

section
namespace Sys2Proof

open Machine

/-! ## The checks of a matrix slot, in their order (R24) -/

section
variable {s : State} {h : Head} (hs : Spec.Runs s h) {slots : List AccSlot} {tileOk : Bool} {tile : Nat}
  {accs : List (List Nat)} {operand : Option Word} {f : State → State}
include hs

theorem Machine.State.matrixChecked_of_busy (d : Nat) :
    s.matrixChecked h (some d) slots tileOk tile accs operand f = s.raise 0x08 (BitVec.ofNat 64 d) :=
  State.checkedSlot_true hs.1 _

theorem Machine.State.matrixChecked_of_conflict {w : AccSlot}
    (hconflict : (s.pre.core s.iss.cl s.iss.co).rowConflict slots = some w) :
    s.matrixChecked h none slots tileOk tile accs operand f = s.raise 0x09 (conflictDetail s.now w) := by
  simp only [State.matrixChecked, State.checkedSlot_true hs.1, hconflict]

variable (hfree : (s.pre.core s.iss.cl s.iss.co).rowConflict slots = none)
include hfree

theorem Machine.State.matrixChecked_of_no_tile :
    s.matrixChecked h none slots false tile accs operand f = s.raise 0x0A (addrDetail 5 tile) := by
  simp only [State.matrixChecked, State.checkedSlot_true hs.1, hfree, Bool.not_false, if_true]

theorem Machine.State.matrixChecked_of_fault {a kd : Nat}
    (hfault : accessFault s.pre s.preCtx .loadLM false accs = some (a, kd)) :
    s.matrixChecked h none slots true tile accs operand f = s.raise 0x0A (addrDetail kd a) := by
  simp only [State.matrixChecked, State.checkedSlot_true hs.1, hfree, hfault, Bool.not_true, Bool.false_eq_true,
    if_false]

variable (hpass : accessFault s.pre s.preCtx .loadLM false accs = none)
include hpass

theorem Machine.State.matrixChecked_of_operand (d : Word) :
    s.matrixChecked h none slots true tile accs (some d) f = s.raise 0x14 d := by
  simp only [State.matrixChecked, State.checkedSlot_true hs.1, hfree, hpass, Bool.not_true, Bool.false_eq_true,
    if_false]

theorem Machine.State.matrixChecked_of_passes : s.matrixChecked h none slots true tile accs none f = f s := by
  simp only [State.matrixChecked, State.checkedSlot_true hs.1, hfree, hpass, Bool.not_true, Bool.false_eq_true,
    if_false]
  exact State.perform_calm hs.2 f

end

/-! ## Loads and exchanges of planes (R136, R141, R142) -/

/-- A load of the shadow plane is in its window of P cycles (R136; log entry 19). -/
def Machine.Core.Loading (k : Core) (now : Nat) : Prop := ∃ l, k.load = some l ∧ now < l.org.issued + 2 + l.p

theorem Machine.Core.loading_iff (k : Core) (now : Nat) :
    (k.load.any fun l => decide (now < l.org.issued + 2 + l.p)) = true ↔ k.Loading now := by
  cases h : k.load <;> simp [Core.Loading, h]

/-- The lines of a run of 256-byte lines. -/
def lineSpans (base n : Nat) : List (List Nat) := (List.range n).map fun j => span (base + j * 256) 256

/-- The low and the high half of a register, as the numbers that the statements name. -/
theorem toNat_halves (w : Word) :
    (w.setWidth 32 : BitVec 32).toNat = w.toNat % 2 ^ 32 ∧ (w.extractLsb' 32 32).toNat = w.toNat / 2 ^ 32 := by
  refine ⟨BitVec.toNat_setWidth .., ?_⟩
  rw [BitVec.extractLsb'_toNat, Nat.shiftRight_eq_div_pow]
  omega

/-- A plane load's update of the core: the shadow plane is emptied, and its lines are to come (R136, R141). -/
def Machine.State.beginLoad (s : State) (k : MKind) (desc : BitVec 20) (sparse : Bool)
    (base sbase nv ns nm : Nat) : State :=
  s.modCore fun c => { c with
    shadowPlane := ⟨k, desc, sparse, [], [], [], 0, c.shadowPlane.buf⟩,
    load := some ⟨s.origin, base, sbase, planeLines k, nv, ns, nm, base + nv * 256⟩ }

/-- mld and mld.sp are one matrix slot on the numbers that their register holds. -/
theorem loadPlane_eq (sparse : Bool) (h : Head) (k : MKind) (a : BitVec 5) (s : State) {base sbase nv ns nm : Nat}
    (hbase : ((s.sreg (a.setWidth 6)).setWidth 32 : BitVec 32).toNat = base)
    (hsbase : ((s.sreg (a.setWidth 6)).extractLsb' 32 32).toNat = sbase)
    (hnv : (if sparse then kindDepth k (kindDesc s.regs k) / 2 * planeRow k (kindDesc s.regs k) / 256
      else planeLines k) = nv)
    (hns : scaleLines k (kindDesc s.regs k) = ns) (hnm : metaLines sparse k (kindDesc s.regs k) = nm) :
    loadPlane sparse h k a s = s.matrixChecked h
      (if s.now + 2 ≤ (s.pre.core s.iss.cl s.iss.co).shadowPlane.useUntil then some 2
        else if (s.pre.core s.iss.cl s.iss.co).load.any fun l => decide (s.now < l.org.issued + 2 + l.p) then some 3
        else none)
      [] (s.preCtx.tiles != 0) 32 (lineSpans base nv ++ lineSpans sbase ns ++ lineSpans (base + nv * 256) nm)
      (if base % 256 ≠ 0 ∨ (ns ≠ 0 ∧ sbase % 256 ≠ 0) then some (matrixDetail 0 0 3) else none)
      fun u => u.beginLoad k (kindDesc s.regs k) sparse base sbase nv ns nm := by
  unfold loadPlane
  dsimp only
  rw [hbase, hsbase, hnv, hns, hnm]
  rfl

/-- mswp is a matrix slot with no accesses. -/
theorem exec_mswp_eq (h : Head) (s : State) :
    exec (.mswp h) s = .next (s.matrixChecked h
      (if (s.pre.core s.iss.cl s.iss.co).load.any fun l => decide (s.now < l.org.issued + 2 + l.p) then some 4
        else none)
      [] (s.preCtx.tiles != 0) 32 [] none
      fun s => s.modCore fun c => { c with plane := c.shadowPlane, shadowPlane := c.plane }) := rfl

/-- Settles O32: the order of the checks of mld, mld.sp and mswp, and what each does to the planes. -/
theorem planeSlots : Obligations.PlaneSlots := by
  intro h s hs k loading noTile tileTrap
  have hloading : _ ↔ loading := k.loading_iff s.now
  have hfree : k.rowConflict [] = none := rfl
  have hnone : noTile → (s.preCtx.tiles != 0) = false := fun ht => bne_eq_false_iff_eq.mpr ht
  have hsome : ¬noTile → (s.preCtx.tiles != 0) = true := fun ht => bne_iff_ne.mpr ht
  refine ⟨fun kind a sparse => ?_, fun hl => ?_, fun hl ht => ?_, fun hl ht => ?_⟩
  · intro i w base sbase desc nv ns nm lines check aligned inUse
    obtain ⟨hlow, hhigh⟩ := toNat_halves (s.sreg (a.setWidth 6))
    have hexec : exec i s = .next (loadPlane sparse h kind a s) := by cases sparse <;> rfl
    rw [loadPlane_eq sparse h kind a s hlow hhigh (rfl : _ = nv) (rfl : _ = ns) (rfl : _ = nm)] at hexec
    have haligned : (base % 256 ≠ 0 ∨ (ns ≠ 0 ∧ sbase % 256 ≠ 0)) ↔ ¬aligned := by
      simp only [aligned, not_and_or, Classical.not_imp, ne_eq]
    refine ⟨fun hu => ?_, fun hu hl => ?_, fun hu hl ht => ?_, fun f kd hu hl ht hc => ?_, fun hu hl ht hc ha => ?_,
      fun hu hl ht hc ha => ?_⟩ <;> refine hexec.trans (congrArg _ ?_)
    · rw [if_pos hu]
      exact State.matrixChecked_of_busy hs _
    · rw [if_neg hu, if_pos (hloading.mpr hl)]
      exact State.matrixChecked_of_busy hs _
    all_goals rw [if_neg hu, if_neg (mt hloading.mp hl)]
    · rw [hnone ht]
      exact State.matrixChecked_of_no_tile hs hfree
    · rw [hsome ht]
      exact State.matrixChecked_of_fault hs hfree hc
    · rw [hsome ht, if_pos (haligned.mpr ha)]
      exact State.matrixChecked_of_operand hs hfree hc _
    · rw [hsome ht, if_neg (mt haligned.mp (not_not.mpr ha))]
      exact State.matrixChecked_of_passes hs hfree hc
  · rw [exec_mswp_eq, if_pos (hloading.mpr hl), State.matrixChecked_of_busy hs]
    rfl
  · rw [exec_mswp_eq, if_neg (mt hloading.mp hl), hnone ht, State.matrixChecked_of_no_tile hs hfree]
    rfl
  · rw [exec_mswp_eq, if_neg (mt hloading.mp hl), hsome ht, State.matrixChecked_of_passes hs hfree rfl]

end Sys2Proof
end

section
namespace Sys2Proof

open Machine

/-! ## The slots on accumulator rows (R24, R135, R137) -/

/-- The outcomes of a slot that writes or reads rows of a tile, in the order of its checks (R24): a row conflict, the
missing tile, a refused access, a refused operand, and the effect. -/
def AnswersRows (s : State) (t : Tile) (i : Instr) (slots : List AccSlot) (access : Option State)
    (operand : Option Word) (v : State) : Prop :=
  let conflict := (s.pre.core s.iss.cl s.iss.co).rowConflict slots
  let owned : Prop := s.ownsTile t = true
  (∀ w, conflict = some w → exec i s = .next (s.raise 0x09 (conflictDetail s.now w))) ∧
  (conflict = none → ¬owned → exec i s = .next (s.raise 0x0A (BitVec.ofNat 64 (5 * 2 ^ 32 + t.toNat)))) ∧
  (∀ u, conflict = none → owned → access = some u → exec i s = .next u) ∧
  (∀ x, conflict = none → owned → access = none → operand = some x → exec i s = .next (s.raise 0x14 x)) ∧
  (conflict = none → owned → access = none → operand = none → exec i s = .next v)

/-- A matrix slot that no unit holds up answers its checks in order. -/
theorem answersRows_of_matrixChecked {s : State} {h : Head} (hs : Spec.Runs s h) {t : Tile} {i : Instr}
    {slots : List AccSlot} {accs : List (List Nat)} {operand : Option Word} {f : State → State} {v : State}
    (hexec : exec i s = .next (s.matrixChecked h none slots (s.ownsTile t) t.toNat accs operand f)) (hv : f s = v) :
    AnswersRows s t i slots
      ((accessFault s.pre s.preCtx .loadLM false accs).map fun p => s.raise 0x0A (addrDetail p.2 p.1)) operand v := by
  have htile : addrDetail 5 t.toNat = BitVec.ofNat 64 (5 * 2 ^ 32 + t.toNat) := by
    rw [addrDetail, Nat.mod_eq_of_lt (t.isLt.trans (by decide))]
  unfold AnswersRows
  refine ⟨fun w hc => ?_, fun hc ho => ?_, fun u hc ho ha => ?_, fun x hc ho ha hx => ?_, fun hc ho ha hx => ?_⟩ <;>
    refine hexec.trans (congrArg _ ?_)
  · exact State.matrixChecked_of_conflict hs hc
  · rw [Bool.eq_false_iff.mpr ho, State.matrixChecked_of_no_tile hs hc, htile]
  · obtain ⟨⟨a, kd⟩, hfault, rfl⟩ := Option.map_eq_some_iff.mp ha
    rw [ho]
    exact State.matrixChecked_of_fault hs hc hfault
  · rw [ho, hx]
    exact State.matrixChecked_of_operand hs hc (Option.map_eq_none_iff.mp ha) x
  · rw [ho, hx, State.matrixChecked_of_passes hs hc (Option.map_eq_none_iff.mp ha), hv]

/-- The fields of a register that count and name rows (R135, R144). -/
theorem toNat_rowFields (w : Word) :
    (w.setWidth 8 : BitVec 8).toNat = w.toNat % 256 ∧ (w.extractLsb' 8 7).toNat = w.toNat / 256 % 128 ∧
      (w.extractLsb' 0 7).toNat = w.toNat % 128 := by
  refine ⟨BitVec.toNat_setWidth .., ?_, ?_⟩
  · rw [BitVec.extractLsb'_toNat, Nat.shiftRight_eq_div_pow]
  · rw [BitVec.extractLsb'_toNat, Nat.shiftRight_zero]

/-- An origin is the issuing bundle and slot, whatever the slot has done. -/
theorem Machine.State.origin_congr {s u : State} (hiss : u.iss = s.iss) (h : Spec.SameBlocks s.mach u.mach) :
    u.origin = s.origin := by
  simp only [State.origin, State.now_congr hiss h, hiss]

/-- What a slot marks as unrestartable it issues in the same cycle, from the same bundle and slot. -/
theorem Machine.State.now_origin_noRestart (s : State) : s.noRestart.now = s.now ∧ s.noRestart.origin = s.origin := by
  have hblocks := (Mach.Kept.noRestart (L := fun _ => False) s).blocks
  exact ⟨State.now_congr rfl hblocks, State.origin_congr rfl hblocks⟩

/-- A write of accumulator rows is scheduled for c+2, and the region cannot restart (R137). -/
theorem Machine.State.accWrite_eq (s : State) (t : Tile) (op : AccWriteOp) :
    s.accWrite t op = s.noRestart.modCore fun c => { c with accW := c.accW ++ [⟨s.origin, s.now + 2, t, op⟩] } := by
  obtain ⟨hnow, horigin⟩ := s.now_origin_noRestart
  rw [← hnow, ← horigin]
  rfl

/-- A read of an accumulator row is sampled at c+2 and lands later (R146, R148). -/
def Machine.State.readRow (s : State) (t : Tile) (row lat : Nat) (d : RegDest) (op : AccReadOp) : State :=
  (s.await lat d (BitVec.allOnes 256)).2.modCore fun c => { c with
    accR := c.accR ++ [⟨s.origin, s.now + 2, t, row, op, (s.await lat d (BitVec.allOnes 256)).1⟩],
    accLand := max c.accLand (s.now + lat) }

theorem Machine.State.accRead_eq (s : State) (h : Head) (t : Tile) (b : BitVec 5) (lat : Nat) (d : RegDest)
    (op : AccReadOp) : ∃ f, s.accRead h t b lat d op = s.matrixChecked h none [] (s.ownsTile t) t.toNat [] none f ∧
      f s = s.readRow t ((s.sreg (b.setWidth 6)).toNat % 128) lat d op := by
  refine ⟨_, rfl, ?_⟩
  have hblocks := (Mach.Kept.await (L := fun _ => False) s lat d (BitVec.allOnes 256)).blocks
  have hnow : (s.await lat d (BitVec.allOnes 256)).2.now = s.now := State.now_congr rfl hblocks
  have horigin : (s.await lat d (BitVec.allOnes 256)).2.origin = s.origin := State.origin_congr rfl hblocks
  rw [State.readRow, ← hnow, ← horigin, ← (toNat_rowFields _).2.2]
  rfl

/-- The activation rows of an mma, and their scale rows (R135). -/
def activationSpans (base sbase rb sb rows : Nat) (scaled : Bool) : List (List Nat) :=
  (List.range rows).map (fun r => span (base + r * rb) rb) ++
    (if scaled then (List.range rows).map fun r => span (sbase + 8 * r) sb else [])

/-- What R140 refuses in an mma of at least one row, by the reasons' order. -/
def mmaRefusal (m row0 rb base sbase depth planeDepth : Nat) (scaled : Bool) : Option Word :=
  if 128 < m then some (matrixDetail m row0 1)
  else if 128 < row0 + m then some (matrixDetail m row0 2)
  else if base % rb ≠ 0 ∨ (scaled ∧ sbase % 8 ≠ 0) then some (matrixDetail m row0 3)
  else if depth ≠ planeDepth then some (matrixDetail m row0 4)
  else none

/-- An mma of at least one row holds the unit and its plane, and its rows are to come (R135, R136). -/
def Machine.State.beginMma (s : State) (x : Mma) : State :=
  s.noRestart.modCore fun c => { c with
    mmaNext := x.org.issued + x.g * x.m,
    plane := { c.plane with useUntil := max c.plane.useUntil (x.org.issued + 24 + x.g * (x.m - 1)) },
    mmas := c.mmas ++ [x] }

section
variable {h : Head} {kind : MKind} {t : Tile} {a b : BitVec 5} {s : State}

theorem exec_mma_of_busy (hs : Spec.Runs s h) (hbusy : s.now < (s.pre.core s.iss.cl s.iss.co).mmaNext) :
    exec (.mma h kind t a b) s = .next (s.raise 0x08 1) := by
  change Host.Outcome.next (s.matrixChecked h (if _ then some 1 else none) _ _ _ _ _ _) = _
  rw [if_pos hbusy]
  exact congrArg _ (State.matrixChecked_of_busy hs _)

variable (hfree : (s.pre.core s.iss.cl s.iss.co).mmaNext ≤ s.now)
include hfree

/-- An mma of no rows checks its tile alone. -/
theorem exec_mma_of_no_rows (hm : ((s.sreg (b.setWidth 6)).setWidth 8 : BitVec 8).toNat = 0) :
    exec (.mma h kind t a b) s = .next (s.matrixChecked h none [] (s.ownsTile t) t.toNat [] none
      fun u => u.noRestart.modCore fun c => { c with mmaNext := u.noRestart.now + 1 }) := by
  simp only [exec, execMma, hm, if_true, if_neg (Nat.not_lt.mpr hfree), Nat.zero_min]
  rfl

/-- An mma of rows checks their writes, their reads, and what R140 asks. -/
theorem exec_mma_of_rows {base sbase m row0 g : Nat}
    (hbase : ((s.sreg (a.setWidth 6)).setWidth 32 : BitVec 32).toNat = base)
    (hsbase : ((s.sreg (a.setWidth 6)).extractLsb' 32 32).toNat = sbase)
    (hm : ((s.sreg (b.setWidth 6)).setWidth 8 : BitVec 8).toNat = m)
    (hrow0 : ((s.sreg (b.setWidth 6)).extractLsb' 8 7).toNat = row0)
    (hg : (if kindWide kind || kindWide (s.pre.core s.iss.cl s.iss.co).plane.kind then 4 else 1) = g) (hpos : m ≠ 0) :
    let desc := kindDesc s.regs kind
    let core := s.pre.core s.iss.cl s.iss.co
    let rows := min m (128 - row0)
    exec (.mma h kind t a b) s = .next (s.matrixChecked h none (mmaSlots s.now g t.toNat row0 rows) (s.ownsTile t)
      t.toNat
      (activationSpans base sbase (actRow kind desc) (kindDepth kind desc / 32) rows (kindScaled kind desc))
      (mmaRefusal m row0 (actRow kind desc) base sbase (kindDepth kind desc) core.plane.depth (kindScaled kind desc))
      fun u => u.beginMma ⟨u.noRestart.origin, t, row0, m, kind, desc, base, sbase, g, core.plane, []⟩) := by
  intro desc core rows
  simp only [exec, execMma, hbase, hsbase, hm, hrow0, hg, if_neg (Nat.not_lt.mpr hfree), if_neg hpos]
  rfl

end

/-- Settles O33: each slot on accumulator rows is a matrix slot with its own checks and effect. -/
theorem accumulatorSlots : Obligations.AccumulatorSlots := by
  intro h t s hs k org owned tileTrap u detail writes lands
  obtain ⟨hnow, horigin⟩ := s.now_origin_noRestart
  have hlands : ∀ op, s.accWrite t op = lands op := s.accWrite_eq t
  refine ⟨fun a b => ?_, fun kind a b => ?_⟩
  · intro e wb n row0 row
    obtain ⟨hn, hrow0, hrow⟩ := toNat_rowFields (s.sreg (b.setWidth 6))
    have he : (s.sreg (a.setWidth 6)).setWidth 16 = e := BitVec.setWidth_eq_extractLsb' (by decide)
    refine ⟨?_, ?_, fun v hf ty => ?_, fun v hf ty sat => ?_, fun d => ?_⟩
    · refine answersRows_of_matrixChecked hs (accs := [])
        (f := fun u => u.accWrite t (.clr row0 n ((u.sreg (a.setWidth 6)).setWidth 16))) ?_ ?_
      · simp only [exec, execAclr, hn, hrow0]
        rfl
      · rw [he, hlands]
    · refine answersRows_of_matrixChecked hs (accs := [])
        (f := fun u => u.accWrite t (.nrm row ((u.sreg (a.setWidth 6)).setWidth 16))) ?_ ?_
      · simp only [exec, execAnrm, State.rowOf, hrow]
        rfl
      · rw [he, hlands]
    · refine answersRows_of_matrixChecked hs (accs := [])
        (f := fun u => u.accWrite t (.awr row ty hf (u.vreg v))) ?_ (hlands _)
      simp only [exec, execAwr, State.rowOf, hrow]
      rfl
    · obtain ⟨f, hread, hresult⟩ := s.accRead_eq h t b 6 (.v v) (.row ty hf sat)
      exact answersRows_of_matrixChecked hs (accs := []) (congrArg Host.Outcome.next hread) hresult
    · obtain ⟨f, hread, hresult⟩ := s.accRead_eq h t b 4 (.s d) .header
      exact answersRows_of_matrixChecked hs (accs := []) (congrArg Host.Outcome.next hread) hresult
  · intro desc wa base sbase m row0 rows rb sb scaled g accs
    obtain ⟨hbase, hsbase⟩ := toNat_halves (s.sreg (a.setWidth 6))
    obtain ⟨hm, hrow0, -⟩ := toNat_rowFields (s.sreg (b.setWidth 6))
    refine ⟨exec_mma_of_busy hs, fun hfree hz => ?_, fun hfree hpos => ?_⟩
    · refine answersRows_of_matrixChecked hs (exec_mma_of_no_rows hfree (hm.trans hz)) ?_
      rw [hnow]
      rfl
    · refine answersRows_of_matrixChecked hs (exec_mma_of_rows hfree hbase hsbase hm hrow0 rfl hpos) ?_
      rw [horigin]
      rfl

end Sys2Proof
end

section
namespace Sys2Proof

open Machine

/-! ## Terms and mantissas rounded at an exponent (R133) -/

/-- A term below the exponent is divided by the power of two between them, also where the model cuts the shift. -/
theorem Machine.Dyadic.truncAt_of_lt {t : Machine.Dyadic} {x : Int} (h : t.e < x) :
    t.truncAt x = t.m.tdiv (2 ^ (x - t.e).toNat) := by
  rw [Dyadic.truncAt, if_neg (not_le.mpr h)]
  dsimp only
  rcases le_total (x - t.e).toNat (bitLength t.m.natAbs + 1) with hk | hk
  · rw [min_eq_left hk]
  · have hzero : ∀ k, bitLength t.m.natAbs ≤ k → t.m.tdiv (2 ^ k) = 0 := fun k hle => by
      refine Int.natAbs_eq_zero.mp ?_
      rw [Int.natAbs_tdiv, Int.natAbs_pow]
      exact Nat.div_eq_of_lt (bitLength_le_iff.mp hle)
    rw [min_eq_right hk, hzero _ (Nat.le_succ _), hzero _ (Nat.le_of_succ_le hk)]

/-- The quotient of an integer by a positive number, truncated towards zero. -/
theorem tdiv_bounds (a : Int) {n : Nat} (hn : 0 < n) :
    |(a.tdiv n : ℚ)| ≤ |(a : ℚ) / n| ∧ |(a : ℚ) / n| < |(a.tdiv n : ℚ)| + 1 ∧
      (0 < a.tdiv n → 0 < (a : ℚ) / n) ∧ (a.tdiv n < 0 → (a : ℚ) / n < 0) := by
  have hpos : (0 : ℚ) < n := by exact_mod_cast hn
  have hquot : |(a.tdiv n : ℚ)| = (a.natAbs / n : Nat) := by
    rw [← Int.cast_abs, Int.abs_eq_natAbs, Int.natAbs_tdiv, Int.natAbs_natCast, Int.cast_natCast]
    rfl
  have habs : |(a : ℚ) / n| = (a.natAbs : ℚ) / n := by
    rw [abs_div, Nat.abs_cast, Nat.cast_natAbs, Int.cast_abs]
  rw [hquot, habs]
  refine ⟨Nat.cast_div_le, ?_, fun h => ?_, fun h => ?_⟩
  · rw [div_lt_iff₀ hpos]
    exact_mod_cast Nat.lt_mul_of_div_lt (Nat.lt_succ_self _) hn
  · refine div_pos ?_ hpos
    have : 0 < a := by
      by_contra hle
      have := Int.tdiv_nonneg (a := -a) (b := n) (by omega) (by omega)
      rw [Int.neg_tdiv] at this
      omega
    exact_mod_cast this
  · refine div_neg_of_neg_of_pos ?_ hpos
    have : a < 0 := by
      by_contra hle
      have := Int.tdiv_nonneg (a := a) (b := n) (by omega) (by omega)
      omega
    exact_mod_cast this

/-- A term at an exponent is its value in units of that exponent, truncated towards zero (R133). -/
theorem Machine.Dyadic.truncAt_spec (t : Machine.Dyadic) (x : Int) :
    let q : ℚ := (t.m : ℚ) * 2 ^ (t.e - x)
    let n := t.truncAt x
    |(n : ℚ)| ≤ |q| ∧ |q| < |(n : ℚ)| + 1 ∧ (0 < n → 0 < q) ∧ (n < 0 → q < 0) := by
  intro q n
  rcases lt_or_ge t.e x with h | h
  · have hq : q = (t.m : ℚ) / (2 ^ (x - t.e).toNat : Nat) := by
      push_cast
      rw [← zpow_natCast, Int.toNat_of_nonneg (by omega), div_eq_mul_inv, ← zpow_neg, neg_sub]
    have hn : n = t.m.tdiv (2 ^ (x - t.e).toNat : Nat) := by
      push_cast
      exact Dyadic.truncAt_of_lt h
    rw [hq, hn]
    exact tdiv_bounds t.m (by positivity)
  · have hq : q = (n : ℚ) := by
      simp only [n, q, Dyadic.truncAt, if_pos h]
      push_cast
      rw [← zpow_natCast, Int.toNat_of_nonneg (by omega)]
    rw [hq]
    exact ⟨le_rfl, lt_add_one _, by simp, by simp⟩

/-- A mantissa shifted down is rounded to nearest, ties to even (R133). -/
theorem Machine.rneShift_spec (b : Int) (s : Nat) :
    |(b : ℚ) / 2 ^ s - rneShift b s| ≤ 1 / 2 ∧ (|(b : ℚ) / 2 ^ s - rneShift b s| = 1 / 2 → rneShift b s % 2 = 0) := by
  obtain ⟨hround, hties⟩ := (roundShift_rounds .nearest false b.natAbs s).1
  unfold rneShift
  set n := (roundShift .nearest false b.natAbs s).1
  have hdist : |(b : ℚ) / 2 ^ s - signedMant (decide (b < 0)) n| = |(b.natAbs : ℚ) / 2 ^ s - n| := by
    by_cases hb : b < 0
    · have habs : (b.natAbs : ℚ) = -b := by rw [Nat.cast_natAbs, abs_of_neg hb, Int.cast_neg]
      rw [habs, ← abs_neg]
      simp only [signedMant, hb, decide_true, if_true]
      push_cast
      ring_nf
    · have habs : (b.natAbs : ℚ) = b := by rw [Nat.cast_natAbs, abs_of_nonneg (not_lt.mp hb)]
      simp only [habs, signedMant, hb, decide_false, Bool.false_eq_true, if_false, Int.cast_natCast]
  have heven : n % 2 = 0 → signedMant (decide (b < 0)) n % 2 = 0 := fun h => by
    cases decide (b < 0) <;> simp only [signedMant] <;> omega
  have hreal : |(b.natAbs : ℝ) / 2 ^ (s : Int) - n| = (|(b.natAbs : ℚ) / 2 ^ s - n| : ℚ) := by
    push_cast
    rw [zpow_natCast]
  rw [hreal] at hround hties
  rw [hdist]
  exact ⟨Rat.cast_le.mp (hround.trans_eq (by norm_num)), fun h => heven (hties (by rw [h]; norm_num))⟩

end Sys2Proof
end

section
namespace Sys2Proof

open Machine

/-! ## The columns of an accumulator row (R131, R132) -/

/-- A row's mantissa in a column. -/
def Machine.AccRow.mant (r : AccRow) (j : Nat) : Int := ((r.m.toList).getD j 0).toInt

/-- A value for each of the 128 columns. -/
def columns {α : Type} (f : Nat → α) : List α := (List.range 128).map f

theorem getD_columns (f : Nat → Int) {j : Nat} (hj : j < 128) : (columns f).getD j 0 = f j := by
  simp [columns, List.getD, hj]

theorem forall_mem_columns {α : Type} {f : Nat → α} {p : α → Prop} :
    (∀ x ∈ columns f, p x) ↔ ∀ j, j < 128 → p (f j) := by
  simp [columns]

theorem map_columns {α β : Type} (g : α → β) (f : Nat → α) : (columns f).map g = columns fun j => g (f j) := by
  simp only [columns, List.map_map]
  rfl

theorem mapIdx_columns {α β : Type} (g : Nat → α → β) (f : Nat → α) :
    (columns f).mapIdx g = columns fun j => g j (f j) := by
  refine List.ext_getElem (by simp [columns]) fun i _ _ => ?_
  simp [columns]

theorem Machine.AccRow.mants_eq (r : AccRow) : r.mants = columns r.mant := by
  refine List.ext_getElem (by simp [AccRow.mants, columns]) fun i h _ => ?_
  have hi : i < 128 := by simpa [AccRow.mants] using h
  simp [AccRow.mants, AccRow.mant, columns, hi]

/-- A mantissa that 64 bits hold. -/
def FitsWord (x : Int) : Prop := -(2 ^ 63) ≤ x ∧ x < 2 ^ 63

theorem Machine.AccRow.mant_fitsWord (r : AccRow) (j : Nat) : FitsWord (r.mant j) :=
  ⟨BitVec.le_toInt _, BitVec.toInt_lt⟩

theorem Machine.AccRow.mant_withMants (r : AccRow) {f : Nat → Int} (hf : ∀ j, j < 128 → FitsWord (f j)) {j : Nat}
    (hj : j < 128) : (r.withMants (columns f)).mant j = f j := by
  obtain ⟨hlo, hhi⟩ := hf j hj
  have hget : (r.withMants (columns f)).mant j = (BitVec.ofInt 64 ((columns f).getD j 0)).toInt := by
    simp [AccRow.mant, AccRow.withMants, List.getD, hj]
  rw [hget, getD_columns f hj]
  exact BitVec.toInt_ofInt_eq_self (by decide) hlo hhi

@[simp] theorem Machine.AccRow.withMants_v (r : AccRow) (l : List Int) : (r.withMants l).v = r.v := by
  simp only [AccRow.withMants]
@[simp] theorem Machine.AccRow.withMants_z (r : AccRow) (l : List Int) : (r.withMants l).z = r.z := by
  simp only [AccRow.withMants]
@[simp] theorem Machine.AccRow.withMants_e (r : AccRow) (l : List Int) : (r.withMants l).e = r.e := by
  simp only [AccRow.withMants]

/-! ## H of a row (R132) -/

theorem foldl_max_le_iff (l : List Nat) (a b : Nat) : l.foldl max a ≤ b ↔ a ≤ b ∧ ∀ x ∈ l, x ≤ b := by
  induction l generalizing a with
  | nil => simp
  | cons x l ih => simp [ih, and_assoc]

/-- H counts from the column with the most bits. -/
theorem headroom_columns {f : Nat → Int} {j : Nat} (hj : j < 128)
    (hmax : ∀ i, i < 128 → (f i).natAbs ≤ (f j).natAbs) :
    headroom (columns f) = BitVec.ofNat 6 (62 - bitLength (f j).natAbs) := by
  have hle : ∀ b, ((columns f).map fun x => bitLength x.natAbs).foldl max 0 ≤ b ↔ bitLength (f j).natAbs ≤ b := by
    intro b
    rw [foldl_max_le_iff, map_columns, forall_mem_columns]
    exact ⟨fun h => h.2 j hj, fun h => ⟨Nat.zero_le b, fun i hi => (bitLength_mono (hmax i hi)).trans h⟩⟩
  rw [headroom, eq_of_forall_ge_iff hle]

theorem headroom_of_zero {f : Nat → Int} (h : ∀ j, j < 128 → f j = 0) : headroom (columns f) = 62 := by
  have hzero := h 0 (by decide)
  rw [headroom_columns (j := 0) (by decide) fun i hi => by rw [h i hi, hzero], hzero]
  rfl

theorem toNat_headroom_of_max {f : Nat → Int} {j : Nat} (hj : j < 128) (hne : f j ≠ 0)
    (hmax : ∀ i, i < 128 → (f i).natAbs ≤ (f j).natAbs) :
    (headroom (columns f)).toNat = 61 - (f j).natAbs.log2 := by
  rw [headroom_columns hj hmax, bitLength, if_neg (Int.natAbs_ne_zero.mpr hne), BitVec.toNat_ofNat]
  omega

/-! ## The window of a mantissa (R132) -/

/-- A sum that the window holds. -/
def InWindow (x : Int) : Prop := -(2 ^ 62) ≤ x ∧ x ≤ 2 ^ 62 - 1

/-- A sum that saturates where the window does not hold it (R133, R149). -/
def clampMant (x : Int) : Int := if 2 ^ 62 - 1 < x then 2 ^ 62 - 1 else if x < -(2 ^ 62) then -(2 ^ 62 - 1) else x

theorem InWindow.fitsWord {x : Int} (h : InWindow x) : FitsWord x := by
  obtain ⟨hlo, hhi⟩ := h
  constructor <;> omega

theorem clampMant_fitsWord (x : Int) : FitsWord (clampMant x) := by
  unfold clampMant FitsWord
  split_ifs <;> omega

/-! ## The commit of a row (R133) -/

section
variable (b : List Int) (terms : Nat → List Machine.Dyadic) (e : Int)

/-- Every sum of a commit lies in the window at an exponent. -/
def CommitFits (s : Nat) : Prop := ∀ x ∈ commitSums b terms e s, InWindow x

variable {b terms e} {s : Nat}

theorem commitFits_iff : ((commitSums b terms e s).all fun x => decide (mantMin ≤ x) && decide (x ≤ mantMax)) = true ↔
    CommitFits b terms e s := by
  simp only [List.all_eq_true, Bool.and_eq_true, decide_eq_true_eq]
  exact Iff.rfl

theorem commitLoop_of_fits (h : CommitFits b terms e s) (fuel : Nat) :
    commitLoop b terms e fuel s = (s, commitSums b terms e s, false) := by
  rw [commitLoop.eq_def]
  exact if_pos (commitFits_iff.mpr h)

theorem commitLoop_of_saturated (h : ¬CommitFits b terms e s) (he : e + s = 32767) (fuel : Nat) :
    commitLoop b terms e fuel s = (s, (commitSums b terms e s).map clampMant, true) := by
  rw [commitLoop.eq_def]
  exact (if_neg (mt commitFits_iff.mp h)).trans (if_pos he.ge)

theorem commitLoop_succ (h : ¬CommitFits b terms e s) (he : e + s < 32767) (fuel : Nat) :
    commitLoop b terms e (fuel + 1) s = commitLoop b terms e fuel (s + 1) := by
  rw [commitLoop.eq_def]
  exact (if_neg (mt commitFits_iff.mp h)).trans (if_neg (not_le.mpr he))

/-- The search goes past every exponent at which a sum leaves the window. -/
theorem commitLoop_skip (n : Nat) (h : ∀ q, q < n → ¬CommitFits b terms e q) (he : e + n ≤ 32767) :
    commitLoop b terms e (32767 - e).toNat 0 = commitLoop b terms e (32767 - e - n).toNat n := by
  induction n with
  | zero => simp
  | succ n ih =>
    have hfuel : (32767 - e - n).toNat = (32767 - e - (n + 1 : Nat)).toNat + 1 := by omega
    rw [ih (fun q hq => h q (by omega)) (by omega), hfuel, commitLoop_succ (h n (Nat.lt_succ_self n)) (by omega)]

end

section
variable (row : AccRow) (replaced : Nat → Bool) (terms : Nat → List Machine.Dyadic)

/-- The sum of a column in a commit at the exponent E + s (R133). -/
def Machine.AccRow.commitSum (s j : Nat) : Int :=
  rneShift (if replaced j then 0 else row.mant j) s + ((terms j).map fun t => t.truncAt (row.e.toInt + s)).sum

/-- A row after a commit at the exponent E + s. -/
def Machine.AccRow.committed (s : Nat) (sat : Bool) (f : Nat → Int) : AccRow :=
  ({ row with e := BitVec.ofInt 16 (row.e.toInt + s), z := row.z || sat } : AccRow).withMants (columns f)

@[simp] theorem Machine.AccRow.committed_v (s : Nat) (sat : Bool) (f : Nat → Int) :
    (row.committed s sat f).v = row.v := by
  rw [AccRow.committed, AccRow.withMants_v]

/-- The sums of a commit, column by column. -/
theorem Machine.AccRow.commitSums_eq (s : Nat) :
    commitSums (row.mants.mapIdx fun j x => if replaced j then 0 else x) terms row.e.toInt s =
      columns (row.commitSum replaced terms s) := by
  rw [AccRow.mants_eq, mapIdx_columns, commitSums, mapIdx_columns]
  rfl

/-- Every sum lies in the window at the exponent E + s. -/
def Machine.AccRow.Fits (s : Nat) : Prop := ∀ j, j < 128 → InWindow (row.commitSum replaced terms s j)

theorem Machine.AccRow.commitFits_iff_fits (s : Nat) :
    CommitFits (row.mants.mapIdx fun j x => if replaced j then 0 else x) terms row.e.toInt s ↔
      row.Fits replaced terms s := by
  rw [CommitFits, AccRow.commitSums_eq, forall_mem_columns]
  rfl

variable {row replaced terms} {s : Nat}

/-- A commit takes the smallest s at which the sums fit. -/
theorem Machine.AccRow.commit_of_fits (hfit : row.Fits replaced terms s)
    (hmin : ∀ q, q < s → ¬row.Fits replaced terms q)
    (he : row.e.toInt + s ≤ 32767) :
    row.commit replaced terms = (row.committed s false (row.commitSum replaced terms s), s, false) := by
  simp only [← commitFits_iff_fits] at hfit hmin
  have hloop := (commitLoop_skip s hmin he).trans (commitLoop_of_fits hfit _)
  rw [commitSums_eq] at hloop
  simp only [AccRow.commit, hloop]
  rfl

/-- A commit whose sums fit at no exponent saturates at the largest. -/
theorem Machine.AccRow.commit_of_saturated (hmin : ∀ q, q ≤ s → ¬row.Fits replaced terms q)
    (he : row.e.toInt + s = 32767) : row.commit replaced terms =
      (row.committed s true fun j => clampMant (row.commitSum replaced terms s j), s, true) := by
  simp only [← commitFits_iff_fits] at hmin
  have hloop := (commitLoop_skip s (fun q hq => hmin q hq.le) he.le).trans
    (commitLoop_of_saturated (hmin s le_rfl) he _)
  rw [commitSums_eq, map_columns] at hloop
  simp only [AccRow.commit, hloop]
  rfl

variable (row replaced terms) in
/-- Every commit is one of the two. -/
theorem Machine.AccRow.commit_eq_committed : ∃ (n : Nat) (sat : Bool) (f : Nat → Int),
    (∀ j, j < 128 → FitsWord (f j)) ∧ row.commit replaced terms = (row.committed n sat f, n, sat) := by
  classical
  have hmax : row.e.toInt ≤ 32767 := Int.lt_add_one_iff.mp (BitVec.toInt_lt (x := row.e))
  by_cases h : ∃ q : Nat, row.Fits replaced terms q ∧ row.e.toInt + q ≤ 32767
  · obtain ⟨hfit, hle⟩ := Nat.find_spec h
    refine ⟨_, _, _, fun j hj => (hfit j hj).fitsWord, AccRow.commit_of_fits hfit (fun q hq hq' => ?_) hle⟩
    exact Nat.find_min h hq ⟨hq', by omega⟩
  · refine ⟨_, _, _, fun j _ => clampMant_fitsWord _,
      AccRow.commit_of_saturated (s := (32767 - row.e.toInt).toNat) (fun q hq hq' => h ⟨q, hq', by omega⟩) (by omega)⟩

/-- The exponent and the mantissas of a row after a commit. -/
theorem Machine.AccRow.committed_spec {sat : Bool} {f : Nat → Int} (hf : ∀ j, j < 128 → FitsWord (f j))
    (he : row.e.toInt + s ≤ 32767) : (row.committed s sat f).e.toInt = row.e.toInt + s ∧
      (row.committed s sat f).z = (row.z || sat) ∧ ∀ j, j < 128 → (row.committed s sat f).mant j = f j := by
  have hlo : -2 ^ 15 ≤ row.e.toInt := BitVec.le_toInt row.e
  exact ⟨BitVec.toInt_ofInt_eq_self (by decide) (by simp; omega) (by simp; omega), rfl,
    fun j hj => AccRow.mant_withMants _ hf hj⟩

end

/-- The whole of a row's commit (R132, R133). -/
theorem Machine.AccRow.commit_spec (row : AccRow) (replaced : Nat → Bool) (terms : Nat → List Machine.Dyadic)
    (s : Nat) :
    let sum := row.commitSum replaced terms
    let fits := row.Fits replaced terms
    let p := row.commit replaced terms
    p.1.v = row.v ∧
    (fits s → (∀ q, q < s → ¬fits q) → row.e.toInt + s ≤ 32767 → p.2 = (s, false) ∧ p.1.e.toInt = row.e.toInt + s ∧
      p.1.z = row.z ∧ ∀ j, j < 128 → p.1.mant j = sum s j) ∧
    ((∀ q, q ≤ s → ¬fits q) → row.e.toInt + s = 32767 → p.2 = (s, true) ∧ p.1.e.toInt = 32767 ∧ p.1.z = true ∧
      ∀ j, j < 128 → p.1.mant j = clampMant (sum s j)) ∧
    ((∀ j, j < 128 → p.1.mant j = 0) → p.1.h = 62) ∧
    ∀ j, j < 128 → p.1.mant j ≠ 0 → (∀ i, i < 128 → (p.1.mant i).natAbs ≤ (p.1.mant j).natAbs) →
      p.1.h.toNat = 61 - (p.1.mant j).natAbs.log2 := by
  intro sum fits p
  obtain ⟨n, sat, f, hf, hp⟩ := row.commit_eq_committed replaced terms
  have hrow : p.1 = row.committed n sat f := by simp only [p, hp]
  have hmant : ∀ j, j < 128 → p.1.mant j = f j := fun j hj => hrow ▸ AccRow.mant_withMants _ hf hj
  refine ⟨by rw [hrow, AccRow.committed_v], fun hfit hmin he => ?_, fun hmin he => ?_, fun hzero => ?_,
    fun j hj hne hmax => ?_⟩
  · have hcommit := AccRow.commit_of_fits hfit hmin he
    obtain ⟨hexp, hz, hsums⟩ := AccRow.committed_spec (sat := false) (fun j hj => (hfit j hj).fitsWord) he
    rw [Bool.or_false] at hz
    simp only [p, hcommit]
    exact ⟨trivial, hexp, hz, hsums⟩
  · have hcommit := AccRow.commit_of_saturated hmin he
    obtain ⟨hexp, hz, hsums⟩ := AccRow.committed_spec (sat := true) (fun j _ => clampMant_fitsWord (sum s j)) he.le
    rw [Bool.or_true] at hz
    simp only [p, hcommit]
    exact ⟨trivial, hexp.trans he, hz, hsums⟩
  · rw [hrow]
    exact headroom_of_zero fun j hj => (hmant j hj).symm.trans (hzero j hj)
  · rw [hmant j hj] at hne ⊢
    rw [hrow]
    refine toNat_headroom_of_max hj hne fun i hi => ?_
    rw [← hmant i hi, ← hmant j hj]
    exact hmax i hi

end Sys2Proof
end

section
namespace Sys2Proof

open Machine

/-! ## A row moved to an exponent (R149) -/

theorem clampMant_of_inWindow {x : Int} (h : InWindow x) : clampMant x = x := by
  obtain ⟨hlo, hhi⟩ := h
  rw [clampMant, if_neg (by omega), if_neg (by omega)]

theorem clampMant_of_gt {x : Int} (h : 2 ^ 62 - 1 < x) : clampMant x = 2 ^ 62 - 1 := if_pos h

theorem clampMant_of_lt {x : Int} (h : x < -(2 ^ 62)) : clampMant x = -(2 ^ 62 - 1) := by
  rw [clampMant, if_neg (by omega), if_pos h]

theorem not_inWindow_iff {x : Int} : ¬InWindow x ↔ 2 ^ 62 - 1 < x ∨ x < -(2 ^ 62) := by
  unfold InWindow
  omega

/-- A sum outside the window saturates towards its sign. -/
theorem clampMant_of_not_inWindow {x : Int} (h : ¬InWindow x) :
    clampMant x = if 0 < x then 2 ^ 62 - 1 else -(2 ^ 62 - 1) := by
  rcases not_inWindow_iff.mp h with h | h
  · rw [clampMant_of_gt h, if_pos (by omega)]
  · rw [clampMant_of_lt h, if_neg (by omega)]

/-- Past 200 places every nonzero mantissa has left the window, so a longer shift changes nothing. -/
theorem shift_cut (x : Int) (n : Nat) : clampMant (x * 2 ^ min n 200) = clampMant (x * 2 ^ n) ∧
    (InWindow (x * 2 ^ min n 200) ↔ InWindow (x * 2 ^ n)) := by
  rcases le_total n 200 with hn | hn
  · rw [min_eq_left hn]
    exact ⟨rfl, Iff.rfl⟩
  rw [min_eq_right hn]
  have hbig : ∀ k, 200 ≤ k → (2 : Int) ^ 62 < 2 ^ k := fun k hk => pow_lt_pow_right₀ one_lt_two (by omega)
  rcases lt_trichotomy x 0 with hx | rfl | hx
  · have hout : ∀ k, 200 ≤ k → x * 2 ^ k < -(2 ^ 62) := fun k hk => by nlinarith [hbig k hk]
    rw [clampMant_of_lt (hout _ le_rfl), clampMant_of_lt (hout _ hn)]
    exact ⟨rfl, iff_of_false (not_inWindow_iff.mpr (.inr (hout _ le_rfl))) (not_inWindow_iff.mpr (.inr (hout _ hn)))⟩
  · simp
  · have hout : ∀ k, 200 ≤ k → 2 ^ 62 - 1 < x * 2 ^ k := fun k hk => by nlinarith [hbig k hk]
    rw [clampMant_of_gt (hout _ le_rfl), clampMant_of_gt (hout _ hn)]
    exact ⟨rfl, iff_of_false (not_inWindow_iff.mpr (.inl (hout _ le_rfl))) (not_inWindow_iff.mpr (.inl (hout _ hn)))⟩

/-- A mantissa shifted down is no longer than it was. -/
theorem rneShift_fitsWord {b : Int} (h : FitsWord b) (s : Nat) : FitsWord (rneShift b s) := by
  obtain ⟨hlo, hhi⟩ := h
  have hle : (roundShift .nearest false b.natAbs s).1 ≤ b.natAbs := by
    refine (roundShift_rounds .nearest false b.natAbs s).1.ge_of_ge (div_le_self (Nat.cast_nonneg _) ?_)
    rw [zpow_natCast]
    exact one_le_pow₀ one_le_two
  by_cases hb : b < 0
  · simp only [FitsWord, rneShift, signedMant, hb, decide_true, if_true]
    omega
  · simp only [FitsWord, rneShift, signedMant, hb, decide_false, Bool.false_eq_true, if_false]
    omega

/-- A mantissa that saturates, as the model tests it. -/
def leavesWindow (x : Int) : Bool := decide (2 ^ 62 - 1 < x) || decide (x < -(2 ^ 62))

theorem leavesWindow_iff {x : Int} : leavesWindow x = true ↔ ¬InWindow x := by
  rw [not_inWindow_iff, leavesWindow, Bool.or_eq_true, decide_eq_true_iff, decide_eq_true_iff]

/-- A mantissa moved from one exponent to another, and whether it saturates (R149). -/
def moveMant (e0 e m : Int) : Int × Bool :=
  if e ≥ e0 then (rneShift m (e - e0).toNat, false)
  else
    let x := m * 2 ^ min (e0 - e).toNat 200
    if x > mantMax then (mantMax, true) else if x < mantMin then (-mantMax, true) else (x, false)

theorem moveMant_of_le {e0 e : Int} (h : e0 ≤ e) (m : Int) : moveMant e0 e m = (rneShift m (e - e0).toNat, false) :=
  if_pos h

theorem moveMant_of_lt {e0 e : Int} (h : e < e0) (m : Int) :
    moveMant e0 e m = (clampMant (m * 2 ^ (e0 - e).toNat), leavesWindow (m * 2 ^ (e0 - e).toNat)) := by
  obtain ⟨hclamp, hwindow⟩ := shift_cut m (e0 - e).toNat
  have hleaves := Bool.eq_iff_iff.mpr (leavesWindow_iff.trans ((not_congr hwindow).trans leavesWindow_iff.symm))
  rw [← hclamp, ← hleaves, moveMant, if_neg (not_le.mpr h)]
  generalize m * 2 ^ min (e0 - e).toNat 200 = x
  by_cases hgt : mantMax < x
  · refine (if_pos hgt).trans (Prod.ext (clampMant_of_gt hgt).symm ?_)
    exact (leavesWindow_iff.mpr (not_inWindow_iff.mpr (.inl hgt))).symm
  by_cases hlt : x < mantMin
  · refine ((if_neg hgt).trans (if_pos hlt)).trans (Prod.ext (clampMant_of_lt hlt).symm ?_)
    exact (leavesWindow_iff.mpr (not_inWindow_iff.mpr (.inr hlt))).symm
  · have hin : InWindow x := ⟨not_lt.mp hlt, not_lt.mp hgt⟩
    refine ((if_neg hgt).trans (if_neg hlt)).trans (Prod.ext (clampMant_of_inWindow hin).symm ?_)
    exact (Bool.eq_false_iff.mpr (mt leavesWindow_iff.mp (not_not.mpr hin))).symm

section
variable (row : AccRow) (e : BitVec 16)

/-- A row moved to an exponent. -/
def Machine.AccRow.moved (sat : Bool) (f : Nat → Int) : AccRow :=
  ({ row with e := e, z := row.z || sat } : AccRow).withMants (columns f)

/-- A row is moved column by column. -/
theorem Machine.AccRow.renorm_eq {f : Nat → Int} {out : Nat → Bool}
    (h : ∀ j, moveMant row.e.toInt e.toInt (row.mant j) = (f j, out j)) :
    row.renorm e = (row.moved e ((columns out).any id) f, (columns out).any id) := by
  have hres : row.mants.map (moveMant row.e.toInt e.toInt) = columns fun j => (f j, out j) := by
    rw [AccRow.mants_eq, map_columns]
    exact congrArg columns (funext h)
  have hsnd : (columns fun j => (f j, out j)).any Prod.snd = (columns out).any id := by
    rw [← map_columns Prod.snd fun j => (f j, out j), List.any_map]
    rfl
  rw [AccRow.moved, ← hsnd, ← map_columns Prod.fst fun j => (f j, out j), ← hres]
  rfl

/-- The whole of a row's move (R149). -/
theorem Machine.AccRow.renorm_spec :
    let p := row.renorm e
    let up := fun j => row.mant j * 2 ^ (row.e.toInt - e.toInt).toNat
    p.1.e = e ∧ p.1.v = row.v ∧ p.1.z = (row.z || p.2) ∧
    (row.e.toInt ≤ e.toInt → p.2 = false ∧
      ∀ j, j < 128 → p.1.mant j = rneShift (row.mant j) (e.toInt - row.e.toInt).toNat) ∧
    (e.toInt < row.e.toInt → (p.2 = true ↔ ∃ j, j < 128 ∧ ¬InWindow (up j)) ∧
      ∀ j, j < 128 → p.1.mant j = clampMant (up j)) := by
  intro p up
  refine ⟨?_, ?_, ?_, fun h => ?_, fun h => ?_⟩
  · simp only [p, row.renorm_eq e fun j => rfl, AccRow.moved, AccRow.withMants_e]
  · simp only [p, row.renorm_eq e fun j => rfl, AccRow.moved, AccRow.withMants_v]
  · simp only [p, row.renorm_eq e fun j => rfl, AccRow.moved, AccRow.withMants_z]
  · have hp := row.renorm_eq e fun j => moveMant_of_le h (row.mant j)
    simp only [p, hp]
    refine ⟨?_, fun j hj => AccRow.mant_withMants _ (fun j _ => rneShift_fitsWord (row.mant_fitsWord j) _) hj⟩
    simp only [List.any_eq_false, forall_mem_columns, id, Bool.false_eq_true, not_false_eq_true, implies_true]
  · have hp := row.renorm_eq e fun j => moveMant_of_lt h (row.mant j)
    simp only [p, hp]
    refine ⟨?_, fun j hj => AccRow.mant_withMants _ (fun j _ => clampMant_fitsWord _) hj⟩
    simp only [← leavesWindow_iff, columns, List.any_map, List.any_eq_true, List.mem_range]
    rfl

end

end Sys2Proof
end

section
namespace Sys2Proof

open Machine

/-! ## The exact products of a row commit (R134) -/

/-- A product of two finite numbers is exact, and any other counts as zero (R134). -/
theorem Machine.exactTerm_spec (x w : Machine.Num) (shift : Int) :
    let d := exactTerm x w shift
    (Spec.Finite x → Spec.Finite w → (d.m : ℚ) * 2 ^ d.e = Spec.val x * Spec.val w * 2 ^ shift) ∧
      (¬(Spec.Finite x ∧ Spec.Finite w) → d.m = 0) := by
  intro d
  refine ⟨?_, fun h => ?_⟩
  · rintro ⟨n, m, e, rfl⟩ ⟨k, p, g, rfl⟩
    simp only [d, exactTerm, Spec.val, zpow_add₀ (two_ne_zero (α := ℚ))]
    push_cast
    ring
  · cases x with
    | nan _ | inf _ => rfl
    | fin n m e =>
      cases w with
      | nan _ | inf _ => rfl
      | fin k p g => exact absurd ⟨⟨n, m, e, rfl⟩, k, p, g, rfl⟩ h

/-- A commit has a term for each number of its row, the product with the plane's (R134). -/
theorem Machine.mmaTerms_spec (p : Plane) (a : List Machine.Num) (scales : List Byte) (scaled : Bool) (j k : Nat)
    (x : Machine.Num) :
    let w := kindNum p.kind p.desc (p.code k j)
    let shift : Int := (if scaled = true then (scales.getD (k / 32) 0).toInt else 0) + p.scale (k / 32) j
    (mmaTerms p a scales scaled j).length = a.length ∧
    (a[k]? = some x → (mmaTerms p a scales scaled j)[k]? = some (exactTerm x w shift)) := by
  intro w shift
  refine ⟨List.length_mapIdx, fun h => ?_⟩
  rw [mmaTerms, List.getElem?_mapIdx, h]
  rfl

/-! ## The codes of a plane (R128, R130) -/

theorem kindBits_cases (k : MKind) (desc : BitVec 20) :
    kindBits k desc = 4 ∨ kindBits k desc = 8 ∨ kindBits k desc = 16 := by
  cases k with
  | fm f =>
    simp only [kindBits]
    split_ifs
    · exact .inl rfl
    · exact .inr (.inl rfl)
  | f16 | bf16 => exact .inr (.inr rfl)
  | i8 => exact .inr (.inl rfl)

/-- The code in a row and column of a plane's value lines, rows packed without gaps (R128). -/
def Machine.Plane.rowCode (p : Plane) (row j : Nat) : Nat :=
  lineCode p.lines (kindBits p.kind p.desc) (row * 8 * planeRow p.kind p.desc + j * kindBits p.kind p.desc)

/-- Where a code lies by its width. -/
theorem Machine.Plane.rowCode_eq (p : Plane) (row j : Nat) :
    let w := kindBits p.kind p.desc
    p.rowCode row j =
      if w = 16 then lineByte p.lines (256 * row + 2 * j) + 256 * lineByte p.lines (256 * row + 2 * j + 1)
      else if w = 8 then lineByte p.lines (128 * row + j)
      else lineByte p.lines (64 * row + j / 2) / 16 ^ (j % 2) % 16 := by
  intro w
  simp only [Plane.rowCode, planeRow, lineCode]
  rcases kindBits_cases p.kind p.desc with h | h | h
  · have hbyte : (row * 8 * (128 * 4 / 8) + j * 4) / 8 = 64 * row + j / 2 := by omega
    have hbit : (row * 8 * (128 * 4 / 8) + j * 4) % 8 = 4 * (j % 2) := by omega
    simp only [w, h, hbyte, hbit, Nat.shiftRight_eq_div_pow, pow_mul, Nat.reduceEqDiff, if_false, Nat.reducePow]
  · have hbyte : (row * 8 * (128 * 8 / 8) + j * 8) / 8 = 128 * row + j := by omega
    simp only [w, h, hbyte, Nat.reduceEqDiff, if_false, if_true]
  · have hbyte : (row * 8 * (128 * 16 / 8) + j * 16) / 8 = 256 * row + 2 * j := by omega
    simp only [w, h, hbyte, if_true]

/-- The code of a column's element, a sparse column expanded by its selector byte (R130). -/
theorem Machine.Plane.code_spec (p : Plane) (k j : Nat) :
    let sel := lineByte p.metas (128 * (k / 4) + j)
    (p.sparse = false → p.code k j = p.rowCode k j) ∧
    (p.sparse = true → sel / 4 % 4 = k % 4 → p.code k j = p.rowCode (2 * (k / 4) + 1) j) ∧
    (p.sparse = true → sel / 4 % 4 ≠ k % 4 → sel % 4 = k % 4 → p.code k j = p.rowCode (2 * (k / 4)) j) ∧
    (p.sparse = true → sel / 4 % 4 ≠ k % 4 → sel % 4 ≠ k % 4 → p.code k j = 0) := by
  intro sel
  refine ⟨fun h => if_neg (by rw [h]; exact Bool.false_ne_true), fun h h1 => (if_pos h).trans (if_pos h1),
    fun h h1 h0 => (if_pos h).trans ((if_neg h1).trans (if_pos h0)),
    fun h h1 h0 => (if_pos h).trans ((if_neg h1).trans (if_neg h0))⟩

/-! ## Lanes of awr and ard (R145 to R148) -/

theorem Machine.awrNum_eq (ty : FTy) (half : Bool) (val : Vec) {j : Nat} (hj : j < 128) :
    awrNum ty half val j =
      if ty = .f32 then
        (if decide (64 ≤ j) = half then some ((ftyFmt .f32).unpack (elem 32 val (j % 64))) else none)
      else some ((ftyFmt ty).unpack (elem 16 val j)) := by
  cases ty with
  | f16 | bf16 => rfl
  | f32 =>
    rcases lt_or_ge j 64 with hlt | hge
    · cases half <;> simp [awrNum, hlt, Nat.not_le.mpr hlt, Nat.mod_eq_of_lt hlt, Fmt.bits, ftyFmt]
    · have hlane : j % 64 = j - 64 := by omega
      cases half <;> simp [awrNum, hge, Nat.not_lt.mpr hge, hlane, Fmt.bits, ftyFmt]

/-- The word of aexp (R131, R148). -/
theorem Machine.setWidth_header (r : AccRow) : ((r.header.setWidth 2048 : Vec).setWidth 64 : BitVec 64) =
    (0#40 ++ (BitVec.ofBool r.z ++ BitVec.ofBool r.v ++ r.h ++ r.e) : BitVec 64) := by
  rw [BitVec.setWidth_setWidth_of_le _ (by decide), AccRow.header, BitVec.setWidth_setWidth_of_le _ (by decide)]
  generalize BitVec.ofBool r.z ++ BitVec.ofBool r.v ++ r.h ++ r.e = x
  refine BitVec.eq_of_toNat_eq (Eq.trans ?_ (BitVec.toNat_append 0#40 x).symm)
  rw [BitVec.toNat_setWidth, Nat.mod_eq_of_lt (x.isLt.trans (by decide)), BitVec.toNat_zero, Nat.zero_shiftLeft,
    Nat.zero_or]

/-- The elements of ard are the lanes of its half of the row (R146). -/
theorem Machine.elem_accReadValue (k : Core) {a : AccRead} {ty : FTy} {half sat : Bool} (hop : a.op = .row ty half sat)
    {i : Nat} (hi : i < 2048 / (ftyFmt ty).bits) :
    elem (ftyFmt ty).bits (k.accReadValue a) i =
      ardLane (ftyFmt ty) sat (k.accRow a.tile.toNat a.row) ((if ty = .f32 ∧ half = true then 64 else 0) + i) %
        2 ^ (ftyFmt ty).bits := by
  simp only [Core.accReadValue, hop]
  rw [elem_ofElems _ _ (elem_fits hi)]
  simp [List.getD, hi]

/-- A lane of ard: the quiet NaN, zero, or its element rounded once (R146, R147). -/
theorem Machine.ardLane_spec (ty : FTy) (sat : Bool) (row : AccRow) (j : Nat) :
    let f := ftyFmt ty
    let c := ardLane f sat row j
    let neg := decide (row.mant j < 0)
    (row.v = true → c = (2 ^ f.e - 1) * 2 ^ f.m + 2 ^ f.m / 2) ∧
    (row.v = false → row.mant j = 0 → c = 0) ∧
    (row.v = false → row.mant j ≠ 0 →
      ∃ l : Lane, Spec.RoundsTo f .nearest neg (((row.mant j).natAbs : ℝ) * 2 ^ row.e.toInt) l ∧
      c = if sat = true ∧ l.2.getLsbD 2 = true then (if neg = true then 2 ^ (f.e + f.m) else 0) + f.maxMag
        else l.1) := by
  intro f c neg
  have hieee := ftyFmt_ieee ty
  refine ⟨fun hv => ?_, fun hv hz => ?_, fun hv hne => ?_⟩
  · refine (if_pos hv).trans ?_
    rw [hieee.getD_nanCode, two_pow_div_two hieee.mant_ne_zero]
  · exact (if_neg (Bool.eq_false_iff.mp hv)).trans (if_pos hz)
  · have hround := (Spec.IsFormat.wide (.inl ⟨ty, rfl⟩) : (ftyFmt ty).Wide).roundsTo_pack .nearest (neg := neg)
      (fun _ => hieee.signed) (Int.natAbs_ne_zero.mpr hne) row.e.toInt
    refine ⟨_, hround, ?_⟩
    have hnum : numOf (row.mant j) row.e.toInt false = .fin neg (row.mant j).natAbs row.e.toInt := if_neg hne
    rw [← hnum]
    have hOF : ∀ x : Flags, ((x &&& flagOF) != 0) = x.getLsbD 2 := by decide
    refine ((if_neg (Bool.eq_false_iff.mp hv)).trans (if_neg hne)).trans ?_
    simp only [hOF, Bool.and_eq_true]
    rw [add_comm (f.maxMag)]
    simp only [neg, decide_eq_true_eq]
    rfl

end Sys2Proof
end

section
namespace Sys2Proof

open Machine

/-! ## A core with no line in error (R208) -/

section
variable {k : Core} (hbad : k.badLines = [])
include hbad

theorem Machine.Core.badAt_of_clean (st : SramStore) (line : Nat) : k.badAt st line = none := by
  rw [Core.badAt, hbad]
  rfl

theorem Machine.Core.planeError_of_clean (p : Plane) : k.planeError p = none := by
  rw [Core.planeError, hbad]
  rfl

theorem Machine.Core.mend_of_clean (st : SramStore) (lines : List Nat) : k.mend st lines = k := by
  rw [Core.mend, hbad]
  rfl

end

/-- Samples that met no error raise no trap. -/
theorem Machine.Mach.errorTraps_of_none (m : Mach) (how : Mach → Trap → Mach) (cl : ClusterId) (co : CoreId)
    {l : List (Origin × Option ErrorAt)} (h : ∀ e ∈ l, e.2 = none) : m.errorTraps how cl co l = m := by
  induction l with
  | nil => rfl
  | cons e l ih =>
    obtain ⟨he, hl⟩ := List.forall_mem_cons.mp h
    rw [Mach.errorTraps, List.foldl_cons, he]
    exact ih hl

/-- A core replaced by one with the same registers. -/
theorem Spec.SameRegs.setCore {m : Mach} {cl : ClusterId} {co : CoreId} {k : Core}
    (h : k.ctxs = (m.core cl co).ctxs) : Spec.SameRegs m (m.setCore cl co k) := fun r => by
  obtain ⟨hcl, hco, e⟩ | e := m.ctx_modCore_cases cl co (fun _ => k) r
  · refine (congrArg Context.regs e).trans ?_
    rw [Core.ctx, h, Mach.ctx, hcl, hco, ← Core.ctx]
  · exact congrArg Context.regs e

theorem Machine.Mach.core_setCore_same (m : Mach) (cl : ClusterId) (co : CoreId) (k : Core) :
    (m.setCore cl co k).core cl co = k := Mach.core_modCore_same m cl co fun _ => k

theorem Spec.OtherCores.setCore (m : Mach) (cl : ClusterId) (co : CoreId) (k : Core) :
    Spec.OtherCores cl co m (m.setCore cl co k) := .modCore m cl co fun _ => k

/-! ## The rows of an mma (R133, R135) -/

/-- The row that falls in a cycle. -/
theorem row_of_cycle {first g r cyc : Nat} (hg : 0 < g) (h : cyc = first + g * r) :
    ¬cyc < first ∧ (cyc - first) % g = 0 ∧ (cyc - first) / g = r := by
  subst h
  rw [Nat.add_sub_cancel_left, Nat.mul_mod_right, Nat.mul_div_cancel_left _ hg]
  exact ⟨by omega, rfl, rfl⟩

/-- An mma with one of its rows sampled: its activation bytes, and its scale bytes where the kind has scales. -/
def Machine.Mma.sampled (x : Mma) (k : Core) (cyc r : Nat) : Mma :=
  let n := actRow x.kind x.desc
  let scales := if kindScaled x.kind x.desc then
    k.portBytes x.org.cx cyc (x.sbase + 8 * r) (kindDepth x.kind x.desc / 32) else []
  { x with rows := x.rows.put r (some (k.portBytes x.org.cx cyc (x.base + r * n) n, scales)) }

theorem Machine.Mma.sampleAt_of_clean {k : Core} (hbad : k.badLines = []) {x : Mma} {cyc r : Nat} (hg : 0 < x.g)
    (hr : r < x.m) (hcyc : cyc = x.org.issued + 2 + x.g * r) : x.sampleAt k cyc = (x.sampled k cyc r, none) := by
  obtain ⟨hfirst, hmod, hdiv⟩ := row_of_cycle hg hcyc
  unfold Mma.sampleAt
  dsimp only
  rw [if_neg (by rw [hmod, hdiv]; omega), hdiv]
  simp only [Core.badAt_of_clean hbad, Core.planeError_of_clean hbad, Option.map_none, Option.or_none, ite_self]
  rfl

section
variable {cl : ClusterId} {co : CoreId} {s : State} {x : Mma} (hmmas : (s.mach.core cl co).mmas = [x])
include hmmas

theorem exec_mmaRowSample_single {y : Mma} (hsample : x.sampleAt (s.mach.core cl co) (s.mach.cyc cl) = (y, none)) :
    exec (.mmaRowSample cl co) s = .next { s with mach := s.mach.modCore cl co fun k => { k with mmas := [y] } } := by
  change Host.Outcome.next (s.modMach fun m => _) = _
  unfold State.modMach
  dsimp only
  rw [hmmas, List.map_cons, List.map_nil, hsample]
  exact congrArg (fun m => Host.Outcome.next ({ s with mach := m } : State))
    (Mach.errorTraps_of_none _ _ _ _ (by simp))

/-- The commit of a single mma's row, and the mma gone after its last. -/
theorem exec_mmaRowCommit_single {k : Core}
    (hcommit : (s.mach.core cl co).commitMma x (s.mach.cyc cl) s.mach.fret40 = (k, none)) :
    exec (.mmaRowCommit cl co) s = .next { s with mach := s.mach.setCore cl co { k with
      mmas := k.mmas.filter fun x => decide (s.mach.cyc cl < x.org.issued + 24 + x.g * (x.m - 1)) } } := by
  change Host.Outcome.next (s.modMach fun m => _) = _
  unfold State.modMach
  dsimp only
  rw [hmmas, List.foldl_cons, List.foldl_nil, hcommit]
  exact congrArg (fun m => Host.Outcome.next ({ s with mach := m } : State))
    (Mach.errorTraps_of_none _ _ _ _ (by simp))

end

/-! ## Commits into a row (R133, R139) -/

/-- A core with other accumulator rows and events of the cycle. -/
def Machine.Core.withRows (k : Core) (acc : FMap AccRow) (ev : List EventNew) : Core :=
  { k with acc := acc, evNew := ev }

/-- A commit writes its row and may post events. -/
theorem Machine.Core.commitRow_eq (k : Core) (o : Origin) (fret : BitVec 40) (tile row : Nat) (replaced : Nat → Bool)
    (terms : Nat → List Machine.Dyadic) (special : Bool) : ∃ ev,
      let r := k.accRow tile row
      k.commitRow o fret tile row replaced terms special = k.withRows
        (k.acc.put (accKey tile row) (({ r with v := r.v || special } : AccRow).commit replaced terms).1) ev := by
  obtain ⟨ev, hev⟩ : ∃ ev, (if special && !(k.accRow tile row).v then k.matrixEvent o fret 0x22 tile row 0 else k) =
      k.withRows k.acc ev := by
    split
    · exact ⟨_, rfl⟩
    · exact ⟨_, rfl⟩
  simp only [Core.commitRow, hev]
  split
  · exact ⟨_, rfl⟩
  · split
    · exact ⟨_, rfl⟩
    · exact ⟨_, rfl⟩

/-- A row read where it was written. -/
theorem Machine.Core.accRow_put_same (k : Core) {t : Core} {tile row : Nat} {r : AccRow}
    (h : t.acc = k.acc.put (accKey tile row) r) : t.accRow tile row = r := by
  rw [Core.accRow, h, FMap.find_put_same, Option.getD_some]

/-- A plane or an activation row of a commit has a value that is no number (R134). -/
def commitSpecial (p : Plane) (a : List Machine.Num) : Bool :=
  !p.finite || a.any fun v => match v with
    | .fin _ _ _ => false
    | .nan _ | .inf _ => true

theorem Machine.Core.commitMma_of_clean {k : Core} (hbad : k.badLines = []) {x : Mma} {cyc r : Nat} {fret : BitVec 40}
    {bytes scales : List Byte} (hg : 0 < x.g) (hr : r < x.m) (hcyc : cyc = x.org.issued + 24 + x.g * r)
    (hrow : x.rows.find r = some (some (bytes, scales))) :
    let a := actNums x.kind x.desc bytes
    k.commitMma x cyc fret = (k.commitRow x.org fret x.tile.toNat (x.row0 + r) (fun _ => false)
      (mmaTerms x.plane a scales (kindScaled x.kind x.desc)) (commitSpecial x.plane a), none) := by
  intro a
  obtain ⟨hfirst, hmod, hdiv⟩ := row_of_cycle hg hcyc
  unfold Core.commitMma
  dsimp only
  rw [if_neg (by rw [hmod, hdiv]; omega), hdiv, hrow]
  simp only [Option.getD_some, Core.badAt_of_clean hbad]
  rfl

/-- A row commit adds the sums of its row to the accumulator, and leaves every other row. -/
theorem mmaRowCommit_of_clean {cl : ClusterId} {co : CoreId} {s : State} {x : Mma} {r : Nat}
    {bytes scales : List Byte} :
    let k := s.mach.core cl co
    let row := k.accRow x.tile.toNat (x.row0 + r)
    let a := actNums x.kind x.desc bytes
    k.mmas = [x] → 0 < x.g → r < x.m → s.mach.cyc cl = x.org.issued + 24 + x.g * r → k.badLines = [] →
    x.rows.find r = some (some (bytes, scales)) →
    ∃ t, exec (.mmaRowCommit cl co) s = .next t ∧
      (t.mach.core cl co).accRow x.tile.toNat (x.row0 + r) =
        (({ row with v := row.v || commitSpecial x.plane a } : AccRow).commit (fun _ => false)
          (mmaTerms x.plane a scales (kindScaled x.kind x.desc))).1 ∧
      (∀ key, key ≠ accKey x.tile.toNat (x.row0 + r) → (t.mach.core cl co).acc.find key = k.acc.find key) ∧
      (t.mach.core cl co).mmas = (if r + 1 < x.m then [x] else []) ∧ Spec.SameRegs s.mach t.mach ∧
      Spec.OtherCores cl co s.mach t.mach ∧ (t.mach.core cl co).lm = k.lm := by
  intro k row a hmmas hg hr hcyc hbad hrow
  obtain ⟨ev, hcommit⟩ := k.commitRow_eq x.org s.mach.fret40 x.tile.toNat (x.row0 + r) (fun _ => false)
    (mmaTerms x.plane a scales (kindScaled x.kind x.desc)) (commitSpecial x.plane a)
  have hexec := exec_mmaRowCommit_single hmmas
    ((Core.commitMma_of_clean hbad (fret := s.mach.fret40) hg hr hcyc hrow).trans (congrArg (·, none) hcommit))
  have hlast : s.mach.cyc cl < x.org.issued + 24 + x.g * (x.m - 1) ↔ r + 1 < x.m := by
    rw [hcyc, Nat.add_lt_add_iff_left, Nat.mul_lt_mul_left hg]
    omega
  refine ⟨_, hexec, ?_⟩
  rw [Mach.core_setCore_same]
  refine ⟨k.accRow_put_same rfl, fun key hkey => FMap.find_put_other _ _ _ _ hkey, ?_, .setCore rfl,
    .setCore _ _ _ _, rfl⟩
  simp only [Core.withRows, k, hmmas, List.filter_cons, List.filter_nil, hlast, decide_eq_true_eq]

/-! ## Plane loads (R136, R141) -/

end Sys2Proof
end

section
namespace Sys2Proof

open Machine

/-! ## Plane loads (R136, R141) -/

/-- A plane memory with the line of a stream that falls in a cycle, as the core's LM holds it. -/
def Machine.Core.addLine (k : Core) (cx : CtxId) (cyc : Nat) (t : FMap Vec) (base first n : Nat) : FMap Vec :=
  if first ≤ cyc ∧ cyc < first + n then
    t.put (cyc - first) (vecOfBytes (k.portBytes cx cyc (base + 256 * (cyc - first)) 256))
  else t

/-- The plane with its lines of a cycle (R136). -/
def Machine.Core.planeWithLines (k : Core) (l : PlaneLoad) (cyc : Nat) : Plane :=
  let p := k.shadowPlane
  { p with
    lines := k.addLine l.org.cx cyc p.lines l.base (l.org.issued + 2) l.nValue,
    scales := k.addLine l.org.cx cyc p.scales l.sbase (l.org.issued + 2) l.nScale,
    metas := k.addLine l.org.cx cyc p.metas l.metaBase (l.org.issued + 2 + l.nScale) l.nMeta }

theorem exec_planeLineSample_of_clean {cl : ClusterId} {co : CoreId} {s : State} {l : PlaneLoad}
    (hload : (s.mach.core cl co).load = some l) (hbad : (s.mach.core cl co).badLines = []) :
    exec (.planeLineSample cl co) s = .next { s with mach := s.mach.modCore cl co fun k =>
      { k with shadowPlane := (s.mach.core cl co).planeWithLines l (s.mach.cyc cl) } } := by
  change execPlaneLineSample cl co s = _
  unfold execPlaneLineSample
  extract_lets cyc k add whole
  rw [show k.load = some l from hload]
  dsimp -zeta only
  extract_lets c0 read v sc mt err
  have herr : ∀ base n, err (read base n) = [] := fun base n => by
    cases n with
    | none => rfl
    | some i => simp only [err, read, Core.badAt_of_clean (k := k) hbad]
  have hadd : ∀ t base first n, add t (read base (streamLine cyc first n)) =
      k.addLine l.org.cx cyc t base first n := fun t base first n => by
    unfold streamLine Core.addLine
    split
    · simp only [add, read, Core.badAt_of_clean (k := k) hbad]
    · rfl
  rw [herr, herr, herr]
  refine congrArg (fun m => Host.Outcome.next ({ s with mach := m } : State))
    ((Mach.errorTraps_of_none _ _ _ _ (List.forall_mem_nil _)).trans (Mach.modCore_congr ?_))
  simp only [v, sc, mt]
  rw [Core.mend_of_clean hbad, hadd, hadd, hadd]
  rfl

theorem exec_planeLoadComplete_of_due {cl : ClusterId} {co : CoreId} {s : State} {l : PlaneLoad}
    (hload : (s.mach.core cl co).load = some l) (hdue : l.org.issued + 2 + l.p ≤ s.mach.cyc cl) :
    exec (.planeLoadComplete cl co) s =
      .next { s with mach := s.mach.modCore cl co fun k => { k with load := none } } := by
  refine congrArg (fun m => Host.Outcome.next ({ s with mach := m } : State)) (Mach.modCore_congr ?_)
  rw [hload]
  exact if_pos hdue

end Sys2Proof
end

section
namespace Sys2Proof

open Machine

/-! ## Accumulator writes (R144, R145, R149) -/

section
variable {α : Type} (m : FMap α) (a : Nat) (v : α) (n : Nat)

/-- A table with a value at a run of keys. -/
def putRun : FMap α := (List.range n).foldl (fun m i => m.put (a + i) v) m

theorem putRun_succ : putRun m a v (n + 1) = (putRun m a v n).put (a + n) v := by
  rw [putRun, List.range_succ, List.foldl_append]
  rfl

theorem find_putRun_of_mem {i : Nat} (hi : i < n) : (putRun m a v n).find (a + i) = some v := by
  induction n with
  | zero => exact absurd hi (Nat.not_lt_zero i)
  | succ n ih =>
    rw [putRun_succ]
    rcases Nat.lt_succ_iff_lt_or_eq.mp hi with h | rfl
    · rw [FMap.find_put_other _ _ _ _ (by omega), ih h]
    · exact FMap.find_put_same _ _ _

theorem find_putRun_of_not_mem {key : Nat} (hkey : key < a ∨ a + n ≤ key) : (putRun m a v n).find key = m.find key := by
  induction n with
  | zero => rfl
  | succ n ih => rw [putRun_succ, FMap.find_put_other _ _ _ _ (by omega), ih (by omega)]

end

/-- The terms of an awr: each finite lane, exactly (R145). -/
def awrTerms (ty : FTy) (half : Bool) (val : Vec) (j : Nat) : List Machine.Dyadic :=
  match awrNum ty half val j with
  | some (.fin n m e) => [⟨signedMant n m, e⟩]
  | some (.nan _) | some (.inf _) | none => []

/-- A lane of an awr is a NaN or an infinity. -/
def awrSpecial (ty : FTy) (half : Bool) (val : Vec) (j : Nat) : Bool :=
  match awrNum ty half val j with
  | some (.nan _) | some (.inf _) => true
  | some (.fin _ _ _) | none => false

theorem awrSpecial_iff (ty : FTy) (half : Bool) (val : Vec) (j : Nat) : awrSpecial ty half val j = true ↔
    (∃ b, awrNum ty half val j = some (.nan b)) ∨ ∃ b, awrNum ty half val j = some (.inf b) := by
  unfold awrSpecial
  rcases awrNum ty half val j with - | (b | b | _) <;> simp

section
variable {k : Core} {w : AccWrite} (fret : BitVec 40)

/-- A row just cleared (R144). -/
def Machine.AccRow.cleared (e : BitVec 16) : AccRow := { AccRow.reset with e := e }

theorem Machine.Core.accWriteNow_clr {row0 n : Nat} {e : BitVec 16} (hop : w.op = .clr row0 n e)
    (hbad : k.badLines = []) : k.accWriteNow w fret =
      (k.withRows (putRun k.acc (accKey w.tile.toNat row0) (.cleared e) n) k.evNew, none) := by
  have hfold : ∀ n, (List.range n).foldl (fun k i =>
      (k.mend .accumulator [accKey w.tile.toNat (row0 + i)]).setAccRow w.tile.toNat (row0 + i)
        (.cleared e)) k =
      k.withRows (putRun k.acc (accKey w.tile.toNat row0) (.cleared e) n) k.evNew := fun n => by
    induction n with
    | zero => rfl
    | succ n ih =>
      rw [List.range_succ, List.foldl_append, ih, putRun_succ, List.foldl_cons, List.foldl_nil,
        Core.mend_of_clean (k := k.withRows (putRun ..) _) hbad]
      simp only [Core.setAccRow, Core.withRows, accKey, Nat.add_assoc]
  simp only [Core.accWriteNow, hop]
  exact congrArg (·, none) (hfold n)

theorem Machine.Core.accWriteNow_nrm {row : Nat} {e : BitVec 16} (hop : w.op = .nrm row e)
    (hbad : k.badLines = []) : ∃ ev, k.accWriteNow w fret =
      (k.withRows (k.acc.put (accKey w.tile.toNat row) ((k.accRow w.tile.toNat row).renorm e).1) ev, none) := by
  simp only [Core.accWriteNow, hop, Core.badAt_of_clean hbad]
  split
  · exact ⟨_, rfl⟩
  · exact ⟨_, rfl⟩

theorem Machine.Core.accWriteNow_awr {row : Nat} {ty : FTy} {half : Bool} {val : Vec}
    (hop : w.op = .awr row ty half val) (hbad : k.badLines = []) : ∃ ev,
      let r := k.accRow w.tile.toNat row
      let special := (List.range 128).any fun j => awrSpecial ty half val j
      k.accWriteNow w fret = (k.withRows (k.acc.put (accKey w.tile.toNat row)
        (({ r with v := r.v || special } : AccRow).commit (fun j => (awrNum ty half val j).isSome)
          (awrTerms ty half val)).1) ev, none) := by
  obtain ⟨ev, hev⟩ := k.commitRow_eq w.org fret w.tile.toNat row (fun j => (awrNum ty half val j).isSome)
    (awrTerms ty half val) ((List.range 128).any fun j => awrSpecial ty half val j)
  refine ⟨ev, Eq.trans ?_ (congrArg (·, none) hev)⟩
  simp only [Core.accWriteNow, hop, Core.badAt_of_clean hbad]
  refine congrArg₂ (fun t b => (k.commitRow w.org fret w.tile.toNat row _ t ((List.range 128).any b), none))
    (funext fun j => ?_) (funext fun j => ?_)
  · unfold awrTerms
    rcases awrNum ty half val j with - | (_ | _ | _) <;> rfl
  · unfold awrSpecial
    rcases awrNum ty half val j with - | (_ | _ | _) <;> rfl

end

/-- A single write that has come due is made, and is gone. -/
theorem exec_accumulatorWrite_single {cl : ClusterId} {co : CoreId} {s : State} {w : AccWrite}
    (haccW : (s.mach.core cl co).accW = [w]) (hdue : w.due ≤ s.mach.cyc cl) {acc : FMap AccRow} {ev : List EventNew}
    (hwrite : (s.mach.core cl co).accWriteNow w s.mach.fret40 = ((s.mach.core cl co).withRows acc ev, none)) :
    exec (.accumulatorWrite cl co) s = .next { s with
      mach := s.mach.setCore cl co ({ (s.mach.core cl co).withRows acc ev with accW := [] }) } := by
  have hnow : [w].filter (fun w => decide (w.due ≤ s.mach.cyc cl)) = [w] := by simp [hdue]
  have hlater : [w].filter (fun w => decide (s.mach.cyc cl < w.due)) = [] := by simp [hdue]
  change Host.Outcome.next (s.modMach fun m => _) = _
  unfold State.modMach
  dsimp only
  rw [haccW, hnow, List.foldl_cons, List.foldl_nil, hwrite]
  simp only [Core.withRows, haccW, hlater]
  exact congrArg (fun m => Host.Outcome.next ({ s with mach := m } : State))
    (Mach.errorTraps_of_none _ _ _ _ (by simp))

/-- An accumulator write of a cycle: what each operation makes of its rows, and that every other row stays. -/
theorem accumulatorWrite_of_clean {cl : ClusterId} {co : CoreId} {s : State} {w : AccWrite}
    (haccW : (s.mach.core cl co).accW = [w]) (hdue : w.due ≤ s.mach.cyc cl)
    (hbad : (s.mach.core cl co).badLines = []) :
    let k := s.mach.core cl co
    let tile := w.tile.toNat
    ∃ t, exec (.accumulatorWrite cl co) s = .next t ∧ (t.mach.core cl co).accW = [] ∧
      (∀ row0 n e, w.op = .clr row0 n e →
        (∀ i, i < n → (t.mach.core cl co).accRow tile (row0 + i) = .cleared e) ∧
        ∀ key, key < accKey tile row0 ∨ accKey tile row0 + n ≤ key →
          (t.mach.core cl co).acc.find key = k.acc.find key) ∧
      (∀ row e, w.op = .nrm row e →
        (t.mach.core cl co).accRow tile row = ((k.accRow tile row).renorm e).1 ∧
        ∀ key, key ≠ accKey tile row → (t.mach.core cl co).acc.find key = k.acc.find key) ∧
      (∀ row ty half val, w.op = .awr row ty half val →
        ∃ new, (t.mach.core cl co).accRow tile row =
            (({ k.accRow tile row with v := new } : AccRow).commit (fun j => (awrNum ty half val j).isSome)
              (awrTerms ty half val)).1 ∧
          (new = true ↔ (k.accRow tile row).v = true ∨ ∃ j, j < 128 ∧
            ((∃ b, awrNum ty half val j = some (.nan b)) ∨ ∃ b, awrNum ty half val j = some (.inf b))) ∧
          ∀ key, key ≠ accKey tile row → (t.mach.core cl co).acc.find key = k.acc.find key) ∧
      Spec.SameRegs s.mach t.mach ∧ Spec.OtherCores cl co s.mach t.mach ∧ (t.mach.core cl co).lm = k.lm := by
  intro k tile
  have hwrites : ∀ {acc ev}, k.accWriteNow w s.mach.fret40 = (k.withRows acc ev, none) →
      ∃ t, exec (.accumulatorWrite cl co) s = .next t ∧ (t.mach.core cl co).accW = [] ∧
        (t.mach.core cl co).acc = acc ∧
        Spec.SameRegs s.mach t.mach ∧ Spec.OtherCores cl co s.mach t.mach ∧ (t.mach.core cl co).lm = k.lm :=
    fun h => by
      refine ⟨_, exec_accumulatorWrite_single haccW hdue h, ?_⟩
      rw [Mach.core_setCore_same]
      exact ⟨rfl, rfl, .setCore rfl, .setCore _ _ _ _, rfl⟩
  cases hop : w.op with
  | clr row0 n e =>
    obtain ⟨t, hexec, haccW, hacc, hframe⟩ := hwrites (Core.accWriteNow_clr s.mach.fret40 hop hbad)
    refine ⟨t, hexec, haccW, fun row0 n e h => ?_, fun _ _ h => ?_, fun _ _ _ _ h => ?_, hframe⟩
    · cases h
      rw [hacc]
      refine ⟨fun i hi => ?_, fun key hkey => find_putRun_of_not_mem _ _ _ _ hkey⟩
      have hkey : accKey tile (row0 + i) = accKey tile row0 + i := (Nat.add_assoc ..).symm
      rw [Core.accRow, hkey, hacc, find_putRun_of_mem _ _ _ _ hi, Option.getD_some]
    · cases h
    · cases h
  | nrm row e =>
    obtain ⟨ev, hnrm⟩ := k.accWriteNow_nrm s.mach.fret40 hop hbad
    obtain ⟨t, hexec, haccW, hacc, hframe⟩ := hwrites hnrm
    refine ⟨t, hexec, haccW, fun _ _ _ h => ?_, fun row e h => ?_, fun _ _ _ _ h => ?_, hframe⟩
    · cases h
    · cases h
      exact ⟨k.accRow_put_same hacc, fun key hkey => by rw [hacc, FMap.find_put_other _ _ _ _ hkey]⟩
    · cases h
  | awr row ty half val =>
    obtain ⟨ev, hawr⟩ := k.accWriteNow_awr s.mach.fret40 hop hbad
    obtain ⟨t, hexec, haccW, hacc, hframe⟩ := hwrites hawr
    refine ⟨t, hexec, haccW, fun _ _ _ h => ?_, fun _ _ h => ?_, fun row ty half val h => ?_, hframe⟩
    · cases h
    · cases h
    · cases h
      refine ⟨_, k.accRow_put_same hacc, ?_, fun key hkey => by rw [hacc, FMap.find_put_other _ _ _ _ hkey]⟩
      simp only [Bool.or_eq_true, List.any_eq_true, List.mem_range, awrSpecial_iff]
      exact Iff.rfl

/-! ## Accumulator reads (R146, R148) -/

/-- A core whose only read has filled its result. -/
def Machine.Core.fillRead (k : Core) (a : AccRead) (v : Vec) : Core :=
  { k.modCtx a.org.cx fun x => x.fill a.id v 0 with accR := [] }

theorem Machine.Core.ctx_fillRead (k : Core) (a : AccRead) (v : Vec) (cx : CtxId) :
    (k.fillRead a v).ctx cx = if cx = a.org.cx then (k.ctx cx).fill a.id v 0 else k.ctx cx := by
  change (k.modCtx a.org.cx fun x => x.fill a.id v 0).ctx cx = _
  split
  · next h => rw [h, Core.ctx_modCtx_same]
  · next h => rw [Core.ctx_modCtx_other _ _ _ _ h]

theorem exec_accumulatorReadSample_single {cl : ClusterId} {co : CoreId} {s : State} {a : AccRead}
    (haccR : (s.mach.core cl co).accR = [a]) (hdue : a.due ≤ s.mach.cyc cl)
    (hbad : (s.mach.core cl co).badLines = []) : exec (.accumulatorReadSample cl co) s = .next { s with
      mach := s.mach.modCore cl co fun c => c.fillRead a ((s.mach.core cl co).accReadValue a) } := by
  change execAccumulatorReadSample cl co s = _
  unfold execAccumulatorReadSample
  extract_lets cyc k due badAt filled rest
  have hnow : due = [a] := by simp [due, k, haccR, cyc, hdue]
  have hclean : ∀ a, badAt a = none := fun _ => Core.badAt_of_clean hbad _ _
  have hfilled : filled = k.modCtx a.org.cx fun x => x.fill a.id (k.accReadValue a) 0 := by
    simp only [filled, hnow, List.foldl_cons, List.foldl_nil, hclean, Option.isSome_none, Bool.false_eq_true, if_false]
  have hrest : rest = k.fillRead a (k.accReadValue a) := by
    have hlater : filled.accR.filter (fun a => decide (cyc < a.due)) = [] := by
      simp [hfilled, k, haccR, cyc, hdue]
    simp only [rest, hlater]
    rw [hfilled]
    rfl
  rw [hrest]
  exact congrArg (fun m => Host.Outcome.next ({ s with mach := m } : State))
    (Mach.errorTraps_of_none _ _ _ _ (by simp [hclean]))

/-- A single read that has come due fills its result, and nothing else changes. -/
theorem accumulatorReadSample_of_clean {cl : ClusterId} {co : CoreId} {s : State} {a : AccRead}
    (haccR : (s.mach.core cl co).accR = [a]) (hdue : a.due ≤ s.mach.cyc cl)
    (hbad : (s.mach.core cl co).badLines = []) :
    let k := s.mach.core cl co
    let r : CtxRef := ⟨cl, co, a.org.cx⟩
    ∃ t, exec (.accumulatorReadSample cl co) s = .next t ∧ (t.mach.core cl co).accR = [] ∧
      t.mach.ctx r = (s.mach.ctx r).fill a.id (k.accReadValue a) 0 ∧ Spec.OtherContexts r s.mach t.mach ∧
      Spec.SameMemory s.mach t.mach := by
  intro k r
  refine ⟨_, exec_accumulatorReadSample_single haccR hdue hbad, ?_, ?_, fun q hq => ?_,
    .modCore _ _ _ fun _ => ⟨rfl, rfl, rfl, rfl⟩⟩
  · rw [Mach.core_modCore_same]
    rfl
  · rw [Mach.ctx, Mach.core_modCore_same, Core.ctx_fillRead, if_pos rfl]
    rfl
  · obtain ⟨hcl, hco, h⟩ | h := s.mach.ctx_modCore_cases cl co (fun c => c.fillRead a (k.accReadValue a)) q
    · have hcx : q.cx ≠ a.org.cx := fun hcx => hq (by rw [show q = ⟨q.cl, q.co, q.cx⟩ from rfl, hcl, hco, hcx])
      rw [h, Core.ctx_fillRead, if_neg hcx, Mach.ctx, hcl, hco]
    · exact h

/-- Settles O52: the samples, commits, writes and reads of a cycle, and the values that they form. -/
theorem matrixUnitEvents : Obligations.MatrixUnitEvents := by
  refine ⟨fun cl co s x r => ?_, fun cl co s x r bytes scales => ?_, fun row replaced terms s => ?_,
    fun t x b s => ?_, fun p a scales scaled j k x => ?_, fun p k j _ => ?_, fun cl co s l => ?_, fun cl co s l => ?_,
    fun cl co s w => ?_, fun ty half val j hj => awrNum_eq ty half val hj, fun row e => ?_, fun cl co s a => ?_,
    fun k a => ?_, fun ty sat row j => ?_⟩
  · intro k cyc n scales rows m hmmas hg hr hcyc hbad
    exact exec_mmaRowSample_single hmmas (Mma.sampleAt_of_clean hbad hg hr hcyc)
  · exact mmaRowCommit_of_clean
  · exact row.commit_spec replaced terms s
  · intro q n r i
    obtain ⟨hle, hlt, hpos, hneg⟩ := t.truncAt_spec x
    exact ⟨hle, hlt, hpos, hneg, rneShift_spec b s⟩
  · intro w shift
    obtain ⟨hlength, hterm⟩ := mmaTerms_spec p a scales scaled j k x
    exact ⟨hlength, fun hx => ⟨_, hterm hx, exactTerm_spec x w shift⟩⟩
  · intro w byte row sel
    obtain ⟨hdense, hhigh, hlow, hzero⟩ := p.code_spec k j
    have hrow : ∀ r, p.rowCode r j = row r := fun r => p.rowCode_eq r j
    simp only [← hrow]
    exact ⟨hdense, hhigh, hlow, hzero⟩
  · intro k cyc line added p lines scales metas q hload hbad
    exact exec_planeLineSample_of_clean hload hbad
  · exact exec_planeLoadComplete_of_due
  · intro k tile haccW hdue hbad
    exact accumulatorWrite_of_clean haccW hdue hbad
  · intro mant p up big
    obtain ⟨hexp, hv, hz, hdown, hup⟩ := row.renorm_spec e
    have hbig : ∀ j, ¬InWindow (up j) ↔ big j := fun j => not_inWindow_iff
    refine ⟨hexp, hv, hz, hdown, fun h => ?_⟩
    obtain ⟨hsat, hmant⟩ := hup h
    refine ⟨hsat.trans (exists_congr fun j => and_congr_right fun _ => hbig j),
      fun j hj => ⟨fun hin => ?_, fun hout => ?_⟩⟩
    · exact (hmant j hj).trans (clampMant_of_inWindow (not_not.mp (mt (hbig j).mp hin)))
    · exact (hmant j hj).trans (clampMant_of_not_inWindow ((hbig j).mpr hout))
  · intro k r haccR hdue hbad
    exact accumulatorReadSample_of_clean haccR hdue hbad
  · intro row
    refine ⟨fun hop => ?_, fun ty half sat hop i hi => elem_accReadValue k hop hi⟩
    simp only [Core.accReadValue, hop]
    exact setWidth_header _
  · exact ardLane_spec ty sat row j

end Sys2Proof
end

section
namespace Sys2Proof

open Machine

/-! ## Entries that reach a core's drain (R48, R49) -/

/-- Some entries of a context stand last in its core's drain, in their order, and none performs before the next cycle
(R49). -/
def Queued (r : CtxRef) (m t : Mach) (es : List Entry) : Prop :=
  ∃ items : List DrainItem, (t.core r.cl r.co).drain = (m.core r.cl r.co).drain ++ items ∧
    items.map DrainItem.entry = es ∧ ∀ d ∈ items, d.cx = r.cx ∧ d.since = m.cyc r.cl + 1

theorem Queued.of_drain_eq {r : CtxRef} {m t : Mach} (h : (t.core r.cl r.co).drain = (m.core r.cl r.co).drain) :
    Queued r m t [] := ⟨[], by simp [h], rfl, by simp⟩

theorem Queued.congr {r : CtxRef} {m m' t t' : Mach} {es : List Entry} (h : Queued r m t es)
    (hm : (m'.core r.cl r.co).drain = (m.core r.cl r.co).drain) (hcyc : m'.cyc r.cl = m.cyc r.cl)
    (ht : (t'.core r.cl r.co).drain = (t.core r.cl r.co).drain) : Queued r m' t' es := by
  unfold Queued
  rw [hm, hcyc, ht]
  exact h

theorem Queued.trans {r : CtxRef} {m n t : Mach} {es fs : List Entry} (h : Queued r m n es) (g : Queued r n t fs)
    (hcyc : n.cyc r.cl = m.cyc r.cl) : Queued r m t (es ++ fs) := by
  obtain ⟨is, hdrain, hes, hall⟩ := h
  obtain ⟨js, gdrain, hfs, gall⟩ := g
  rw [hcyc] at gall
  refine ⟨is ++ js, by rw [gdrain, hdrain, List.append_assoc], by rw [List.map_append, hes, hfs], fun d hd => ?_⟩
  exact (List.mem_append.mp hd).elim (hall d) (gall d)

section
variable (r : CtxRef) (own : List (Nat × BitVec 5))

theorem Machine.Mach.cyc_commitEntry (m : Mach) (e : Entry) (cl : ClusterId) :
    (m.commitEntry r own e).cyc cl = m.cyc cl :=
  ((Mach.Kept.commitEntry (L := fun _ => False) m r own e).blocks cl).1

/-- Entries that commit one after the other reach the drain in their order, and leave every context alone. -/
theorem Machine.Mach.foldl_commitEntry (es : List Entry) (m : Mach) :
    let t := es.foldl (fun m e => m.commitEntry r own e) m
    Queued r m t es ∧ ∀ q, t.ctx q = m.ctx q := by
  induction es generalizing m with
  | nil => exact ⟨.of_drain_eq rfl, fun _ => rfl⟩
  | cons e es ih =>
    obtain ⟨hctx, d, hentry, hcx, hsince, hdrain⟩ := m.commitEntry_drains r own e
    obtain ⟨hqueued, hctxs⟩ := ih (m.commitEntry r own e)
    have hfirst : Queued r m (m.commitEntry r own e) [e] :=
      ⟨[d], hdrain, by simp [hentry], by simp [hcx, hsince]⟩
    exact ⟨hfirst.trans hqueued (m.cyc_commitEntry r own e r.cl), fun q => (hctxs q).trans (hctx q)⟩

end

/-- A commit point empties the buffer into the drain and makes the bundle a mark; the context is else as it was. -/
theorem Machine.State.commitPoint_drains (s : State) :
    Queued s.ref s.mach s.commitPoint.mach (s.mach.ctx s.ref).gate ∧
      s.commitPoint.mach.ctx s.ref = { s.mach.ctx s.ref with gate := [], marking := true } := by
  obtain ⟨hqueued, hctx⟩ := Mach.foldl_commitEntry s.ref s.iss.fences (s.mach.ctx s.ref).gate
    (s.mach.modCtx s.ref fun x => { x with gate := [] })
  refine ⟨hqueued.congr (Mach.drain_modCtx ..).symm ?_ (Mach.drain_modCtx ..), ?_⟩
  · exact (((Mach.Kept.modCtx s.mach s.ref : Mach.Kept (fun _ => False) _
      (s.mach.modCtx s.ref fun x => { x with gate := [] })).blocks s.ref.cl).1).symm
  · refine (Mach.ctx_modCtx_same ..).trans ?_
    rw [Mach.commitAll, hctx, Mach.ctx_modCtx_same]

/-! ## Outstanding effects and fences at a commit (R162, R273) -/

/-- An ordering point that waits for more effects than another, and is else the same. -/
structure Machine.FencePoint.Extends (f g : FencePoint) : Prop where
  id : g.id = f.id
  ctx : g.ctx = f.ctx
  scope : g.scope = f.scope
  only : g.only = f.only
  waits : f.waits ⊆ g.waits

theorem Machine.FencePoint.Extends.refl (f : FencePoint) : f.Extends f := ⟨rfl, rfl, rfl, rfl, List.Subset.refl _⟩

theorem Machine.FencePoint.Extends.trans {f g h : FencePoint} (a : f.Extends g) (b : g.Extends h) : f.Extends h :=
  ⟨b.id.trans a.id, b.ctx.trans a.ctx, b.scope.trans a.scope, b.only.trans a.only, List.Subset.trans a.waits b.waits⟩

/-- The fences among `own` with a number and a kind. -/
def OwnFence (own : List (Nat × BitVec 5)) (id : Nat) (k : EffKind) : Prop :=
  ∃ o ∈ own, o.1 = id ∧ kindIn o.2 k = true

/-- A fence of the bundle, once an entry of a kind that it names has committed, waits for it. -/
def Machine.FencePoint.withEntry (own : List (Nat × BitVec 5)) (e : Entry) (k : EffKind) (f : FencePoint) :
    FencePoint :=
  if own.any fun o => o.1 == f.id && kindIn o.2 k then { f with waits := f.waits ++ [e.id] } else f

theorem Machine.FencePoint.withEntry_spec (own : List (Nat × BitVec 5)) (e : Entry) (k : EffKind) (f : FencePoint) :
    f.Extends (f.withEntry own e k) ∧ (OwnFence own f.id k → e.id ∈ (f.withEntry own e k).waits) := by
  unfold FencePoint.withEntry
  split
  · exact ⟨⟨rfl, rfl, rfl, rfl, List.subset_append_left ..⟩, fun _ => by simp⟩
  · next h => exact ⟨.refl f, fun ho => absurd (List.any_eq_true.mpr (by simpa [OwnFence] using ho)) h⟩

/-- What the commit of entries adds outside the clusters: each one that a fence names is outstanding, and the fences of
the bundle that name it wait for it. -/
structure Points (r : CtxRef) (own : List (Nat × BitVec 5)) (es : List Entry) (m t : Mach) : Prop where
  fences : ∀ f ∈ m.pk.fences, ∃ g ∈ t.pk.fences, f.Extends g ∧
    ∀ e ∈ es, ∀ k, e.eff.fenceKind = some k → OwnFence own f.id k → e.id ∈ g.waits
  outs : m.pk.outs ⊆ t.pk.outs
  entries : ∀ e ∈ es, ∀ k, e.eff.fenceKind = some k → ∃ o ∈ t.pk.outs, o.id = e.id ∧ o.ctx = r ∧ o.kind = k

section
variable {r : CtxRef} {own : List (Nat × BitVec 5)}

theorem Points.of_append {m t : Mach} {l : List FencePoint} (hf : t.pk.fences = m.pk.fences ++ l)
    (ho : t.pk.outs = m.pk.outs) : Points r own [] m t :=
  ⟨fun f h => ⟨f, by simp [hf, h], .refl f, by simp⟩, by simp [ho], by simp⟩

theorem Points.trans {m n t : Mach} {es fs : List Entry} (h : Points r own es m n) (g : Points r own fs n t) :
    Points r own (es ++ fs) m t := by
  refine ⟨fun f hf => ?_, fun o ho => g.outs (h.outs ho), fun e he k hk => ?_⟩
  · obtain ⟨f', hf', hext, hes⟩ := h.fences f hf
    obtain ⟨f'', hf'', gext, hfs⟩ := g.fences f' hf'
    refine ⟨f'', hf'', hext.trans gext, fun e he k hk ho => ?_⟩
    rcases List.mem_append.mp he with he | he
    · exact gext.waits (hes e he k hk ho)
    · exact hfs e he k hk (hext.id ▸ ho)
  · rcases List.mem_append.mp he with he | he
    · obtain ⟨o, ho, hspec⟩ := h.entries e he k hk
      exact ⟨o, g.outs ho, hspec⟩
    · exact g.entries e he k hk

/-- The machine outside the clusters once an entry of a kind is outstanding. -/
theorem Points.of_outstanding {m t : Mach} {e : Entry} {k : EffKind} {places : List EffPlace}
    (hk : e.eff.fenceKind = some k) (ho : t.pk.outs = m.pk.outs ++ [⟨e.id, r, k, places⟩])
    (hf : t.pk.fences = m.pk.fences.map fun f => f.withEntry own e k) : Points r own [e] m t := by
  refine ⟨fun f h => ?_, by simp [ho], fun e' he k' hk' => ?_⟩
  · obtain ⟨hext, hwaits⟩ := f.withEntry_spec own e k
    refine ⟨_, hf ▸ List.mem_map_of_mem h, hext, fun e' he k' hk' => ?_⟩
    obtain rfl := List.mem_singleton.mp he
    obtain rfl : k' = k := Option.some.inj (hk'.symm.trans hk)
    exact hwaits
  · obtain rfl := List.mem_singleton.mp he
    obtain rfl : k' = k := Option.some.inj (hk'.symm.trans hk)
    exact ⟨⟨e'.id, r, k', places⟩, by simp [ho], rfl, rfl, rfl⟩

theorem Points.of_no_kind {m t : Mach} {e : Entry} (hk : e.eff.fenceKind = none) (h : Points r own [] m t) :
    Points r own [e] m t := by
  refine ⟨fun f hf => ?_, h.outs, by simp [hk]⟩
  obtain ⟨g, hg, hext, -⟩ := h.fences f hf
  exact ⟨g, hg, hext, by simp [hk]⟩

variable (r own)

theorem points_commitEntry (m : Mach) (e : Entry) : Points r own [e] m (m.commitEntry r own e) := by
  unfold Mach.commitEntry
  cases himplied : e.eff.impliedFence <;> cases hk : e.eff.fenceKind
  case none.none => exact .of_no_kind hk (.of_append (l := []) (by simp) rfl)
  case none.some k => exact .of_outstanding hk rfl rfl
  case some.none i => exact .of_no_kind hk (.of_append rfl rfl)
  case some.some i k =>
    have hplaced : Points r own [] m (m.placeFence r i .package true).2 := .of_append rfl rfl
    exact hplaced.trans (.of_outstanding hk rfl rfl)

theorem points_foldl_commitEntry (es : List Entry) (m : Mach) :
    Points r own es m (es.foldl (fun m e => m.commitEntry r own e) m) := by
  induction es generalizing m with
  | nil => exact .of_append (l := []) (by simp) rfl
  | cons e es ih => exact (points_commitEntry r own m e).trans (ih _)

end

theorem Machine.State.commitPoint_points (s : State) :
    Points s.ref s.iss.fences (s.mach.ctx s.ref).gate s.mach s.commitPoint.mach := by
  obtain ⟨hfences, houts, hentries⟩ := points_foldl_commitEntry s.ref s.iss.fences (s.mach.ctx s.ref).gate
    (s.mach.modCtx s.ref fun x => { x with gate := [] })
  exact ⟨hfences, houts, hentries⟩

/-- Settles O20: the point is placed with the effects that are outstanding, and the entries that its own commit adds
join them. -/
theorem fencePoint : Obligations.FencePoint := by
  rintro h kinds scope s ⟨hguard, hcalm⟩
  let u : State :=
    ⟨(s.mach.placeFence s.ref kinds scope false).2, { s.iss with fences := s.iss.fences ++ [(s.mach.nextId, kinds)] }⟩
  have hexec : exec (.fence h kinds scope) s = .next u.commitPoint :=
    congrArg Host.Outcome.next (State.guarded_runs hguard hcalm _)
  have hkept : Mach.Kept (fun _ => False) s.mach u.commitPoint.mach :=
    (Mach.Kept.placeFence s.mach s.ref kinds scope false).trans (.commitPoint u)
  obtain ⟨hqueued, hctx⟩ := u.commitPoint_drains
  have hpoints : Points s.ref u.iss.fences (s.mach.ctx s.ref).gate u.mach u.commitPoint.mach := u.commitPoint_points
  obtain ⟨g, hg, hext, hwaits⟩ :=
    hpoints.fences ⟨s.mach.nextId, s.ref, scope, s.mach.pk.outsOf s.ref kinds, none, false⟩
      (List.mem_append_right _ (List.mem_singleton_self _))
  refine ⟨_, hexec, rfl, rfl, congrArg Context.gate hctx, congrArg Context.marking hctx, hqueued, hkept.sameRegs,
    hkept.memory, fun o ho hor hok => ?_, fun e he k hk hkind => ⟨⟨g, hg, hext.id, ?_⟩, hpoints.entries e he k hk⟩⟩
  · refine ⟨g, hg, hext.id, hext.ctx, hext.scope, hext.only, hext.waits (List.mem_map_of_mem ?_)⟩
    exact List.mem_filter.mpr ⟨ho, by simp [hor, hok]⟩
  · exact hwaits e he k hk ⟨_, List.mem_append_right _ (List.mem_singleton_self _), rfl, hkind⟩

end Sys2Proof
end

section
namespace Sys2Proof

open Machine

/-! ## What an access answers (R116, R151) -/

/-- A slot behind the checks of its accesses answers `u`: the trap of a failing byte, else that of a misaligned address,
else the state `t`. -/
structure Checked (s : State) (k : AccessKind) (form : Bool) (accs : List (List Nat)) (mis : Option (Nat × Nat))
    (u t : State) : Prop where
  passes : accessFault s.pre s.preCtx k form accs = none → mis = none → u = t
  faults : ∀ f kd, accessFault s.pre s.preCtx k form accs = some (f, kd) →
    u = s.raise 0x0A (BitVec.ofNat 64 (kd * 2 ^ 32 + f % 2 ^ 32))
  misaligned : ∀ f r, accessFault s.pre s.preCtx k form accs = none → mis = some (f, r) →
    u = s.raise 0x14 (BitVec.ofNat 64 (3 * 2 ^ 62 + f % 2 ^ 32 * 16 + r))

theorem Machine.State.checked_spec {s : State} (hs : s.iss.raises = []) (k : AccessKind) (form : Bool)
    (accs : List (List Nat)) (mis : Option (Nat × Nat)) (f : State → State) :
    Checked s k form accs mis (s.checked k form accs mis f) (f s) := by
  refine ⟨fun hcheck hmis => ?_, fun a kd hcheck => ?_, fun a r hcheck hmis => ?_⟩
  · simp only [State.checked, hcheck, hmis, State.perform_calm hs]
  · simp only [State.checked, hcheck, addrDetail]
  · simp only [State.checked, hcheck, hmis, alignDetail]

/-- The check of the alignment of an access of `n` bytes at `a` (R151). -/
def misalignedAt (a n : Nat) : Option (Nat × Nat) := if a % n ≠ 0 then some (a, 1) else none

theorem misalignedAt_eq_none {a n : Nat} (h : a % n = 0) : misalignedAt a n = none := if_neg (not_not.mpr h)

theorem misalignedAt_eq_some {a n : Nat} (h : a % n ≠ 0) : misalignedAt a n = some (a, 1) := if_pos h

/-! ## The memory of an address (R116) -/

theorem Machine.spaceOf_lm {a : Nat} (h : region a ≠ .sp) : spaceOf a = (.lm, a) := if_neg h

theorem Machine.spaceOf_sp {a : Nat} (h : region a = .sp) : spaceOf a = (.sp, a - 0x40000000) := if_pos h

/-! ## Scalar loads and stores (R118, R152) -/

theorem mapIdx_span (a n : Nat) :
    ((span a n).mapIdx fun i x => (i, x)) = (List.range n).map fun j => (j, a + j) := by
  refine List.ext_getElem (by simp [span]) fun i _ _ => ?_
  simp [span]

theorem cellsAt_bytesOfNat (a n v : Nat) :
    cellsAt a (bytesOfNat n v) = (List.range n).map fun j => (a + j, BitVec.ofNat 8 (v / 2 ^ (8 * j))) := by
  refine List.ext_getElem (by simp [cellsAt, bytesOfNat]) fun i _ _ => ?_
  simp [cellsAt, bytesOfNat, Nat.shiftRight_eq_div_pow]

/-- The entry of a scalar store of a number of `n` bytes at an address. -/
def scalarStoreEffect (a n v : Nat) : Effect :=
  if region a = .irq then .irq (BitVec.ofNat 5 ((a - 0x70000000) / 0x1000)) (BitVec.ofNat 10 v)
  else .store (spaceOf a).1 (cellsAt (spaceOf a).2 (bytesOfNat n v))

section
variable {a : Nat} (n v : Nat)

theorem scalarStoreEffect_lm (ha : a ≤ 0x1FFFFF) : scalarStoreEffect a n v =
    .store .lm ((List.range n).map fun j => (a + j, BitVec.ofNat 8 (v / 2 ^ (8 * j)))) := by
  have hr : region a = .lm := (region_eq_lm_iff a).mpr ha
  rw [scalarStoreEffect, if_neg (by simp [hr]), spaceOf_lm (by simp [hr]), cellsAt_bytesOfNat]

theorem scalarStoreEffect_sp (h1 : 0x40000000 ≤ a) (h2 : a ≤ 0x41FFFFFF) : scalarStoreEffect a n v =
    .store .sp ((List.range n).map fun j => (a - 0x40000000 + j, BitVec.ofNat 8 (v / 2 ^ (8 * j)))) := by
  have hr : region a = .sp := (region_eq_sp_iff a).mpr ⟨h1, h2⟩
  rw [scalarStoreEffect, if_neg (by simp [hr]), spaceOf_sp hr, cellsAt_bytesOfNat]

theorem scalarStoreEffect_irq (h1 : 0x70000000 ≤ a) (h2 : a ≤ 0x7001FFFF) : scalarStoreEffect a n v =
    .irq (BitVec.ofNat 5 ((a - 0x70000000) / 0x1000)) (BitVec.ofNat 10 v) :=
  if_pos ((region_eq_irq_iff a).mpr ⟨h1, h2⟩)

end

section
variable {h : Head} {s : State} (hs : Spec.Runs s h)
include hs

theorem Machine.State.scalarLoad_runs (d : SReg) (b : Base) (o : BitVec 6) (n : Nat) (ext : LoadExt) :
    let a := (s.baseAddr b + BitVec.ofInt 32 (o.toInt * n)).toNat
    Checked s .load false [span a n] (misalignedAt a n) (s.scalarLoad h d b (o.toInt * n) n ext)
      (s.loadBytes (if region a = .sp then 13 else 5) (.s d) (BitVec.allOnes 256)
        ((List.range n).map fun j => (j, a + j)) ext none) := by
  obtain ⟨hguard, hcalm⟩ := hs
  intro a
  rw [← mapIdx_span, State.scalarLoad, State.checkedSlot_true hguard]
  exact State.checked_spec hcalm _ _ _ (misalignedAt a n) _

theorem Machine.State.scalarStore_runs (d : SReg) (b : Base) (off : Int) (n : Nat) :
    let a := (s.baseAddr b + BitVec.ofInt 32 off).toNat
    let v := (s.sreg d).toNat % 2 ^ (8 * n)
    Checked s .write (decide (4 ≤ n ∧ a % 0x1000 = 0 ∧ 64 ≤ v ∧ v ≤ 1023)) [span a n] (misalignedAt a n)
      (s.scalarStore h d b off n) (s.gatePush .scalar (scalarStoreEffect a n v)) := by
  obtain ⟨hguard, hcalm⟩ := hs
  intro a v
  have hform : decide (4 ≤ n ∧ a % 0x1000 = 0 ∧ 64 ≤ v ∧ v ≤ 1023) =
      (decide (4 ≤ n) && decide (a % 0x1000 = 0) && decide (64 ≤ v) && decide (v ≤ 1023)) := by
    simp only [Bool.decide_and, Bool.and_assoc]
  have heffect : s.gatePush .scalar (scalarStoreEffect a n v) =
      if region a = .irq then
        s.gatePush .scalar (.irq (BitVec.ofNat 5 ((a - 0x70000000) / 0x1000)) (BitVec.ofNat 10 v))
      else s.gatePush .scalar (.store (spaceOf a).1 (cellsAt (spaceOf a).2 (bytesOfNat n v))) :=
    apply_ite (s.gatePush .scalar) ..
  rw [hform, heffect, State.scalarStore, State.checkedSlot_true hguard]
  exact State.checked_spec hcalm _ _ _ (misalignedAt a n) fun s => if region a = .irq then
    s.gatePush .scalar (.irq (BitVec.ofNat 5 ((a - 0x70000000) / 0x1000)) (BitVec.ofNat 10 v))
    else s.gatePush .scalar (.store (spaceOf a).1 (cellsAt (spaceOf a).2 (bytesOfNat n v)))

end

/-! ## Own stores (R50) -/

theorem lastStore_concat (l : List (Nat × Byte)) (p : Nat × Byte) (a : Nat) :
    lastStore (l ++ [p]) a = if p.1 = a then some p.2 else lastStore l a := by
  simp [lastStore]

theorem lastIs_concat (l : List (Nat × Byte)) (p : Nat × Byte) (a : Nat) (b : Byte) :
    Spec.LastIs (l ++ [p]) a b ↔ if p.1 = a then p.2 = b else Spec.LastIs l a b := by
  constructor
  · rintro ⟨pre, post, h, hpost⟩
    rcases List.eq_nil_or_concat post with rfl | ⟨post, q, rfl⟩
    · obtain ⟨rfl, rfl⟩ := List.append_singleton_inj.mp h
      simp
    · rw [List.concat_eq_append] at h hpost
      rw [← List.cons_append, ← List.append_assoc] at h
      obtain ⟨rfl, rfl⟩ := List.append_singleton_inj.mp h
      rw [if_neg (hpost p (by simp))]
      exact ⟨pre, post, rfl, fun q hq => hpost q (by simp [hq])⟩
  · split
    · rintro rfl
      next h => exact ⟨l, [], by rw [← h], by simp⟩
    · rintro ⟨pre, post, rfl, hpost⟩
      next h =>
        refine ⟨pre, post ++ [p], by simp, fun q hq => ?_⟩
        rcases List.mem_append.mp hq with hq | hq
        · exact hpost q hq
        · rw [List.mem_singleton.mp hq]; exact h

/-- The value of the last own store to a byte is the last that the stores give it. -/
theorem lastStore_eq_some_iff (l : List (Nat × Byte)) (a : Nat) (b : Byte) :
    lastStore l a = some b ↔ Spec.LastIs l a b := by
  induction l using List.reverseRecOn with
  | nil => simp [lastStore, Spec.LastIs]
  | append_singleton l p ih =>
    rw [lastStore_concat, lastIs_concat, ← ih]
    split <;> simp

end Sys2Proof
end

section
namespace Sys2Proof

open Machine

/-! ## Bytes put into a register (R152, R153) -/

/-- The register with one byte replaced. -/
def setByte (v : Vec) (p : Nat × Byte) : Vec :=
  (v &&& ~~~((0xFF#2048) <<< (8 * p.1))) ||| (BitVec.ofNat 2048 p.2.toNat <<< (8 * p.1))

theorem vecSetBytes_eq_foldl (v : Vec) (l : List (Nat × Byte)) : vecSetBytes v l = l.foldl setByte v := rfl

theorem getLsbD_shifted_byte (b : Byte) (n i : Nat) : (BitVec.ofNat 2048 b.toNat <<< (8 * n)).getLsbD i =
    (decide (i < 2048) && decide (i / 8 = n) && b.getLsbD (i % 8)) := by
  rw [BitVec.getLsbD_shiftLeft, BitVec.getLsbD_ofNat, BitVec.testBit_toNat]
  by_cases h : i / 8 = n
  · have hlow : ¬i < 8 * n := by omega
    have hmod : i - 8 * n = i % 8 := by omega
    have hfits : i % 8 < 2048 := by omega
    simp [h, hlow, hmod, hfits]
  · by_cases hlow : i < 8 * n
    · simp [h, hlow]
    · have hhigh : 8 ≤ i - 8 * n := by omega
      simp [h, BitVec.getLsbD_of_ge b _ hhigh]

theorem vecByte_setByte (v : Vec) (p : Nat × Byte) {j : Nat} (hj : j < 256) :
    vecByte (setByte v p) j = if p.1 = j then p.2 else vecByte v j := by
  apply BitVec.eq_of_getLsbD_eq
  intro t ht
  have hbit : 8 * j + t < 2048 := by omega
  have hlane : (8 * j + t) / 8 = j := by omega
  have hmod : (8 * j + t) % 8 = t := by omega
  simp only [vecByte, setByte, BitVec.getLsbD_extractLsb', BitVec.getLsbD_or, BitVec.getLsbD_and, BitVec.getLsbD_not,
    getLsbD_byte_shiftLeft, getLsbD_shifted_byte, hlane, hmod]
  by_cases h : p.1 = j
  · simp [h, ht, hbit]
  · simp [h, Ne.symm h, ht, hbit]

theorem vecByte_foldl_setByte_other {l : List (Nat × Byte)} {j : Nat} (hj : j < 256) (h : j ∉ l.map Prod.fst)
    (v : Vec) : vecByte (l.foldl setByte v) j = vecByte v j := by
  induction l generalizing v with
  | nil => rfl
  | cons p l ih =>
    rw [List.map_cons, List.mem_cons, not_or] at h
    rw [List.foldl_cons, ih h.2, vecByte_setByte v p hj, if_neg (Ne.symm h.1)]

/-- Each of some bytes with places of their own stands in the register that they make. -/
theorem vecByte_foldl_setByte {l : List (Nat × Byte)} (hl : (l.map Prod.fst).Nodup) {p : Nat × Byte} (hp : p ∈ l)
    (hlt : p.1 < 256) (v : Vec) : vecByte (l.foldl setByte v) p.1 = p.2 := by
  obtain ⟨pre, post, rfl⟩ := List.append_of_mem hp
  have hpost : p.1 ∉ post.map Prod.fst := by
    rw [List.map_append, List.map_cons] at hl
    exact (List.nodup_cons.mp hl.of_append_right).1
  rw [List.foldl_append, List.foldl_cons, vecByte_foldl_setByte_other hlt hpost, vecByte_setByte _ _ hlt, if_pos rfl]

/-- A load that extends by its sign repeats the highest bit that it read up to bit 63 (R152). -/
theorem Machine.LoadExt.getLsbD_apply_sext (v : Vec) {n : Nat} (hn : 0 < n) (hn' : n ≤ 64) (i : Nat) :
    ((LoadExt.sext n).apply v).getLsbD i = (decide (i < 64) && v.getLsbD (min i (n - 1))) := by
  have hbit : ∀ j, (BitVec.ofNat n v.toNat).getLsbD j = (decide (j < n) && v.getLsbD j) := fun j => by
    rw [BitVec.getLsbD_ofNat, BitVec.testBit_toNat]
  rw [LoadExt.apply, ← signExtend_eq_ofInt, BitVec.getLsbD_setWidth, BitVec.getLsbD_signExtend,
    BitVec.msb_eq_getLsbD_last, hbit, hbit]
  by_cases hi : i < 64
  · by_cases hin : i < n
    · simp [hi, hin, show i < 2048 by omega, show min i (n - 1) = i by omega]
    · simp [hi, hin, hn, show i < 2048 by omega, show min i (n - 1) = n - 1 by omega]
  · simp [hi]

/-! ## What a load forwards and samples (R18, R50) -/

/-- A load that forwards from its context's own stores, unless it has. -/
def Machine.Mach.forwarded (m : Mach) (r : CtxRef) (l : Load) : Load :=
  if l.fwdDone = true then l else (m.core r.cl r.co).forward r.cx l

theorem Machine.Mach.forwarded_eq (m : Mach) (r : CtxRef) (l : Load) :
    m.forwarded r l = { l with fwdDone := (m.forwarded r l).fwdDone, fwd := (m.forwarded r l).fwd } := by
  unfold Mach.forwarded
  split <;> rfl

/-- The byte of a result that a load samples: forwarded, else kept from before its bundle's own stores, else what memory
holds. -/
def Machine.Load.byteAt (l : Load) (mem : Nat → Byte) (p : Nat × Nat) : Byte :=
  match (l.fwd.find? fun f => f.1 == p.1).or (l.keep.find? fun f => f.1 == p.2) with
  | some f => f.2
  | none => mem p.2

theorem find?_key_eq_none {l : List (Nat × Byte)} {j : Nat}
    (h : ∀ c, l.find? (fun f => f.1 == j) ≠ some (j, c)) : l.find? (fun f => f.1 == j) = none := by
  cases hf : l.find? fun f => f.1 == j with
  | none => rfl
  | some f =>
    obtain rfl : f.1 = j := by simpa using List.find?_some hf
    exact absurd hf (h f.2)

/-- Where a list gives a key one value, a search finds that value. -/
theorem find?_key_eq_some_iff {l : List (Nat × Byte)} {j : Nat} (hl : ∀ b c, (j, b) ∈ l → (j, c) ∈ l → b = c)
    (b : Byte) : l.find? (fun f => f.1 == j) = some (j, b) ↔ (j, b) ∈ l := by
  refine ⟨List.mem_of_find?_eq_some, fun h => ?_⟩
  by_contra hne
  have hnone := find?_key_eq_none fun c hc => hne (hl b c h (List.mem_of_find?_eq_some hc) ▸ hc)
  simpa using List.find?_eq_none.mp hnone _ h

theorem Machine.Load.byteAt_eq {l : Load} {mem : Nat → Byte} {p : Nat × Nat} {b : Byte}
    (h : l.fwd.find? (fun f => f.1 == p.1) = some (p.1, b) ∨
      (∀ c, l.fwd.find? (fun f => f.1 == p.1) ≠ some (p.1, c)) ∧
        (l.keep.find? (fun f => f.1 == p.2) = some (p.2, b) ∨
          l.keep.find? (fun f => f.1 == p.2) = none ∧ b = mem p.2)) : l.byteAt mem p = b := by
  unfold Load.byteAt
  rcases h with h | ⟨hfwd, hkeep | ⟨hkeep, rfl⟩⟩
  · rw [h]; rfl
  · rw [find?_key_eq_none hfwd, hkeep]; rfl
  · rw [find?_key_eq_none hfwd, hkeep]; rfl

/-- A load forwards to each of its bytes the last that its context's own stores give it. -/
theorem Machine.Core.mem_fwd_forward_iff (k : Core) (cx : CtxId) {l : Load} (hl : (l.lanes.map Prod.fst).Nodup)
    {p : Nat × Nat} (hp : p ∈ l.lanes) (b : Byte) :
    (p.1, b) ∈ (k.forward cx l).fwd ↔ Spec.LastIs (k.ownStores cx l.issued l.space) p.2 b := by
  rw [← lastStore_eq_some_iff]
  simp only [Core.forward, List.mem_filterMap, Option.map_eq_some_iff, Prod.mk.injEq]
  constructor
  · rintro ⟨q, hq, c, hc, hqp, rfl⟩
    rwa [← List.inj_on_of_nodup_map hl hq hp hqp]
  · exact fun h => ⟨p, hp, b, h, rfl, rfl⟩

theorem lastIs_unique {l : List (Nat × Byte)} {a : Nat} {b c : Byte} (hb : Spec.LastIs l a b) (hc : Spec.LastIs l a c) :
    b = c := by
  rw [← lastStore_eq_some_iff] at hb hc
  exact Option.some.inj (hb.symm.trans hc)

/-- The byte that a load has sent to it by its context's own stores. -/
theorem Machine.Mach.find?_forwarded_iff (m : Mach) (r : CtxRef) {l : Load} (hl : (l.lanes.map Prod.fst).Nodup)
    {p : Nat × Nat} (hp : p ∈ l.lanes) (b : Byte) :
    (m.forwarded r l).fwd.find? (fun f => f.1 == p.1) = some (p.1, b) ↔
      if l.fwdDone = true then l.fwd.find? (fun f => f.1 == p.1) = some (p.1, b)
      else Spec.LastIs ((m.core r.cl r.co).ownStores r.cx l.issued l.space) p.2 b := by
  unfold Mach.forwarded
  split
  · rfl
  · have hmem := fun c => (m.core r.cl r.co).mem_fwd_forward_iff r.cx hl hp c
    rw [find?_key_eq_some_iff fun b c hb hc => lastIs_unique ((hmem b).mp hb) ((hmem c).mp hc), hmem]

/-! ## The sample of a load (R152, R204) -/

theorem Spec.OtherContexts.modCtx (m : Mach) (r : CtxRef) (f : Context → Context) :
    Spec.OtherContexts r m (m.modCtx r f) := fun _ hq => Mach.ctx_modCtx_other _ _ _ _ hq

theorem Spec.OtherContexts.trans {r : CtxRef} {m n t : Mach} (h : Spec.OtherContexts r m n)
    (g : Spec.OtherContexts r n t) : Spec.OtherContexts r m t := fun q hq => (g q hq).trans (h q hq)

section
variable (m : Mach) (r : CtxRef) (f : Context → Context) (space : Space)

theorem Machine.Mach.sampleByte_modCtx :
    (m.modCtx r f).sampleByte r.cl r.co space = m.sampleByte r.cl r.co space := by
  obtain ⟨hcore, hcluster, -⟩ := Spec.SameMemory.modCtx m r f
  funext a
  cases space with
  | lm => rw [Mach.sampleByte, (hcore ..).1, Mach.sampleByte]
  | sp => rw [Mach.sampleByte, (hcluster _).1, Mach.sampleByte]

theorem Machine.Mach.badByte_modCtx (addrs : List Nat) :
    (m.modCtx r f).badByte r.cl r.co space addrs = m.badByte r.cl r.co space addrs := by
  have hcore : ∀ n, ((m.modCtx r f).core r.cl r.co).badAt .lm n = (m.core r.cl r.co).badAt .lm n := fun n => by
    rw [Mach.modCtx, Mach.core_modCore_same]
    rfl
  have hcluster : ∀ n, ((m.modCtx r f).cluster r.cl).badAt n = (m.cluster r.cl).badAt n := fun n => by
    rw [Mach.modCtx, Mach.cluster_modCore_same]
    rfl
  simp only [Mach.badByte, hcore, hcluster]

end

section
variable {m : Mach} {r : CtxRef} {l : Load} (hloads : (m.ctx r).loads = [l]) (hfwd : l.fwdAt ≤ m.cyc r.cl)
include hloads hfwd

/-- The step of a load that is alone in its context, written by what it forwards. -/
theorem Machine.Mach.sampleLoad_single : m.sampleLoad r l =
    if m.cyc r.cl < l.memAt then
      m.modCtx r fun x => { x with loads := x.loads.map fun y => if y.id = l.id then m.forwarded r l else y }
    else
      let n := m.modCtx r fun x => { x with loads := x.loads.filter fun y => y.id != l.id }
      match n.badByte r.cl r.co l.space (l.lanes.map Prod.snd) with
      | some e => n.errorTrap Mach.deferTrap r.cl r.co ⟨r.cx, l.baddr, l.slot, l.issued⟩ e
      | none => n.modCtx r fun x => x.fill l.id (l.ext.apply (vecSetBytes 0 (l.lanes.map fun p =>
          (p.1, (m.forwarded r l).byteAt (n.sampleByte r.cl r.co l.space) p)))) 0 := by
  have hfind : (m.ctx r).loads.find? (fun y => y.id == l.id) = some l := by simp [hloads]
  have hforward : (if (!l.fwdDone && decide (l.fwdAt ≤ m.cyc r.cl)) = true then (m.core r.cl r.co).forward r.cx l
      else l) = m.forwarded r l := by
    unfold Mach.forwarded
    cases l.fwdDone <;> simp [hfwd]
  unfold Mach.sampleLoad
  simp only [hfind, hforward]
  rw [m.forwarded_eq r l]
  rfl

/-- Before the cycle in which memory is sampled a load forwards. -/
theorem Machine.Mach.sampleLoad_before (hmem : m.cyc r.cl < l.memAt) :
    m.sampleLoad r l = m.modCtx r fun x => { x with loads := [m.forwarded r l] } := by
  rw [Mach.sampleLoad_single hloads hfwd, if_pos hmem]
  exact Mach.modCtx_congr (by simp [hloads])

/-- The register that a load's bytes make. -/
def Machine.Mach.loadedBytes (m : Mach) (r : CtxRef) (l : Load) : Vec :=
  (l.lanes.map fun p => (p.1, (m.forwarded r l).byteAt (m.sampleByte r.cl r.co l.space) p)).foldl setByte 0

/-- From the cycle in which memory is sampled a load fills its result and is over. -/
theorem Machine.Mach.sampleLoad_at (hmem : l.memAt ≤ m.cyc r.cl)
    (hbad : m.badByte r.cl r.co l.space (l.lanes.map Prod.snd) = none) :
    m.sampleLoad r l = (m.modCtx r fun x => { x with loads := [] }).modCtx r fun x =>
      x.fill l.id (l.ext.apply (m.loadedBytes r l)) 0 := by
  have hover : (m.modCtx r fun x => { x with loads := x.loads.filter fun y => y.id != l.id }) =
      m.modCtx r fun x => { x with loads := [] } := Mach.modCtx_congr (by simp [hloads])
  rw [Mach.sampleLoad_single hloads hfwd, if_neg (Nat.not_lt.mpr hmem)]
  simp only [Mach.badByte_modCtx, Mach.sampleByte_modCtx, hbad, hover]
  rfl

end

/-- A fold in which one element alone changes the value is the step of that element. -/
theorem foldl_single {α β : Type} {f : β → α → β} {l : List α} (hl : l.Nodup) {a : α} (ha : a ∈ l) {b : β}
    (hb : ∀ c, c ≠ a → f b c = b) (hf : ∀ c, c ≠ a → f (f b a) c = f b a) : l.foldl f b = f b a := by
  have hfixed : ∀ (l : List α) (b : β), (∀ c ∈ l, f b c = b) → l.foldl f b = b := by
    intro l b h
    induction l with
    | nil => rfl
    | cons c l ih =>
      obtain ⟨hc, hl⟩ := List.forall_mem_cons.mp h
      rw [List.foldl_cons, hc, ih hl]
  obtain ⟨pre, post, rfl⟩ := List.append_of_mem ha
  obtain ⟨-, hpost, hdisjoint⟩ := List.nodup_append.mp hl
  have hpre : ∀ c ∈ pre, c ≠ a := fun c hc => hdisjoint c hc a List.mem_cons_self
  have hpost : ∀ c ∈ post, c ≠ a := fun c hc e => (List.nodup_cons.mp hpost).1 (e ▸ hc)
  rw [List.foldl_append, List.foldl_cons, hfixed pre b fun c hc => hb c (hpre c hc),
    hfixed post _ fun c hc => hf c (hpost c hc)]

/-- The samples of the loads of one context. -/
def Machine.Mach.sampleContext (m : Mach) (r : CtxRef) : Mach :=
  (m.ctx r).loads.foldl (fun m l => m.sampleLoad r l) m

theorem Machine.State.sampleLoads_eq (s : State) (cl : ClusterId) (co : CoreId) : s.sampleLoads cl co =
    s.modMach fun m => ctxIds.foldl (fun m cx => m.sampleContext ⟨cl, co, cx⟩) m := rfl

theorem Machine.Mach.sampleContext_of_idle {m : Mach} {r : CtxRef} (h : (m.ctx r).loads = []) :
    m.sampleContext r = m := by
  rw [Mach.sampleContext, h, List.foldl_nil]

/-- The samples of a core in which one context alone has a load are that load's. -/
theorem Machine.State.sampleLoads_single {s : State} {r : CtxRef} {l : Load} (hloads : (s.mach.ctx r).loads = [l])
    (hothers : ∀ c, c ≠ r.cx → (s.mach.ctx ⟨r.cl, r.co, c⟩).loads = [])
    (hkeep : Spec.OtherContexts r s.mach (s.mach.sampleLoad r l)) :
    s.sampleLoads r.cl r.co = s.modMach fun m => m.sampleLoad r l := by
  have hsample : s.mach.sampleContext r = s.mach.sampleLoad r l := by
    rw [Mach.sampleContext, hloads, List.foldl_cons, List.foldl_nil]
  have hafter : ∀ c, c ≠ r.cx → ((s.mach.sampleContext r).ctx ⟨r.cl, r.co, c⟩).loads = [] := fun c hc => by
    rw [hsample, hkeep ⟨r.cl, r.co, c⟩ fun e => hc (congrArg CtxRef.cx e)]
    exact hothers c hc
  have hfold : ctxIds.foldl (fun m cx => m.sampleContext ⟨r.cl, r.co, cx⟩) s.mach = s.mach.sampleContext r :=
    foldl_single (by decide) (mem_ctxIds r.cx) (fun c hc => Mach.sampleContext_of_idle (hothers c hc))
      fun c hc => Mach.sampleContext_of_idle (hafter c hc)
  rw [State.sampleLoads_eq, State.modMach, hfold, hsample, State.modMach]

/-- A step that gives one context a value and leaves alone every other one, every memory and all outside the
clusters. -/
structure OnlyContext (r : CtxRef) (m t : Mach) (y : Context) : Prop where
  ctx : t.ctx r = y
  pk : t.pk = m.pk
  others : Spec.OtherContexts r m t
  memory : Spec.SameMemory m t

theorem OnlyContext.modCtx (m : Mach) (r : CtxRef) (f : Context → Context) :
    OnlyContext r m (m.modCtx r f) (f (m.ctx r)) :=
  ⟨Mach.ctx_modCtx_same .., rfl, .modCtx m r f, .modCtx m r f⟩

theorem OnlyContext.then_modCtx {r : CtxRef} {m n : Mach} {y : Context} (h : OnlyContext r m n y)
    (f : Context → Context) : OnlyContext r m (n.modCtx r f) (f y) := by
  obtain ⟨hctx, hpk, hothers, hmemory⟩ := h
  exact ⟨(Mach.ctx_modCtx_same ..).trans (congrArg f hctx), hpk, hothers.trans (.modCtx n r f),
    hmemory.trans (.modCtx n r f)⟩

section
variable {s : State} {r : CtxRef} {l : Load} (hloads : (s.mach.ctx r).loads = [l])
  (hothers : ∀ c, c ≠ r.cx → (s.mach.ctx ⟨r.cl, r.co, c⟩).loads = []) (hfwd : l.fwdAt ≤ s.mach.cyc r.cl)
include hloads hothers hfwd

theorem sampleLoads_before (hmem : s.mach.cyc r.cl < l.memAt) :
    OnlyContext r s.mach (s.sampleLoads r.cl r.co).mach { s.mach.ctx r with loads := [s.mach.forwarded r l] } := by
  have hforward := OnlyContext.modCtx s.mach r fun x => { x with loads := [s.mach.forwarded r l] }
  have hstep := Mach.sampleLoad_before hloads hfwd hmem
  rw [State.sampleLoads_single hloads hothers (hstep ▸ hforward.others), State.modMach_mach, hstep]
  exact hforward

theorem sampleLoads_at (hmem : l.memAt ≤ s.mach.cyc r.cl)
    (hbad : s.mach.badByte r.cl r.co l.space (l.lanes.map Prod.snd) = none) :
    OnlyContext r s.mach (s.sampleLoads r.cl r.co).mach
      (({ s.mach.ctx r with loads := [] } : Context).fill l.id (l.ext.apply (s.mach.loadedBytes r l)) 0) := by
  have hover := (OnlyContext.modCtx s.mach r fun x => { x with loads := [] }).then_modCtx
    fun x => x.fill l.id (l.ext.apply (s.mach.loadedBytes r l)) 0
  have hstep := Mach.sampleLoad_at hloads hfwd hmem hbad
  rw [State.sampleLoads_single hloads hothers (hstep ▸ hover.others), State.modMach_mach, hstep]
  exact hover

end

theorem map_fst_sampled (l : Load) (v : Nat × Nat → Byte) :
    (l.lanes.map fun p => (p.1, v p)).map Prod.fst = l.lanes.map Prod.fst := by
  rw [List.map_map]
  rfl

section
variable (m : Mach) (r : CtxRef) {l : Load}

/-- Each byte of a sample comes from the last own store to it, else from before its bundle's own stores, else from
memory. -/
theorem Machine.Mach.vecByte_loadedBytes (hnodup : (l.lanes.map Prod.fst).Nodup) (hlt : ∀ p ∈ l.lanes, p.1 < 256)
    {p : Nat × Nat} (hp : p ∈ l.lanes) {b : Byte}
    (h : let own := (m.core r.cl r.co).ownStores r.cx l.issued l.space
      let sent (c : Byte) : Prop := if l.fwdDone = true then l.fwd.find? (fun f => f.1 == p.1) = some (p.1, c)
        else Spec.LastIs own p.2 c
      sent b ∨ (∀ c, ¬sent c) ∧ (l.keep.find? (fun f => f.1 == p.2) = some (p.2, b) ∨
        l.keep.find? (fun f => f.1 == p.2) = none ∧ b = m.sampleByte r.cl r.co l.space p.2)) :
    vecByte (m.loadedBytes r l) p.1 = b := by
  have hkeep : (m.forwarded r l).keep = l.keep := by rw [m.forwarded_eq r l]
  simp only [← m.find?_forwarded_iff r hnodup hp, ← hkeep] at h
  have hmem : (p.1, (m.forwarded r l).byteAt (m.sampleByte r.cl r.co l.space) p) ∈ l.lanes.map fun p =>
      (p.1, (m.forwarded r l).byteAt (m.sampleByte r.cl r.co l.space) p) := List.mem_map_of_mem hp
  rw [← Load.byteAt_eq h]
  exact vecByte_foldl_setByte (by rwa [map_fst_sampled]) hmem (hlt p hp) 0

theorem Machine.Mach.vecByte_loadedBytes_other {j : Nat} (hj : j < 256) (h : j ∉ l.lanes.map Prod.fst) :
    vecByte (m.loadedBytes r l) j = 0#8 := by
  rw [Mach.loadedBytes, vecByte_foldl_setByte_other hj (by rwa [map_fst_sampled])]
  simp [vecByte]

end

/-! ## The scalar loads and stores -/

/-- Settles O16: the scalar forms are their accesses behind the checks, and a sample takes each byte from the first of
its three sources that has it. -/
theorem scalarMemory : Obligations.ScalarMemory := by
  refine ⟨fun h d b o s hs => ?_, fun h d b o s hs => ?_⟩
  · intro loads
    have hloads : ∀ i (n : Nat) ext, exec i s = .next (s.scalarLoad h d b (o.toInt * n) n ext) → loads i n ext := by
      intro i n ext hexec
      obtain ⟨hpass, hfault, hmis⟩ := State.scalarLoad_runs hs d b o n ext
      simp only [loads, hexec]
      exact ⟨fun hc ha => congrArg _ (hpass hc (misalignedAt_eq_none ha)), fun f kd hc => congrArg _ (hfault f kd hc),
        fun hc ha => congrArg _ (hmis _ 1 hc (misalignedAt_eq_some ha))⟩
    refine ⟨hloads _ 1 _ rfl, hloads _ 2 _ rfl, hloads _ 4 _ rfl, hloads _ 8 _ rfl, hloads _ 1 _ rfl, hloads _ 2 _ rfl,
      hloads _ 4 _ rfl, ?_⟩
    intro cl co cx s l r x k now entries own mem sent kept t only hload hothers hnodup hlt hfwd
    refine ⟨fun hdone hmem => ?_, fun hmem hbad => ?_⟩
    · obtain ⟨hctx, hpk, hother, hmemory⟩ := sampleLoads_before (r := r) hload hothers hfwd hmem
      have hforward : s.mach.forwarded r l = k.forward cx l := if_neg (by simp [hdone])
      rw [hforward] at hctx
      exact ⟨(k.forward cx l).fwd, ⟨hctx, State.modMach_iss .., hpk, hother, hmemory⟩, fun p hp b =>
        k.mem_fwd_forward_iff cx hnodup hp b⟩
    · obtain ⟨hctx, hpk, hother, hmemory⟩ := sampleLoads_at (r := r) hload hothers hfwd hmem hbad
      refine ⟨s.mach.loadedBytes r l, _, ⟨hctx, State.modMach_iss .., hpk, hother, hmemory⟩,
        fun p hp b hb => s.mach.vecByte_loadedBytes r hnodup hlt hp hb,
        fun j hj hjl => s.mach.vecByte_loadedBytes_other r hj hjl, fun hraw => by rw [hraw, LoadExt.apply],
        fun n hsext hn hn' i => ?_⟩
      rw [hsext]
      exact LoadExt.getLsbD_apply_sext _ hn hn' i
  · intro stores
    have hstores : ∀ i (n : Nat), exec i s = .next (s.scalarStore h d b (o.toInt * n) n) → stores i n := by
      intro i n hexec
      obtain ⟨hpass, hfault, hmis⟩ := State.scalarStore_runs hs d b (o.toInt * n) n
      have hput {e} hc ha (he : scalarStoreEffect _ n _ = e) := hexec.trans (congrArg Host.Outcome.next
        ((hpass hc (misalignedAt_eq_none ha)).trans (congrArg (s.gatePush .scalar) he)))
      exact ⟨fun hc ha hlm => hput hc ha (scalarStoreEffect_lm n _ hlm),
        fun hc ha h1 h2 => hput hc ha (scalarStoreEffect_sp n _ h1 h2),
        fun hc ha h1 h2 => hput hc ha (scalarStoreEffect_irq n _ h1 h2),
        fun f kd hc => hexec.trans (congrArg _ (hfault f kd hc)),
        fun hc ha => hexec.trans (congrArg _ (hmis _ 1 hc (misalignedAt_eq_some ha)))⟩
    exact ⟨hstores _ 1 rfl, hstores _ 2 rfl, hstores _ 4 rfl, hstores _ 8 rfl⟩

end Sys2Proof
end

section
namespace Sys2Proof

open Machine

/-! ## Lanes and elements of an access under a mask (R96, R153, R155) -/

/-- The mask q1 enables no lane (R20). -/
theorem Machine.State.mguard_q1 (s : State) {h : Head} (hq : h.guard = 1) : s.mguard h = 0 := by
  rw [State.mguard, hq, Regs.mask, if_pos (by decide), Regs.maskEven, if_pos (by decide), BitVec.not_allOnes]
  rfl

/-- Each byte lane that a mask enables, with the address of its byte. -/
def laneBytes (q : Mask) (a : Nat) : List (Nat × Nat) := (lanesOf q).map fun j => (j, a + j)

theorem guard_ne_one_of_lanes {s : State} {h : Head} {a : Nat} (hl : laneBytes (s.mguard h) a ≠ []) : h.guard ≠ 1 := by
  rintro hq
  rw [s.mguard_q1 hq] at hl
  simp [laneBytes, lanesOf] at hl

/-- The memory of a vector store: that of its lowest lane. -/
def laneSpace (lanes : List (Nat × Nat)) : Space :=
  match lanes with
  | [] => .lm
  | (_, x) :: _ => (spaceOf x).1

theorem laneSpace_eq {lanes : List (Nat × Nat)} {m : Space} (hall : ∀ p ∈ lanes, (spaceOf p.2).1 = m)
    (hne : lanes ≠ []) : laneSpace lanes = m := by
  cases lanes with
  | nil => exact absurd rfl hne
  | cons p l => exact hall p List.mem_cons_self

theorem Machine.gatherAddrs_eq (w : EW) (q : Mask) (addr : Nat → Nat) : gatherAddrs w q addr =
    ((List.range (256 / ewBytes w)).filter fun i => elemOn (8 * ewBytes w) q i).map fun i => (i, addr i) := by
  rw [gatherAddrs]
  generalize List.range (256 / ewBytes w) = l
  induction l with
  | nil => rfl
  | cons i l ih =>
    rw [List.filterMap_cons, List.filter_cons]
    cases elemOn (8 * ewBytes w) q i <;> simpa using ih

theorem Machine.strideAddr_eq (base stride : Word) :
    strideAddr base stride = fun i => (base.toNat + i * stride.toNat) % 2 ^ 32 := by
  funext i
  simp [strideAddr, BitVec.toNat_add, BitVec.toNat_mul]

theorem Machine.indexAddr_eq (base : Word) (idx : Vec) (w : EW) :
    indexAddr base idx w = fun i => (base.toNat + elem (8 * ewBytes w) idx i * ewBytes w) % 2 ^ 32 := by
  funext i
  simp [indexAddr, BitVec.toNat_add]

/-! ## The vector forms behind their checks (R153 to R155) -/

/-- The check of the alignment of a vector access at `a` (R151). -/
def oddLanes (lanes : List (Nat × Nat)) (a : Nat) : Option (Nat × Nat) :=
  if a % 2 ≠ 0 ∧ lanes ≠ [] then some (a, 2) else none

section
variable {s : State} (hs : Spec.Calm s) (h : Head) (d : VReg)
include hs

theorem Machine.State.vectorLoad_checked (b : Base) (imm : BitVec 8) (tag : Option (BitVec 16)) :
    let a := (s.baseAddr b + BitVec.ofInt 32 (imm.toInt * 256)).toNat
    let lanes := laneBytes (s.mguard h) a
    Checked s (if tag.isSome then .loadLM else .load) false [lanes.map Prod.snd] (oddLanes lanes a)
      (s.vectorLoad h d b imm tag)
      (s.loadBytes (if lanes.any fun p => region p.2 = .sp then 14 else 6) (.v d) (s.mguard h) lanes .raw tag) :=
  State.checked_spec hs _ _ _ (oddLanes _ _) _

theorem Machine.State.vectorStore_checked (b : Base) (imm : BitVec 8) :
    let a := (s.baseAddr b + BitVec.ofInt 32 (imm.toInt * 256)).toNat
    let lanes := laneBytes (s.mguard h) a
    Checked s .write false [lanes.map Prod.snd] (oddLanes lanes a) (s.vectorStore h d b imm)
      (s.pushVector h (laneSpace lanes) (lanes.map fun p => ((spaceOf p.2).2, vecByte (s.vreg d) p.1))) :=
  State.checked_spec hs _ _ _ (oddLanes _ _) _

theorem Machine.State.elemLoad_checked (w : EW) (addr : Nat → Nat) :
    let l := gatherAddrs w (s.mguard h) addr
    Checked s .loadLM false (l.map fun p => span p.2 (ewBytes w)) (elemMisaligned w l) (s.elemLoad h d w addr)
      (s.loadBytes 8 (.v d) (elemMask (8 * ewBytes w) (s.mguard h))
        (l.flatMap fun p => (List.range (ewBytes w)).map fun j => (p.1 * ewBytes w + j, p.2 + j)) .raw none) :=
  State.checked_spec hs _ _ _ _ _

theorem Machine.State.elemStore_checked (w : EW) (addr : Nat → Nat) :
    let l := gatherAddrs w (s.mguard h) addr
    Checked s .writeLM false (l.map fun p => span p.2 (ewBytes w)) (elemMisaligned w l) (s.elemStore h d w addr)
      (s.pushVector h .lm (l.flatMap fun p =>
        (List.range (ewBytes w)).map fun j => (p.2 + j, vecByte (s.vreg d) (p.1 * ewBytes w + j)))) :=
  State.checked_spec hs _ _ _ _ _

end

theorem exec_ldt_checked {s : State} (hs : Spec.Calm s) {h : Head} (hguard : s.pguard h = true) (g : SReg)
    (r : BitVec 5) (imm : BitVec 8) :
    let a := (s.baseAddr (.sreg r) + BitVec.ofInt 32 (imm.toInt * 8)).toNat
    ∃ u, exec (.ldt h g r imm) s = .next u ∧ Checked s .loadLM false [span a 8] (misalignedAt a 8) u
      (s.loadBytes 5 (.s g) (BitVec.allOnes 256) ((List.range 8).map fun j => (j, a + j)) .raw
        (some ((s.sreg (r.setWidth 6)).extractLsb' 32 16))) := by
  intro a
  refine ⟨_, congrArg Host.Outcome.next (State.checkedSlot_true hguard _), ?_⟩
  rw [← mapIdx_span]
  exact State.checked_spec hs _ _ _ (misalignedAt a 8) _

/-- Settles O18: each form is its access behind the checks, over the lanes or elements that its mask enables. -/
theorem vectorMemory : Obligations.VectorMemory := by
  intro h d s hs q guards lanes odd lat
  have hguards : ∀ {i k accs mis u t}, exec i s = .next u → Checked s k false accs mis u t → guards i k accs mis t := by
    rintro i k accs mis u t hexec ⟨hpass, hfault, hmis⟩
    exact ⟨fun hc hm => hexec.trans (congrArg _ (hpass hc hm)),
      fun f kd hc => hexec.trans (congrArg _ (hfault f kd hc)),
      fun f r hc hm => hexec.trans (congrArg _ (hmis f r hc hm))⟩
  refine ⟨fun b imm => ?_, fun r imm => ?_, fun g r imm hguard => ?_, fun w => ?_⟩
  · intro a
    have hload := State.vectorLoad_checked hs h d b imm none
    have hstore := State.vectorStore_checked hs h d b imm
    refine ⟨hguards rfl hload, fun m hall hne => hguards rfl ?_, fun hnone => ?_⟩
    · have hput : ∀ bytes, s.pushVector h (laneSpace (lanes a)) bytes = s.gatePush .vector (.store m bytes) :=
        fun bytes => by rw [laneSpace_eq hall hne, State.pushVector, if_neg (guard_ne_one_of_lanes hne)]
      rw [← hput]
      exact hstore
    · have hlanes : laneBytes (s.mguard h) a = [] := hnone
      simp only [a, hlanes] at hstore hload
      exact ⟨congrArg _ (hstore.passes rfl (if_neg fun hne => hne.2 rfl)),
        congrArg _ (hload.passes rfl (if_neg fun hne => hne.2 rfl))⟩
  · exact hguards rfl (State.vectorLoad_checked hs h d (.sreg r) imm (some _))
  · obtain ⟨u, hexec, hcheck⟩ := exec_ldt_checked hs hguard g r imm
    exact hguards hexec hcheck
  · intro n on accs mis load store
    have hloads : ∀ {i addr}, exec i s = .next (s.elemLoad h d w addr) →
        guards i .loadLM (accs addr) (mis addr) (load addr) := fun {i addr} hexec => by
      have hcheck := State.elemLoad_checked hs h d w addr
      rw [gatherAddrs_eq] at hcheck
      exact hguards hexec hcheck
    have hstores : ∀ {i addr}, exec i s = .next (s.elemStore h d w addr) →
        guards i .writeLM (accs addr) (mis addr) (store addr) := fun {i addr} hexec => by
      have hcheck := State.elemStore_checked hs h d w addr
      rw [gatherAddrs_eq] at hcheck
      exact hguards hexec hcheck
    refine ⟨fun a b => ?_, fun a b => ?_⟩
    · intro addr
      have haddr : strideAddr (s.sreg a) (s.sreg b) = addr := strideAddr_eq ..
      exact ⟨hloads (haddr ▸ rfl), hstores (haddr ▸ rfl)⟩
    · intro addr
      have haddr : indexAddr (s.sreg a) (s.vreg b) w = addr := indexAddr_eq ..
      exact ⟨hloads (haddr ▸ rfl), hstores (haddr ▸ rfl)⟩

end Sys2Proof
end

section
namespace Sys2Proof

open Machine

/-! ## The release atomics at the end of their bundle (R158) -/

theorem Machine.State.mach_commitRels (s : State) :
    s.commitRels.mach = s.iss.rels.foldl (fun m e => m.commitEntry s.ref s.iss.fences e) s.mach := by
  have hfold : ∀ (l : List Entry) (t : State),
      (l.foldl (fun s e => { s with mach := s.mach.commitEntry s.ref s.iss.fences e }) t).mach =
        l.foldl (fun m e => m.commitEntry t.ref t.iss.fences e) t.mach := by
    intro l
    induction l with
    | nil => exact fun _ => rfl
    | cons e l ih => exact fun t => ih { t with mach := t.mach.commitEntry t.ref t.iss.fences e }
  exact hfold s.iss.rels s

section
variable (s : State) (cl : ClusterId) (co : CoreId)

theorem Machine.State.drain_dropOnExit : (s.dropOnExit.mach.core cl co).drain = (s.mach.core cl co).drain := by
  unfold State.dropOnExit
  split
  · exact Mach.drain_modCtx ..
  · rfl

theorem Machine.State.drain_planStep : (s.planStep.mach.core cl co).drain = (s.mach.core cl co).drain := by
  unfold State.planStep
  split
  · exact Mach.drain_modCtx ..
  · rfl

end

/-- The release atomics of a bundle are the last entries that it adds to the drain. -/
theorem Machine.State.finish_queued {s : State} (hs : s.iss.raises = []) (is : List (Nat × Instr)) :
    Queued s.ref s.mach (s.finish is).mach s.iss.rels := by
  obtain ⟨hqueued, -⟩ := Mach.foldl_commitEntry s.ref s.iss.fences s.iss.rels s.mach
  rw [← State.mach_commitRels] at hqueued
  refine hqueued.congr rfl rfl ?_
  rw [State.finish_mach_eq is hs, State.drain_planStep, State.drain_dropOnExit]
  exact Mach.drain_modCtx ..

/-! ## The operations (R159 to R161) -/

/-- The number that `n` bytes hold, with its sign. -/
def signedInt (n x : Nat) : Int := (BitVec.ofNat (8 * n) x).toInt

section
variable (n old v e : Nat)

theorem applyOp_min_spec :
    let r := applyOp .min n old v e
    (r = old ∨ r = v) ∧ signedInt n r ≤ signedInt n old ∧ signedInt n r ≤ signedInt n v := by
  have hmin : applyOp .min n old v e = if signedInt n old < signedInt n v then old else v := by
    simp only [applyOp, decide_eq_true_eq]
    rfl
  rw [hmin]
  split
  · next h => exact ⟨.inl rfl, le_refl _, h.le⟩
  · next h => exact ⟨.inr rfl, not_lt.mp h, le_refl _⟩

theorem applyOp_max_spec :
    let r := applyOp .max n old v e
    (r = old ∨ r = v) ∧ signedInt n old ≤ signedInt n r ∧ signedInt n v ≤ signedInt n r := by
  have hmax : applyOp .max n old v e = if signedInt n old < signedInt n v then v else old := by
    simp only [applyOp, decide_eq_true_eq]
    rfl
  rw [hmax]
  split
  · next h => exact ⟨.inr rfl, h.le, le_refl _⟩
  · next h => exact ⟨.inl rfl, le_refl _, not_lt.mp h⟩

theorem applyOp_bits (i : Nat) :
    (applyOp .and n old v e).testBit i = (old.testBit i && v.testBit i) ∧
    (applyOp .or n old v e).testBit i = (old.testBit i || v.testBit i) ∧
    (applyOp .xor n old v e).testBit i = (old.testBit i != v.testBit i) :=
  ⟨Nat.testBit_and .., Nat.testBit_or .., Nat.testBit_xor ..⟩

end

/-! ## An atomic in LM (R158, R161) -/

/-- The LM of a core takes some bytes. The core's atomics stand, its contexts stand but for what their loads keep, and
nothing else changes. -/
structure WritesLM (cl : ClusterId) (co : CoreId) (bytes : List (Nat × Byte)) (m t : Mach) : Prop where
  lm : (t.core cl co).lm = (m.core cl co).lm.putAll (some 0) bytes
  atomics : (t.core cl co).atomics = (m.core cl co).atomics
  ctx : ∀ r, LoadsAlike (m.ctx r) (t.ctx r)
  others : Spec.OtherCores cl co m t
  scratch : ∀ c, (t.cluster c).scratch = (m.cluster c).scratch
  pk : t.pk = m.pk

theorem WritesLM.refl (cl : ClusterId) (co : CoreId) (m : Mach) : WritesLM cl co [] m m :=
  ⟨rfl, rfl, fun _ => .refl _, fun _ _ _ => rfl, fun _ => rfl, rfl⟩

theorem Machine.Mach.scratch_modCore (m : Mach) (cl : ClusterId) (co : CoreId) (f : Core → Core) (c : ClusterId) :
    ((m.modCore cl co f).cluster c).scratch = (m.cluster c).scratch := by
  by_cases h : c = cl
  · subst h; rw [Mach.cluster_modCore_same]; rfl
  · rw [Mach.cluster_modCore_other _ _ _ h]

theorem writesLM_writeLM (cl : ClusterId) (co : CoreId) (own : Option (CtxId × Nat)) (bytes : List (Nat × Byte))
    (m : Mach) : WritesLM cl co bytes m (m.modCore cl co fun k => k.writeLM own bytes) := by
  have hcore := Mach.core_modCore_same m cl co fun k => k.writeLM own bytes
  obtain ⟨bad, hwrite⟩ := (m.core cl co).writeLM_eq own bytes
  refine ⟨by rw [hcore, hwrite], by rw [hcore, hwrite], fun r => ?_, .modCore m cl co _, m.scratch_modCore cl co _, rfl⟩
  obtain ⟨rfl, rfl, h⟩ | h := m.ctx_modCore_cases cl co (fun k => k.writeLM own bytes) r
  · rw [h]; exact Core.ctx_writeLM _ own bytes r.cx
  · rw [h]; exact .refl _

/-- An atomic in LM: it writes what its operation makes of the number there, and fills its result with it. -/
theorem Machine.Mach.performAtomic_lm {m : Mach} {cl : ClusterId} {co : CoreId} (issued : Nat) {a : Atomic}
    {old : Nat} (heff : a.eff = none) (hlm : a.space = .lm) (hbad : m.badByte cl co .lm (span a.addr a.n) = none)
    (hold : Spec.Holds (fun i => ((m.core cl co).lm.byte (some 0) (a.addr + i)).getD 0) a.n old) :
    ∃ n, WritesLM cl co (a.cells old) m n ∧
      m.performAtomic cl co issued a = n.fillResult ⟨cl, co, a.cx⟩ a.res (Spec.signed a.n old) := by
  have hread : natOfBytes ((span a.addr a.n).map fun x => m.sampleByte cl co .lm x) = old := by
    rw [span, List.map_map]
    exact hold.natOfBytes_eq
  unfold Mach.performAtomic
  simp only [heff, hlm, hbad, hread, Mach.fillResult, Spec.signed, Atomic.cells, Atomic.newValue]
  cases a.kind with
  | load => exact ⟨m, .refl cl co m, rfl⟩
  | store => exact ⟨_, writesLM_writeLM cl co (some (a.cx, issued)) _ m, rfl⟩
  | rmw op => exact ⟨_, writesLM_writeLM cl co (some (a.cx, issued)) _ m, rfl⟩

/-- The machine once the only atomic that waits in a core's LM has been taken, and its committed effect is performed. -/
def Machine.Mach.takeAtomic (m : Mach) (cl : ClusterId) (co : CoreId) (eff : Option Nat) : Mach :=
  (m.modCore cl co fun k => { k with atomics := [] }).performedOpt eff

section
variable (m : Mach) (cl : ClusterId) (co : CoreId) (eff : Option Nat)

theorem Machine.Mach.core_takeAtomic_same :
    (m.takeAtomic cl co eff).core cl co = { m.core cl co with atomics := [] } := by
  rw [Mach.takeAtomic, Mach.core_performedOpt, Mach.core_modCore_same]

theorem Machine.Mach.otherCores_takeAtomic : Spec.OtherCores cl co m (m.takeAtomic cl co eff) := fun c o h => by
  rw [Mach.takeAtomic, Mach.core_performedOpt]
  exact Spec.OtherCores.modCore m cl co _ c o h

theorem Machine.Mach.ctx_takeAtomic (r : CtxRef) : (m.takeAtomic cl co eff).ctx r = m.ctx r := by
  rw [Mach.takeAtomic, Mach.ctx_performedOpt]
  obtain ⟨rfl, rfl, h⟩ | h := m.ctx_modCore_cases cl co (fun k => { k with atomics := [] }) r
  · rw [h]; rfl
  · exact h

theorem Machine.Mach.scratch_takeAtomic (c : ClusterId) :
    ((m.takeAtomic cl co eff).cluster c).scratch = (m.cluster c).scratch := by
  rw [Mach.takeAtomic, Mach.cluster_performedOpt, Mach.scratch_modCore]

end

theorem Machine.State.performAtomics_single {u : State} {cl : ClusterId} {co : CoreId} {p : AtomicDue}
    (hatomics : (u.mach.core cl co).atomics = [p]) (hdue : p.due ≤ u.mach.cyc cl) :
    u.performAtomics cl co = u.modMach fun m =>
      (m.takeAtomic cl co p.a.eff).performAtomic cl co p.issued { p.a with eff := none } := by
  have hnow : (u.mach.core cl co).atomics.filter (fun a => decide (a.due ≤ u.mach.cyc cl)) = [p] := by
    simp [hatomics, hdue]
  have hlater : (u.mach.modCore cl co fun k =>
      { k with atomics := k.atomics.filter fun a => decide (u.mach.cyc cl < a.due) }) =
      u.mach.modCore cl co fun k => { k with atomics := [] } := by
    have hnone : (u.mach.core cl co).atomics.filter (fun a => decide (u.mach.cyc cl < a.due)) = [] := by
      simp [hatomics, hdue]
    rw [Mach.modCore, hnone, Mach.modCore]
  simp only [State.performAtomics, State.modMach, hnow, hlater, List.foldl_cons, List.foldl_nil]
  rw [Mach.performAtomic_eff, Mach.takeAtomic]

theorem Machine.Mach.atomics_fillResult (m : Mach) (cl : ClusterId) (co : CoreId) (cx : CtxId) (res : Option Nat)
    (v : Word) : ((m.fillResult ⟨cl, co, cx⟩ res v).core cl co).atomics = (m.core cl co).atomics := by
  cases res with
  | none => rfl
  | some id =>
    rw [Mach.fillResult, Mach.modCtx, Mach.core_modCore_same]
    rfl

theorem Machine.Mach.otherCores_fillResult (m : Mach) (cl : ClusterId) (co : CoreId) (cx : CtxId) (res : Option Nat)
    (v : Word) : Spec.OtherCores cl co m (m.fillResult ⟨cl, co, cx⟩ res v) := by
  cases res with
  | none => exact fun _ _ _ => rfl
  | some id => exact .modCore m cl co _

theorem Machine.Mach.scratch_fillResult (m : Mach) (r : CtxRef) (res : Option Nat) (v : Word) (c : ClusterId) :
    ((m.fillResult r res v).cluster c).scratch = (m.cluster c).scratch := by
  cases res with
  | none => rfl
  | some id => exact m.scratch_modCore r.cl r.co _ c

theorem Spec.OtherCores.trans {cl : ClusterId} {co : CoreId} {m n t : Mach} (h : Spec.OtherCores cl co m n)
    (g : Spec.OtherCores cl co n t) : Spec.OtherCores cl co m t := fun c o hne => (g c o hne).trans (h c o hne)

/-- An atomic that has come due in LM reads the number there, writes what its operation makes of it, and gives it as
its result. -/
theorem performAtomics_lm {cl : ClusterId} {co : CoreId} {u : State} {p : AtomicDue} {old : Nat}
    (hatomics : (u.mach.core cl co).atomics = [p]) (hdue : p.due ≤ u.mach.cyc cl) (hlm : p.a.space = .lm)
    (hwf : (u.mach.core cl co).lm.wf (some 0) = true)
    (hbad : u.mach.badByte cl co .lm (span p.a.addr p.a.n) = none) :
    let a := p.a
    let k := u.mach.core cl co
    let r : CtxRef := ⟨cl, co, a.cx⟩
    let t := u.performAtomics cl co
    let w := 2 ^ (8 * a.n)
    let byte (m : Mach) (i : Nat) : Byte := ((m.core cl co).lm.byte (some 0) (a.addr + i)).getD 0
    Spec.Holds (byte u.mach) a.n old →
    (t.mach.core cl co).atomics = [] ∧
    (∀ op, a.kind = .rmw op → Spec.Holds (byte t.mach) a.n (applyOp op a.n old (a.val.toNat % w) (a.exp.toNat % w))) ∧
    (a.kind = .store → Spec.Holds (byte t.mach) a.n (a.val.toNat % w)) ∧
    (a.kind = .load → (t.mach.core cl co).lm = k.lm) ∧
    (∀ x, x < a.addr ∨ a.addr + a.n ≤ x → (t.mach.core cl co).lm.byte (some 0) x = k.lm.byte (some 0) x) ∧
    (t.mach.ctx r).inflight = (match a.res with
      | none => (u.mach.ctx r).inflight
      | some id => (u.mach.ctx r).inflight.map fun f => if f.id = id then
          { f with val := (Spec.signed a.n old).setWidth 2048, ready := true } else f) ∧
    (∀ id, a.eff = some id → ∀ o ∈ t.mach.pk.outs, o.id ≠ id) ∧ Spec.SameRegs u.mach t.mach ∧
    Spec.OtherCores cl co u.mach t.mach ∧ ∀ c, (t.mach.cluster c).scratch = (u.mach.cluster c).scratch := by
  intro a k r t w byte hold
  have hcore := u.mach.core_takeAtomic_same cl co a.eff
  have hbad' : (u.mach.takeAtomic cl co a.eff).badByte cl co .lm (span a.addr a.n) = none := by
    rw [← hbad]
    simp only [Mach.badByte, hcore]
    rfl
  obtain ⟨n, hw, hn⟩ := Mach.performAtomic_lm p.issued (a := { a with eff := none }) rfl hlm hbad'
    (by rw [hcore]; exact hold)
  have ht : t.mach = n.fillResult r a.res (Spec.signed a.n old) := by
    rw [← hn]
    exact congrArg State.mach (State.performAtomics_single hatomics hdue)
  have hctx : ∀ q, LoadsAlike (u.mach.ctx q) (n.ctx q) := fun q => by
    have hq := hw.ctx q
    rwa [Mach.ctx_takeAtomic] at hq
  have hmem : (t.mach.core cl co).lm = k.lm.putAll (some 0) (a.cells old) := by
    rw [ht, Mach.lm_fillResult, hw.lm, hcore]
    rfl
  obtain ⟨hrmw, hstore, hload, hother⟩ := a.cells_spec hold.1 hwf
  rw [← hmem] at hrmw hstore hload hother
  refine ⟨?_, hrmw, hstore, hload, hother, ?_, fun id hid => ?_, ?_, ?_, fun c => ?_⟩
  · rw [ht, Mach.atomics_fillResult, hw.atomics, hcore]
  · have hfill := n.inflight_fillResult r a.res (Spec.signed a.n old)
    obtain ⟨l, hl, -⟩ := hctx r
    rw [hl] at hfill
    rw [ht]
    exact hfill
  · rw [ht, Mach.pk_fillResult, hw.pk, hid]
    exact Mach.outs_performedOpt _ id
  · rw [ht]
    exact Spec.SameRegs.trans (fun q => (hctx q).regs) (n.sameRegs_fillResult r a.res _)
  · rw [ht]
    exact ((u.mach.otherCores_takeAtomic cl co a.eff).trans hw.others).trans
      (n.otherCores_fillResult cl co a.cx a.res _)
  · rw [ht, Mach.scratch_fillResult, hw.scratch, Mach.scratch_takeAtomic]

end Sys2Proof
end

section
namespace Sys2Proof

open Machine

/-! ## The issue of a local atomic (R157, R158) -/

/-- The atomic that a slot makes of its operands. -/
def Machine.State.atomicOf (s : State) (kind : AKind) (n a : Nat) (val exp : Word) (res eff : Option Nat) : Atomic :=
  { kind := kind, n := n, space := (spaceOf a).1, addr := (spaceOf a).2, val := val, exp := exp, res := res,
    cx := s.iss.cx, baddr := s.iss.baddr, slot := s.iss.slot, eff := eff }

/-- An atomic without a release ordering goes to its bank, or waits for its cycle in LM. -/
def Machine.State.sendAtomic (s v : State) (a : Nat) (x : Atomic) : State :=
  if region a = .sp then v.modMach fun m => m.modCluster s.iss.cl fun c =>
    { c with bank := c.bank ++ [⟨s.now + 7, s.now, s.iss.co, s.iss.cx, [], some x, none⟩] }
  else v.modCore fun k => { k with atomics := k.atomics ++ [⟨s.now + 2, s.iss.co, x, s.now⟩] }

/-- The result that an atomic's old value fills, where it has a destination. -/
def Machine.State.awaitOld (s : State) (a : Nat) (dest : Option SReg) : Option Nat × State :=
  match dest with
  | none => (none, s)
  | some d =>
    let p := s.await (if region a = .sp then 13 else 5) (.s d) (BitVec.allOnes 256)
    (some p.1, p.2)

theorem Machine.State.now_noRestart (s : State) : s.noRestart.now = s.now :=
  State.now_congr rfl (Spec.SameBlocks.modCore s.mach s.iss.cl s.iss.co _)

/-- A commit point is placed in the issue cycle. -/
theorem Machine.State.now_commitPoint (s : State) : s.commitPoint.now = s.now := by
  have hkept : Mach.Kept (fun _ => False) s.mach s.commitPoint.mach := .commitPoint s
  have hsame : ({ s with mach := s.commitPoint.mach } : State).now = s.now := State.now_congr rfl hkept.blocks
  exact hsame

section
variable {h : Head} {s : State} (hs : Spec.Runs s h) {kind : AKind} {acc : AccessKind} {o : Ord} {w : Bool}
  {addr val exp : Word} {dest : Option SReg}
include hs

/-- What an atomic answers: the trap of its access, else its own effect. -/
theorem Machine.State.atomic_checked {n a : Nat} (hn : n = if w then 8 else 4) (ha : a = addr.toNat % 2 ^ 32) :
    ∃ t, Checked s acc false [span a n] (misalignedAt a n) (s.atomic h kind acc o w addr val exp dest) t ∧
      (o ≠ .rel → t = let p := s.noRestart.awaitOld a dest
        s.sendAtomic p.2 a (s.atomicOf kind n a val exp p.1 none)) ∧
      (o = .rel → t.iss = { s.iss with
          commit := true
          rels := s.iss.rels ++ [⟨s.noRestart.commitPoint.mach.nextId, .scalar,
            .atomic (s.atomicOf kind n a val exp none (some s.noRestart.commitPoint.mach.nextId)), s.now, s.iss.baddr,
            s.iss.slot⟩] } ∧ t.mach = s.noRestart.commitPoint.mach.fresh.2) := by
  obtain ⟨hguard, hcalm⟩ := hs
  rw [← BitVec.toNat_setWidth] at ha
  subst hn ha
  rw [State.atomic, State.checkedSlot_true hguard]
  refine ⟨_, State.checked_spec hcalm _ _ _ (misalignedAt _ _) _, fun ho => ?_, fun ho => ?_⟩
  · have hnow := s.now_noRestart
    refine (if_neg ho).trans ?_
    simp only [State.sendAtomic, State.atomicOf, State.awaitOld, ← hnow]
    by_cases hr : region (addr.setWidth 32 : BitVec 32).toNat = .sp
    · simp only [spaceOf_sp hr, hr, if_true]
      cases dest <;> rfl
    · simp only [spaceOf_lm hr, hr, if_false]
      cases dest <;> rfl
  · have hnow : s.noRestart.commitPoint.now = s.now := s.noRestart.now_commitPoint.trans s.now_noRestart
    rw [← hnow]
    exact ⟨congrArg State.iss (if_pos ho), congrArg State.mach (if_pos ho)⟩

end

/-- The commit that a release atomic makes (R157, R158). -/
theorem Machine.State.noRestart_commitPoint_drains (s : State) :
    Queued s.ref s.mach s.noRestart.commitPoint.mach (s.mach.ctx s.ref).gate ∧
      s.noRestart.commitPoint.mach.ctx s.ref =
        { s.mach.ctx s.ref with gate := [], marking := true, unrestartable := true } := by
  obtain ⟨hqueued, hctx⟩ := s.noRestart.commitPoint_drains
  have hbuffer : s.noRestart.mach.ctx s.ref = { s.mach.ctx s.ref with unrestartable := true } :=
    Mach.ctx_modCtx_same ..
  have hcyc : s.mach.cyc s.ref.cl = s.noRestart.mach.cyc s.ref.cl :=
    ((Spec.SameBlocks.modCore s.mach s.iss.cl s.iss.co _) s.iss.cl).1.symm
  have href : s.noRestart.ref = s.ref := rfl
  rw [href, hbuffer] at hqueued hctx
  exact ⟨hqueued.congr (Mach.drain_modCtx ..).symm hcyc rfl, hctx⟩

/-- Settles O19: a direct atomic goes to its bank or its cycle in LM, a release atomic commits first, and each performs
as its operation says. -/
theorem localAtomics : Obligations.LocalAtomics := by
  intro h s hs queued drained
  refine ⟨State.finish_queued hs.2, fun n old v e hn hold hv he => ?_, fun cl co u p old => ?_, ?_⟩
  · intro int least
    obtain ⟨hmem, hold', hv'⟩ := applyOp_max_spec n old v e
    exact ⟨rfl, applyOp_min_spec n old v e, hmem, hold', hv', applyOp_bits n old v e, rfl, fun h => if_pos h,
      fun h => if_neg h⟩
  · intro a k r t w byte hatomics hdue hlm hn hwf hbad hold
    exact performAtomics_lm hatomics hdue hlm hwf hbad hold
  · intro performs
    have hperforms : ∀ i kind o w acc ad val exp dest,
        exec i s = .next (s.atomic h kind acc o w ad val exp dest) → performs i kind o w acc ad val exp dest := by
      intro i kind o w acc ad val exp dest hexec
      obtain ⟨t, ⟨hpass, hfault, hmis⟩, hdirect, hrelease⟩ := State.atomic_checked hs (kind := kind) (acc := acc)
        (o := o) (w := w) (addr := ad) (val := val) (exp := exp) (dest := dest) rfl rfl
      have hexecutes hc ha : exec i s = .next t := hexec.trans (congrArg _ (hpass hc (misalignedAt_eq_none ha)))
      refine ⟨fun hc ha ho hd => ?_, fun d hc ha ho hd => ?_, fun hc ha ho => ?_,
        fun f kd hc => hexec.trans (congrArg _ (hfault f kd hc)),
        fun hc ha => hexec.trans (congrArg _ (hmis _ 1 hc (misalignedAt_eq_some ha)))⟩
      · subst hd
        exact (hexecutes hc ha).trans (congrArg _ (hdirect ho))
      · subst hd
        exact (hexecutes hc ha).trans (congrArg _ (hdirect ho))
      · obtain ⟨hiss, hmach⟩ := hrelease ho
        obtain ⟨hqueued, hctx⟩ := s.noRestart_commitPoint_drains
        rw [← show t.mach.ctx s.ref = s.noRestart.commitPoint.mach.ctx s.ref by rw [hmach]; rfl] at hctx
        refine ⟨t, hexecutes hc ha, congrArg Issue.commit hiss, ⟨congrArg Context.gate hctx, ?_⟩,
          congrArg Context.marking hctx, congrArg Context.unrestartable hctx, _, congrArg Issue.rels hiss⟩
        exact hqueued.congr rfl rfl (by rw [hmach]; rfl)
    have hret : ∀ (l : BitVec 4) o, (if retOrd o then some (l.setWidth 6) else none : Option SReg) =
        if o = .com ∨ o = .qnt ∨ o = .rel then none else some (l.setWidth 6) := fun l o => by cases o <;> rfl
    refine ⟨fun l o w a b => ?_, fun d a w o => ⟨hperforms _ _ _ _ _ _ _ _ _ rfl, hperforms _ _ _ _ _ _ _ _ _ rfl⟩⟩
    intro ad v d
    have hamo : ∀ i op, exec i s = .next (amo op h l o w a b s) → performs i (.rmw op) o w .write ad v 0 d :=
      fun i op hexec => hperforms _ _ _ _ _ _ _ _ _ (hexec.trans (by rw [amo, hret]))
    exact ⟨hamo _ _ rfl, hamo _ _ rfl, hamo _ _ rfl, hamo _ _ rfl, hamo _ _ rfl, hamo _ _ rfl, hamo _ _ rfl,
      hperforms _ _ _ _ _ _ _ _ _ rfl⟩

end Sys2Proof
end

section
namespace Sys2Proof

open Machine

/-! ## A context that stops (R65, R180) -/

/-- An update of what waits at a cluster (gangs, arrivals, pending traps and endings) keeps the control state. -/
theorem Spec.SameBlocks.modWaiting (m : Mach) (cl : ClusterId) {f : Cluster → Cluster}
    (h : ∀ c, f c = { c with
      gangs := (f c).gangs, arrivals := (f c).arrivals, pend := (f c).pend, ending := (f c).ending }) :
    Spec.SameBlocks m (m.modCluster cl f) := fun cl' => by
  by_cases e : cl' = cl
  · subst e; rw [Mach.cluster_modCluster_same, h]; and_intros <;> rfl
  · rw [Mach.cluster_modCluster_other _ _ _ _ e]; and_intros <;> rfl

theorem Spec.SameBlocks.foldl {α : Type} {f : Mach → α → Mach} (h : ∀ m a, Spec.SameBlocks m (f m a)) (l : List α)
    (m : Mach) : Spec.SameBlocks m (l.foldl f m) :=
  List.foldlRecOn l f (.refl m) fun n hn a _ => hn.trans (h n a)

namespace Machine.Mach.Kept

variable {L : CtxRef → Prop}

theorem modWaiting (m : Mach) (cl : ClusterId) {f : Cluster → Cluster}
    (h : ∀ c, f c = { c with
      gangs := (f c).gangs, arrivals := (f c).arrivals, pend := (f c).pend, ending := (f c).ending } := by
        exact fun _ => rfl) : Mach.Kept L m (m.modCluster cl f) := by
  have hcores : ∀ c, (f c).cores = c.cores := fun c => by rw [h]
  refine ⟨.modCluster m cl fun c => ⟨hcores c, by rw [h], by rw [h]⟩, .modWaiting m cl h, fun r => ?_⟩
  rw [Mach.ctx_modCluster_of_cores m cl hcores]
  exact .refl _ _

/-- A context that stops, by exit or by a kill, loses its loop stack and keeps every other register. -/
theorem stopCtx (m : Mach) {r : CtxRef} (hr : L r) (kill : Bool) : Mach.Kept L m (m.stopCtx r kill) := by
  unfold Mach.stopCtx
  extract_lets x cyc n
  have hcore : Mach.Kept L m n := by
    refine modCore m _ _ fun k => ?_
    refine .trans (.trans (.of_ctxs (t := k.dropPops r.cx) rfl ⟨rfl, rfl, rfl, rfl⟩) (Core.leave_kept _ _ _ _))
      (.modCtx _ _ ?_)
    exact ⟨rfl, fun h => absurd hr h, (Context.endTask_kept (L r) _ _).energy⟩
  split
  · exact hcore
  · split
    · refine hcore.trans (modWaiting n _ ?_)
      intro c
      split <;> rfl
    · exact hcore

theorem dropLevel (m : Mach) (r : CtxRef) : Mach.Kept L m (m.dropLevel r) := (modDom ..).trans (modCtx ..)

theorem giveUp (m : Mach) (r : CtxRef) (img : Option (BitVec 12)) (part : BitVec 3) (kill : Bool) (t n : Nat) :
    Mach.Kept L m (m.giveUp r img part kill t n) := of_clusters

theorem endCtx (m : Mach) {r : CtxRef} (hr : L r) (kill : Bool) (t : Nat) : Mach.Kept L m (m.endCtx r kill t) :=
  ((stopCtx m hr kill).trans (dropLevel _ r)).trans (giveUp ..)

theorem owe (m : Mach) (cl : ClusterId) (e : Ending) : Mach.Kept L m (m.owe cl e) := modWaiting m cl

/-- The kill of a trap's containment (R180). -/
theorem trapKill (m : Mach) (cl : ClusterId) {r : CtxRef} (hr : L r) : Mach.Kept L m (m.trapKill cl r) := by
  unfold Mach.trapKill
  dsimp only
  split
  · exact refl m
  · split
    · exact ((stopCtx m hr true).trans (dropLevel _ r)).trans (owe ..)
    · exact owe ..

end Machine.Mach.Kept

end Sys2Proof
end

section
namespace Sys2Proof

open Machine

/-! ## The record of a trap (R172) -/

/-- Each field of a record stands in its place. -/
theorem trapRecord_fields (seq mask cause : BitVec 8) (r : CtxRef) (lvl : BitVec 3) (act : BitVec 2) (baddr : PC)
    (fret detail : Word) :
    let w := trapRecord seq mask cause r lvl act baddr fret detail
    w.extractLsb' 0 64 = detail ∧ w.extractLsb' 64 64 = fret ∧ w.extractLsb' 128 18 = baddr.setWidth 18 ∧
    w.extractLsb' 146 46 = 0 ∧ w.extractLsb' 192 2 = act ∧ w.extractLsb' 194 3 = lvl ∧ w.extractLsb' 197 3 = r.cx ∧
    w.extractLsb' 200 3 = r.co ∧ w.extractLsb' 203 5 = r.cl ∧ w.extractLsb' 208 8 = cause ∧
    w.extractLsb' 216 8 = mask ∧ w.extractLsb' 224 8 = seq ∧ w.extractLsb' 232 24 = 0 := by
  simp (disch := omega) only [trapRecord, BitVec.extractLsb'_append_eq_of_le, BitVec.extractLsb'_append_eq_of_add_le,
    Nat.reduceSub, BitVec.extractLsb'_eq_self, BitVec.extractLsb'_zero, BitVec.ofNat_eq_ofNat, and_self]

/-! ## The trap queue and the interrupt file (R173, R216) -/

/-- A record that enters the queue of a cluster, or finds it full. -/
theorem Machine.Cluster.pushTrap_queue (c : Cluster) (mask cause : BitVec 8) (r : CtxRef) (lvl : BitVec 3)
    (act : BitVec 2) (baddr : PC) (fret detail : Word) :
    let d := c.pushTrap mask cause r lvl act baddr fret detail
    d.tqSeq = c.tqSeq + 1 ∧ d.tqHead = c.tqHead ∧
      (c.tqCount < 32 → d.tqCount = c.tqCount + 1 ∧ d.tqOvf = c.tqOvf ∧
        d.tqrec.find ((c.tqHead.toNat + c.tqCount) % 32) =
          some (trapRecord c.tqSeq mask cause r lvl act baddr fret detail)) ∧
      (32 ≤ c.tqCount → d.tqCount = c.tqCount ∧ d.tqrec = c.tqrec ∧ d.tqOvf = min 65535 (c.tqOvf + 1)) := by
  intro d
  have hd : ∀ e : Cluster, ∀ n, (e.setPending n).tqSeq = e.tqSeq ∧ (e.setPending n).tqHead = e.tqHead ∧
      (e.setPending n).tqCount = e.tqCount ∧ (e.setPending n).tqOvf = e.tqOvf ∧ (e.setPending n).tqrec = e.tqrec :=
    fun e n => by unfold Cluster.setPending; split <;> exact ⟨rfl, rfl, rfl, rfl, rfl⟩
  simp only [d, Cluster.pushTrap, hd]
  by_cases hroom : c.tqCount < 32
  · simp [hroom, Nat.not_le.mpr hroom]
  · simp [hroom]

/-- The identity of a record's cause is set pending whether or not the queue has room. -/
theorem Machine.Cluster.pushTrap_ifpend (c : Cluster) (mask cause : BitVec 8) (r : CtxRef) (lvl : BitVec 3)
    (act : BitVec 2) (baddr : PC) (fret detail : Word) :
    let d := c.pushTrap mask cause r lvl act baddr fret detail
    (trapIdentity cause ≠ 0 → d.ifpend = c.ifpend ||| 1#1024 <<< trapIdentity cause) ∧ d.ifen = c.ifen := by
  have hlt : trapIdentity cause ≤ 15 := by unfold trapIdentity; split <;> omega
  have hroom : ∀ e : Cluster, (e.setPending (trapIdentity cause)).ifen = e.ifen ∧ (trapIdentity cause ≠ 0 →
      (e.setPending (trapIdentity cause)).ifpend = e.ifpend ||| 1#1024 <<< trapIdentity cause) := fun e => by
    unfold Cluster.setPending
    split
    · exact ⟨rfl, fun h => by omega⟩
    · exact ⟨rfl, fun _ => rfl⟩
  unfold Cluster.pushTrap
  dsimp only
  split
  · exact ⟨(hroom _).2, (hroom _).1⟩
  · exact ⟨(hroom _).2, (hroom _).1⟩

/-! ## The containment of a trap keeps the control state of the clusters (R178, R180) -/

theorem Spec.SameBlocks.rollbackCtx (m : Mach) (r : CtxRef) : Spec.SameBlocks m (m.rollbackCtx r) := by
  have hdrop : Spec.SameBlocks m (m.modCluster r.cl fun c =>
    (c.dropArrivals r.co r.cx (m.ctx r).markAt).dropTraps r) := .modWaiting m r.cl fun _ => rfl
  exact hdrop.trans (.modCore _ _ _ _)

theorem Spec.SameBlocks.rollbackGang (m : Mach) (cl : ClusterId) (g : Gang) :
    Spec.SameBlocks m (m.rollbackGang cl g) := by
  unfold Mach.rollbackGang
  extract_lets d live n
  have hmembers : Spec.SameBlocks m n := by
    refine .foldl (fun k x => ?_) live m
    exact .rollbackCtx k _
  refine hmembers.trans ?_
  clear_value n
  exact .modWaiting n cl fun _ => rfl

theorem Spec.SameBlocks.trapKill (m : Mach) (cl : ClusterId) (r : CtxRef) : Spec.SameBlocks m (m.trapKill cl r) :=
  (Mach.Kept.trapKill (L := fun _ => True) m cl trivial).blocks

theorem Spec.SameBlocks.trapKillAll (m : Mach) (cl : ClusterId) (rs : List CtxRef) :
    Spec.SameBlocks m (m.trapKillAll cl rs) := .foldl (fun n r => .trapKill n cl r) rs m

theorem Spec.SameBlocks.owe (m : Mach) (cl : ClusterId) (e : Ending) : Spec.SameBlocks m (m.owe cl e) :=
  .modWaiting m cl fun _ => rfl

theorem Spec.SameBlocks.contained (m : Mach) (t : Trap) (lvl : TrapLevel) (act : TrapAct) :
    Spec.SameBlocks m (m.contained t lvl act) := by
  cases act with
  | ignore =>
    simp only [Mach.contained]
    split
    · split
      · exact .refl m
      · exact .modCore _ _ _ _
    all_goals exact .refl m
  | retry =>
    simp only [Mach.contained]
    split
    · split
      · exact .refl m
      · refine .trans ?_ (.rollbackGang _ _ _)
        exact .modWaiting m _ fun _ => rfl
    · exact .trans (.modCore _ _ _ _) (.rollbackCtx _ _)
  | kill k =>
    unfold Mach.contained
    extract_lets r x n
    have hfree : Spec.SameBlocks m n := by
      unfold n
      split
      · exact .modCore _ _ _ _
      · exact .refl m
    clear_value n
    refine hfree.trans ?_
    cases k with
    | context => exact .trapKill _ _ _
    | gang =>
      dsimp only
      split
      · exact .trapKill _ _ _
      · split
        · exact .trapKill _ _ _
        · exact .trapKillAll _ _ _
    | cluster | image =>
      dsimp only
      split
      · exact .trapKill _ _ _
      · exact .trapKillAll _ _ _
    | retire =>
      dsimp only
      split
      · exact .trapKill _ _ _
      · exact .trans (.trapKillAll _ _ _) (.owe _ _ _)

/-- After a trap the control state of its cluster is that with the record taken (R172, R173). -/
theorem Machine.Mach.trap_sameBlocks (m : Mach) (t : Trap) :
    let v := contain (m.ctx t.ctx).gang.isSome t.pos (m.levels t) t.cause
    Spec.SameBlocks (m.modCluster t.ctx.cl fun c =>
      c.pushTrap t.mask v.2.2 t.ctx v.1.code v.2.1.code t.baddr m.fret t.detail) (m.trap t) := by
  intro v
  unfold Mach.trap
  dsimp only
  split
  · exact .trans (fun _ => by and_intros <;> rfl) (.contained _ _ _ _)
  · exact .contained _ _ _ _

/-- Settles O47: the record is what `pushTrap` makes of the queue, and no containment touches the queue or the
interrupt file again. -/
theorem trapRecords : Obligations.TrapRecords := by
  refine ⟨trapRecord_fields, fun m t => ?_⟩
  intro v c d ident
  obtain ⟨-, -, -, hifpend, hifen, -, htqrec, htqHead, htqCount, htqOvf, htqSeq, -, -⟩ := m.trap_sameBlocks t t.ctx.cl
  rw [Mach.cluster_modCluster_same] at hifpend hifen htqrec htqHead htqCount htqOvf htqSeq
  obtain ⟨hseq, hhead, hroom, hfull⟩ :=
    c.pushTrap_queue t.mask v.2.2 t.ctx v.1.code v.2.1.code t.baddr m.fret t.detail
  obtain ⟨hpending, hen⟩ := c.pushTrap_ifpend t.mask v.2.2 t.ctx v.1.code v.2.1.code t.baddr m.fret t.detail
  refine ⟨htqSeq.trans hseq, htqHead.trans hhead, fun h => ?_, fun h => ?_, fun h => hifpend.trans (hpending h),
    hifen.trans hen⟩
  · obtain ⟨hcount, hovf, hrec⟩ := hroom h
    exact ⟨htqCount.trans hcount, htqOvf.trans hovf, (congrArg (FMap.find · _) htqrec).trans hrec⟩
  · obtain ⟨hcount, hrec, hovf⟩ := hfull h
    exact ⟨htqCount.trans hcount, htqrec.trans hrec, htqOvf.trans hovf⟩

end Sys2Proof
end

section
namespace Sys2Proof

open Machine

/-! ## A step that schedules one context -/

/-- A change of a core that leaves its contexts alone, then of one of its contexts. -/
theorem OnlyContext.modCore_modCtx (m : Mach) (r : CtxRef) {u : Core → Core} (f : Context → Context)
    (hu : ∀ k, (u k).ctxs = k.ctxs ∧ (u k).lm = k.lm ∧ (u k).lmTags = k.lmTags ∧ (u k).istore = k.istore ∧
      (u k).acc = k.acc) :
    OnlyContext r m (m.modCore r.cl r.co fun k => (u k).modCtx r.cx f) (f (m.ctx r)) := by
  have hctx : ∀ k cx, (u k).ctx cx = k.ctx cx := fun k cx => by rw [Core.ctx, (hu k).1, Core.ctx]
  refine ⟨?_, rfl, fun q hq => Mach.ctx_modCore_other_ctx m (cx := r.cx) (fun k cx' h => ?_) hq,
    .modCore m _ _ fun k => (hu k).2⟩
  · rw [Mach.ctx, Mach.core_modCore_same, Core.ctx_modCtx_same, hctx, Mach.ctx]
  · rw [Core.ctx_modCtx_other _ _ _ _ h, hctx]

/-- A step that keeps the registers of the one context that it changes keeps every register. -/
theorem OnlyContext.sameRegs {r : CtxRef} {m t : Mach} {y : Context} (h : OnlyContext r m t y)
    (hy : y.regs = (m.ctx r).regs) : Spec.SameRegs m t := fun q => by
  by_cases hq : q = r
  · rw [hq, h.ctx, hy]
  · rw [h.others q hq]

/-! ## CONTEXT_RELEASE (R163, R164, R169) -/

/-- The late-release event is a record of its core, or none (R163, R174). -/
theorem Machine.Mach.lateEvent_cases (m : Mach) (r : CtxRef) (due : Nat) :
    m.lateEvent r due = m ∨ ∃ e, m.lateEvent r due = m.modCore r.cl r.co fun k => k.event e := by
  unfold Mach.lateEvent
  split
  · exact .inl rfl
  · dsimp only
    split
    · exact .inr ⟨_, rfl⟩
    · exact .inl rfl

theorem Machine.Mach.lateEvent_spec (m : Mach) (r : CtxRef) (due : Nat) :
    (m.lateEvent r due).pk = m.pk ∧ (∀ q, (m.lateEvent r due).ctx q = m.ctx q) ∧
      Mach.Kept (fun _ => False) m (m.lateEvent r due) := by
  obtain h | ⟨e, h⟩ := m.lateEvent_cases r due
  · rw [h]; exact ⟨rfl, fun _ => rfl, .refl m⟩
  · rw [h]
    refine ⟨rfl, fun q => ?_, .modCore m _ _⟩
    obtain ⟨hcl, hco, hq⟩ | hq := m.ctx_modCore_cases r.cl r.co (fun k => k.event e) q
    · rw [hq, ← hcl, ← hco]; rfl
    · exact hq

section
variable {cl : ClusterId} {co : CoreId} {cx : CtxId} {s : State} {due : Nat}
  (hrun : (s.mach.ctx ⟨cl, co, cx⟩).run = .waiting)
  (hdue : (s.mach.ctx ⟨cl, co, cx⟩).dueAt s.mach.pk.count = some due)
  (hreq : (s.mach.ctx ⟨cl, co, cx⟩).capoReq = none)
include hrun hdue hreq

theorem exec_contextRelease_of_due :
    let r : CtxRef := ⟨cl, co, cx⟩
    let x := s.mach.ctx r
    let need := (s.mach.core cl co).capoNeed x
    let late := s.mach.lateEvent r (x.capoGrantAt.getD due)
    exec (.contextRelease cl co cx) s = .next { s with
      mach := if x.capoGrantAt.isNone ∧ x.capo < need then s.mach.requestCapo r need
        else late.modCtx r fun x => x.released (late.cyc cl) (x.releaseTime late.pk.fret) 0 } := by
  change execContextRelease cl co cx s = _
  simp only [execContextRelease, State.modMach, hrun, hdue, hreq, Option.isSome_none, Bool.false_eq_true, if_false]

/-- A context that holds the level its first bundle needs is released. -/
theorem contextRelease_releases
    (hlevel : (s.mach.ctx ⟨cl, co, cx⟩).capoGrantAt.isSome = true ∨
      (s.mach.core cl co).capoNeed (s.mach.ctx ⟨cl, co, cx⟩) ≤ (s.mach.ctx ⟨cl, co, cx⟩).capo) :
    let r : CtxRef := ⟨cl, co, cx⟩
    let x := s.mach.ctx r
    ∃ t, exec (.contextRelease cl co cx) s = .next t ∧
      t.mach.ctx r = x.released (s.mach.cyc cl) (x.releaseTime s.mach.pk.fret) 0 ∧
      Spec.OtherContexts r s.mach t.mach ∧ Mach.Kept (fun _ => False) s.mach t.mach := by
  intro r x
  have hheld : ¬(x.capoGrantAt.isNone = true ∧ x.capo < (s.mach.core cl co).capoNeed x) := fun ⟨hnone, hlt⟩ => by
    obtain hsome | hle := hlevel
    · rw [Option.isNone_iff_eq_none.mp hnone] at hsome
      cases hsome
    · exact absurd hlt (BitVec.not_lt.mpr hle)
  obtain ⟨hpk, hctx, hkept⟩ := s.mach.lateEvent_spec r (x.capoGrantAt.getD due)
  have hcyc : (s.mach.lateEvent r (x.capoGrantAt.getD due)).cyc cl = s.mach.cyc cl := (hkept.blocks cl).1
  refine ⟨_, exec_contextRelease_of_due hrun hdue hreq, ?_⟩
  dsimp only
  rw [if_neg hheld, hpk, hcyc]
  refine ⟨?_, fun q hq => (Mach.ctx_modCtx_other _ _ _ _ hq).trans (hctx q), hkept.trans (.modCtx _ _)⟩
  rw [Mach.ctx_modCtx_same, hctx]

/-- A context that holds less asks the arbiter of its domain. -/
theorem contextRelease_asks (hgrant : (s.mach.ctx ⟨cl, co, cx⟩).capoGrantAt = none)
    (hlt : (s.mach.ctx ⟨cl, co, cx⟩).capo < (s.mach.core cl co).capoNeed (s.mach.ctx ⟨cl, co, cx⟩)) :
    let r : CtxRef := ⟨cl, co, cx⟩
    let x := s.mach.ctx r
    let need := (s.mach.core cl co).capoNeed x
    ∃ t, exec (.contextRelease cl co cx) s = .next t ∧
      t.mach.ctx r = { x with capoReq := some (need, s.mach.pk.fret) } ∧
      (t.mach.dom (domOf cl)).capo =
        CapoReq.insert ⟨x.prio, s.mach.pk.fret, r, need⟩ (s.mach.dom (domOf cl)).capo ∧
      Spec.OtherContexts r s.mach t.mach ∧ Mach.Kept (fun _ => False) s.mach t.mach := by
  intro r x need
  refine ⟨_, exec_contextRelease_of_due hrun hdue hreq, ?_⟩
  dsimp only
  rw [if_pos ⟨by rw [hgrant]; rfl, hlt⟩]
  refine ⟨?_, congrArg Domain.capo (Mach.dom_modDom_same ..), .modCtx _ _ _, .trans (.modCtx _ _) (.modDom _ _ _)⟩
  exact Mach.ctx_modCtx_same ..

end

/-! ## CONTEXT_SELECTION (R165) -/

theorem mem_of_firstSelected {l : List (CtxId × Context)} {a : CtxId × Context} (h : firstSelected l = some a) :
    a ∈ l := by
  induction l generalizing a with
  | nil => cases h
  | cons b l ih =>
    rw [firstSelected] at h
    split at h
    · cases h; exact List.mem_cons_self
    · next c hc =>
      split at h
      · cases h; exact List.mem_cons_self
      · cases h; exact List.mem_cons_of_mem _ (ih hc)

/-- The one that comes before all others is the first selected, wherever it stands. -/
theorem firstSelected_of_before {l : List (CtxId × Context)} {a : CtxId × Context} (ha : a ∈ l)
    (h : ∀ b ∈ l, b ≠ a → selectBefore a b = true ∧ selectBefore b a = false) : firstSelected l = some a := by
  induction l with
  | nil => cases ha
  | cons b l ih =>
    have hl : ∀ c ∈ l, c ≠ a → selectBefore a c = true ∧ selectBefore c a = false :=
      fun c hc => h c (List.mem_cons_of_mem _ hc)
    rw [firstSelected]
    by_cases hmem : a ∈ l
    · rw [ih hmem hl]
      by_cases hb : b = a
      · subst hb; simp
      · simp [(h b List.mem_cons_self hb).2]
    · obtain rfl : a = b := (List.mem_cons.mp ha).resolve_right hmem
      split
      · rfl
      · next c hc =>
        have hmem' := mem_of_firstSelected hc
        rw [if_pos (hl c hmem' fun e => hmem (e ▸ hmem')).1]

/-- The order of selection, read off the fields (R165). -/
theorem selectBefore_of_order {a b : CtxId × Context}
    (h : b.2.prio < a.2.prio ∨ b.2.prio = a.2.prio ∧ (a.2.relTime < b.2.relTime ∨
      a.2.relTime = b.2.relTime ∧ a.1 < b.1)) : selectBefore a b = true ∧ selectBefore b a = false := by
  unfold selectBefore
  obtain hprio | ⟨hprio, htime | ⟨htime, hnum⟩⟩ := h
  · have hne : a.2.prio ≠ b.2.prio := fun e => BitVec.lt_irrefl _ (e ▸ hprio)
    simp [hne, hne.symm, hprio, BitVec.le_of_lt hprio]
  · simp [hprio, htime.ne, htime.ne', htime, htime.le]
  · simp [hprio, htime, hnum, BitVec.le_of_lt hnum]

/-- A candidate is a context of the core, under its number. -/
theorem Machine.Core.ctx_of_mem_candidates {k : Core} {cyc : Nat} {p : CtxId × Context} (h : p ∈ k.candidates cyc) :
    p.2 = k.ctx p.1 := by
  have hall : ∀ q : CtxId × Context, q ∈ ctxIds.map (fun c => (c, k.ctx c)) → q.2 = k.ctx q.1 := fun q hq => by
    obtain ⟨c, -, rfl⟩ := List.mem_map.mp hq
    rfl
  refine hall p ?_
  unfold Core.candidates at h
  extract_lets all gangs ready at h
  have hready : ∀ q ∈ ready, q ∈ all := fun q hq => List.mem_of_mem_filter hq
  split at h
  · exact hready p h
  · dsimp only at h
    split at h
    · exact hready p h
    · exact hready p (List.mem_of_mem_filter h)

/-- A core whose context is selected in cycle `cyc`. -/
def Machine.Core.selected (k : Core) (cx : CtxId) (cyc : Nat) : Core :=
  { k with running := some cx, selUrgent := none }.modCtx cx fun x => x.start (max (cyc + 2) x.nextIssue)

/-- A candidate that comes before all others is selected. -/
theorem exec_contextSelection_of_before {cl : ClusterId} {co : CoreId} {s : State} {cx : CtxId} {x : Context}
    (hidle : (s.mach.core cl co).running = none) (hfrom : (s.mach.core cl co).selFrom ≤ s.mach.cyc cl)
    (hmem : (cx, x) ∈ (s.mach.core cl co).candidates (s.mach.cyc cl))
    (hbefore : ∀ p ∈ (s.mach.core cl co).candidates (s.mach.cyc cl), p.1 ≠ cx → p.2.prio < x.prio ∨
      p.2.prio = x.prio ∧ (x.relTime < p.2.relTime ∨ x.relTime = p.2.relTime ∧ cx < p.1)) :
    exec (.contextSelection cl co) s =
      .next (s.modMach fun m => m.modCore cl co fun k => k.selected cx (s.mach.cyc cl)) := by
  have hfirst : firstSelected ((s.mach.core cl co).candidates (s.mach.cyc cl)) = some (cx, x) := by
    refine firstSelected_of_before hmem fun p hp hne => selectBefore_of_order (hbefore p hp fun e => hne ?_)
    have hx : x = (s.mach.core cl co).ctx cx := Core.ctx_of_mem_candidates hmem
    have hp' := Core.ctx_of_mem_candidates hp
    rw [e, ← hx] at hp'
    exact Prod.ext e hp'
  refine congrArg (fun m => Host.Outcome.next { s with mach := m }) (Mach.modCore_congr ?_)
  have hselect : ¬((s.mach.core cl co).running.isSome || decide (s.mach.cyc cl < (s.mach.core cl co).selFrom)) =
      true := by simp [hidle, hfrom]
  rw [if_neg hselect, hfirst]
  rfl

/-- A selection changes its context alone. -/
theorem OnlyContext.selected (m : Mach) (r : CtxRef) (cyc : Nat) :
    OnlyContext r m (m.modCore r.cl r.co fun k => k.selected r.cx cyc)
      ((m.ctx r).start (max (cyc + 2) (m.ctx r).nextIssue)) :=
  .modCore_modCtx m r (u := fun k => { k with running := some r.cx, selUrgent := none })
    (fun x => x.start (max (cyc + 2) x.nextIssue)) fun _ => ⟨rfl, rfl, rfl, rfl, rfl⟩

/-! ## PREEMPTION (R166) -/

/-- A division that a stopping context leaves frees the divider, and nothing else of the core. -/
theorem Machine.Core.freeDivider_eq (k : Core) (cx : CtxId) :
    k.freeDivider cx = { k with divFree := (k.freeDivider cx).divFree } := by
  unfold Core.freeDivider
  split <;> rfl

/-- A core whose running context is pre-empted after a bundle of cycle `cyc`. -/
def Machine.Core.preempted (k : Core) (cx : CtxId) (cyc : Nat) : Core :=
  { k.freeDivider cx with
    running := none, selFrom := cyc + 1, selUrgent := some (k.ctx cx).prio }.modCtx cx fun x =>
      { x with run := .released, snap := some ⟨cyc + 1, x.inflight⟩, inflight := [], steppedBody := false }

theorem exec_preemption_of_preempter {cl : ClusterId} {co : CoreId} {s : State} {cx : CtxId}
    (hrun : (s.mach.core cl co).running = some cx) (hissued : (s.mach.core cl co).issued = true)
    (hbody : ((s.mach.core cl co).ctx cx).steppedBody = true) (hgang : ((s.mach.core cl co).ctx cx).gang = none)
    (hurgent : (s.mach.core cl co).preempter ((s.mach.core cl co).ctx cx).prio (s.mach.cyc cl) = true) :
    exec (.preemption cl co) s =
      .next (s.modMach fun m => m.modCore cl co fun k => k.preempted cx (s.mach.cyc cl)) := by
  refine congrArg (fun m => Host.Outcome.next { s with mach := m }) (Mach.modCore_congr ?_)
  simp only [hrun, hissued, hbody, hgang, hurgent, Option.isNone_none, Bool.and_self, if_true, Core.preempted]

/-- A pre-emption changes its context alone. -/
theorem OnlyContext.preempted (m : Mach) (r : CtxRef) (cyc : Nat) :
    let x := m.ctx r
    OnlyContext r m (m.modCore r.cl r.co fun k => k.preempted r.cx cyc)
      { x with run := .released, snap := some ⟨cyc + 1, x.inflight⟩, inflight := [], steppedBody := false } := by
  refine .modCore_modCtx m r
    (fun x => { x with run := .released, snap := some ⟨cyc + 1, x.inflight⟩, inflight := [], steppedBody := false })
    fun k => ?_
  rw [k.freeDivider_eq]
  exact ⟨rfl, rfl, rfl, rfl, rfl⟩

/-! ## GANG_RELEASE (R210, R211) -/

/-- A core whose context a gang's release in cycle `cyc` starts. -/
def Machine.Core.startMember (k : Core) (cx : CtxId) (cyc fret : Nat) : Core :=
  { k with running := some cx, selUrgent := none }.modCtx cx fun y =>
    (y.released cyc fret (cyc + 3)).start (cyc + 3)

/-- The cores of members of a gang, each started. -/
def Machine.Mach.startMembers (m : Mach) (cl : ClusterId) (cyc : Nat) (l : List (CoreId × CtxId)) : Mach :=
  l.foldl (fun m p => m.modCore cl p.1 fun k => k.startMember p.2 cyc m.pk.fret) m

/-- A gang released in cycle `cyc`: the release is its common mark. -/
def Machine.Gang.released (gg : Gang) (c : Cluster) (cyc : Nat) : Gang :=
  let h : Gang := { gg with killed := [], retry := gg.retryInit, lone := false, base := cyc + 3 }
  { h with captured := c.captured h cyc }

theorem exec_gangRelease_of_ready {cl : ClusterId} {g : BitVec 6} {s : State} {gg : Gang}
    (hfind : (s.mach.cluster cl).gangs.find g.toNat = some gg) (hready : s.mach.gangReady cl gg = true) :
    exec (.gangRelease cl g) s = .next (s.modMach fun m =>
      (m.startMembers cl (m.cyc cl) gg.members).modCluster cl fun c =>
        { c with gangs := c.gangs.put g.toNat (gg.released c (m.cyc cl)) }) := by
  change execGangRelease cl g s = _
  simp only [execGangRelease, State.modMach, hfind, hready, if_true]
  rfl

theorem Machine.Mach.startMembers_kept (m : Mach) (cl : ClusterId) (cyc : Nat) (l : List (CoreId × CtxId)) :
    Mach.Kept (fun _ => False) m (m.startMembers cl cyc l) := by
  refine .foldl (fun m p => .modCore m cl p.1 fun k => ?_) l m
  exact .trans (.of_ctxs (t := { k with running := some p.2, selUrgent := none }) rfl ⟨rfl, rfl, rfl, rfl⟩)
    (.modCtx _ _ (.of_regs rfl rfl))

/-- Members on different cores start independently of each other. -/
theorem Machine.Mach.core_startMembers (m : Mach) (cl : ClusterId) (cyc : Nat) {l : List (CoreId × CtxId)}
    (hl : (l.map Prod.fst).Nodup) :
    (∀ p ∈ l, (m.startMembers cl cyc l).core cl p.1 = (m.core cl p.1).startMember p.2 cyc m.pk.fret) ∧
      ∀ co, co ∉ l.map Prod.fst → (m.startMembers cl cyc l).core cl co = m.core cl co := by
  induction l generalizing m with
  | nil => exact ⟨nofun, fun _ _ => rfl⟩
  | cons q l ih =>
    obtain ⟨hq, hl⟩ := List.nodup_cons.mp hl
    obtain ⟨hmem, hother⟩ := ih (m.modCore cl q.1 fun k => k.startMember q.2 cyc m.pk.fret) hl
    have hcons : m.startMembers cl cyc (q :: l) =
      (m.modCore cl q.1 fun k => k.startMember q.2 cyc m.pk.fret).startMembers cl cyc l := rfl
    rw [hcons]
    refine ⟨fun p hp => ?_, fun co hco => ?_⟩
    · obtain rfl | hp := List.mem_cons.mp hp
      · rw [hother _ hq, Mach.core_modCore_same]
      · have hne : p.1 ≠ q.1 := fun e => hq (e ▸ List.mem_map_of_mem hp)
        rw [hmem p hp, Mach.core_modCore_other _ _ _ _ _ _ fun e => hne e.2]
        rfl
    · obtain ⟨hne, hco⟩ : co ≠ q.1 ∧ co ∉ l.map Prod.fst := by simpa using hco
      rw [hother co hco, Mach.core_modCore_other _ _ _ _ _ _ fun e => hne e.2]

/-- Settles O50: a release, a selection and a pre-emption change one context, a gang's release one on each of its
cores, and none changes a register or a memory. -/
theorem schedulingEvents : Obligations.SchedulingEvents := by
  refine ⟨fun cl co cx s due => ?_, fun cl co s cx x => ?_, fun cl co s cx => ?_,
    fun cl co cx s hbefore href hover => ?_, fun cl g s gg => ?_⟩
  · intro r x need hrun hdue hreq
    refine ⟨fun hlevel => ?_, fun hgrant hlt => ?_⟩
    · obtain ⟨t, hexec, hctx, hothers, hkept⟩ := contextRelease_releases hrun hdue hreq hlevel
      refine ⟨t, hexec, ?_⟩
      rw [hctx]
      exact ⟨rfl, rfl, rfl, rfl, rfl, rfl, rfl, hothers, hkept.sameRegs, hkept.memory⟩
    · obtain ⟨t, hexec, hctx, hdom, hothers, hkept⟩ := contextRelease_asks hrun hdue hreq hgrant hlt
      refine ⟨t, hexec, ?_⟩
      rw [hctx]
      exact ⟨hrun, rfl, hdom, hothers, hkept.sameRegs, hkept.memory⟩
  · intro k ready hidle hfrom hmem hbefore
    have hx : x = s.mach.ctx ⟨cl, co, cx⟩ := Core.ctx_of_mem_candidates hmem
    have honly := OnlyContext.selected s.mach ⟨cl, co, cx⟩ (s.mach.cyc cl)
    refine ⟨_, exec_contextSelection_of_before hidle hfrom hmem hbefore,
      congrArg Core.running (Mach.core_modCore_same ..), ?_⟩
    dsimp only [State.modMach_mach]
    rw [honly.ctx, hx]
    exact ⟨rfl, rfl, rfl, honly.others, honly.sameRegs rfl, honly.memory⟩
  · intro k x cyc hrun hissued hbody hgang hurgent
    have honly := OnlyContext.preempted s.mach ⟨cl, co, cx⟩ cyc
    have hcore : (s.mach.modCore cl co fun k => k.preempted cx cyc).core cl co = k.preempted cx cyc :=
      Mach.core_modCore_same ..
    refine ⟨_, exec_preemption_of_preempter hrun hissued hbody hgang hurgent, congrArg Core.running hcore,
      congrArg Core.selFrom hcore, congrArg Core.selUrgent hcore, ?_⟩
    dsimp only [State.modMach_mach]
    rw [honly.ctx]
    exact ⟨rfl, rfl, rfl, rfl, honly.others, honly.sameRegs rfl, honly.memory⟩
  · refine congrArg Host.Outcome.next (if_pos ?_)
    simp [hbefore, href, hover]
  · intro cyc hfind hready hnodup
    obtain ⟨hmember, -⟩ := s.mach.core_startMembers cl cyc hnodup
    let n := s.mach.startMembers cl cyc gg.members
    let t := n.modCluster cl fun c => { c with gangs := c.gangs.put g.toNat (gg.released c cyc) }
    have hkept : Mach.Kept (fun _ => False) s.mach t :=
      (s.mach.startMembers_kept cl cyc gg.members).trans (.modWaiting n cl)
    refine ⟨{ s with mach := t }, exec_gangRelease_of_ready hfind hready, fun p hp => ?_,
      ⟨gg.released (n.cluster cl) cyc, ?_, rfl, rfl, rfl, rfl⟩, hkept.sameRegs, hkept.memory⟩
    · have hcore : t.core cl p.1 = (s.mach.core cl p.1).startMember p.2 cyc s.mach.pk.fret := by
        refine (n.core_modCluster_of_cores cl ?_ cl p.1).trans (hmember p hp)
        exact fun _ => rfl
      refine ⟨congrArg Core.running hcore, ?_⟩
      dsimp only
      rw [Mach.ctx, hcore, Core.startMember, Core.ctx_modCtx_same]
      exact ⟨rfl, rfl, rfl, rfl⟩
    · dsimp only [t]
      rw [Mach.cluster_modCluster_same, FMap.find_put_same]

end Sys2Proof
end

section
namespace Sys2Proof

open Machine

/-! ## Voltage domains: a read after an update -/

theorem domKey_injective : Function.Injective domKey := by
  intro d e h
  cases d with
  | tier u q =>
    cases e with
    | tier v p => cases u <;> cases v <;> simp [domKey] at h ⊢ <;> bv_omega
    | base p => cases u <;> simp [domKey] at h <;> omega
  | base q =>
    cases e with
    | tier v p => cases v <;> simp [domKey] at h <;> omega
    | base p => simpa [domKey, BitVec.toNat_inj] using h

theorem Machine.Mach.dom_modDom_other (m : Mach) {d e : Dom} (f : Domain → Domain) (h : e ≠ d) :
    (m.modDom d f).dom e = m.dom e := by
  simp only [Mach.dom, Mach.modDom_pk, Package.dom, Package.modDom]
  rw [FMap.find_put_other _ _ _ _ fun k => h (domKey_injective k)]

theorem Machine.Mach.ctx_modDom (m : Mach) (d : Dom) (f : Domain → Domain) (r : CtxRef) :
    (m.modDom d f).ctx r = m.ctx r := rfl

theorem Machine.Mach.dom_congr {m t : Mach} (h : t.pk.doms = m.pk.doms) (d : Dom) : t.dom d = m.dom d := by
  simp only [Mach.dom, Package.dom, h]

theorem Machine.Mach.cluster_congr {m t : Mach} (h : t.clusters = m.clusters) (cl : ClusterId) :
    t.cluster cl = m.cluster cl := by
  rw [Mach.cluster, h, Mach.cluster]

theorem Spec.OtherDoms.modDom (m : Mach) (d : Dom) (f : Domain → Domain) : Spec.OtherDoms d m (m.modDom d f) :=
  ⟨fun _ h => m.dom_modDom_other f h, fun _ => rfl⟩

theorem Spec.OtherDoms.trans {d : Dom} {m n t : Mach} (h : Spec.OtherDoms d m n) (g : Spec.OtherDoms d n t) :
    Spec.OtherDoms d m t :=
  ⟨fun e he => (g.1 e he).trans (h.1 e he), fun cl => (g.2 cl).trans (h.2 cl)⟩

/-- A change outside the clusters that keeps every domain. -/
theorem Spec.OtherDoms.of_doms {d : Dom} {m t : Mach} (hc : t.clusters = m.clusters) (hd : t.pk.doms = m.pk.doms) :
    Spec.OtherDoms d m t := ⟨fun e _ => Mach.dom_congr hd e, Mach.cluster_congr hc⟩

theorem Machine.Mach.choice_spec (m : Mach) : m.choice.2.clusters = m.clusters ∧ m.choice.2.pk = m.pk := by
  unfold Mach.choice
  split <;> exact ⟨rfl, rfl⟩

end Sys2Proof
end

section
namespace Sys2Proof

open Machine

/-! ## CAPO_GRANT (R169) -/

/-- The levels returned before tick `t` counted. -/
def Machine.Domain.counted (x : Domain) (t : Nat) : Domain :=
  { x with granted := x.granted - ((x.returned.filter fun p => decide (p.1 < t)).map Prod.snd).sum,
           returned := x.returned.filter fun p => decide (t ≤ p.1) }

/-- The returned levels count, and the list as it stood is served. -/
theorem exec_capoGrant_eq {d : Dom} {s : State} {l : List CapoReq} (hcapo : (s.mach.dom d).capo = l) :
    exec (.capoGrant d) s = .next { s with
      mach := Mach.grantAll d l (s.mach.modDom d fun x => x.counted s.mach.pk.fret) } := by
  have hlist : ((s.mach.modDom d fun x => x.counted s.mach.pk.fret).dom d).capo = l := by
    rw [Mach.dom_modDom_same, ← hcapo, Domain.counted]
  rw [← hlist]
  rfl

/-- The head of the list whose level does not fit keeps the list waiting. -/
theorem grantAll_of_full {d : Dom} {r : CapoReq} {rest : List CapoReq} {m : Mach}
    (h : ((m.dom d).budget.toNat : Int) - 32 * (m.dom d).lb.toNat <
      (m.dom d).granted - (m.ctx r.ctx).capo.toNat + r.level.toNat) : Mach.grantAll d (r :: rest) m = m :=
  if_neg (not_le.mpr h)

/-- The head of the list whose level fits has it granted. -/
theorem grantAll_of_room {d : Dom} {r : CapoReq} {rest : List CapoReq} {m : Mach}
    (h : ((m.dom d).granted - (m.ctx r.ctx).capo.toNat + r.level.toNat : Int) ≤
      ((m.dom d).budget.toNat : Int) - 32 * (m.dom d).lb.toNat) :
    Mach.grantAll d (r :: rest) m = Mach.grantAll d rest
      ((m.modDom d fun x =>
        { x with granted := x.granted - (m.ctx r.ctx).capo.toNat + r.level.toNat, capo := rest }).modCtx r.ctx
          fun x => { x with capo := r.level, capoReq := none, capoGrantAt := some m.pk.fret }) :=
  if_pos h

section
variable {d : Dom} {s : State} {r : CapoReq}

theorem capoGrant_of_no_request (hcapo : (s.mach.dom d).capo = []) :
    ∃ t, exec (.capoGrant d) s = .next t ∧ t.mach.dom d = (s.mach.dom d).counted s.mach.pk.fret ∧
      Spec.OtherDoms d s.mach t.mach :=
  ⟨_, exec_capoGrant_eq hcapo, Mach.dom_modDom_same .., .modDom _ _ _⟩

theorem capoGrant_of_full {rest : List CapoReq} (hcapo : (s.mach.dom d).capo = r :: rest)
    (hfull : ((s.mach.dom d).budget.toNat : Int) - 32 * (s.mach.dom d).lb.toNat <
      ((s.mach.dom d).counted s.mach.pk.fret).granted - (s.mach.ctx r.ctx).capo.toNat + r.level.toNat) :
    exec (.capoGrant d) s = .next { s with mach := s.mach.modDom d fun x => x.counted s.mach.pk.fret } := by
  rw [exec_capoGrant_eq hcapo, grantAll_of_full (by rw [Mach.dom_modDom_same]; exact hfull)]

theorem capoGrant_of_room (hcapo : (s.mach.dom d).capo = [r])
    (hroom : (((s.mach.dom d).counted s.mach.pk.fret).granted - (s.mach.ctx r.ctx).capo.toNat + r.level.toNat : Int) ≤
      ((s.mach.dom d).budget.toNat : Int) - 32 * (s.mach.dom d).lb.toNat) :
    let x := (s.mach.dom d).counted s.mach.pk.fret
    ∃ t, exec (.capoGrant d) s = .next t ∧
      t.mach.dom d = { x with granted := x.granted - (s.mach.ctx r.ctx).capo.toNat + r.level.toNat, capo := [] } ∧
      t.mach.ctx r.ctx = { s.mach.ctx r.ctx with
        capo := r.level, capoReq := none, capoGrantAt := some s.mach.pk.fret } ∧
      Spec.OtherContexts r.ctx s.mach t.mach := by
  intro x
  have hexec := exec_capoGrant_eq hcapo
  rw [grantAll_of_room (by rw [Mach.dom_modDom_same]; exact hroom), Mach.grantAll] at hexec
  refine ⟨_, hexec, ?_, Mach.ctx_modCtx_same .., Spec.OtherContexts.modCtx (Mach.modDom _ d _) r.ctx _⟩
  rw [Mach.dom_modCtx, Mach.dom_modDom_same, Mach.dom_modDom_same]
  rfl

end

/-! ## DFREQ_WRITE (R222, R223) -/

/-- The halt that a write of a domain's requested values asks for (R223). -/
def Machine.Domain.aimed (x : Domain) : Domain :=
  if x.throttled || x.transTo.isSome then x
  else if x.halted then { x with held := some (x.fcode, x.vstep) }
  else if x.fcode = x.fcur ∧ x.vstep = x.vcur then { x with target := none }
  else { x with target := some (x.fcode, x.vstep) }

/-- The requested values of a write to dfreq; a reserved code is ignored (R222). -/
def Machine.Domain.requested (x : Domain) (v : BitVec 64) : Domain :=
  { x with
    vstep := v.extractLsb' 8 4,
    fcode := if (v.setWidth 6 : BitVec 6).toNat ≤ 60 then v.setWidth 6 else x.fcode }

theorem exec_dfreqWrite_tier (u : Bool) (q : Quad) (v : BitVec 64) (s : State) :
    exec (.dfreqWrite (.tier u q) v) s =
      .next { s with mach := s.mach.modDom (.tier u q) fun x => (x.requested v).aimed } := rfl

theorem Machine.Domain.aimed_eq (x : Domain) : ∃ t h, x.aimed = { x with target := t, held := h } := by
  unfold Domain.aimed
  split
  · exact ⟨_, _, rfl⟩
  · split
    · exact ⟨_, _, rfl⟩
    · split <;> exact ⟨_, _, rfl⟩

section
variable {x : Domain}

theorem Machine.Domain.aimed_of_throttled (h : x.throttled = true) : x.aimed = x := by
  simp [Domain.aimed, h]

theorem Machine.Domain.aimed_of_halted (h : x.throttled = false) (htrans : x.transTo = none) (hhalt : x.halted = true) :
    x.aimed = { x with held := some (x.fcode, x.vstep) } := by
  simp [Domain.aimed, h, htrans, hhalt]

theorem Machine.Domain.aimed_of_running (h : x.throttled = false) (htrans : x.transTo = none)
    (hhalt : x.halted = false) : x.aimed =
      { x with target := if (x.fcode, x.vstep) = (x.fcur, x.vcur) then none else some (x.fcode, x.vstep) } := by
  by_cases hsame : x.fcode = x.fcur ∧ x.vstep = x.vcur
  · simp [Domain.aimed, h, htrans, hhalt, hsame]
  · simp [Domain.aimed, h, htrans, hhalt, hsame]

end

/-! ## HALT_START and HALT_END (R223) -/

section
variable {d : Dom} {s : State} (htarget : (s.mach.dom d).target.isSome = true) (hhalt : (s.mach.dom d).halted = false)
include htarget hhalt

/-- A halt at new values. -/
theorem haltStart_of_no_transition (htrans : (s.mach.dom d).transTo = none) :
    ∃ t, exec (.haltStart d) s = .next t ∧ Spec.OtherDoms d s.mach t.mach ∧
      t.mach.dom d = { s.mach.dom d with
        halted := true, haltEnd := some (s.mach.pk.fret + 1024), lastHalt := (t.mach.dom d).lastHalt } := by
  refine ⟨_, rfl, .modDom _ _ _, ?_⟩
  rw [State.modMach_mach, Mach.dom_modDom_same]
  simp only [htarget, hhalt, htrans, Bool.not_false, Bool.and_self, if_true]

/-- A halt that makes a throttling transition (R225). -/
theorem haltStart_of_transition {b : Bool} (htrans : (s.mach.dom d).transTo = some b) :
    ∃ t, exec (.haltStart d) s = .next t ∧ Spec.OtherDoms d s.mach t.mach ∧
      t.mach.dom d = { s.mach.dom d with
        halted := true, haltEnd := some (s.mach.pk.fret + 1024), lastHalt := (t.mach.dom d).lastHalt,
        throttled := b, lastTrans := some s.mach.pk.fret, transTo := none,
        target := if b = true then (s.mach.dom d).target
          else some ((s.mach.dom d).fcode, (s.mach.dom d).vstep) } := by
  refine ⟨_, rfl, .modDom _ _ _, ?_⟩
  rw [State.modMach_mach, Mach.dom_modDom_same]
  cases b
  · simp only [htarget, hhalt, htrans, Bool.not_false, Bool.and_self, if_true, Bool.false_eq_true, if_false]
  · simp only [htarget, hhalt, htrans, Bool.not_false, Bool.and_self, if_true]

end

/-- A halt that is over, with no transition to come and no write held. -/
theorem haltEnd_of_due {d : Dom} {s : State} {e : Nat} {f : BitVec 6} {v : BitVec 4}
    (hend : (s.mach.dom d).haltEnd = some e) (hdue : e ≤ s.mach.pk.fret)
    (htarget : (s.mach.dom d).target = some (f, v)) (htrans : (s.mach.dom d).transTo = none)
    (hheld : (s.mach.dom d).held = none) :
    ∃ t, exec (.haltEnd d) s = .next t ∧ Spec.OtherDoms d s.mach t.mach ∧ ∃ phase, t.mach.dom d =
      { s.mach.dom d with
        halted := false, haltEnd := none, target := none, fcur := f, vcur := v, wl := (s.mach.dom d).wlnext,
        acc := phase } := by
  obtain ⟨hclusters, hpk⟩ := s.mach.choice_spec
  have hlate : ¬s.mach.pk.fret < e := not_lt.mpr hdue
  have hexec : exec (.haltEnd d) s = .next { s with mach := s.mach.choice.2.modDom d fun _ =>
      { s.mach.dom d with
        halted := false, haltEnd := none, target := none, fcur := f, vcur := v, wl := (s.mach.dom d).wlnext,
        acc := s.mach.choice.1 % 36 } } := by
    change execHaltEnd d s = _
    simp only [execHaltEnd, hend, if_neg hlate, htarget, Option.getD_some, htrans, hheld, Option.isSome_none,
      Bool.false_eq_true, if_false, State.modMach]
  refine ⟨_, hexec, .trans (.of_doms hclusters (by rw [hpk])) (.modDom _ _ _), _, Mach.dom_modDom_same ..⟩

end Sys2Proof
end

section
namespace Sys2Proof

open Machine

/-! ## The levels of a domain when contexts end (R65, R169) -/

/-- Every domain is as before but for the requests for levels and the levels returned. -/
structure SameButLevels (m t : Mach) : Prop where
  dom : ∀ d, t.dom d = { m.dom d with capo := (t.dom d).capo, returned := (t.dom d).returned }

namespace SameButLevels

theorem of_doms {m t : Mach} (h : t.pk.doms = m.pk.doms := by rfl) : SameButLevels m t :=
  ⟨fun d => by rw [Mach.dom_congr h]⟩

theorem trans {m n t : Mach} (h : SameButLevels m n) (g : SameButLevels n t) : SameButLevels m t :=
  ⟨fun d => by rw [g.dom d, h.dom d]⟩

theorem foldl {α : Type} {f : Mach → α → Mach} (h : ∀ m a, SameButLevels m (f m a)) (l : List α) (m : Mach) :
    SameButLevels m (l.foldl f m) :=
  List.foldlRecOn l f of_doms fun n hn a _ => hn.trans (h n a)

theorem modDom (m : Mach) (d : Dom) {f : Domain → Domain}
    (h : ∀ x, f x = { x with capo := (f x).capo, returned := (f x).returned } := by exact fun _ => rfl) :
    SameButLevels m (m.modDom d f) := by
  refine ⟨fun e => ?_⟩
  by_cases he : e = d
  · rw [he, Mach.dom_modDom_same]; exact h _
  · rw [m.dom_modDom_other f he]

theorem stopCtx (m : Mach) (r : CtxRef) (kill : Bool) : SameButLevels m (m.stopCtx r kill) := by
  refine of_doms ?_
  unfold Mach.stopCtx
  dsimp only
  split
  · rfl
  · split <;> rfl

theorem giveUp (m : Mach) (r : CtxRef) (img : Option (BitVec 12)) (part : BitVec 3) (kill : Bool) (t n : Nat) :
    SameButLevels m (m.giveUp r img part kill t n) := by
  have hreturn : SameButLevels m (m.returnLevels r.cl t n) := modDom m (domOf r.cl)
  exact hreturn.trans of_doms

theorem endCtx (m : Mach) (r : CtxRef) (kill : Bool) (t : Nat) : SameButLevels m (m.endCtx r kill t) := by
  have hdrop : SameButLevels (m.stopCtx r kill) ((m.stopCtx r kill).dropCapoReq r) := modDom _ (domOf r.cl)
  exact (((stopCtx m r kill).trans hdrop).trans of_doms).trans (giveUp ..)

theorem killAll (m : Mach) (rs : List CtxRef) : SameButLevels m (m.killAll rs) :=
  foldl (fun m r => by
    unfold Mach.kill
    split
    · exact endCtx ..
    · exact of_doms) rs m

theorem ending (m : Mach) (t : Nat) (e : Ending) : SameButLevels m (m.ending t e) := by
  cases e with
  | holdings r img part n => exact giveUp ..
  | kill r img part =>
    simp only [Mach.ending]
    split
    · exact endCtx ..
    · exact of_doms
  | retire part n => exact of_doms

theorem endingsOf (m : Mach) (d : Dom) : SameButLevels m (m.endingsOf d) :=
  foldl (fun m cl => (of_doms : SameButLevels m (m.modCluster cl fun c => { c with ending := [] })).trans
    (foldl (fun m e => ending m _ e) _ _)) (clustersOf d) m

end SameButLevels

/-! ## What the containment of a tier's traps had still to do (R180, R226) -/

namespace Machine.Mach.Kept

theorem ending (m : Mach) (t : Nat) (e : Ending) : Mach.Kept (fun _ => True) m (m.ending t e) := by
  cases e with
  | holdings r img part n => exact giveUp ..
  | kill r img part =>
    simp only [Mach.ending]
    split
    · exact endCtx m trivial ..
    · exact refl m
  | retire part n => exact of_clusters

theorem endingsOf (m : Mach) (d : Dom) : Mach.Kept (fun _ => True) m (m.endingsOf d) :=
  foldl (fun m cl => (modWaiting m cl : Mach.Kept _ m (m.modCluster cl fun c => { c with ending := [] })).trans
    (foldl (fun m e => ending m _ e) _ _)) (clustersOf d) m

end Machine.Mach.Kept

/-- Where nothing of a containment is left to do, no cluster changes. -/
theorem Machine.Mach.cluster_endingsOf_of_quiet {m : Mach} {d : Dom}
    (h : ∀ cl ∈ clustersOf d, (m.cluster cl).ending = []) (cl : ClusterId) :
    (m.endingsOf d).cluster cl = m.cluster cl := by
  have hquiet : ∀ (n : Mach) (c : ClusterId) (t : Nat), (n.cluster c).ending = [] → ∀ e,
      (n.endings c t).cluster e = n.cluster e := fun n c t hc e => by
    rw [Mach.endings, hc, List.foldl_nil]
    by_cases he : e = c
    · rw [he, Mach.cluster_modCluster_same, ← hc]
    · exact Mach.cluster_modCluster_other _ _ _ _ he
  have hfold : ∀ e, (m.endingsOf d).cluster e = m.cluster e :=
    List.foldlRecOn (motive := fun n => ∀ e, n.cluster e = m.cluster e) (clustersOf d) _ (fun _ => rfl)
      fun n hn c hc e => (hquiet n c _ (by rw [hn, h c hc]) e).trans (hn e)
  exact hfold cl

/-! ## Identities on their way from a tier (R177, R216) -/

/-- Identities stranded on their way change nothing but the ways to the interrupt files. -/
theorem Machine.Mach.strandIrqs_spec (m : Mach) (d : Dom) :
    (m.strandIrqs d).pk = m.pk ∧ (∀ r, (m.strandIrqs d).ctx r = m.ctx r) ∧ Spec.SameMemory m (m.strandIrqs d) := by
  refine List.foldlRecOn (motive := fun n => n.pk = m.pk ∧ (∀ r, n.ctx r = m.ctx r) ∧ Spec.SameMemory m n) clusterIds _
    ⟨rfl, fun _ => rfl, .refl m⟩ fun n hn cl _ => ?_
  obtain ⟨hpk, hctx, hmemory⟩ := hn
  split
  · exact ⟨hpk, hctx, hmemory⟩
  · refine ⟨hpk, fun r => (n.ctx_modCluster_of_cores cl ?_ r).trans (hctx r), hmemory.trans (.modCluster n cl ?_)⟩
    · exact fun _ => rfl
    · exact fun _ => ⟨rfl, rfl, rfl⟩

/-! ## Gating and waking (R226) -/

theorem Machine.Mach.mayGate_iff (m : Mach) (d : Dom) :
    m.mayGate d = true ↔ (∀ r ∈ tierCtxs d, m.boundAt r = false) ∧
      ∀ cl ∈ clustersOf d, ∀ co ∈ coreIds, m.bridgeQuiet cl co = true := by
  simp [Mach.mayGate]

theorem gateRequest_of_powered {d : Dom} {s : State} (hbase : domIsBase d = false)
    (hgated : (s.mach.dom d).gated = false) (hwaking : (s.mach.dom d).waking = false)
    (htripped : (s.mach.dom d).tripped = false) :
    ∃ t, exec (.gateRequest d) s = .next t ∧ Spec.OtherDoms d s.mach t.mach ∧
      t.mach.dom d = (if s.mach.mayGate d = true then { s.mach.dom d with gateSoon := !(s.mach.dom d).gatePend }
        else { s.mach.dom d with gatePend := true }) := by
  refine ⟨_, congrArg Host.Outcome.next (if_neg (by rw [hbase]; exact Bool.false_ne_true)), .modDom _ _ _, ?_⟩
  rw [State.modMach_mach, Mach.dom_modDom_same, if_neg (by simp [hgated, hwaking, htripped])]

/-- Kernels measured and loaded change no domain and no cluster (R327). -/
theorem Machine.Mach.measureKernels_spec (m : Mach) (d : Dom) :
    (m.measureKernels d).clusters = m.clusters ∧ (m.measureKernels d).pk.doms = m.pk.doms ∧
      (m.measureKernels d).pk.fret = m.pk.fret := by
  have hload : ∀ p : Package, ∀ l : List ClusterId, (l.foldl Package.loadHart p).doms = p.doms ∧
      (l.foldl Package.loadHart p).fret = p.fret := fun p l => by
    refine List.foldlRecOn (motive := fun q : Package => q.doms = p.doms ∧ q.fret = p.fret) l _ ⟨rfl, rfl⟩
      fun q hq cl _ => ?_
    unfold Package.loadHart
    split <;> exact hq
  unfold Mach.measureKernels
  split
  · exact ⟨rfl, (hload _ _).1, (hload _ _).2⟩
  · exact ⟨rfl, rfl, rfl⟩

section
variable {d : Dom} {s : State}

theorem exec_wake_of_dead (h : s.mach.pk.boot = some false) : exec (.wake d) s = .next s := by
  have hdead : s.mach.pk.dead = true := by simp [Package.dead, h]
  exact congrArg (fun m => Host.Outcome.next { s with mach := m }) (if_pos hdead)

section
variable (hboot : s.mach.pk.boot ≠ some false)
include hboot

theorem wake_of_tier (hbase : domIsBase d = false)
    (hpower : (s.mach.dom d).gated = true ∧ (s.mach.dom d).tripped = false ∨
      (s.mach.dom d).tripped = true ∧ (s.mach.dom d).temp.toNat + 3 ≤ (s.mach.dom d).thr.toNat) :
    ∃ t, exec (.wake d) s = .next t ∧ Spec.OtherDoms d s.mach t.mach ∧
      t.mach.dom d = (s.mach.dom d).startWake s.mach.pk.fret := by
  have halive : s.mach.pk.dead = false := by simpa [Package.dead] using hboot
  obtain ⟨hclusters, hdoms, hfret⟩ := s.mach.measureKernels_spec d
  have hexec : exec (.wake d) s = .next { s with
      mach := (s.mach.measureKernels d).modDom d fun x => x.startWake (s.mach.measureKernels d).pk.fret } := by
    rw [hfret]
    change execWake d s = _
    obtain ⟨hgated, htripped⟩ | ⟨htripped, hcool⟩ := hpower
    · simp [execWake, State.modMach, Mach.byRoot, halive, hbase, hgated, htripped]
    · simp [execWake, State.modMach, Mach.byRoot, halive, hbase, htripped, hcool]
  refine ⟨_, hexec, .trans (.of_doms hclusters hdoms) (.modDom _ _ _), ?_⟩
  rw [Mach.dom_modDom_same, Mach.dom_congr hdoms, hfret]

theorem wake_of_base (hbase : domIsBase d = true) (htripped : (s.mach.dom d).tripped = true)
    (hcool : (s.mach.dom d).temp.toNat + 3 ≤ (s.mach.dom d).thr.toNat) :
    ∃ t, exec (.wake d) s = .next t ∧ Spec.OtherDoms d s.mach t.mach ∧
      t.mach.dom d = { s.mach.dom d with tripped := false } := by
  have halive : s.mach.pk.dead = false := by simpa [Package.dead] using hboot
  have hexec : exec (.wake d) s = .next { s with mach := s.mach.modDom d fun x => { x with tripped := false } } := by
    change execWake d s = _
    simp [execWake, State.modMach, Mach.byRoot, halive, hbase, htripped, hcool]
  exact ⟨_, hexec, .modDom _ _ _, Mach.dom_modDom_same ..⟩

end

variable (hasked : (s.mach.dom d).gatePend = true ∨ (s.mach.dom d).gateSoon = true)
include hasked

theorem exec_tierGate_of_asked : exec (.tierGate d) s = .next { s with
    mach := if s.mach.mayGate d then ((s.mach.endingsOf d).strandIrqs d).modDom d fun x =>
        { x with gated := true, gatePend := false, gateSoon := false }
      else s.mach.modDom d fun x => { x with gatePend := true, gateSoon := false } } := by
  have h : ¬(!((s.mach.dom d).gatePend || (s.mach.dom d).gateSoon)) = true := by
    obtain h | h := hasked <;> simp [h]
  exact congrArg (fun m => Host.Outcome.next { s with mach := m }) (if_neg h)

/-- A tier whose conditions hold gates, once the containment of its traps is done. -/
theorem tierGate_of_mayGate (hmay : s.mach.mayGate d = true) :
    ∃ t, exec (.tierGate d) s = .next t ∧ Spec.SameMemory s.mach t.mach ∧
      (∀ r, t.mach.ctx r = (s.mach.endingsOf d).ctx r) ∧ t.mach.dom d = { s.mach.dom d with
        capo := (t.mach.dom d).capo, returned := (t.mach.dom d).returned, gated := true, gatePend := false,
        gateSoon := false } := by
  obtain ⟨hpk, hctx, hmemory⟩ := (s.mach.endingsOf d).strandIrqs_spec d
  have hdom : ((s.mach.endingsOf d).strandIrqs d).dom d = _ :=
    (Mach.dom_congr (congrArg Package.doms hpk) d).trans ((SameButLevels.endingsOf s.mach d).dom d)
  refine ⟨_, exec_tierGate_of_asked hasked, ?_⟩
  rw [if_pos hmay]
  have hgate : ∀ m f, Spec.SameMemory m (Mach.modDom m d f) := fun m f =>
    (Mach.Kept.modDom (L := fun _ => True) m d f).memory
  refine ⟨((Mach.Kept.endingsOf s.mach d).memory.trans hmemory).trans (hgate _ _), fun r =>
    (Mach.ctx_modDom ..).trans (hctx r), ?_⟩
  rw [Mach.dom_modDom_same, hdom]

theorem tierGate_of_not_mayGate (hmay : s.mach.mayGate d = false) :
    ∃ t, exec (.tierGate d) s = .next t ∧ Spec.OtherDoms d s.mach t.mach ∧
      t.mach.dom d = { s.mach.dom d with gatePend := true, gateSoon := false } := by
  refine ⟨_, exec_tierGate_of_asked hasked, ?_⟩
  rw [if_neg (by simp [hmay])]
  exact ⟨.modDom _ _ _, Mach.dom_modDom_same ..⟩

end

end Sys2Proof
end

section
namespace Sys2Proof

open Machine

/-! ## Power removed (R225, R226) -/

/-- A core that has lost its power: its memories are clear, and none of its contexts is bound. -/
structure Machine.Core.Dark (k : Core) : Prop where
  lm : k.lm = []
  acc : k.acc = []
  istore : k.istore = []
  ctx : ∀ cx, (k.ctx cx).bound = false

/-- A cluster that has lost its power: its cycles count from 0. -/
structure Machine.Cluster.Dark (c : Cluster) : Prop where
  cyc : c.cyc = 0
  scratch : c.scratch = []
  ifpend : c.ifpend = 0
  core : ∀ co, (c.core co).Dark

theorem Machine.Context.bound_declared (x : Context) : x.declared.bound = false := by
  unfold Context.declared
  split
  · rfl
  all_goals rfl

theorem Machine.Core.dark_unpowered (k : Core) : k.unpowered.Dark := by
  refine ⟨rfl, rfl, rfl, fun cx => ?_⟩
  have hfind : k.unpowered.ctxs.find cx.toNat = (k.ctxs.find cx.toNat).map Context.declared :=
    FMap.find_mapValues (fun _ => Context.declared) k.ctxs cx.toNat
  rw [Core.ctx, hfind]
  cases k.ctxs.find cx.toNat with
  | none => rfl
  | some x => exact x.bound_declared

theorem Machine.Cluster.dark_unpowered (c : Cluster) : c.unpowered.Dark := by
  refine ⟨rfl, rfl, rfl, fun co => ?_⟩
  have hfind : c.unpowered.cores.find co.toNat = (c.cores.find co.toNat).map Core.unpowered :=
    FMap.find_mapValues (fun _ => Core.unpowered) c.cores co.toNat
  rw [Cluster.core, hfind]
  cases c.cores.find co.toNat with
  | none => exact ⟨rfl, rfl, rfl, fun _ => rfl⟩
  | some k => exact k.dark_unpowered

theorem Machine.Cluster.Dark.setCore {c : Cluster} (h : c.Dark) (co : CoreId) {k : Core} (hk : k.Dark) :
    (c.setCore co k).Dark := by
  refine ⟨h.cyc, h.scratch, h.ifpend, fun o => ?_⟩
  by_cases ho : o = co
  · rw [ho, Cluster.core_setCore_same]; exact hk
  · rw [Cluster.core_setCore_other _ _ _ _ ho]; exact h.core o

/-- A bridge emptied leaves a dark cluster dark. -/
theorem Machine.Cluster.Dark.clearBridge {m : Mach} {cl : ClusterId} (h : (m.cluster cl).Dark) (c : ClusterId)
    (co : CoreId) : ((m.clearBridge c co).cluster cl).Dark := by
  rw [Mach.clearBridge, Mach.modBridge]
  by_cases hcl : cl = upperOf c
  · subst hcl
    obtain ⟨hlm, hacc, histore, hctx⟩ := h.core co
    rw [Mach.cluster_modCore_same]
    exact h.setCore co ⟨hlm, hacc, histore, hctx⟩
  · rw [Mach.cluster_modCore_other _ _ _ hcl]
    exact h

theorem Machine.Mach.dark_unpower (m : Mach) {d : Dom} {cl : ClusterId} (hcl : cl ∈ clustersOf d) :
    ((m.unpower d).cluster cl).Dark := by
  have hcut : ∀ (l : List ClusterId) (n : Mach), cl ∈ l ∨ (n.cluster cl).Dark →
      ((l.foldl (fun m cl => m.modCluster cl Cluster.unpowered) n).cluster cl).Dark := by
    intro l
    induction l with
    | nil => exact fun n h => h.resolve_left List.not_mem_nil
    | cons c l ih =>
      intro n h
      refine ih _ ?_
      by_cases hc : cl = c
      · subst hc
        exact .inr (Mach.cluster_modCluster_same n cl _ ▸ Cluster.dark_unpowered _)
      · rw [Mach.cluster_modCluster_other _ _ _ _ hc]
        exact h.imp_left fun h => (List.mem_cons.mp h).resolve_left hc
  refine List.foldlRecOn (motive := fun n : Mach => (n.cluster cl).Dark) _ _ (hcut _ _ (.inl hcl)) fun n hn c _ => ?_
  exact List.foldlRecOn (motive := fun n : Mach => (n.cluster cl).Dark) _ _ hn fun k hk co _ => hk.clearBridge c co

theorem mem_clustersOf {u : Bool} {q : Quad} {cl : ClusterId} (h : domOf cl = .tier u q) :
    cl ∈ clustersOf (.tier u q) := by
  simp only [clustersOf, List.mem_filter, List.mem_map, List.mem_range, decide_eq_true_eq]
  exact ⟨⟨cl.toNat, cl.isLt, by simp⟩, h⟩

/-- Power removed changes no domain's registers. -/
theorem Machine.Mach.doms_unpower (m : Mach) (d : Dom) : (m.unpower d).pk.doms = m.pk.doms := by
  refine List.foldlRecOn (motive := fun n : Mach => n.pk.doms = m.pk.doms) _ _ ?_ fun n hn c _ => ?_
  · exact List.foldlRecOn (motive := fun n : Mach => n.pk.doms = m.pk.doms) _ _ rfl fun n hn c _ => hn
  · exact List.foldlRecOn (motive := fun n : Mach => n.pk.doms = m.pk.doms) _ _ hn fun k hk co _ => hk

/-! ## WAKE_COMPLETE (R226) -/

theorem wakeComplete_of_due {d : Dom} {s : State} {e : Nat} (hend : (s.mach.dom d).wakeEnd = some e)
    (hdue : e ≤ s.mach.pk.fret) :
    ∃ t, exec (.wakeComplete d) s = .next t ∧ (t.mach.dom d).waking = false ∧ (t.mach.dom d).wakeEnd = none ∧
      ∀ cl ∈ clustersOf d, (t.mach.cluster cl).Dark := by
  let n := ((s.mach.unpower d).dropLines d).restartCopies d
  have hexec : exec (.wakeComplete d) s = .next { s with mach := n.choice.2.modDom d fun x =>
      { x with waking := false, wakeEnd := none, acc := n.choice.1 % 36 } } := by
    refine congrArg (fun m => Host.Outcome.next { s with mach := m }) ?_
    simp only [hend, if_neg (not_lt.mpr hdue)]
    rfl
  refine ⟨_, hexec, congrArg Domain.waking (Mach.dom_modDom_same ..), congrArg Domain.wakeEnd (Mach.dom_modDom_same ..),
    fun cl hcl => ?_⟩
  have hclusters : (n.choice.2.cluster cl) = (s.mach.unpower d).cluster cl :=
    (Mach.cluster_congr n.choice_spec.1 cl).trans (Mach.cluster_congr rfl cl)
  exact hclusters ▸ s.mach.dark_unpower hcl

/-! ## SENSOR_READING (R225) -/

theorem exec_sensorReading_tier (u : Bool) (q : Quad) (temp : BitVec 8) (s : State) :
    let m := s.mach.modDom (.tier u q) fun x => { x with temp := temp, senseAt := s.mach.pk.fret + 1800 }
    exec (.sensorReading (.tier u q) temp) s = .next { s with
      mach := if 115 ≤ temp.toNat then m.tripTier (.tier u q)
        else m.modDom (.tier u q) fun x => x.throttle s.mach.pk.fret } := rfl

/-- A tier that trips loses its power, and its contexts are bound no longer. -/
theorem Machine.Mach.tripTier_spec (m : Mach) (d : Dom) :
    ((m.tripTier d).dom d).temp = (m.dom d).temp ∧ ((m.tripTier d).dom d).tripped = true ∧
      d ∈ (m.tripTier d).pk.rootDom ∧ ∀ cl ∈ clustersOf d, ((m.tripTier d).cluster cl).Dark := by
  let n := ((m.killAll (tierCtxs d)).endingsOf d).strandIrqs d
  let p := (n.unpower d).dropLines d
  have hp : SameButLevels m p :=
    ((SameButLevels.killAll m (tierCtxs d)).trans (.endingsOf _ d)).trans
      (.of_doms ((n.doms_unpower d).trans (congrArg Package.doms (Mach.strandIrqs_spec _ d).1)))
  have hdom : (m.tripTier d).dom d = _ := Mach.dom_modDom_same p d fun x =>
    { x with tripped := true, target := none, held := none, halted := false, haltEnd := none, transTo := none,
             gatePend := false, gateSoon := false, waking := false, wakeEnd := none, acc := 0 }
  have htemp : (p.dom d).temp = (m.dom d).temp := by rw [hp.dom d]
  refine ⟨?_, congrArg Domain.tripped hdom, List.mem_append_right _ (List.mem_singleton.mpr rfl), fun cl hcl => ?_⟩
  · exact (congrArg Domain.temp hdom).trans htemp
  · exact n.dark_unpower hcl

section
variable {x : Domain} {t : Nat}

theorem Machine.Domain.throttle_of_early {l : Nat} (hlast : x.lastTrans = some l) (h : t ≤ l + 1799999) :
    x.throttle t = x := by
  have hlt : ¬l + 1800000 ≤ t := by omega
  simp [Domain.throttle, Domain.mayMove, hlast, hlt]

/-- Between the thresholds nothing moves. -/
theorem Machine.Domain.throttle_of_between (hlow : x.throttled = false → x.temp.toNat < x.thr.toNat)
    (hhigh : x.throttled = true → x.thr.toNat < x.temp.toNat + 3) : x.throttle t = x := by
  cases h : x.throttled
  · simp [Domain.throttle, h, hlow h]
  · simp [Domain.throttle, h, hhigh h]

variable (htrans : x.transTo = none) (hmove : x.mayMove t = true)
include htrans hmove

theorem Machine.Domain.throttle_of_hot (hthrottled : x.throttled = false) (hhot : x.thr.toNat ≤ x.temp.toNat)
    (hhalt : x.halted = false) : x.throttle t =
      { x with transTo := some true, held := none, target := some (x.tfcode.setWidth 6, x.vcur) } := by
  simp [Domain.throttle, htrans, hmove, hthrottled, hhot, hhalt]

theorem Machine.Domain.throttle_of_cool (hthrottled : x.throttled = true) (hcool : x.temp.toNat + 3 ≤ x.thr.toNat)
    (hhalt : x.halted = false) : x.throttle t =
      { x with transTo := some false, held := none, target := some (x.fcode, x.vstep) } := by
  simp [Domain.throttle, htrans, hmove, hthrottled, hcool, hhalt]

end

end Sys2Proof
end

section
namespace Sys2Proof

open Machine

/-! ## A write to dfreq (R222, R223) -/

/-- A write sets the requested values, and asks for a halt where the current ones differ. -/
theorem Machine.Domain.aimed_requested (x : Domain) (v : BitVec 64) :
    let f : BitVec 6 := if (v.setWidth 6 : BitVec 6).toNat ≤ 60 then v.setWidth 6 else x.fcode
    let step : BitVec 4 := v.extractLsb' 8 4
    let y := (x.requested v).aimed
    y.fcode = f ∧ y.vstep = step ∧ y.fcur = x.fcur ∧ y.vcur = x.vcur ∧
      (x.throttled = false → x.transTo = none → x.halted = false → (f, step) ≠ (x.fcur, x.vcur) →
        y.target = some (f, step)) ∧
      (x.throttled = false → x.transTo = none → x.halted = false → (f, step) = (x.fcur, x.vcur) → y.target = none) ∧
      (x.throttled = false → x.transTo = none → x.halted = true → y.held = some (f, step) ∧ y.target = x.target) ∧
      (x.throttled = true → y.target = x.target ∧ y.held = x.held) := by
  intro f step y
  obtain ⟨t, h, hy⟩ := (x.requested v).aimed_eq
  have hkept : y.fcode = f ∧ y.vstep = step ∧ y.fcur = x.fcur ∧ y.vcur = x.vcur := by
    unfold y
    rw [hy]
    exact ⟨rfl, rfl, rfl, rfl⟩
  obtain ⟨hfcode, hvstep, hfcur, hvcur⟩ := hkept
  refine ⟨hfcode, hvstep, hfcur, hvcur, fun hthrottled htrans hhalt hne => ?_, fun hthrottled htrans hhalt he => ?_,
    fun hthrottled htrans hhalt => ?_, fun hthrottled => ?_⟩
  · exact (congrArg Domain.target (Domain.aimed_of_running (x := x.requested v) hthrottled htrans hhalt)).trans
      (if_neg hne)
  · exact (congrArg Domain.target (Domain.aimed_of_running (x := x.requested v) hthrottled htrans hhalt)).trans
      (if_pos he)
  · unfold y
    rw [Domain.aimed_of_halted (x := x.requested v) hthrottled htrans hhalt]
    exact ⟨rfl, rfl⟩
  · unfold y
    rw [Domain.aimed_of_throttled (x := x.requested v) hthrottled]
    exact ⟨rfl, rfl⟩

/-! ## A reading of a tier's sensor (R225) -/

/-- A tier at a reading in tick `t`; the next is due 1,800 ticks later. -/
def Machine.Domain.read (x : Domain) (temp : BitVec 8) (t : Nat) : Domain :=
  { x with temp := temp, senseAt := t + 1800 }

/-- What a reading moves where a transition may begin. -/
theorem Machine.Domain.throttle_of_mayMove (x : Domain) (temp : BitVec 8) {t : Nat} (htrans : x.transTo = none)
    (hmove : x.mayMove t = true) (hhalt : x.halted = false) :
    let y := (x.read temp t).throttle t
    (x.throttled = false → x.thr.toNat ≤ temp.toNat → y.transTo = some true ∧
      y.target = some (x.tfcode.setWidth 6, x.vcur)) ∧
    (x.throttled = false → temp.toNat < x.thr.toNat → y = x.read temp t) ∧
    (x.throttled = true → temp.toNat + 3 ≤ x.thr.toNat → y.transTo = some false ∧
      y.target = some (x.fcode, x.vstep)) ∧
    (x.throttled = true → x.thr.toNat < temp.toNat + 3 → y = x.read temp t) := by
  intro y
  refine ⟨fun hthrottled hhot => ?_, fun hthrottled hcold => ?_, fun hthrottled hcool => ?_,
    fun hthrottled hwarm => ?_⟩
  · unfold y
    rw [Domain.throttle_of_hot (x := x.read temp t) htrans hmove hthrottled hhot hhalt]
    exact ⟨rfl, rfl⟩
  · exact Domain.throttle_of_between (fun _ => hcold) fun h => absurd (hthrottled.symm.trans h) Bool.false_ne_true
  · unfold y
    rw [Domain.throttle_of_cool (x := x.read temp t) htrans hmove hthrottled hcool hhalt]
    exact ⟨rfl, rfl⟩
  · exact Domain.throttle_of_between (fun h => absurd (h.symm.trans hthrottled) Bool.false_ne_true) fun _ => hwarm

section
variable (u : Bool) (q : Quad) (temp : BitVec 8) (s : State)

theorem sensorReading_trips (h : 115 ≤ temp.toNat) :
    let d : Dom := .tier u q
    ∃ t, exec (.sensorReading d temp) s = .next t ∧ (t.mach.dom d).temp = temp ∧ (t.mach.dom d).tripped = true ∧
      d ∈ t.mach.pk.rootDom ∧ ∀ r ∈ tierCtxs d, (t.mach.ctx r).bound = false := by
  intro d
  obtain ⟨htemp, htripped, hroot, hdark⟩ := (s.mach.modDom d fun x => x.read temp s.mach.pk.fret).tripTier_spec d
  refine ⟨_, (exec_sensorReading_tier u q temp s).trans (by rw [if_pos h]), ?_, htripped, hroot, fun r hr => ?_⟩
  · refine htemp.trans ?_
    rw [Mach.dom_modDom_same, Domain.read]
  · obtain ⟨cl, hcl, hr⟩ := List.mem_flatMap.mp hr
    obtain ⟨co, -, hr⟩ := List.mem_flatMap.mp hr
    obtain ⟨cx, -, rfl⟩ := List.mem_map.mp hr
    exact ((hdark cl hcl).core co).ctx cx

theorem sensorReading_throttles (h : temp.toNat < 115) :
    let d : Dom := .tier u q
    ∃ t, exec (.sensorReading d temp) s = .next t ∧ Spec.OtherDoms d s.mach t.mach ∧
      t.mach.dom d = ((s.mach.dom d).read temp s.mach.pk.fret).throttle s.mach.pk.fret := by
  intro d
  refine ⟨_, (exec_sensorReading_tier u q temp s).trans (by rw [if_neg (not_le.mpr h)]),
    .trans (.modDom _ _ _) (.modDom _ _ _), ?_⟩
  rw [Mach.dom_modDom_same, Mach.dom_modDom_same, Domain.read]

theorem Machine.Domain.temp_throttle (x : Domain) (t : Nat) : (x.throttle t).temp = x.temp := by
  unfold Domain.throttle
  split
  · rfl
  · split
    · rfl
    · split <;> rfl

end

/-- Settles O54: each event of a voltage domain changes that domain by its rule, and of the rest only what the end of
its contexts or its power brings with it. -/
theorem domainEvents : Obligations.DomainEvents := by
  refine ⟨fun d s => ?_, fun u q v s => ?_, fun q v s => rfl, fun d s => ?_, fun d s b => ?_, fun d s e f v => ?_,
    fun d s => ?_, fun u q s e => ?_, fun u q temp s => ?_⟩
  · intro x come later
    refine ⟨fun hcapo => capoGrant_of_no_request hcapo, fun r rest hcapo => ?_⟩
    intro held new
    refine ⟨fun hfull => ⟨_, capoGrant_of_full hcapo hfull, ?_, rfl⟩, fun hroom hrest => ?_⟩
    · dsimp only
      rw [Mach.dom_modDom_same]
      rfl
    · subst hrest
      obtain ⟨t, hexec, hdom, hctx, hothers⟩ := capoGrant_of_room hcapo hroom
      refine ⟨t, hexec, ?_⟩
      rw [hdom]
      exact ⟨rfl, rfl, rfl, hctx, hothers⟩
  · intro d x f step
    refine ⟨_, exec_dfreqWrite_tier u q v s, .modDom _ _ _, ?_⟩
    dsimp only
    rw [Mach.dom_modDom_same]
    exact x.aimed_requested v
  · intro x htarget hhalt htrans
    obtain ⟨t, hexec, hothers, hdom⟩ := haltStart_of_no_transition htarget hhalt htrans
    refine ⟨t, hexec, hothers, ?_⟩
    rw [hdom]
    exact ⟨rfl, rfl, rfl, rfl, rfl⟩
  · intro x htarget hhalt htrans
    obtain ⟨t, hexec, hothers, hdom⟩ := haltStart_of_transition htarget hhalt htrans
    refine ⟨t, hexec, hothers, ?_⟩
    rw [hdom]
    exact ⟨rfl, rfl, rfl, rfl, rfl⟩
  · exact haltEnd_of_due
  · intro x
    refine ⟨⟨_, rfl, .modDom _ _ _, Mach.dom_modDom_same ..⟩, s.mach.mayGate_iff d, gateRequest_of_powered,
      exec_wake_of_dead, fun hboot hbase hpower => ?_, wake_of_base, fun hasked hmay => ?_, tierGate_of_not_mayGate⟩
    · obtain ⟨t, hexec, hothers, hdom⟩ := wake_of_tier hboot hbase hpower
      refine ⟨t, hexec, hothers, ?_⟩
      rw [hdom]
      exact ⟨rfl, rfl, rfl, rfl, rfl, rfl⟩
    · obtain ⟨t, hexec, hmemory, hctx, hdom⟩ := tierGate_of_mayGate hasked hmay
      refine ⟨t, hexec, ?_⟩
      have hruns : (t.mach.dom d).runs = false := by rw [hdom]; simp [Domain.runs]
      refine ⟨by rw [hdom], by rw [hdom], by rw [hdom], hruns, by rw [hdom], by rw [hdom], hmemory, fun r => ?_,
        fun hquiet r => ?_⟩
      · rw [hctx]
        exact ((Mach.Kept.endingsOf s.mach d).ctx r).regs
      · rw [hctx, Mach.ctx, Mach.core, Mach.cluster_endingsOf_of_quiet hquiet]
        rfl
  · intro d hend hdue
    obtain ⟨t, hexec, hwaking, hwakeEnd, hdark⟩ := wakeComplete_of_due hend hdue
    refine ⟨t, hexec, hwaking, hwakeEnd, fun cl hcl => ?_⟩
    obtain ⟨hcyc, hscratch, hifpend, hcore⟩ := hdark cl (mem_clustersOf hcl)
    exact ⟨hcyc, hscratch, hifpend, fun co => ⟨(hcore co).lm, (hcore co).acc, (hcore co).istore⟩⟩
  · intro d x
    by_cases hhot : 115 ≤ temp.toNat
    · obtain ⟨t, hexec, htemp, htrips⟩ := sensorReading_trips u q temp s hhot
      exact ⟨t, hexec, htemp, fun _ => htrips, fun h => absurd hhot (by omega), fun _ h => absurd hhot (by omega)⟩
    · obtain ⟨t, hexec, hothers, hdom⟩ := sensorReading_throttles u q temp s (by omega)
      refine ⟨t, hexec, ?_, fun h => absurd h hhot, fun _ hlast htrans hthrottled hhalt => ⟨hothers, ?_⟩,
        fun l _ hlast htrans hhalt => ⟨hothers, ?_⟩⟩
      · rw [hdom, Domain.temp_throttle]; rfl
      · have hmove : x.mayMove s.mach.pk.fret = true := by simp [Domain.mayMove, hlast]
        obtain ⟨hhot, hcold, -⟩ := x.throttle_of_mayMove temp htrans hmove hhalt
        rw [hdom]
        exact ⟨fun h => (hhot hthrottled h).2, hcold hthrottled⟩
      · rw [hdom]
        refine ⟨fun hearly => Domain.throttle_of_early hlast hearly, fun hlate => ?_⟩
        have hmove : x.mayMove s.mach.pk.fret = true := by simp [Domain.mayMove, hlast, hlate]
        exact x.throttle_of_mayMove temp htrans hmove hhalt

end Sys2Proof
end

section
namespace Sys2Proof

open Machine

/-! ## Updates that stay in one cluster -/

theorem Spec.OtherClusters.modCluster (m : Mach) (cl : ClusterId) (f : Cluster → Cluster) :
    Spec.OtherClusters cl m (m.modCluster cl f) := ⟨fun _ h => Mach.cluster_modCluster_other _ _ _ _ h, rfl⟩

theorem Spec.OtherClusters.modCore (m : Mach) (cl : ClusterId) (co : CoreId) (f : Core → Core) :
    Spec.OtherClusters cl m (m.modCore cl co f) := ⟨fun _ h => Mach.cluster_modCore_other _ _ _ h, rfl⟩

theorem Spec.OtherClusters.trans {cl : ClusterId} {m n t : Mach} (h : Spec.OtherClusters cl m n)
    (g : Spec.OtherClusters cl n t) : Spec.OtherClusters cl m t :=
  ⟨fun c hc => (g.1 c hc).trans (h.1 c hc), g.2.trans h.2⟩

@[simp] theorem Machine.Mach.cluster_choice (m : Mach) (cl : ClusterId) : m.choice.2.cluster cl = m.cluster cl :=
  Mach.cluster_congr m.choice_spec.1 cl

@[simp] theorem Machine.Mach.core_choice (m : Mach) (cl : ClusterId) (co : CoreId) :
    m.choice.2.core cl co = m.core cl co := by
  rw [Mach.core, Mach.cluster_choice, Mach.core]

theorem Machine.Mach.Kept.choice {L : CtxRef → Prop} (m : Mach) : Mach.Kept L m m.choice.2 := by
  obtain ⟨hclusters, hpk⟩ := m.choice_spec
  exact .of_clusters hclusters (by rw [hpk]) (by rw [hpk])

theorem Spec.OtherClusters.choice (cl : ClusterId) (m : Mach) : Spec.OtherClusters cl m m.choice.2 :=
  ⟨fun _ _ => m.cluster_choice _, m.choice_spec.2⟩

/-! ## CORRECTABLE_ERROR_FREEZE (R207) -/

/-- The ticks of a freeze are its six periods of 1,800 units, rounded up to whole ticks of the domain's rate. -/
theorem freezeTicks_spec (f : BitVec 6) :
    10800 ≤ freezeTicks f * (600 + 50 * f.toNat) ∧ (freezeTicks f - 1) * (600 + 50 * f.toNat) < 10800 := by
  obtain ⟨r, hr⟩ : ∃ r, 600 + 50 * f.toNat = r + 1 := ⟨599 + 50 * f.toNat, by omega⟩
  have hticks : freezeTicks f = (10800 + r) / (r + 1) := by
    rw [freezeTicks, hr]
    rfl
  rw [hticks, hr]
  have hle : (10800 + r) / (r + 1) * (r + 1) ≤ 10800 + r := Nat.div_mul_le_self _ _
  have hlt : 10800 + r < (10800 + r) / (r + 1) * (r + 1) + (r + 1) := Nat.lt_div_mul_add (Nat.succ_pos r)
  rw [Nat.sub_mul]
  omega

/-- A correctable error counted and recorded (R207). -/
def Machine.Cluster.countError (c : Cluster) (st : SramStore) (co : CoreId) (line : BitVec 18) : Cluster :=
  { c with ceCount := min (c.ceCount + 1) 4294967295, ceStore := BitVec.ofNat 4 (storeCode st),
           ceCore := if st = .scratchpad then 0 else co, ceLine := line.setWidth 17 }

/-- A cluster frozen for six periods, which add `n` ticks to what the freezes owe (R207). -/
def Machine.Cluster.freeze (c : Cluster) (n : Nat) : Cluster :=
  { c with freezeReq := true, engHeld := true, frozen := c.frozen + 6, frzowed := c.frzowed + BitVec.ofNat 32 n }

theorem exec_correctableErrorFreeze_eq (cl : ClusterId) (st : SramStore) (co : CoreId) (line : BitVec 18) (s : State) :
    exec (.correctableErrorFreeze cl st co line) s = .next (s.modMach fun m => m.modCluster cl fun c =>
      if c.freezeReq = true then c.countError st co line
      else (c.countError st co line).freeze (freezeTicks (s.mach.dom (domOf cl)).fcur)) := rfl

/-- Only the first error of a core cycle freezes the cluster (R207). -/
theorem correctableErrorFreeze_cluster (cl : ClusterId) (st : SramStore) (co : CoreId) (line : BitVec 18) (s : State) :
    let c := s.mach.cluster cl
    ∃ t, exec (.correctableErrorFreeze cl st co line) s = .next t ∧ Spec.OtherClusters cl s.mach t.mach ∧
      (c.freezeReq = true → t.mach.cluster cl = c.countError st co line) ∧
      (c.freezeReq = false → t.mach.cluster cl =
        (c.countError st co line).freeze (freezeTicks (s.mach.dom (domOf cl)).fcur)) := by
  intro c
  refine ⟨_, exec_correctableErrorFreeze_eq cl st co line s, .modCluster _ _ _, fun hfrozen => ?_, fun hruns => ?_⟩
  · rw [State.modMach_mach, Mach.cluster_modCluster_same, if_pos hfrozen]
  · rw [State.modMach_mach, Mach.cluster_modCluster_same, if_neg (Bool.eq_false_iff.mp hruns)]

/-! ## UNCORRECTABLE_ERROR (R208) -/

/-- A line of a core marked, in place of an earlier mark of it. -/
def Machine.Core.markLine (k : Core) (b : BadLine) : Core :=
  { k with badLines := (k.badLines.filter fun x => !(x.st == b.st && x.line == b.line)) ++ [b] }

/-- A line of the scratchpad marked with a class, in place of an earlier mark of it. -/
def Machine.Cluster.markLine (c : Cluster) (line cls : Nat) : Cluster :=
  { c with badLines := (c.badLines.filter fun l => l.1 != line) ++ [(line, cls)] }

/-- The mark of a line of a core's store, where a free choice is `n` (log entry 2). -/
def errorMark (st : SramStore) (line n : Nat) : BadLine :=
  ⟨st, if st = .plane then planeKey (n % 2 == 1) line else line, errorClass st n⟩

theorem exec_uncorrectableError_scratchpad (cl : ClusterId) (co : CoreId) (line : BitVec 18) (s : State) :
    exec (.uncorrectableError cl .scratchpad co line) s = .next (s.modMach fun m =>
      m.choice.2.modCluster cl fun c => c.markLine line.toNat (1 + m.choice.1 % 2)) := rfl

theorem exec_uncorrectableError_core (cl : ClusterId) {st : SramStore} (co : CoreId) (line : BitVec 18) (s : State)
    (hst : st ≠ .scratchpad) : exec (.uncorrectableError cl st co line) s = .next (s.modMach fun m =>
      m.choice.2.modCore cl co fun k => k.markLine (errorMark st line.toNat m.choice.1)) := by
  cases st with
  | scratchpad => exact absurd rfl hst
  | lm => rfl
  | accumulator => rfl
  | plane => rfl
  | instr => rfl

theorem Machine.Cluster.mem_badLines_markLine (c : Cluster) (line cls : Nat) (p : Nat × Nat) :
    p ∈ (c.markLine line cls).badLines ↔ p = (line, cls) ∨ p.1 ≠ line ∧ p ∈ c.badLines := by
  simp [Cluster.markLine, and_comm, or_comm]

theorem Machine.Core.mem_badLines_markLine (k : Core) (b p : BadLine) :
    p ∈ (k.markLine b).badLines ↔ p = b ∨ ¬(p.st = b.st ∧ p.line = b.line) ∧ p ∈ k.badLines := by
  have hkept : (!(p.st == b.st && p.line == b.line)) = true ↔ ¬(p.st = b.st ∧ p.line = b.line) := by
    rw [Bool.not_eq_true', Bool.eq_false_iff, ne_eq, Bool.and_eq_true, beq_iff_eq, beq_iff_eq]
  rw [Core.markLine, List.mem_append, List.mem_filter, List.mem_singleton, hkept, or_comm, and_comm]

/-- Class 2 is an error of LM and class 3 one of an accumulator row; a plane's line is counted in one of the two plane
memories. -/
theorem errorMark_spec {st : SramStore} (hst : st ≠ .scratchpad) (line n : Nat) :
    let b := errorMark st line n
    b.st = st ∧ 1 ≤ b.cls ∧ b.cls ≤ 3 ∧ (b.cls = 2 → st = .lm) ∧ (b.cls = 3 → st = .accumulator) ∧
      (st ≠ .plane → b.line = line) ∧ (st = .plane → ∃ buf, b.line = planeKey buf line) := by
  have hbit : n % 2 < 2 := Nat.mod_lt _ (by decide)
  cases st with
  | scratchpad => exact absurd rfl hst
  | lm =>
    have hcls : (errorMark .lm line n).cls = 1 + n % 2 := rfl
    exact ⟨rfl, by omega, by omega, fun _ => rfl, fun h => by omega, fun _ => rfl, nofun⟩
  | accumulator =>
    have hcls : (errorMark .accumulator line n).cls = 1 + 2 * (n % 2) := rfl
    exact ⟨rfl, by omega, by omega, fun h => by omega, fun _ => rfl, fun _ => rfl, nofun⟩
  | plane =>
    have hcls : (errorMark .plane line n).cls = 1 := rfl
    exact ⟨rfl, by omega, by omega, nofun, nofun, fun h => absurd rfl h, fun _ => ⟨n % 2 == 1, rfl⟩⟩
  | instr =>
    have hcls : (errorMark .instr line n).cls = 1 := rfl
    exact ⟨rfl, by omega, by omega, nofun, nofun, fun _ => rfl, nofun⟩

theorem uncorrectableError_scratchpad (cl : ClusterId) (co : CoreId) (line : BitVec 18) (s : State) :
    ∃ t c, exec (.uncorrectableError cl .scratchpad co line) s = .next t ∧ 1 ≤ c ∧ c ≤ 2 ∧
      t.mach.cluster cl = (s.mach.cluster cl).markLine line.toNat c ∧
      (∀ o, t.mach.core cl o = s.mach.core cl o) ∧ Spec.SameRegs s.mach t.mach ∧ Spec.SameMemory s.mach t.mach ∧
      Spec.OtherClusters cl s.mach t.mach := by
  have hbit : s.mach.choice.1 % 2 < 2 := Nat.mod_lt _ (by decide)
  refine ⟨_, 1 + s.mach.choice.1 % 2, exec_uncorrectableError_scratchpad cl co line s, by omega, by omega, ?_⟩
  have hkept : Mach.Kept (fun _ => False) s.mach s.mach.choice.2 := .choice _
  have hcores : ∀ c : Cluster, (c.markLine line.toNat (1 + s.mach.choice.1 % 2)).cores = c.cores := fun _ => rfl
  refine ⟨?_, fun o => ?_, hkept.sameRegs.trans fun r => ?_, hkept.memory.trans ?_,
    (Spec.OtherClusters.choice cl s.mach).trans (.modCluster _ _ _)⟩
  · rw [State.modMach_mach, Mach.cluster_modCluster_same, Mach.cluster_choice]
  · exact (Mach.core_modCluster_of_cores _ cl hcores cl o).trans (s.mach.core_choice cl o)
  · exact congrArg Context.regs (Mach.ctx_modCluster_of_cores _ cl hcores r)
  · exact .modCluster _ cl fun _ => ⟨rfl, rfl, rfl⟩

theorem uncorrectableError_core (cl : ClusterId) {st : SramStore} (co : CoreId) (line : BitVec 18) (s : State)
    (hst : st ≠ .scratchpad) :
    ∃ t n, exec (.uncorrectableError cl st co line) s = .next t ∧
      t.mach.core cl co = (s.mach.core cl co).markLine (errorMark st line.toNat n) ∧
      Spec.OtherCores cl co s.mach t.mach ∧ Spec.SameRegs s.mach t.mach ∧ Spec.SameMemory s.mach t.mach ∧
      Spec.OtherClusters cl s.mach t.mach := by
  refine ⟨_, s.mach.choice.1, exec_uncorrectableError_core cl co line s hst, ?_⟩
  have hkept : Mach.Kept (fun _ => False) s.mach s.mach.choice.2 := .choice _
  have hmark : Mach.Kept (fun _ => False) s.mach.choice.2 (s.mach.choice.2.modCore cl co fun k =>
    k.markLine (errorMark st line.toNat s.mach.choice.1)) := .modCore _ _ _
  refine ⟨?_, fun c o hne => ?_, (hkept.trans hmark).sameRegs, (hkept.trans hmark).memory,
    (Spec.OtherClusters.choice cl s.mach).trans (.modCore _ _ _ _)⟩
  · rw [State.modMach_mach, Mach.core_modCore_same, Mach.core_choice]
  · exact (Spec.OtherCores.modCore _ cl co _ c o hne).trans (s.mach.core_choice c o)

/-! ## The interrupt file (R215, R216) -/

theorem getLsbD_identity {n : Nat} (hn : n < 1024) (i : Nat) : (1#1024 <<< i).getLsbD n = decide (n = i) := by
  rw [← BitVec.twoPow_eq, BitVec.getLsbD_twoPow, Bool.eq_iff_iff, Bool.and_eq_true]
  simp only [decide_eq_true_eq]
  omega

theorem Machine.Cluster.setPending_eq (c : Cluster) (i : Nat) :
    c.setPending i = { c with ifpend := (c.setPending i).ifpend } := by
  unfold Cluster.setPending
  split <;> rfl

/-- Setting an identity pending sets its bit alone, and identity 0 none. -/
theorem Machine.Cluster.getLsbD_setPending (c : Cluster) (i : Nat) {n : Nat} (hn : n < 1024) :
    (c.setPending i).ifpend.getLsbD n = (c.ifpend.getLsbD n || decide (n ≠ 0 ∧ i = n)) := by
  unfold Cluster.setPending
  split
  · next h =>
    have hnot : ¬(n ≠ 0 ∧ i = n) := by omega
    simp [hnot]
  · next h =>
    have hiff : n ≠ 0 ∧ i = n ↔ n = i := by omega
    simp only [BitVec.getLsbD_or, getLsbD_identity hn, hiff]

/-- A word of the file, shifted to its place, names identities of that word alone (R215). -/
theorem getLsbD_fileWord (k : BitVec 4) (v : BitVec 64) {n : Nat} (hn : n < 1024) :
    (v.setWidth 1024 <<< (64 * k.toNat)).getLsbD n = (decide (n / 64 = k.toNat) && v.getLsbD (n % 64)) := by
  rw [BitVec.getLsbD_shiftLeft, BitVec.getLsbD_setWidth]
  by_cases hword : n / 64 = k.toNat
  · have hbit : n - 64 * k.toNat = n % 64 := by omega
    have hlow : ¬n < 64 * k.toNat := by omega
    have hlt : n % 64 < 1024 := by omega
    simp [hword, hn, hbit, hlow, hlt]
  · by_cases hlow : n < 64 * k.toNat
    · simp [hword, hlow]
    · have hhigh : v.getLsbD (n - 64 * k.toNat) = false := BitVec.getLsbD_of_ge _ _ (by omega)
      simp [hword, hhigh]

section
variable {cl : ClusterId} {s : State} {q : IrqWay} (hirqs : (s.mach.cluster cl).irqs = [q])
include hirqs

theorem exec_interruptPending_of_arrived (h : s.mach.irqArrived q = true) :
    exec (.interruptPending cl) s = .next (s.modMach fun m =>
      (m.modCluster cl fun c => ({ c with irqs := [] } : Cluster).setPending q.ident.toNat).performedOpt q.eff) := by
  have hsplit : ((s.mach.cluster cl).irqs.partition fun q => s.mach.irqArrived q) = ([q], []) := by simp [hirqs, h]
  refine congrArg (fun m => Host.Outcome.next ({ s with mach := m } : State)) ?_
  dsimp only
  rw [hsplit]
  rfl

theorem exec_interruptPending_of_not_arrived (h : s.mach.irqArrived q = false) :
    exec (.interruptPending cl) s = .next (s.modMach fun m => m.modCluster cl fun c => { c with irqs := [q] }) := by
  have hsplit : ((s.mach.cluster cl).irqs.partition fun q => s.mach.irqArrived q) = ([], [q]) := by simp [hirqs, h]
  refine congrArg (fun m => Host.Outcome.next ({ s with mach := m } : State)) ?_
  dsimp only
  rw [hsplit]
  rfl

end

theorem Machine.Mach.irqArrived_iff (m : Mach) (q : IrqWay) :
    m.irqArrived q = true ↔ (q.gone = none → q.since < m.cyc (BitVec.ofNat 5 q.src)) ∧
      ∀ t, q.gone = some t → t ≤ m.pk.fret := by
  unfold Mach.irqArrived
  cases q.gone <;> simp

theorem interruptPending_single {cl : ClusterId} {s : State} {q : IrqWay} (hirqs : (s.mach.cluster cl).irqs = [q]) :
    ∃ t, exec (.interruptPending cl) s = .next t ∧
      (s.mach.irqArrived q = true →
        t.mach.cluster cl = ({ s.mach.cluster cl with irqs := [] } : Cluster).setPending q.ident.toNat) ∧
      (¬s.mach.irqArrived q = true → t.mach.cluster cl = s.mach.cluster cl) ∧
      ∀ x, x ≠ cl → t.mach.cluster x = s.mach.cluster x := by
  by_cases h : s.mach.irqArrived q = true
  · refine ⟨_, exec_interruptPending_of_arrived hirqs h, fun _ => ?_, fun hnot => absurd h hnot, fun x hx => ?_⟩
    · rw [State.modMach_mach, Mach.cluster_performedOpt, Mach.cluster_modCluster_same]
    · rw [State.modMach_mach, Mach.cluster_performedOpt, Mach.cluster_modCluster_other _ _ _ _ hx]
  · refine ⟨_, exec_interruptPending_of_not_arrived hirqs (Bool.eq_false_iff.mpr h), fun hcome => absurd hcome h,
      fun _ => ?_, fun x hx => Mach.cluster_modCluster_other _ _ _ _ hx⟩
    rw [State.modMach_mach, Mach.cluster_modCluster_same, ← hirqs]

theorem Machine.Cluster.claimable_of_none {c : Cluster} (h : c.ifpend &&& c.ifen = 0) : c.claimable = none := by
  simp [Cluster.claimable, h]

theorem Machine.Cluster.claimable_of_lowest {c : Cluster} {n : Nat} (hn : n < 1024)
    (h : (c.ifpend &&& c.ifen).getLsbD n = true) (hlow : ∀ j, j < n → (c.ifpend &&& c.ifen).getLsbD j = false) :
    c.claimable = some n := by
  rw [Cluster.claimable, List.find?_range_eq_some]
  refine ⟨h, List.mem_range.mpr hn, fun j hj => ?_⟩
  simp [hlow j hj]

/-- What a read of ifclaim clears: the lowest identity that is both pending and enabled, if there is one (R215). -/
def Machine.Cluster.claim (c : Cluster) : Cluster :=
  c.claimable.elim c fun n => { c with ifpend := c.ifpend &&& ~~~(1#1024 <<< n) }

theorem exec_ifclaim_eq (cl : ClusterId) (s : State) :
    exec (.ifclaim cl) s = .next (s.modMach fun m => m.modCluster cl Cluster.claim) := by
  refine congrArg (fun m => Host.Outcome.next ({ s with mach := m } : State)) (Mach.modCluster_congr ?_)
  rw [Cluster.claim]
  cases (s.mach.cluster cl).claimable <;> rfl

theorem Machine.Cluster.claim_of_none {c : Cluster} (h : c.ifpend &&& c.ifen = 0) : c.claim = c := by
  rw [Cluster.claim, Cluster.claimable_of_none h, Option.elim_none]

theorem Machine.Cluster.claim_of_lowest {c : Cluster} {n : Nat} (hn : n < 1024)
    (h : (c.ifpend &&& c.ifen).getLsbD n = true) (hlow : ∀ j, j < n → (c.ifpend &&& c.ifen).getLsbD j = false) :
    c.claim = { c with ifpend := c.ifpend &&& ~~~(1#1024 <<< n) } := by
  rw [Cluster.claim, Cluster.claimable_of_lowest hn h hlow, Option.elim_some]

theorem Machine.Cluster.externalInterrupt_iff (c : Cluster) :
    c.externalInterrupt = true ↔ ∃ n, n < 1024 ∧ c.ifpend.getLsbD n = true ∧ c.ifen.getLsbD n = true := by
  have hboth : ∀ n, (c.ifpend &&& c.ifen).getLsbD n = true ↔ c.ifpend.getLsbD n = true ∧ c.ifen.getLsbD n = true :=
    fun n => by rw [BitVec.getLsbD_and, Bool.and_eq_true]
  simp only [← hboth, Cluster.externalInterrupt, bne_iff_ne]
  constructor
  · intro hne
    by_contra hnone
    refine hne (BitVec.eq_of_getLsbD_eq fun n hn => Eq.trans ?_ BitVec.getLsbD_zero.symm)
    exact Bool.eq_false_iff.mpr fun hbit => hnone ⟨n, hn, hbit⟩
  · rintro ⟨n, -, hbit⟩ hzero
    simp [hzero] at hbit

/-! ## Supervisor cores (R214, R216) -/

theorem natOfBytes_append (l r : List Byte) : natOfBytes (l ++ r) = natOfBytes l + 256 ^ l.length * natOfBytes r := by
  induction l with
  | nil => simp [natOfBytes]
  | cons b l ih =>
    have hcons : ∀ l, natOfBytes (b :: l) = b.toNat + 256 * natOfBytes l := fun _ => rfl
    rw [List.cons_append, hcons, hcons, ih, List.length_cons]
    ring

theorem Machine.Memory.bytes_add (d : Byte) (m : Memory) (a i j : Nat) :
    m.bytes d a (i + j) = m.bytes d a i ++ m.bytes d (a + i) j := by
  simp [Memory.bytes, List.range_add, Nat.add_assoc, Function.comp_def]

theorem Machine.Hart.holds_iff (h : Hart) (va : Word) (n : Nat) :
    h.holds va n = true ↔ h.base ≤ va.toNat ∧ va.toNat + n ≤ h.base + h.size := by
  simp [Hart.holds]

section
variable {m : Mach} {cl : ClusterId} {h : Hart} (hheld : h.holds h.pc 4 = true) (hspace : h.base + h.size ≤ 2 ^ 64)
  {w : BitVec 32} (hword : natOfBytes (h.own.bytes 0 h.pc.toNat 4) = w.toNat) (hlong : w.toNat % 4 = 3)
include hheld hspace hword hlong

/-- A word in the hart's own memory is fetched in its two halves, and decodes whole. -/
theorem Machine.Mach.hartFetch_of_held : m.hartFetch cl h = (.ok (w.toNat, 4, decode32 w), m) := by
  obtain ⟨hbase, hend⟩ := (h.holds_iff h.pc 4).mp hheld
  have hnext : (h.pc + 2).toNat = h.pc.toNat + 2 := by bv_omega
  have hlo : h.holds h.pc 2 = true := (h.holds_iff _ _).mpr (by omega)
  have hhi : h.holds (h.pc + 2) 2 = true := (h.holds_iff _ _).mpr (by omega)
  have hhalves : natOfBytes (h.own.bytes 0 h.pc.toNat 2) + 65536 * natOfBytes (h.own.bytes 0 (h.pc.toNat + 2) 2) =
      w.toNat := by
    rw [← hword, Memory.bytes_add 0 h.own h.pc.toNat 2 2, natOfBytes_append]
    simp [Memory.bytes]
  have hlow : natOfBytes (h.own.bytes 0 h.pc.toNat 2) % 4 = 3 := by omega
  simp only [Mach.hartFetch, Mach.hartRead, hlo, hhi, if_true, hnext, hlow, hhalves, ne_eq, not_true_eq_false,
    if_false, BitVec.ofNat_toNat, BitVec.setWidth_eq]

end

/-- A hart that does not take its interrupt executes the instruction that it fetches (R214; log entry 40). -/
theorem Machine.Mach.hartStep_of_fetched {m n : Mach} {cl : ClusterId} {h : Hart} {bits len : Nat} {i : HartInstr}
    {r : HartRes Hart} (hhart : m.pk.harts.find cl.toNat = some h)
    (hcalm : ¬(h.ie = true ∧ h.mie.getLsbD 11 = true ∧ (m.cluster cl).externalInterrupt = true))
    (hfetch : m.hartFetch cl h = (.ok (bits, len, some i), m))
    (hexec : m.hartExec cl h (BitVec.ofNat 64 bits) len i = (r, n)) :
    m.hartStep cl = match r with
      | .trap c v => n.putHart cl (h.enter false c v)
      | .ok g => n.putHart cl (if i.setsInstret then g else { g with minstret := g.minstret + 1 }) := by
  have hmasked : (h.ie && h.mie.getLsbD 11 && (m.cluster cl).externalInterrupt) = false := by
    rw [Bool.eq_false_iff]
    simpa [and_assoc] using hcalm
  simp only [Mach.hartStep, hhart, hmasked, hfetch, hexec, Bool.false_eq_true, if_false]
  cases r <;> rfl

/-- A hart that enables its machine external interrupt takes it (R216). -/
theorem Machine.Mach.hartStep_of_rings {m : Mach} {cl : ClusterId} {h : Hart}
    (hhart : m.pk.harts.find cl.toNat = some h)
    (hrings : h.ie = true ∧ h.mie.getLsbD 11 = true ∧ (m.cluster cl).externalInterrupt = true) :
    m.hartStep cl = m.putHart cl (h.enter true 11 0) := by
  obtain ⟨hie, hmie, hint⟩ := hrings
  simp [Mach.hartStep, hhart, hie, hmie, hint]

theorem Machine.Mach.harts_putHart_same (m : Mach) (cl : ClusterId) (h : Hart) :
    (m.putHart cl h).pk.harts.find cl.toNat = some h := FMap.find_put_same _ _ _

theorem Machine.Mach.harts_putHart_other (m : Mach) (cl : ClusterId) (h : Hart) {c : Nat} (hc : c ≠ cl.toNat) :
    (m.putHart cl h).pk.harts.find c = m.pk.harts.find c := FMap.find_put_other _ _ _ _ hc

/-- The registers of a hart that takes its machine external interrupt while it was enabled. -/
theorem Machine.Hart.enter_external {h : Hart} (hie : h.ie = true) : h.enter true 11 0 =
    { h with mepc := h.pc, mcause := BitVec.ofNat 64 (2 ^ 63 + 11), mtval := 0, pie := true, ie := false,
             pc := (h.mtvec &&& ~~~3) + if h.mtvec.getLsbD 0 then 44 else 0 } := by
  unfold Hart.enter
  cases hvector : h.mtvec.getLsbD 0 <;> simp [hie]

/-! ## BRIDGE_COUNT_CROSSING (R219) -/

/-- The bridge after its count updates up to tick `t`, where no push waits (R219). -/
def Machine.Bridge.crossed (b : Bridge) (t : Nat) : Bridge :=
  let come := b.crossings.filter fun c => decide (c.ready ≤ t)
  { b with crossings := b.crossings.filter fun c => decide (t < c.ready),
           consHeld := b.consHeld + (come.filter fun c => c.up).length,
           prodHeld := b.prodHeld - (come.filter fun c => !c.up).length, waiting := [] }

theorem Machine.Cluster.setCore_setCore_same (c : Cluster) (co : CoreId) (j k : Core) :
    (c.setCore co j).setCore co k = c.setCore co k := by
  simp only [Cluster.setCore, FMap.put_put_same]

/-- Two updates of a core are one. -/
theorem Machine.Mach.modCore_modCore_same (m : Mach) (cl : ClusterId) (co : CoreId) (f g : Core → Core) :
    (m.modCore cl co f).modCore cl co g = m.modCore cl co fun k => g (f k) := by
  have hone : m.modCore cl co f = m.modCluster cl fun c => c.setCore co (f (m.core cl co)) := rfl
  rw [hone, Mach.modCore_modCluster]
  simp only [Cluster.core_setCore_same, Cluster.setCore_setCore_same]
  rfl

@[simp] theorem Machine.Mach.bridge_modBridge_same (m : Mach) (cl : ClusterId) (co : CoreId) (f : Bridge → Bridge) :
    (m.modBridge cl co f).bridge cl co = f (m.bridge cl co) := by
  rw [Mach.bridge, Mach.modBridge, Mach.core_modCore_same, Mach.bridge]

theorem Machine.Mach.freePushes_nil (m : Mach) (cl : ClusterId) (co : CoreId) (kept : List PushWait) :
    m.freePushes cl co kept [] = m.modBridge cl co fun b => { b with waiting := kept } := rfl

theorem exec_bridgeCountCrossing_of_none_waiting {cl : ClusterId} {co : CoreId} {s : State}
    (hwaiting : (s.mach.bridge cl co).waiting = []) :
    exec (.bridgeCountCrossing cl co) s =
      .next (s.modMach fun m => m.modBridge cl co fun b => b.crossed m.pk.fret) := by
  refine congrArg (fun m => Host.Outcome.next ({ s with mach := m } : State)) ?_
  dsimp only
  rw [Mach.bridge_modBridge_same, hwaiting, Mach.freePushes_nil]
  exact Mach.modCore_modCore_same ..

/-! ## The events together -/

/-- Settles O53: freezes and marks of memory errors, the interrupt file, the trap queue's pop, the crossings of a bridge,
and a step of a supervisor core. -/
theorem errorAndInterruptEvents : Obligations.ErrorAndInterruptEvents := by
  unfold Obligations.ErrorAndInterruptEvents
  refine ⟨fun cl st co line s => ?_, fun cl s => ?_, fun cl st co line s => ?_, fun cl s q => ?_, fun cl k v s => ?_,
    fun cl s => ?_, fun cl v s => ?_, fun cl v s => ?_, fun cl co s => ?_, Cluster.externalInterrupt_iff,
    fun cl m h => ?_⟩
  · intro c f
    obtain ⟨t, hexec, hothers, hfrozen, hruns⟩ := correctableErrorFreeze_cluster cl st co line s
    refine ⟨t, hexec, ?_⟩
    cases hreq : c.freezeReq with
    | true =>
      rw [hfrozen hreq]
      exact ⟨rfl, rfl, rfl, rfl, rfl, rfl, hothers, fun _ => ⟨rfl, rfl⟩, nofun⟩
    | false =>
      rw [hruns hreq]
      obtain ⟨hcover, hleast⟩ := freezeTicks_spec f
      exact ⟨rfl, rfl, rfl, rfl, rfl, rfl, hothers, nofun, fun _ => ⟨rfl, rfl, freezeTicks f, hcover, hleast, rfl⟩⟩
  · exact ⟨_, rfl, Mach.cluster_modCluster_same .., .modCluster _ _ _⟩
  · by_cases hst : st = .scratchpad
    · subst hst
      obtain ⟨t, c, hexec, hlow, hhigh, hcluster, hcore, hregs, hmemory, hothers⟩ :=
        uncorrectableError_scratchpad cl co line s
      refine ⟨t, hexec, fun _ => ⟨⟨c, hlow, hhigh, fun p => ?_⟩, hcore⟩, fun h => absurd rfl h, hregs, hmemory, hothers⟩
      rw [hcluster, Cluster.mem_badLines_markLine]
    · obtain ⟨t, n, hexec, hcore, hcores, hregs, hmemory, hothers⟩ := uncorrectableError_core cl co line s hst
      refine ⟨t, hexec, fun h => absurd h hst, fun _ => ⟨?_, hcores⟩, hregs, hmemory, hothers⟩
      obtain ⟨hstore, hone, hthree, htwo, hacc, hline, hplane⟩ := errorMark_spec hst line.toNat n
      refine ⟨errorMark st line.toNat n, hstore, hone, hthree, htwo, hacc, hline, hplane, fun p => ?_⟩
      rw [hcore, Core.mem_badLines_markLine, hstore]
  · intro c come hirqs
    have hcome : s.mach.irqArrived q = true ↔ come := s.mach.irqArrived_iff q
    obtain ⟨t, hexec, harrived, hwaits, hothers⟩ := interruptPending_single hirqs
    rw [hcome] at harrived hwaits
    refine ⟨t, hexec, fun hc => ?_, hwaits, ?_, hothers⟩
    · rw [harrived hc]
      refine ⟨by rw [Cluster.setPending_eq], fun n hn => ?_⟩
      have hident : n ≠ 0 ∧ q.ident.toNat = n ↔ n = q.ident.toNat ∧ n ≠ 0 := by rw [and_comm, eq_comm]
      simp only [Cluster.getLsbD_setPending _ _ hn, hident, c]
    · by_cases hc : come
      · rw [harrived hc, Cluster.setPending_eq]
      · rw [hwaits hc]
  · refine ⟨_, rfl, .modCluster _ _ _, ?_⟩
    rw [State.modMach_mach, Mach.cluster_modCluster_same]
    refine ⟨rfl, fun n hn => ?_⟩
    simp only [BitVec.getLsbD_and, BitVec.getLsbD_not, getLsbD_fileWord k v hn, hn, decide_true, Bool.true_and]
  · intro c both
    refine ⟨_, exec_ifclaim_eq cl s, .modCluster _ _ _, fun hzero => ?_, fun n hn hbit hlow => ?_⟩
    · rw [State.modMach_mach, Mach.cluster_modCluster_same, Cluster.claim_of_none hzero]
    · rw [State.modMach_mach, Mach.cluster_modCluster_same, Cluster.claim_of_lowest hn hbit hlow]
      refine ⟨rfl, fun j hj => ?_⟩
      simp only [BitVec.getLsbD_and, BitVec.getLsbD_not, getLsbD_identity hj, hj, decide_true, Bool.true_and,
        decide_not]
  · refine ⟨_, rfl, .modCluster _ _ _, ?_⟩
    rw [State.modMach_mach, Mach.cluster_modCluster_same]
    exact ⟨Cluster.setPending_eq _ _, fun n hn => Cluster.getLsbD_setPending _ _ hn⟩
  · intro c
    refine ⟨_, rfl, .modCluster _ _ _, ?_⟩
    rw [State.modMach_mach, Mach.cluster_modCluster_same]
    simp only [Nat.pos_iff_ne_zero, ite_not, c]
  · intro b come hwaiting
    refine ⟨_, exec_bridgeCountCrossing_of_none_waiting hwaiting, ?_⟩
    rw [State.modMach_mach, Mach.bridge_modBridge_same]
    exact ⟨rfl, rfl, rfl, rfl, rfl, .modCore _ _ _ fun _ _ => rfl, .modCore _ _ _ fun _ => ⟨rfl, rfl, rfl, rfl⟩⟩
  · intro t rings hhart
    refine ⟨fun hrings => ?_, fun w i n hcalm hheld hspace hword hlong hdecode => ?_⟩
    · have ht : t = m.putHart cl (h.enter true 11 0) := Mach.hartStep_of_rings hhart hrings
      rw [ht, ← Hart.enter_external hrings.1]
      exact ⟨Mach.harts_putHart_same .., fun c hc => Mach.harts_putHart_other _ _ _ hc, rfl, fun _ => rfl⟩
    · have hfetch : m.hartFetch cl h = (.ok (w.toNat, 4, some i), m) :=
        hdecode ▸ Mach.hartFetch_of_held hheld hspace hword hlong
      have hbits : w.setWidth 64 = BitVec.ofNat 64 w.toNat := (BitVec.ofNat_toNat 64 w).symm
      rw [hbits]
      exact ⟨fun g hexec => Mach.hartStep_of_fetched hhart hcalm hfetch hexec,
        fun c v hexec => Mach.hartStep_of_fetched hhart hcalm hfetch hexec⟩

end Sys2Proof
end
